-- ==== Sys2Proof/Word.lean ====
section
/-! DEFINITION. The word types of the module and their plainest arithmetic. -/

namespace Sys2Proof

/-- A byte as it travels in messages, records and dictionary values. -/
abbrev Byte := BitVec 8

/-- A string of bytes, first byte first. -/
abbrev Bytes := List (BitVec 8)

/-- A 24-bit word of the signal cores, of contexts and of parameters. -/
abbrev W24 := BitVec 24

/-- A 56-bit accumulator of the signal cores. -/
abbrev W56 := BitVec 56

/-- A 16-bit address or modulus register of the signal cores. -/
abbrev W16 := BitVec 16

/-- A 32-bit word of the Drovers and of program memory. -/
abbrev W32 := BitVec 32

/-- The least significant byte first value of a byte string. -/
def leNat : Bytes → Nat
  | [] => 0
  | b :: bs => b.toNat + 256 * leNat bs

/-- A number in n bytes, least significant byte first, modulo 2^(8n). -/
def leBytes : Nat → Nat → Bytes
  | 0, _ => []
  | n + 1, v => BitVec.ofNat 8 v :: leBytes n (v / 256)

/-- An addition that stops at a greatest value (the module's saturating counters). -/
def satAdd (top a b : Nat) : Nat := min top (a + b)

/-- The signed number of a byte string of n bytes. -/
def leInt (bs : Bytes) : Int :=
  let v := leNat bs
  let m := 2 ^ (8 * bs.length)
  if bs.length = 0 then 0 else if 2 * v ≥ m then (v : Int) - (m : Int) else (v : Int)

/-- Ceiling division; 0 when the divisor is 0. -/
def ceilDiv (a b : Nat) : Nat := if b = 0 then 0 else (a + b - 1) / b

end Sys2Proof
end

