-- ==== Sys2Proof/Syntax.lean ====
section
/-! DEFINITION. The commands of the module: everything that happens to it from outside or inside as one indivisible
step, one constructor for each row of the command table, with the row's operands. -/

namespace Sys2Proof

/-- A control port (R496). -/
inductive Port where
  | a | b
  deriving DecidableEq, Repr

/-- Who asks: the requester codes of Table 8.8. -/
inductive Requester where
  | portA | portB | apps | firmware
  deriving DecidableEq, Repr

/-- A BCP message as it comes to port B from the network or from USB: its sender (0 on USB) and the Ethernet port. -/
structure Arrival where
  bytes : List (BitVec 8)
  ip    : BitVec 32
  udp   : BitVec 16
  eth   : Fin 2
  deriving DecidableEq, Repr

/-- How a request of Table 13.8 comes to the dictionary server: the body alone, from a requester; the message at the head of a
port's input buffer; or a message that arrives at port B from the network or from USB. -/
inductive Request where
  | body (who : Requester) (b : List (BitVec 8))
  | queued (p : Port)
  | arrives (a : Arrival)
  deriving DecidableEq, Repr

/-- One command of the module: one constructor for each row of the command table. The rows stand in the table's order in three
runs: those that come with operands; those that name one write of an object, one AECP command or one LVU instruction; those without operands. -/
inductive Instr where
  /-- PAGE_COPY_END (R81): The service port finishes copying a swapped context's active page into its shadow page and held writes land. -/
  | pageCopyEnd (c : Fin 8)
  /-- STARTER_EVENT (R95): The Starter takes one event, matches rules, tests the expansion, applies releases and holds and starts the voices. -/
  | starterEvent (scls : Fin 7) (chan : BitVec 4) (note : BitVec 8) (vel : BitVec 16) (etype : Fin 6) (entry split : Nat) (req : Option Nat)
  /-- START_RECORD_ARRIVAL (R99): A start record reaches its cluster, the header is updated and a template copy is queued on the service port. -/
  | startRecordArrival (c : Fin 8)
  /-- TEMPLATE_COPY_END (R99): A 248-word template copy into a context ends on the service port. -/
  | templateCopyEnd (c : Fin 8)
  /-- HEADER_ROW_LOAD (R88): At cycle 448 the mover loads header rows 0 … 7 with the transitions of Table 3.4 applied. -/
  | headerRowLoad (k : Fin 64)
  /-- START_PHASE (R104): At cycle 512 the lap sequencer delivers the core's queued start records to the fast class. -/
  | startPhase (k : Fin 64)
  /-- CONVOY_DISPATCH (R160): After ENDC's wait ends, the mover writes back the convoy and the next convoy is dispatched. -/
  | convoyDispatch (k : Fin 64)
  /-- BUNDLE_ISSUE (R115): A signal core issues one bundle, whose syllables execute in the same cycle. -/
  | bundleIssue (k : Fin 64)
  /-- FAULT_ENTRY (R161): A fault fills FREC and related registers and continues at FVEC. -/
  | faultEntry (k : Fin 64)
  /-- MICRO_TRAP (R261): A micro-trap is taken before the next TOK word and the frame is written. -/
  | microTrap (k : Fin 64) (done : Bool)
  /-- LVU_STOP_TAKEN (R266): In polling mode a pending stop is taken at a SAFE word and STOPPED is set. -/
  | lvuStopTaken (k : Fin 64) (done : Bool)
  /-- PATCH_RAM_SCRUB (R246): The scrubber visits patch RAM words and rewrites corrected ones. -/
  | patchRamScrub (k : Fin 64) (w : Fin 512) (bits : Fin 3)
  /-- LCSCTL_STOP (R269): A write of STOP requests that the LVU stop. -/
  | lcsctlStop (k : Fin 64)
  /-- LCSCTL_RESUME (R268): A write of RESUME resumes the stopped instruction from its frame. -/
  | lcsctlResume (k : Fin 64)
  /-- LCSCTL_DISCARD (R268): A write of DISCARD abandons the stopped instruction and returns the LVU to idle. -/
  | lcsctlDiscard (k : Fin 64)
  /-- LCSCTL_PLOAD (R270): Setting PLOAD opens the load port and clears patch state. -/
  | lcsctlPload (k : Fin 64) (on : Bool)
  /-- LCSCTL_PEN (R271): Setting PEN enables patch matching. -/
  | lcsctlPen (k : Fin 64) (on : Bool)
  /-- LCSCTL_POLL (R265): A write of POLL selects polling or trap mode. -/
  | lcsctlPoll (k : Fin 64) (on : Bool)
  /-- PRDATA4_COMMIT (R273): A write of PRDATA4 commits a microword to patch RAM and feeds the CRC. -/
  | prdata4Commit (k : Fin 64) (v : BitVec 32)
  /-- CORR_READ (R270): A read of CORR returns and clears the corrected microword count. -/
  | corrRead (k : Fin 64)
  /-- RELAY_BURST (R304): A timetabled burst runs from its START cycle on its lane. -/
  | relayBurst (bad : Bool) (ring : Fin 4096) (first n : Nat)
  /-- RELAY_PACKET (R307): An unscheduled packet is sent in idle beats of a lane. -/
  | relayPacket (lane : Fin 4) (waiting : BitVec 13) (beats : Fin 16)
  /-- MANIFEST_OPEN (R310): Opens a manifest on the lowest free handle of the owner. -/
  | manifestOpen (r : Request)
  /-- MANIFEST_ADD (R315): Adds entries to an open manifest after checking each. -/
  | manifestAdd (r : Request)
  /-- MANIFEST_COMMIT (R323): Queues an open manifest for its commit checks. -/
  | manifestCommit (r : Request)
  /-- MANIFEST_ABORT (R321): Aborts a manifest in OPEN or STAGED and frees its handle. -/
  | manifestAbort (r : Request)
  /-- MANIFEST_CHECK (R324): The queued manifest is checked and its commit lap fixed, or it aborts. -/
  | manifestCheck (t : Nat)
  /-- STAGING_DONE (R331): An island holds its whole share of a manifest and raises READY. -/
  | stagingDone (h : Fin 28) (st : Fin 14)
  /-- MANIFEST_PARAM_WRITE (R335): From cycle 10,240 of L_c - 1 the manifest's parameter values enter shadow pages after a GEN check. -/
  | manifestParamWrite (h : Fin 28)
  /-- MIGRATION_BATCH (R339): A migration batch travels in kind-8 bursts from source to destination Caravanserai. -/
  | migrationBatch (h : Fin 28) (bad : List (Fin 256))
  /-- STREAM_OPEN (R367): A start record with SV = 1 resets a ring to a new stream at ST and DM. -/
  | streamOpen (ring : Fin 4096) (obj : Fin 1048576) (ctx : Fin 16384)
  /-- RING_FILL_READ (R370): The store engine issues a ring's next page read when the ring has room. -/
  | ringFillRead (ring : Fin 4096)
  /-- PAGE_READ_DONE (R353): A page read completes, directly, rebuilt from parity or by soft decode. -/
  | pageReadDone (ring : Option (Fin 4096)) (frames : Nat) (outcome : Fin 4) (page : BitVec 27)
  /-- CONSUMPTION_REPORT (R371): The memory station reports a ring's consumed play indices and LEAVE to ST. -/
  | consumptionReport (ring : Fin 4096)
  /-- NAND_PROGRAM_DONE (R379): A NAND program completes or fails. -/
  | nandProgramDone (die : Fin 8) (plane : Fin 4) (block : Fin 1366) (ok last : Bool)
  /-- NAND_ERASE_DONE (R379): A NAND block erase completes or fails. -/
  | nandEraseDone (die : Fin 8) (plane : Fin 4) (block : Fin 1366) (ok : Bool)
  /-- DOSE_TICK (R381): Once per second each superblock's retention dose is raised. -/
  | doseTick (temp : Int)
  /-- HEAD_RESIDENT (R358): An object's head becomes resident and the object passes from HEADING to READY. -/
  | headResident (obj : Fin 1048576)
  /-- PREFIX_COPY_DONE (R361): The prefix copy ends and the keymap becomes LOADED or FAILED. -/
  | prefixCopyDone (m : Fin 1024)
  /-- IMPORT_PROGRAM_DONE (R385): Programming and journaling end and the object passes to HEADING. -/
  | importProgramDone (i : Fin 3)
  /-- DRV_ADDI (R408): rd := rs1 + sext(imm16). -/
  | drvAddi (d : Fin 4)
  /-- DRV_ANDI (R408): rd := rs1 AND zext(imm16). -/
  | drvAndi (d : Fin 4)
  /-- DRV_ORI (R408): rd := rs1 OR zext(imm16). -/
  | drvOri (d : Fin 4)
  /-- DRV_XORI (R408): rd := rs1 XOR zext(imm16). -/
  | drvXori (d : Fin 4)
  /-- DRV_SLTI (R408): rd := 1 if rs1 < sext(imm16) signed. -/
  | drvSlti (d : Fin 4)
  /-- DRV_SLTIU (R408): rd := 1 if rs1 < sext(imm16) unsigned. -/
  | drvSltiu (d : Fin 4)
  /-- DRV_LUI (R408): rd := imm16 << 16. -/
  | drvLui (d : Fin 4)
  /-- DRV_ADDPC (R408): rd := PC + 4 × sext(imm16). -/
  | drvAddpc (d : Fin 4)
  /-- DRV_LB (R413): Byte load, sign-extended. -/
  | drvLb (d : Fin 4)
  /-- DRV_LBU (R413): Byte load, zero-extended. -/
  | drvLbu (d : Fin 4)
  /-- DRV_LH (R413): Halfword load, sign-extended. -/
  | drvLh (d : Fin 4)
  /-- DRV_LHU (R413): Halfword load, zero-extended. -/
  | drvLhu (d : Fin 4)
  /-- DRV_LW (R413): Word load. -/
  | drvLw (d : Fin 4)
  /-- DRV_LWX (R421): Exclusive word load that sets the reservation. -/
  | drvLwx (d : Fin 4)
  /-- DRV_SB (R417): Byte store into the store buffer. -/
  | drvSb (d : Fin 4)
  /-- DRV_SH (R417): Halfword store into the store buffer. -/
  | drvSh (d : Fin 4)
  /-- DRV_SW (R417): Word store into the store buffer. -/
  | drvSw (d : Fin 4)
  /-- DRV_SWX (R421): Exclusive store that succeeds only with the reservation set. -/
  | drvSwx (d : Fin 4)
  /-- DRV_BEQ (R412): Branch if rs1 = rs2. -/
  | drvBeq (d : Fin 4)
  /-- DRV_BNE (R412): Branch if rs1 ≠ rs2. -/
  | drvBne (d : Fin 4)
  /-- DRV_BLT (R412): Branch if rs1 < rs2 signed. -/
  | drvBlt (d : Fin 4)
  /-- DRV_BGE (R412): Branch if rs1 ≥ rs2 signed. -/
  | drvBge (d : Fin 4)
  /-- DRV_BLTU (R412): Branch if rs1 < rs2 unsigned. -/
  | drvBltu (d : Fin 4)
  /-- DRV_BGEU (R412): Branch if rs1 ≥ rs2 unsigned. -/
  | drvBgeu (d : Fin 4)
  /-- DRV_J (R407): Jump to PC + 4 × sext(off26). -/
  | drvJ (d : Fin 4)
  /-- DRV_JL (R408): W31 := PC + 4 and jump. -/
  | drvJl (d : Fin 4)
  /-- DRV_JR (R408): rd := PC + 4 and jump to rs1. -/
  | drvJr (d : Fin 4)
  /-- DRV_ADD (R408): rd := rs1 + rs2 modulo 2^32. -/
  | drvAdd (d : Fin 4)
  /-- DRV_SUB (R408): rd := rs1 − rs2 modulo 2^32. -/
  | drvSub (d : Fin 4)
  /-- DRV_ADDV (R437): Add that raises exception 8 on signed overflow. -/
  | drvAddv (d : Fin 4)
  /-- DRV_SUBV (R437): Subtract that raises exception 8 on signed overflow. -/
  | drvSubv (d : Fin 4)
  /-- DRV_AND (R408): Bitwise AND. -/
  | drvAnd (d : Fin 4)
  /-- DRV_OR (R408): Bitwise OR. -/
  | drvOr (d : Fin 4)
  /-- DRV_XOR (R408): Bitwise XOR. -/
  | drvXor (d : Fin 4)
  /-- DRV_NOR (R408): Bitwise NOR. -/
  | drvNor (d : Fin 4)
  /-- DRV_SLT (R408): rd := 1 if rs1 < rs2 signed. -/
  | drvSlt (d : Fin 4)
  /-- DRV_SLTU (R408): rd := 1 if rs1 < rs2 unsigned. -/
  | drvSltu (d : Fin 4)
  /-- DRV_SLL (R408): Shift left by rs2[4:0]. -/
  | drvSll (d : Fin 4)
  /-- DRV_SRL (R408): Shift right logically by rs2[4:0]. -/
  | drvSrl (d : Fin 4)
  /-- DRV_SRA (R408): Shift right arithmetically by rs2[4:0]. -/
  | drvSra (d : Fin 4)
  /-- DRV_SLLI (R408): Shift left by sh. -/
  | drvSlli (d : Fin 4)
  /-- DRV_SRLI (R408): Shift right logically by sh. -/
  | drvSrli (d : Fin 4)
  /-- DRV_SRAI (R408): Shift right arithmetically by sh. -/
  | drvSrai (d : Fin 4)
  /-- DRV_MIN (R408): Signed minimum. -/
  | drvMin (d : Fin 4)
  /-- DRV_MAX (R408): Signed maximum. -/
  | drvMax (d : Fin 4)
  /-- DRV_MINU (R408): Unsigned minimum. -/
  | drvMinu (d : Fin 4)
  /-- DRV_MAXU (R408): Unsigned maximum. -/
  | drvMaxu (d : Fin 4)
  /-- DRV_CLZ (R408): Counts leading zeros of rs1. -/
  | drvClz (d : Fin 4)
  /-- DRV_SEXTB (R408): Sign-extends rs1[7:0]. -/
  | drvSextb (d : Fin 4)
  /-- DRV_SEXTH (R408): Sign-extends rs1[15:0]. -/
  | drvSexth (d : Fin 4)
  /-- DRV_MUL (R408): Low 32 bits of rs1 × rs2. -/
  | drvMul (d : Fin 4)
  /-- DRV_MULH (R408): High 32 bits of a signed product. -/
  | drvMulh (d : Fin 4)
  /-- DRV_MULHU (R408): High 32 bits of an unsigned product. -/
  | drvMulhu (d : Fin 4)
  /-- DRV_DIV (R409): Signed quotient, with exception 8 for divisor 0 or overflow. -/
  | drvDiv (d : Fin 4)
  /-- DRV_DIVU (R409): Unsigned quotient, with exception 8 for divisor 0. -/
  | drvDivu (d : Fin 4)
  /-- DRV_REM (R409): Signed remainder, with exception 8 for divisor 0. -/
  | drvRem (d : Fin 4)
  /-- DRV_REMU (R409): Unsigned remainder, with exception 8 for divisor 0. -/
  | drvRemu (d : Fin 4)
  /-- DRV_TRAP (R439): Raises descriptor 64 + n. -/
  | drvTrap (d : Fin 4)
  /-- DRV_ERET (R435): Returns from an exception using the frame at SP. -/
  | drvEret (d : Fin 4)
  /-- DRV_MFCR (R401): Reads a control register. -/
  | drvMfcr (d : Fin 4)
  /-- DRV_MTCR (R402): Writes a control register, refetching after PSW, EDTB, XBASE or MPU writes. -/
  | drvMtcr (d : Fin 4)
  /-- DRV_ICINV (R425): Drains and writes back the line, then invalidates the I-cache line. -/
  | drvIcinv (d : Fin 4)
  /-- DRV_ISYNC (R426): Discards the fetch queue and line buffer. -/
  | drvIsync (d : Fin 4)
  /-- DRV_DCCLEAN (R423): Writes back a dirty D-cache line. -/
  | drvDcclean (d : Fin 4)
  /-- DRV_DCINV (R423): Invalidates a D-cache line without write-back. -/
  | drvDcinv (d : Fin 4)
  /-- DRV_DCFLUSH (R423): Writes back and invalidates a D-cache line. -/
  | drvDcflush (d : Fin 4)
  /-- DRV_DSYNC (R420): Waits until the store buffer is empty and writes have completed. -/
  | drvDsync (d : Fin 4)
  /-- DRV_WFI (R427): Stops issue until an interrupt, watchdog or DRVCTL write wakes the core. -/
  | drvWfi (d : Fin 4)
  /-- DRV_BRK (R436): Raises the breakpoint exception 14. -/
  | drvBrk (d : Fin 4)
  /-- DROVER_INTERRUPT (R440): The core takes the external interrupt at an instruction boundary. -/
  | droverInterrupt (d : Fin 4)
  /-- ARITH_EXCEPTION_TAKEN (R437): An imprecise arithmetic exception is taken within 16 instructions. -/
  | arithExceptionTaken (d : Fin 4)
  /-- WFI_WAKE (R427): A core in WFI resumes issue on its wake condition. -/
  | wfiWake (d : Fin 4)
  /-- STORE_BUFFER_DRAIN (R416): The oldest store-buffer entry drains to its region. -/
  | storeBufferDrain (d : Fin 4)
  /-- REMOTE_TRANSACTION_DONE (R415): A read or write transaction over the Relay or to the always-on block completes. -/
  | remoteTransactionDone (d : Fin 4) (write ok : Bool)
  /-- CACHE_LINE_FILL (R422): A cache line fill delivers its data and the line enters the cache. -/
  | cacheLineFill (d : Fin 4) (instr : Bool) (outcome : Fin 3)
  /-- CHECKSTOP_TIMER_EXPIRY (R443): The 1.007 ms always-on timer expires and resets the checkstopped core. -/
  | checkstopTimerExpiry (d : Fin 4)
  /-- WATCHDOG_EXPIRY (R445): A watchdog expiry raises exception 33, or at the second expiry resets the core. -/
  | watchdogExpiry (d : Fin 4)
  /-- WDKICK (R445): A write of 0xA5 to WDKICK restarts the watchdog. -/
  | wdkick (d : Fin 4) (v : BitVec 32)
  /-- DRVCTL_HOLD (R443): A write of HOLD stops a core or keeps a checkstopped core stopped. -/
  | drvctlHold (e d : Fin 4) (on : Bool)
  /-- DRVCTL_RESET (R446): A write of RESET resets a Drover alone. -/
  | drvctlReset (e d : Fin 4) (hold : Bool)
  /-- DROVER_RESET_DONE (R591): A single-core reset completes and the core runs boot ROM and checks stage-2. -/
  | droverResetDone (d : Fin 4) (ok : Bool)
  /-- APP_SLICE_END (R449): An application's 1 ms slice expires and the next application runs. -/
  | appSliceEnd (d : Fin 4)
  /-- APP_EXIT (R450): TRAP #0 ends the application. -/
  | appExit (a : Fin 8)
  /-- APP_YIELD (R450): TRAP #1 gives up the rest of the slice. -/
  | appYield (a : Fin 8)
  /-- APP_OD_READ (R450): TRAP #2 reads an object as READ does. -/
  | appOdRead (a : Fin 8) (obj : BitVec 32) (inMem : Bool) (len : BitVec 32)
  /-- APP_OD_WRITE (R450): TRAP #3 writes an object as WRITE does. -/
  | appOdWrite (a : Fin 8) (obj : BitVec 32) (buf : Option (List (BitVec 8)))
  /-- APP_OD_WRITE_RUN (R450): TRAP #4 writes a run as WRITE_BLOCK kind 0. -/
  | appOdWriteRun (a : Fin 8) (obj : BitVec 32) (buf : Option (List (BitVec 8))) (count : BitVec 32)
  /-- APP_OD_READ_BLOCK (R450): TRAP #5 reads a block of a value. -/
  | appOdReadBlock (a : Fin 8) (obj : BitVec 32) (inMem : Bool) (off count : BitVec 32)
  /-- APP_OD_WRITE_SEG (R450): TRAP #6 writes a segment as WRITE_BLOCK kind 1 or 2. -/
  | appOdWriteSeg (a : Fin 8) (obj : BitVec 32) (buf : Option (List (BitVec 8))) (off final : BitVec 32)
  /-- APP_MANIFEST_OPEN (R450): TRAP #7 opens a manifest. -/
  | appManifestOpen (a : Fin 8)
  /-- APP_MANIFEST_ADD (R450): TRAP #8 adds manifest entries. -/
  | appManifestAdd (a : Fin 8) (h : BitVec 32) (buf : Option (List (BitVec 8)))
  /-- APP_MANIFEST_COMMIT (R450): TRAP #9 commits a manifest. -/
  | appManifestCommit (a : Fin 8) (h flags : BitVec 32) (time : BitVec 64)
  /-- APP_MANIFEST_ABORT (R450): TRAP #10 aborts a manifest. -/
  | appManifestAbort (a : Fin 8) (h : BitVec 32)
  /-- APP_SEM_TAKE (R450): TRAP #11 takes a semaphore. -/
  | appSemTake (a : Fin 8) (i : BitVec 32)
  /-- APP_SEM_GIVE (R450): TRAP #12 gives a semaphore. -/
  | appSemGive (a : Fin 8) (i : BitVec 32)
  /-- APP_SUBSCRIBE (R450): TRAP #13 subscribes to an object. -/
  | appSubscribe (a : Fin 8) (obj mode period : BitVec 32)
  /-- APP_WAIT (R451): TRAP #14 waits for the oldest message of the application's queue. -/
  | appWait (a : Fin 8) (inMem : Bool) (len timeout : BitVec 32)
  /-- APP_WAIT_RETURN (R451): A blocked WAIT returns with a message or BUSY on timeout. -/
  | appWaitReturn (a : Fin 8)
  /-- APP_BIND (R450): TRAP #15 binds or releases an EVC source. -/
  | appBind (a : Fin 8) (n on : BitVec 32)
  /-- APP_POST (R450): TRAP #16 posts a note event to the Starter as source class 6. -/
  | appPost (a : Fin 8) (rec_ : Option (List (BitVec 8)))
  /-- APP_MIDI_READ (R450): TRAP #17 takes bytes from a MIDI Drover queue. -/
  | appMidiRead (a : Fin 8) (input : BitVec 32) (inMem : Bool) (len : BitVec 32)
  /-- APP_MIDI_SEND (R450): TRAP #18 sends MIDI as a write of OD 2830.06. -/
  | appMidiSend (a : Fin 8) (buf : Option (List (BitVec 8)))
  /-- APP_TIME (R450): TRAP #19 returns gPTP time and lap number. -/
  | appTime (a : Fin 8)
  /-- APP_SLEEP (R450): TRAP #20 blocks until a gPTP time passes. -/
  | appSleep (a : Fin 8) (time : BitVec 64)
  /-- APP_SLEEP_RETURN (R450): A SLEEP call returns once its time has passed. -/
  | appSleepReturn (a : Fin 8)
  /-- APP_SETPEND (R450): TRAP #21 fires a software EVC source. -/
  | appSetpend (a : Fin 8) (n : BitVec 32)
  /-- EVC_SOURCE_FIRE (R456): A source fires on an input edge or level, setting PEND and raising COUNT. -/
  | evcSourceFire (n : Fin 512) (high : Bool)
  /-- CLAIM (R461): A read of CLAIM claims the lowest deliverable source for the reading Drover. -/
  | evcClaim (d : Fin 4)
  /-- CLSPEC (R461): A read of CLSPECs claims source s only if deliverable. -/
  | clspec (d : Fin 4) (n : BitVec 10)
  /-- COMPLETE (R463): A write to COMPLETE ends the owner's claim or counts a stray. -/
  | evcComplete (d : Fin 4) (v : BitVec 32)
  /-- SETPEND (R465): A write to SETPEND fires the named source. -/
  | setpend (v : BitVec 32)
  /-- CLRPEND (R465): A write to CLRPEND clears the named source's PEND and COUNT. -/
  | clrpend (v : BitVec 32)
  /-- HOLDOFF_EXPIRY (R464): A group's hold-off timer expires and its sources become deliverable. -/
  | holdoffExpiry (g : Fin 32)
  /-- HOLDOFF_WRITE (R464): A write of HOLDOFF sets the next length, and 0 stops a running timer. -/
  | holdoffWrite (g : Fin 32) (v : BitVec 16)
  /-- GENERAL_TIMER_EXPIRY (R466): A general timer reaches 0, fires its source and reloads. -/
  | generalTimerExpiry (n : Fin 4)
  /-- TMRLD_WRITE (R466): A write of TMRLD loads a new timer period at once or stops it. -/
  | tmrldWrite (n : Fin 4) (v : BitVec 32)
  /-- STRAY_READ (R467): A read of STRAY returns and clears the Drover's stray count. -/
  | strayRead (d : Fin 4)
  /-- READ (R486): BCP READ returns the value of an object. -/
  | bcpRead (r : Request)
  /-- WRITE (R479): BCP WRITE checks and applies a value to an object. -/
  | bcpWrite (r : Request)
  /-- READ_BLOCK (R486): BCP READ_BLOCK returns a range of bytes of a value. -/
  | bcpReadBlock (r : Request)
  /-- WRITE_BLOCK_RUN (R487): WRITE_BLOCK kind 0 writes a run of consecutive subindices whole. -/
  | writeBlockRun (r : Request)
  /-- WRITE_BLOCK_SEGMENT (R487): WRITE_BLOCK kind 1 appends a segment to the port's assembly. -/
  | writeBlockSegment (r : Request)
  /-- WRITE_BLOCK_FINAL (R487): WRITE_BLOCK kind 2 ends the assembly and applies the whole value. -/
  | writeBlockFinal (r : Request)
  /-- SUBSCRIBE_CHANGE (R491): SUBSCRIBE mode 1 asks for a notification at each change. -/
  | subscribeChange (r : Request)
  /-- SUBSCRIBE_PERIODIC (R491): SUBSCRIBE mode 2 asks for the value every period laps. -/
  | subscribePeriodic (r : Request)
  /-- SUBSCRIBE_CANCEL (R491): SUBSCRIBE mode 0 cancels the port's subscription to the object. -/
  | subscribeCancel (r : Request)
  /-- SEM_TAKE (R494): Takes a semaphore or returns BUSY. -/
  | semTake (r : Request)
  /-- SEM_GIVE (R494): Frees a semaphore held by the requester. -/
  | semGive (r : Request)
  /-- BCP_RESERVED_MSG (R485): A message with a reserved MSG or malformed header is answered RANGE, or CRC on a CRC failure. -/
  | bcpReservedMsg (r : Request)
  /-- WRITE_MSG (R497): QSPI WRITE_MSG delivers one BCP message to the port. -/
  | writeMsg (p : Port) (b : List (BitVec 8))
  /-- READ_MSG (R497): QSPI READ_MSG clocks out the message at the head of the outbound queue. -/
  | readMsg (p : Port) (n : Nat)
  /-- QSPI_STATUS (R497): QSPI STATUS returns the port's queue and buffer state. -/
  | qspiStatus (p : Port) (n : Nat)
  /-- RESET_PORT (R502): QSPI RESET_PORT resets the port when CS_N rises. -/
  | resetPort (p : Port)
  /-- QSPI_RESERVED_CMD (R497): A reserved QSPI command is ignored and counted. -/
  | qspiReservedCmd (p : Port)
  /-- LINK_LOSS_TIMEOUT (R503): A port's link-loss timer expires and resets the port if it holds state. -/
  | linkLossTimeout (p : Port) (t : Nat)
  /-- NOTIFY_HOLDOFF_EXPIRY (R504): The notification hold-off timer expires and a queued notification asserts the IRQ or is sent. -/
  | notifyHoldoffExpiry (p : Port)
  /-- SEMREQ_TAKE (R495): A Drover write of SEMREQ with bit 8 set takes a semaphore for Drover applications. -/
  | semreqTake (i : Fin 32)
  /-- SEMREQ_GIVE (R495): A Drover write of SEMREQ with bit 8 clear gives a semaphore. -/
  | semreqGive (i : Fin 32)
  /-- REGISTER_WRITE (R10): A write to a register without a row of its own acts by its access code. -/
  | registerWrite (d : Fin 4) (a v : BitVec 32)
  /-- GPTP_SYNC_TIMER (R512): Every 125 ms each asCapable port sends a two-step Sync and Follow_Up. -/
  | gptpSyncTimer (t : Nat)
  /-- GPTP_ANNOUNCE_TIMER (R512): Every 1 s each port sends Announce. -/
  | gptpAnnounceTimer (t : Nat)
  /-- PDELAY_REQ_TIMER (R513): Every 1 s each port measures its link with its own Pdelay_Req. -/
  | pdelayReqTimer (t : Nat)
  /-- PDELAY_REQ_RECEIVE (R513): A received Pdelay_Req is answered. -/
  | pdelayReqReceive (p : Fin 2) (seq : BitVec 16) (t : Nat)
  /-- FOREIGN_ANNOUNCE (R513): A received Announce is ignored and counted. -/
  | foreignAnnounce (p : Fin 2)
  /-- FOREIGN_SYNC (R513): A received Sync is ignored and counted. -/
  | foreignSync (p : Fin 2)
  /-- LINK_UP (R535): A link comes up and gPTP, declarations and reservations begin. -/
  | linkUp (p : Fin 2) (speed : Fin 3) (t : Nat)
  /-- LINK_DOWN (R536): A link goes down and the port's gPTP, registrations and talker packets stop. -/
  | linkDown (p : Fin 2) (t : Nat)
  /-- MSRP_REGISTRATION (R518): A received MSRP declaration is registered and stream sending or Listener Ready follows. -/
  | msrpRegistration (p : Fin 2) (talker : Bool) (i : Fin 257) (on : Bool)
  /-- AAF_TALKER_PACKET (R520): The network island hands a talker packet to its shaper after its last frame's instant. -/
  | aafTalkerPacket (i : Fin 256)
  /-- AAF_RECEIVE (R521): A listener AAF packet is checked, its timestamp extended and its frames tagged. -/
  | aafReceive (p : Fin 2) (i : Fin 256) (fmt rate ch : Nat) (stamp : BitVec 32) (rtag : Option (BitVec 16)) (t : Nat) (samples : List (BitVec 32))
  /-- FRER_RESET_TIMER (R529): After 100 ms without a packet a redundant listener's history is reset. -/
  | frerResetTimer (i : Fin 256)
  /-- NOTE_FRAME_RECEIVE (R530): An NTSCF frame's GPC records go to the Starter as source class 3. -/
  | noteFrameReceive (p : Fin 2) (id : BitVec 64) (msgs : List (List (BitVec 8))) (t : Nat)
  /-- ADP_AVAILABLE_TIMER (R531): Every 5 s the module sends ENTITY_AVAILABLE. -/
  | adpAvailableTimer (t : Nat)
  /-- ENTITY_DISCOVER (R531): An ADP ENTITY_DISCOVER is answered. -/
  | entityDiscover (p : Fin 2)
  /-- CONNECT_RX (R532): ACMP CONNECT_RX is carried out as a one-lap manifest or refused. -/
  | connectRx (p : Fin 2) (i : Fin 256) (id dest : BitVec 64) (vlan : BitVec 16)
  /-- DISCONNECT_RX (R532): ACMP DISCONNECT_RX is carried out as a one-lap manifest or refused. -/
  | disconnectRx (p : Fin 2) (i : Fin 256)
  /-- CONNECT_TX (R532): ACMP CONNECT_TX is carried out as a one-lap manifest or refused. -/
  | connectTx (p : Fin 2) (i : Fin 256)
  /-- DISCONNECT_TX (R532): ACMP DISCONNECT_TX is carried out as a one-lap manifest or refused. -/
  | disconnectTx (p : Fin 2) (i : Fin 256)
  /-- GET_RX_STATE (R531): ACMP GET_RX_STATE is answered. -/
  | getRxState (p : Fin 2) (i : Fin 256)
  /-- GET_TX_STATE (R531): ACMP GET_TX_STATE is answered. -/
  | getTxState (p : Fin 2) (i : Fin 257)
  /-- GET_TX_CONNECTION (R531): ACMP GET_TX_CONNECTION is answered. -/
  | getTxConnection (p : Fin 2) (i : Fin 257)
  /-- MAAP_CONFLICT (R526): Loss of the MAAP block makes the module claim a new one and move its streams. -/
  | maapConflict (p : Fin 2)
  /-- MAAP_CLAIM_DONE (R535): A MAAP claim completes and streams with destination 0 are declared. -/
  | maapClaimDone (p : Fin 2) (base : BitVec 48)
  /-- DHCP_LEASE (R533): A DHCP lease is acquired and replaces any link-local address. -/
  | dhcpLease (p : Fin 2) (addr mask gw : BitVec 32)
  /-- DHCP_FALLBACK_TIMER (R533): Without a lease 10 s after link up the port takes a link-local address. -/
  | dhcpFallbackTimer (p : Fin 2)
  /-- DHCP_RETRY_TIMER (R533): Every 60 s a link-local port retries DHCP. -/
  | dhcpRetryTimer (p : Fin 2)
  /-- ARP_REQUEST (R534): An ARP request is answered. -/
  | arpRequest (p : Fin 2) (target : BitVec 32)
  /-- ICMP_ECHO_REQUEST (R534): An ICMP echo request is answered. -/
  | icmpEchoRequest (p : Fin 2) (target : BitVec 32) (fragment : Bool) (data : List (BitVec 8))
  /-- PAUSE_FRAME_RECEIVE (R515): A received PAUSE frame is discarded and counted. -/
  | pauseFrameReceive (p : Fin 2)
  /-- CONTACT_ACCEPTED (R562): A key-scan contact's new state is accepted after its debounce. -/
  | contactAccepted (x : Fin 640)
  /-- QUARANTINE_RELEASE (R574): A quarantined source still for 2,000 ms is released. -/
  | quarantineRelease (src : Fin 1296) (t : Nat)
  /-- GPIO_EDGE_ACCEPTED (R571): An accepted GPIO edge fires its EVC source and may send a Starter event. -/
  | gpioEdgeAccepted (n : Fin 16)
  /-- CV_CONVERSION (R568): CV0 … CV15 are converted together every 250 µs. -/
  | cvConversion (k : Nat) (codes : List (BitVec 12))
  /-- DIN_MIDI_MESSAGE (R556): A parsed DIN MIDI message goes to the Starter or the Drover queue. -/
  | dinMidiMessage (m : List (BitVec 8)) (t : Nat)
  /-- USB_MIDI_PACKET (R559): A USB MIDI packet is routed to the Starter or the Drover queue. -/
  | usbMidiPacket (pkt : List (BitVec 8)) (t : Nat)
  /-- USB_SET_INTERFACE (R553): Selection of an alternate setting starts or stops USB audio or MIDI. -/
  | usbSetInterface (midi : Bool) (alt : Fin 2)
  /-- USB_SET_CUR (R552): SET_CUR of a sampling frequency other than the house rate is stalled. -/
  | usbSetCur (freq : Nat)
  /-- USB_VBUS_CHANGE (R554): USB_VBUS presence attaches or detaches the device. -/
  | usbVbusChange (on : Bool)
  /-- POWER_SEQUENCING_DONE (R582): Power sequencing of every rail ends and control RAM is cleared. -/
  | powerSequencingDone (us : Nat)
  /-- PLL_LOCK (R582): PLLs lock, gPTP time starts and the audio island starts the lap grid. -/
  | pllLock (us ticks : Nat)
  /-- STAGE2_LOAD_DONE (R582): The boot record is read, a slot chosen and stage-2 loaded and checked. -/
  | stage2LoadDone (t : Nat)
  /-- ROLL_CALL_ANSWER (R584): A station answers the roll call with its identity word. -/
  | rollCallAnswer (st : Fin 13) (w : BitVec 32)
  /-- DRAM_TRAINING_DONE (R582): DRAM training on both channels completes or fails. -/
  | dramTrainingDone (t : Nat) (ok : Bool)
  /-- SRAM_INIT_DONE (R582): SRAM initialisation and scrub of every island ends. -/
  | sramInitDone (bad : BitVec 8)
  /-- STORE_MOUNT_DONE (R582): Store mount and journal replay end. -/
  | storeMountDone (t : Nat) (outcome : Fin 3)
  /-- DROVER_RESTART_READY (R597): A Drover restarted on the new stage-2 reports ready and its roles return. -/
  | droverRestartReady (d : Fin 4)
  /-- SUPPLY_MONITOR_TICK (R644): Every 10 ms supply and temperature values update and warning sources change. -/
  | supplyMonitorTick (vin : Nat) (temp junction : Int) (power : Nat) (vout : Fin 3)
  /-- QUARANTINE_RESTART_COMMIT (R620): Firmware commits manifests placing a quarantined cluster's convoys and restarting contexts. -/
  | quarantineRestartCommit (c : Fin 8)
  /-- MEMORY_SCRUB (R608): A scrubber reads and rewrites corrected words of its memory within its period. -/
  | memoryScrub (id : Fin 14) (unit bank addr : Nat) (bits : Fin 3)
  /-- SLICE_DONE (R624): A self-test slice sets its completion flag and is judged. -/
  | sliceDone (c : Fin 8) (applied expected sig expSig : BitVec 32) (us : Nat) (bad : List (Fin 256))
  /-- SLICE_BUDGET_EXPIRY (R623): A slice's 2 ms budget expires and its engines and LVUs are stopped. -/
  | sliceBudgetExpiry (c : Fin 8)
  /-- SELFTEST_ITEM_DONE (R631): A full self-test item ends with its result. -/
  | selftestItemDone (i : Fin 8) (result : Fin 3)
  /-- SAMPLE_INSTANT (R42): At each sample instant τ(L, k) the audio and network islands capture and emit one sample and judge listener samples present or late. -/
  | sampleInstant (line : List Int) (tdm : List (BitVec 24))
  /-- KEY_SCAN_SAMPLE (R560): Every 10 µs the scan samples each drive line's sense lines and records or cancels first-seen times. -/
  | keyScanSample (k : Nat) (closed : List (Fin 640))
  /-- GPIO_SAMPLE (R571): At each whole µs of gPTP time every input GPIO is sampled through its invert and debounce. -/
  | gpioSample (us : Nat) (levels : BitVec 16)
  /-- PDELAY_RESP_RECEIVE (R513): A neighbour's answer to the module's Pdelay_Req arrives and the link delay and asCapable are updated. -/
  | pdelayRespReceive (p : Fin 2) (delay : Nat)
  /-- USB_AUDIO_TRANSACTION (R552): An isochronous USB audio OUT, IN or feedback transaction of one microframe completes. -/
  | usbAudioTransaction (kind : Fin 3) (samples : List (BitVec 24)) (t : Nat)
  /-- BCP_OTHER_PEER_DATAGRAM (R499): A BCP datagram from a peer other than the bound peer is discarded and counted. -/
  | bcpOtherPeerDatagram (ip : BitVec 32) (udp : BitVec 16)
  /-- MAAP_PROBE_RECEIVE (R526): A MAAP probe or announce for addresses of the module's block arrives and the module defends the block. -/
  | maapProbeReceive (p : Fin 2) (addr : BitVec 48) (count : BitVec 16)
  /-- DHCP_LEASE_EXPIRY (R533): A DHCP lease runs out and the port's address is lost, raising source 167. -/
  | dhcpLeaseExpiry (p : Fin 2)
  /-- HOUSE_RATE_WRITE (R34): A write of OD 2001.01 is checked by mode and admission and applied at the next edge. -/
  | houseRateWrite (who : Requester) (v : BitVec 8)
  /-- LAP_LENGTH_WRITE (R34): A write of OD 2001.02 is checked by mode and admission and applied at the next edge. -/
  | lapLengthWrite (who : Requester) (v : BitVec 8)
  /-- VLD (R220): Unit-stride vector load of a register part. -/
  | vld (k : Fin 64)
  /-- VST (R220): Unit-stride vector store of a register part. -/
  | vst (k : Fin 64)
  /-- VLDFF (R222): First-fault vector load that stops short and sets VL on a higher faulting element. -/
  | vldff (k : Fin 64)
  /-- VTAB (R223): Indexed table read per element. -/
  | vtab (k : Fin 64)
  /-- VTABI (R223): Interpolated table read per element. -/
  | vtabi (k : Fin 64)
  /-- VADD (R218): Vd := Va + Vb, optionally saturated. -/
  | vadd (k : Fin 64)
  /-- VSUB (R218): Vd := Va − Vb. -/
  | vsub (k : Fin 64)
  /-- VMUL (R218): VAn := Va × Vb. -/
  | vmul (k : Fin 64)
  /-- VMAC (R218): VAn := VAn + Va × Vb. -/
  | vmac (k : Fin 64)
  /-- VMSU (R218): VAn := VAn − Va × Vb. -/
  | vmsu (k : Fin 64)
  /-- VCLRA (R218): VAn := 0. -/
  | vclra (k : Fin 64)
  /-- VRND (R218): Vd := rounding or truncating transfer of VAn. -/
  | vrnd (k : Fin 64)
  /-- VMOV (R218): Vd := Va. -/
  | vmov (k : Fin 64)
  /-- VSHL (R218): Vd := Va shifted left by imm5. -/
  | vshl (k : Fin 64)
  /-- VSHR (R218): Vd := Va shifted right arithmetically by imm5. -/
  | vshr (k : Fin 64)
  /-- VMIN (R218): Vd := signed min(Va, Vb). -/
  | vmin (k : Fin 64)
  /-- VMAX (R218): Vd := signed max(Va, Vb). -/
  | vmax (k : Fin 64)
  /-- VABS (R218): Vd := |Va|. -/
  | vabs (k : Fin 64)
  /-- VNEG (R218): Vd := −Va. -/
  | vneg (k : Fin 64)
  /-- VSPLAT (R218): Every element of Vd := Dk. -/
  | vsplat (k : Fin 64)
  /-- VSETL (R218): Sets VL from an immediate or a D register. -/
  | vsetl (k : Fin 64)
  /-- VSETG (R207): Sets VG and the decode copy of VG. -/
  | vsetg (k : Fin 64)
  /-- VSETT (R218): Sets VTB and VTLEN. -/
  | vsett (k : Fin 64)
  /-- VFIR (R227): Adds T taps of a per-voice history and shifts the history. -/
  | vfir (k : Fin 64)
  /-- VBIQ (R228): One transposed direct-form II biquad step per element. -/
  | vbiq (k : Fin 64)
  /-- VSVF (R229): One state-variable filter step per element. -/
  | vsvf (k : Fin 64)
  /-- VINTP (R230): Reads one interpolated stream sample per element and advances its position. -/
  | vintp (k : Fin 64)
  /-- VOSC (R231): Yields a waveform sample per element and advances its phase. -/
  | vosc (k : Fin 64)
  /-- VENV (R232): Moves an envelope level toward its target per element. -/
  | venv (k : Fin 64)
  /-- VMIX (R233): Reduces one convoy sample into two bus accumulator channels. -/
  | vmix (k : Fin 64)
  /-- VDLY (R225): Interpolated read of interleaved per-element delay lines. -/
  | vdly (k : Fin 64)
  /-- VFFT4 (R234): In-place radix-4 butterfly per element. -/
  | vfft4 (k : Fin 64)
  /-- VCMUL (R235): Complex multiply per element into V or VA registers. -/
  | vcmul (k : Fin 64)
  /-- RESERVE_WRITE (R294): A write of OD 3001.01 switches the reserve on after a check, or off. -/
  | reserveWrite (who : Requester) (v : BitVec 8)
  /-- KEYMAP_WRITE (R360): A write of a keymap's zones is checked and sets it to LOADING. -/
  | keymapWrite (who : Requester) (m : Fin 1024) (zs : List (BitVec 8))
  /-- IMPORT_OPEN (R384): A write of an object record to .01 opens an import session. -/
  | importOpen (i : Fin 3) (rec_ : List (BitVec 8))
  /-- IMPORT_APPEND (R384): A segment to .02 appends data bytes to the session. -/
  | importAppend (i : Fin 3) (off : BitVec 32) (d : List (BitVec 8))
  /-- IMPORT_COMMIT (R385): A write of 1 to .03 verifies the object and starts programming. -/
  | importCommit (i : Fin 3)
  /-- IMPORT_ABORT (R384): A write of 2 to .03 aborts the session and frees the id. -/
  | importAbort (i : Fin 3)
  /-- OBJECT_DELETE (R388): A write of an id to OD C110.01 marks the object DELETING. -/
  | objectDelete (who : Requester) (id : BitVec 32)
  /-- STREAMING_DRAIN (R387): A write of 1 to OD C002.01 starts draining the streaming service. -/
  | streamingDrain (who : Requester)
  /-- STREAMING_RESUME (R387): A write of 0 to OD C002.01 starts resuming the streaming service. -/
  | streamingResume (who : Requester)
  /-- PREPARE_FOR_STORAGE (R382): A write of 1 to OD C020.02 relocates every superblock with dose above 250. -/
  | prepareForStorage (who : Requester)
  /-- APP_INSTALL (R448): A write of 1 to .03 verifies and stores an application image. -/
  | appInstall (who : Requester) (a : Fin 8)
  /-- APP_REMOVE (R448): A write of 2 to .03 removes the installed image. -/
  | appRemove (who : Requester) (a : Fin 8)
  /-- APP_START (R449): A write of 1 to .04 starts an application. -/
  | appStart (who : Requester) (a : Fin 8)
  /-- APP_STOP (R449): A write of 0 to .04 stops an application. -/
  | appStop (who : Requester) (a : Fin 8)
  /-- SAVE (R482): A write of 1 to OD 1030.01 saves every persistent object at the next lap edge. -/
  | odSave (who : Requester)
  /-- RESTORE_DEFAULTS (R482): A write of 1 to OD 1030.02 makes the next BOOT load defaults. -/
  | restoreDefaults (who : Requester)
  /-- PORT_B_BINDING (R496): A write of OD 1010.01 resets port B onto a new carrier. -/
  | portBBinding (who : Requester) (v : BitVec 8)
  /-- SET_TIME (R509): A write of OD 2100.02 steps gPTP time and starts a new grid. -/
  | setTime (who : Requester) (t : BitVec 64)
  /-- SPEEDS_ALLOWED_WRITE (R516): A change of the allowed speeds starts a new auto-negotiation. -/
  | speedsAllowedWrite (who : Requester) (p : Fin 2) (v : BitVec 8)
  /-- ACQUIRE_ENTITY (R531): AEM ACQUIRE_ENTITY is answered. -/
  | acquireEntity (p : Fin 2)
  /-- LOCK_ENTITY (R531): AEM LOCK_ENTITY is answered. -/
  | lockEntity (p : Fin 2)
  /-- ENTITY_AVAILABLE (R531): AEM ENTITY_AVAILABLE is answered. -/
  | entityAvailable (p : Fin 2)
  /-- READ_DESCRIPTOR (R531): AEM READ_DESCRIPTOR returns a descriptor. -/
  | readDescriptor (p : Fin 2) (kind : Fin 10) (ix : BitVec 16)
  /-- GET_STREAM_FORMAT (R531): AEM GET_STREAM_FORMAT is answered. -/
  | getStreamFormat (p : Fin 2) (out : Bool) (i : Fin 256)
  /-- SET_STREAM_FORMAT (R532): AEM SET_STREAM_FORMAT is carried out as a one-lap manifest or refused. -/
  | setStreamFormat (p : Fin 2) (out : Bool) (i : Fin 256) (rate : Fin 6) (ch : BitVec 8)
  /-- GET_STREAM_INFO (R531): AEM GET_STREAM_INFO is answered. -/
  | getStreamInfo (p : Fin 2) (out : Bool) (i : Fin 256)
  /-- GET_SAMPLING_RATE (R531): AEM GET_SAMPLING_RATE is answered. -/
  | getSamplingRate (p : Fin 2)
  /-- GET_CLOCK_SOURCE (R531): AEM GET_CLOCK_SOURCE is answered. -/
  | getClockSource (p : Fin 2)
  /-- GET_AVB_INFO (R531): AEM GET_AVB_INFO is answered. -/
  | getAvbInfo (p : Fin 2) (i : Fin 2)
  /-- GET_COUNTERS (R531): AEM GET_COUNTERS is answered. -/
  | getCounters (p : Fin 2) (out : Bool) (i : Fin 256)
  /-- REGISTER_UNSOLICITED_NOTIFICATION (R531): AEM REGISTER_UNSOLICITED_NOTIFICATION is answered. -/
  | registerUnsolicitedNotification (p : Fin 2) (ctl : BitVec 64)
  /-- DEREGISTER_UNSOLICITED_NOTIFICATION (R531): AEM DEREGISTER_UNSOLICITED_NOTIFICATION is answered. -/
  | deregisterUnsolicitedNotification (p : Fin 2) (ctl : BitVec 64)
  /-- GET_NAME (R531): AEM GET_NAME is answered. -/
  | getName (p : Fin 2)
  /-- SET_NAME (R532): AEM SET_NAME is carried out as a one-lap manifest or refused. -/
  | setName (p : Fin 2) (name : List (BitVec 8))
  /-- SET_SAMPLING_RATE (R531): AEM SET_SAMPLING_RATE is answered NOT_IMPLEMENTED. -/
  | setSamplingRate (p : Fin 2)
  /-- SET_CLOCK_SOURCE (R531): AEM SET_CLOCK_SOURCE is answered NOT_IMPLEMENTED. -/
  | setClockSource (p : Fin 2)
  /-- AECP_UNSUPPORTED_COMMAND (R531): An unlisted 1722.1 command is answered NOT_IMPLEMENTED. -/
  | aecpUnsupportedCommand (p : Fin 2) (code : BitVec 16)
  /-- IP_MODE_WRITE (R533): A change of IP mode or static address applies within 1 s. -/
  | ipModeWrite (who : Requester) (p : Fin 2) (word : Fin 4) (v : BitVec 32)
  /-- MIDI_SEND (R558): A write of OD 2830.06 queues complete messages for the DIN output. -/
  | midiSend (who : Requester) (b : List (BitVec 8))
  /-- INPUT_RANGE_WRITE (R545): A write of an input range applies at the next edge with two laps zeroed. -/
  | inputRangeWrite (who : Requester) (i : Fin 4) (v : BitVec 8)
  /-- LINE_MUTE_WRITE (R546): A write of a line output mute ramps its gain across one block. -/
  | lineMuteWrite (who : Requester) (i : Fin 8) (v : BitVec 8)
  /-- HEADPHONE_VOLUME_WRITE (R547): A write of a headphone volume ramps its gain across one block. -/
  | headphoneVolumeWrite (who : Requester) (i : Fin 2) (v : BitVec 16)
  /-- TDM_ENABLE_WRITE (R549): A TDM port enable or disable takes effect at the next frame boundary. -/
  | tdmEnableWrite (who : Requester) (p : Fin 4) (v : BitVec 8)
  /-- KEY_OBJECT_WRITE (R563): A write of a key object applies at the next lap edge, ending sounding notes. -/
  | keyObjectWrite (who : Requester) (k : Fin 320) (sub : Fin 11) (v : BitVec 16)
  /-- MODE_REQUEST_STANDBY (R578): A mode request of 0 starts entry to STANDBY. -/
  | modeRequestStandby (who : Requester)
  /-- MODE_REQUEST_PERFORM (R578): A mode request of 2 asks for PERFORM. -/
  | modeRequestPerform (who : Requester)
  /-- MODE_REQUEST_MAINTAIN (R578): A mode request of 3 asks for MAINTAIN. -/
  | modeRequestMaintain (who : Requester)
  /-- MODE_REQUEST_SAFE (R578): A mode request of 4 asks for SAFE. -/
  | modeRequestSafe (who : Requester)
  /-- MODE_REQUEST_WORKSHOP (R578): A mode request of 5 asks for WORKSHOP. -/
  | modeRequestWorkshop (who : Requester)
  /-- WARM_RESET_REQUEST (R589): A write of 0xA5 to OD F000.07 starts a warm reset. -/
  | warmResetRequest (who : Requester)
  /-- FW_VERIFY (R596): A write of 1 to OD F010.03 starts verification of the received image. -/
  | fwVerify (who : Requester)
  /-- FW_ACTIVATE_HITLESS (R597): A write of 1 to OD F010.05 activates the package without a start-up. -/
  | fwActivateHitless (who : Requester)
  /-- FW_ACTIVATE_AT_START (R596): A write of 2 to OD F010.05 sets the target slot pending with 3 tries. -/
  | fwActivateAtStart (who : Requester)
  /-- ROLLBACK_CONFIRM (R595): A write of 1 to OD F010.06 raises the rollback counter. -/
  | rollbackConfirm (who : Requester)
  /-- LIFECYCLE_REQUEST (R605): A write of OD F001.01 moves the life-cycle state forward. -/
  | lifecycleRequest (who : Requester) (v : BitVec 8)
  /-- LIFECYCLE_TOKEN_WRITE (R605): A write of OD F001.02 stores a life-cycle token and renews the nonce. -/
  | lifecycleTokenWrite (who : Requester) (b : List (BitVec 8))
  /-- CUSTOMER_KEY_WRITE (R606): A write of a customer key slot stores it once in PROVISION. -/
  | customerKeyWrite (who : Requester) (k : Fin 4) (b : List (BitVec 8))
  /-- TEST_NOW (R627): A write of OD F200.03 starts a test pass on a cluster. -/
  | testNow (who : Requester) (c : BitVec 8)
  /-- REPAIR_AGAIN (R629): A write of OD F200.05 repeats the repair of a quarantined cluster. -/
  | repairAgain (who : Requester) (c : BitVec 8)
  /-- SELFTEST_RUN (R631): A write of OD F230.01 runs the selected full self-test items. -/
  | selftestRun (who : Requester) (mask : BitVec 16)
  /-- SELFTEST_ABORT (R631): A write of 1 to OD F230.04 aborts the run. -/
  | selftestAbort (who : Requester)
  /-- STORE_RAW_READ (R632): Low-level action 1 reads a page raw. -/
  | storeRawRead (who : Requester)
  /-- STORE_DECODED_READ (R632): Low-level action 2 reads and decodes a page. -/
  | storeDecodedRead (who : Requester)
  /-- STORE_BLOCK_ERASE (R632): Low-level action 3 erases a block. -/
  | storeBlockErase (who : Requester)
  /-- STORE_PAGE_PROGRAM (R632): Low-level action 4 programs a page in pSLC use. -/
  | storePageProgram (who : Requester)
  /-- STORE_BLOCK_RETIRE (R632): Low-level action 5 retires a block. -/
  | storeBlockRetire (who : Requester)
  /-- LOG_CLEAR (R614): A write of 1 to OD F100.07 clears the ring, archive and log objects. -/
  | logClear (who : Requester)
  /-- AVAILABILITY_CLEAR (R634): A write of 1 to OD F400.06 clears the availability counters. -/
  | availabilityClear (who : Requester)
  /-- LAP_EDGE (R37): The audio island's lap edge starts a new lap of N_lap samples on the grid. -/
  | lapEdge
  /-- SEAL (R44): The seal at cycle T_cyc - 1,024 ends every core's running order for the lap. -/
  | sealLap
  /-- DECISION_POINT (R332): At T_cyc - 1,280 of L_d the commit engine samples READY and sends GO or aborts with LATE. -/
  | decisionPoint
  /-- STREAMING_DRAIN_TIMEOUT (R387): After 10 s streaming voices are stolen and the service is suspended. -/
  | streamingDrainTimeout
  /-- STREAMING_RESUMED (R387): The service returns to in service once programs and erases in flight finish. -/
  | streamingResumed
  /-- ALWAYS_ON_WAKE (R471): At the first tick at which a group has work the always-on island wakes the control island. -/
  | alwaysOnWake
  /-- SAVE_DONE (R482): The saved set is complete in both copies and OK is replied. -/
  | saveDone
  /-- CRF_PDU (R527): The CRF talker sends a PDU of 6 timestamps 50 times per second. -/
  | crfPdu
  /-- USB_BUS_RESET (R502): A USB bus reset resets port B on USB. -/
  | usbBusReset
  /-- USB_SUSPEND (R553): A USB suspend silences USB audio and resets port B on USB. -/
  | usbSuspend
  /-- USB_RESUME (R553): A USB resume restores USB audio. -/
  | usbResume
  /-- POWER_UP (R582): VIN valid with PWR_EN high starts start-up at t0. -/
  | powerUp
  /-- PWR_EN_RISE (R601): PWR_EN rising wakes the module or starts start-up. -/
  | pwrEnRise
  /-- PWR_EN_FALL (R599): PWR_EN falling starts entry to STANDBY. -/
  | pwrEnFall
  /-- RESET_N_ASSERT (R589): RESET_N held low 10 µs holds no mode and clears always-on state. -/
  | resetNAssert
  /-- RESET_N_RELEASE (R655): Release of RESET_N starts start-up from step 4, or STANDBY with PWR_EN low. -/
  | resetNRelease
  /-- ROLL_CALL_TIMEOUT (R584): After 1 ms unanswered stations count as missing. -/
  | rollCallTimeout
  /-- PATCH_LOAD_DONE (R273): The microcode patch load into all LVUs ends and the CRC is checked. -/
  | patchLoadDone
  /-- SAVED_LOAD_COMMIT (R585): Firmware commits the saved load as manifests and start-up step 8 ends. -/
  | savedLoadCommit
  /-- BOOT_LOOP_GUARD_CLEAR (R590): 60 s in PERFORM or MAINTAIN clears the warm-reset count. -/
  | bootLoopGuardClear
  /-- FW_VERIFY_DONE (R596): Verification ends with state verified or failed. -/
  | fwVerifyDone
  /-- ACTIVATION_READY_TIMEOUT (R598): A Drover not ready within 200 ms ends the activation and reverts. -/
  | activationReadyTimeout
  /-- STANDBY_ENTRY_DONE (R599): STANDBY entry completes and STATE shows 0b000. -/
  | standbyEntryDone
  /-- ALARM_EXPIRY (R600): The alarm time is reached and source 295 fires. -/
  | alarmExpiry
  /-- THERMAL_TRIP (R645): At 160 °C junction the power stage removes every rail but always-on. -/
  | thermalTrip
  /-- THERMAL_TRIP_END (R645): Below 140 °C with PWR_EN high start-up runs from step 2. -/
  | thermalTripEnd
  /-- VIN_LOCKOUT (R642): VIN below the falling lockout drives no mode and starts the 2 ms hold-up. -/
  | vinLockout
  /-- HOLD_UP_END (R642): After the hold-up every rail goes down. -/
  | holdUpEnd
  /-- RECORD_ARCHIVE (R613): Firmware archives due records in SEQ order and frees their ring slots. -/
  | recordArchive
  /-- FATAL_RESET_TIMER (R616): 20 ms after a FATAL record in SAFE the always-on island starts a warm reset. -/
  | fatalResetTimer
  /-- TEST_PASS_TIMER (R627): The pass interval elapses and a test pass starts on the next cluster. -/
  | testPassTimer
  /-- AVAILABILITY_ARCHIVE_TIMER (R634): Every hour firmware writes the availability counters to the archive. -/
  | availabilityArchiveTimer
  /-- MIDI_FRAMING_ERROR (R555): A DIN byte without a valid stop bit is discarded, counted and running status cleared. -/
  | midiFramingError
  /-- MIDI_OUT_BYTE_DONE (R558): A byte finishes leaving the DIN output and the next thru or queued byte may start. -/
  | midiOutByteDone
  /-- LIFE_CYCLE_ERASE_DONE (R605): The erase of the user area, dictionary store and customer keys on entry to RETURN or END ends and a warm reset starts. -/
  | lifeCycleEraseDone
  deriving DecidableEq, Repr

end Sys2Proof
end

