-- ==== Sys2Proof/Decode.lean ====
section
/-! DEFINITION. Words that spell commands: the command table gives no row any bits, so no word spells one. -/

namespace Sys2Proof

/-- The command that a word spells by the table's bits: none of its rows has any. -/
def decodeTableWord (_nbits _w : Nat) : Option Instr := none

end Sys2Proof
end

