-- ==== Sys2Proof/Config.lean ====
section
/-! DEFINITION. What the manual leaves to an implementation: constants without a body, so that nothing can be
proved of their values. Each one is named in a row of notes/assumptions. -/

namespace Sys2Proof.Config

/-- A fresh free number: applied to the counter that State.free holds, which each use advances. -/
opaque freeNat : Nat → Nat

/-- The entry point of a kernel in the program bank of a core, by core and kernel: the manual does not say where it lies
(log 20). -/
opaque kernelEntry : Nat → Nat → Nat

/-- The entry point of the start routine of a kernel, by core and kernel (log 20). -/
opaque kernelStart : Nat → Nat → Nat

/-- The address of the fault handler of a kernel that supplies its own, by core and kernel (log 20). -/
opaque kernelHandler : Nat → Nat → Nat

/-- A word of the LVU microcode ROM (log 21). -/
opaque romWord : BitVec 13 → BitVec 144

/-- The bits of a microword that its nine SECDED bits show to be wrong: 0, 1, or 2 for more; the manual gives no matrix (log 21). -/
opaque microEcc : BitVec 144 → Nat

/-- A microword with the single-bit error that its SECDED bits show corrected (log 21). -/
opaque microFix : BitVec 144 → BitVec 144

/-- VOSC: what R231 leaves open of a sample, by waveform, phase, increment and width (log 22). -/
opaque oscillator : Nat → BitVec 24 → BitVec 24 → BitVec 24 → BitVec 24

/-- VOSC: the level of a pulse within its width, and outside it (log 22). -/
opaque pulseLevel : Bool → BitVec 24

/-- VOSC: how far into a triangle that rises from its lowest value phase 0 lies (log 22). -/
opaque trianglePhase : Nat

/-- A polyphase or audio sample value whose computation the manual leaves symbolic (log 23). -/
opaque audioSample : Nat → Nat → Nat → BitVec 24

/-- The CSM word, within its cluster, of feed f of a context (log 31). -/
opaque csmFeedWord : Nat → Nat → Nat

/-- R662: where the placement procedure puts demand i of a list of burst demands, as lane and first Relay cycle; the
procedure is left to Sarelo (log 34). -/
opaque placeBurst : List (List Nat) → Nat → Option (Nat × Nat)

/-- R662: the free slot and the core that the procedure gives a convoy slot of a cluster that is out (log 34). -/
opaque placeConvoy : List (List Nat) → Nat → Option (Nat × Nat)

/-- HMAC-SHA-256 of a key and a message, 32 bytes: a standard that the manual names and does not repeat (log 35). -/
opaque hmacSha256 : List (BitVec 8) → List (BitVec 8) → List (BitVec 8)

/-- SHA-256 of a byte string, 32 bytes: a standard that the manual names and does not repeat (log 35). -/
opaque sha256 : List (BitVec 8) → List (BitVec 8)

/-- Whether an ECDSA P-256 signature over a digest checks against Sarelo's signing key k, or against Sarelo's service key
for k = 4 (log 35). -/
opaque ecdsaOk : Nat → List (BitVec 8) → List (BitVec 8) → Bool

/-- Whether the digest of signing key k was fused and its revocation fuse is whole (log 44). -/
opaque keyGood : Nat → Bool

/-- The package that a slot, 0 for A, holds at shipment (log 44). -/
opaque shipped : Nat → List (BitVec 8)

/-- R381: what one second at a NAND temperature, in tenths of a degree C, adds to a dose, in 10^-9 day: the exponential
of the manual, rounded (log 36). -/
opaque doseStep : Int → Nat

/-- The plane that holds the page of an object which a ring reads next, 4 x die + plane modulo 32: the manual leaves the placement of
objects to the store engine (log 114). -/
opaque pagePlace : Nat → Nat → Nat

/-- Spare superblocks at shipment: at least 100 or 300 by variant (log 37). -/
opaque spareSuperblocks : Nat

/-- A byte of the Drovers' boot ROM: the manual does not print it (log 38). -/
opaque bootRom : Nat → BitVec 8

/-- A DRAM byte address lies in the store tables or the Drover region of Table 10.5, which gives sizes and no addresses but
those of the Drover region (log 39). -/
opaque dramVital : Nat → Bool

/-- The raw bytes of a NAND page that no low-level action has written (log 48). -/
opaque nandPage : Nat → List (BitVec 8)

/-- What the LDPC decoder makes of raw page bytes: the data and the bits corrected, or nothing (log 48). -/
opaque nandDecode : List (BitVec 8) → Option (List (BitVec 8) × Nat)

/-- A block, 8192 x die + 2048 x plane + block, belongs to a spare superblock (log 48). -/
opaque spareBlock : Nat → Bool

/-- The import session, 0 to 2, in whose staging a DRAM byte address lies (log 39). -/
opaque dramStaging : Nat → Option Nat

/-- The sample that an element of a convoy slot contributes: slot, element, channel, lap of processing and sample of the block.
The manual does not say where in a cluster a kernel leaves its output samples (log 43). -/
opaque busSample : Nat → Nat → Nat → Nat → Nat → BitVec 24

/-- The CSM word, within the cluster of its consumer, at which the samples of an edge lie: the manual gives no place (log 103). -/
opaque csmEdgeWord : Nat → Nat

/-- The CSM word, within a cluster, at which input channel key's block lies: the manual gives no place (log 103). -/
opaque csmInputWord : Nat → Nat → Nat

/-- The input channels, as interface and channel, that a kernel reads: the cost table, here the argument, does not name them, and
no other part of a load does (log 104). -/
opaque inputChannels : List (BitVec 8) → List (Nat × Nat)

/-- The syllables of the system default fault handler, from 0x1F00 on: the manual does not print them (log 105). -/
opaque defaultHandler : Nat → BitVec 32

/-- The 48-bit MAC address of Ethernet port 0 or 1: an identity of the die (log 30). -/
opaque macAddress : Nat → Nat

/-- The amplitude of a gain in steps of 0.5 dB (R547). -/
opaque halfDecibels : Int → Rat

/-- The variant: 0 for -512, 1 for -1K (log 30). -/
opaque variant : Nat

/-- The serial number, at most 16 bytes (log 30). -/
opaque serial : List (BitVec 8)

/-- The hardware revision (log 30). -/
opaque hardwareRevision : Nat

end Sys2Proof.Config
end

