-- ==== Sys2Proof/Machine/StBase.lean ====
section
/-! DEFINITION. The sparse table in canonical form that every memory, register file and array of the state is held
in. A table lists (key, value) pairs with keys strictly rising and no value equal to what an unlisted key reads as. -/

namespace Sys2Proof.Machine

/-- A sparse array: an unlisted key reads as a default that the reader names. -/
abbrev Tbl (α : Type) := List (Nat × α)

/-- The value at a key. -/
def Tbl.get {α : Type} (d : α) : Tbl α → Nat → α
  | [], _ => d
  | (j, v) :: t, k => if j = k then v else Tbl.get d t k

/-- A value at a key of a rising list of entries: it takes the place of the entry of that key, or goes in before the first
greater key. -/
def Tbl.enter {α : Type} : Tbl α → Nat → α → Tbl α
  | [], k, v => [(k, v)]
  | (j, w) :: t, k, v =>
    if k < j then (k, v) :: (j, w) :: t else if k = j then (k, v) :: t else (j, w) :: Tbl.enter t k v

/-- The table with the value at a key replaced, in canonical form: writing the default takes the key out. -/
def Tbl.put {α : Type} [DecidableEq α] (d : α) (t : Tbl α) (k : Nat) (v : α) : Tbl α :=
  if v = d then t.filter (fun e => e.1 != k) else Tbl.enter t k v

/-- The canonical form above a bound: every key is at least the bound, keys rise strictly, and no value is the
default. -/
def Tbl.wfFrom {α : Type} [DecidableEq α] (d : α) : Nat → Tbl α → Bool
  | _, [] => true
  | b, (j, v) :: t => decide (b ≤ j) && decide (v ≠ d) && Tbl.wfFrom d (j + 1) t

/-- The canonical form of a table. -/
def Tbl.wf {α : Type} [DecidableEq α] (d : α) (t : Tbl α) : Bool := Tbl.wfFrom d 0 t

/-- Drop the key: it then reads as the default. -/
def Tbl.drop {α : Type} (t : Tbl α) (k : Nat) : Tbl α := t.filter (fun e => e.1 != k)

/-- Apply a function to the value at a key. -/
def Tbl.upd {α : Type} [DecidableEq α] (d : α) (t : Tbl α) (k : Nat) (f : α → α) : Tbl α :=
  Tbl.put d t k (f (Tbl.get d t k))

/-- The n values from key b on. -/
def Tbl.slice {α : Type} (d : α) (t : Tbl α) (b : Nat) : Nat → List α
  | 0 => []
  | n + 1 => Tbl.get d t b :: Tbl.slice d t (b + 1) n

/-- Write a list of values from key b on. -/
def Tbl.putAll {α : Type} [DecidableEq α] (d : α) (t : Tbl α) (b : Nat) : List α → Tbl α
  | [] => t
  | v :: vs => Tbl.putAll d (Tbl.put d t b v) (b + 1) vs

/-- A flag as a number: n when it is set. -/
def b2n (b : Bool) (n : Nat) : Nat := if b then n else 0

/-- A saturating 32-bit counter raised by one. -/
def sat32 (n : Nat) : Nat := min (n + 1) 0xFFFFFFFF

/-- Insert into a list of rising numbers, once. -/
def insertNat (k : Nat) : List Nat → List Nat
  | [] => [k]
  | j :: t => if k < j then k :: j :: t else if k = j then j :: t else j :: insertNat k t

/-- Clear an aligned range of keys. -/
def Tbl.clear {α : Type} (t : Tbl α) (lo hi : Nat) : Tbl α := t.filter (fun e => !(decide (lo ≤ e.1) && decide (e.1 ≤ hi)))

end Sys2Proof.Machine
end

