-- ==== Sys2Proof/Machine/StCore.lean ====
section
/-! DEFINITION. The state of a signal core, of its long-vector unit and of the LVU control block: chapters 4 to 7. -/

namespace Sys2Proof.Machine

/-- A part of a 56-bit accumulator (Table 4.2): G [55:48], H [47:24], L [23:0]. -/
inductive Part where
  | g | h | l
  deriving DecidableEq, Repr

/-- Where a scalar result lands (Table 4.10). -/
inductive Dst where
  | d (n : Nat)
  | acc (n : Nat)
  | part (n : Nat) (p : Part)
  | p (n : Nat)
  | m (n : Nat)
  | l (n : Nat)
  | b (n : Nat)
  | xbk | ybk | mode
  | sr
  | aluFlags
  | macFlags (n : Nat)
  | sticky
  | lcnt | ltop | lend | rpc
  deriving DecidableEq, Repr

/-- A result in flight: it lands when the class issues bundle number due (R132, R135). mask: the flags that it writes, or for a loop
register the depth of the loop that it was issued in (R195). byMac is the number of the bundle whose MAC slot made it, for the
bypass of R133. -/
structure InFlight where
  due   : Nat
  dst   : Dst
  val   : Nat
  mask  : Nat := 0
  byMac : Option Nat := none
  deriving DecidableEq, Repr

/-- One active loop (R149 to R152). -/
structure LoopRegs where
  lcnt : BitVec 16 := 0
  ltop : BitVec 13 := 0
  lend : BitVec 13 := 0
  deriving DecidableEq, Repr

/-- A REP or REPU in progress (R153, R194): the repetitions still to issue, and the condition of REPU. first is set
until the first repetition has issued; annul marks a count of 0. -/
structure Rep where
  left  : Nat := 0
  cond  : Option (BitVec 4) := none
  first : Bool := true
  annul : Bool := false
  deriving DecidableEq, Repr

/-- What follows the delay bundles of a taken branch or of ENDC (R136, R197). -/
structure Delay where
  left   : Nat
  target : Option (BitVec 13)
  annul  : Bool
  deriving DecidableEq, Repr

/-- The fault-return state of a class (R162). -/
structure FaultReturn where
  rep     : Option Rep := none
  delay   : Option Delay := none
  depth   : Nat := 0
  restart : Bool := false
  /-- The fault was found in the wait of ENDC or SKIP, which RTE goes on with. -/
  ending  : Bool := false
  deriving DecidableEq, Repr

/-- The registers a class has for itself (R156). The normal class and the fast class each hold one. -/
structure ClassRegs where
  d     : Tbl (BitVec 24) := []
  p     : Tbl (BitVec 16) := []
  m     : Tbl (BitVec 16) := []
  sr    : BitVec 24 := 0
  /-- The accumulator that a MAC slot of the class wrote last: AE follows it (R120). -/
  mac   : Option Nat := none
  mode  : BitVec 24 := 1
  xbk   : BitVec 8 := 0
  ybk   : BitVec 8 := 0
  rpc   : BitVec 13 := 0
  cur   : LoopRegs := {}
  stack : List LoopRegs := []
  pc    : BitVec 13 := 0
  rep   : Option Rep := none
  delay : Option Delay := none
  skipTo : Option (BitVec 13) := none
  count : Nat := 0
  fly   : List InFlight := []
  ret   : FaultReturn := {}
  deriving DecidableEq, Repr

/-- A fault waiting for its entry (R161, R240). -/
structure PendingFault where
  cause : Nat
  slots : Nat
  addr  : BitVec 24 := 0
  elem  : BitVec 24 := 0
  deriving DecidableEq, Repr

/-- What a core is doing in the lap. ending: the wait of ENDC or SKIP; waiting: the next convoy is held (R287). -/
inductive Phase where
  | idle
  | starting
  | running
  | ending
  | waiting
  | done
  | stopped
  | precise
  deriving DecidableEq, Repr

/-- A start record of the Starter on its way or in a core's start queue (R97, R104). -/
structure StartRec where
  ctx   : Nat
  lap   : Nat
  tmpl  : Nat
  velw  : Nat
  notew : Nat
  vel   : BitVec 16
  note  : BitVec 8
  chan  : BitVec 4
  scls  : BitVec 4
  onset : BitVec 6
  pool  : Nat
  kernel : Nat
  relreq : Bool := false
  sus    : Bool := false
  stolen : Bool := false
  relk   : BitVec 6 := 0
  relLap : Nat := 0
  stolenLap : Nat := 0
  grants : Nat := 0
  obj    : Nat := 0
  ring   : BitVec 12 := 0
  sv     : Bool := false
  copied : Bool := false
  /-- Its context was poisoned before its start: the routine does not run (R76). -/
  dead   : Bool := false
  deriving DecidableEq, Repr

/-- The operands an LVU instruction latches at acceptance (R211), with its place of issue. -/
structure LvuOp where
  vop    : BitVec 6 := 0
  opd    : BitVec 22 := 0
  fast   : Bool := false
  bank   : BitVec 8 := 0
  p      : BitVec 16 := 0
  d      : BitVec 24 := 0
  mode   : BitVec 4 := 0
  vg     : BitVec 2 := 0
  tclamp : Bool := false
  vl     : BitVec 11 := 0
  tport  : Bool := false
  vtb    : BitVec 16 := 0
  vtlen  : BitVec 16 := 0
  pc     : BitVec 13 := 0
  deriving DecidableEq, Repr

/-- Where a write of the datapath lands (R249): an element of V, of VA or of a part of VA, of a temporary, or of the data of a port. -/
inductive MicroDst where
  | v | va | part (p : Part) | temp | data (y : Bool)
  deriving DecidableEq, Repr

/-- A write in the multiply-add pipeline or in the index unit: due in a cycle of the instruction, to a key of its table, for an element;
add tells an accumulation, sat a word that saturated. -/
structure MicroWrite where
  due  : Nat
  key  : Nat
  elem : Nat
  dst  : MicroDst
  val  : Int
  add  : Bool := false
  sat  : Bool := false
  deriving DecidableEq, Repr

/-- The micro-state of an LVU (R256). -/
structure Micro where
  upc  : BitVec 13 := 0
  ec   : BitVec 11 := 0
  mq   : Tbl (BitVec 24) := []
  mlc  : Tbl (BitVec 12) := []
  mrtn : BitVec 13 := 0
  mrv  : Bool := false
  tmo  : Bool := false
  /-- Consecutive words without TOK, or without SAFE (R264, R267). -/
  streak : Nat := 0
  /-- The internal temporaries: element i of temporary t at 16 t + i. -/
  temps  : Tbl (BitVec 56) := []
  pipe   : List MicroWrite := []
  /-- Cycles and words since acceptance or resumption, and the cycles in which the last table read and the last spill write are done. -/
  cyc    : Nat := 0
  words  : Nat := 0
  readAt : Nat := 0
  spillAt : Nat := 0
  /-- The last words that the ports read. -/
  xd     : Tbl (BitVec 24) := []
  yd     : Tbl (BitVec 24) := []
  /-- STAT (Table 7.4): the element flagged in the last memory word with its address, UE and RNG. -/
  hit    : Option (Nat × Nat) := none
  ue     : Bool := false
  rng    : Bool := false
  /-- The lowest element so far that set GOV or SAT (R217). -/
  flagged : Option Nat := none
  /-- Resumed from a frame: the word at UPC runs although its TOK is 1 (R263). -/
  resumed : Bool := false
  /-- The routine has met patch RAM. -/
  walk   : Bool := false
  deriving DecidableEq, Repr

/-- The LVU of a core with its page and its control block (Tables 6.1, 6.3, 7.11). V element e of Vn is at key
128 n + e of v; VA likewise in va. -/
structure Lvu where
  v      : Tbl (BitVec 24) := []
  va     : Tbl (BitVec 56) := []
  vl     : BitVec 11 := 128
  vg     : BitVec 2 := 0
  vgDec  : BitVec 2 := 0
  tport  : Bool := false
  vtb    : BitVec 16 := 0
  vtlen  : BitVec 16 := 0
  vctl   : BitVec 24 := 0
  vstat  : BitVec 24 := 0
  vfe    : BitVec 24 := 0
  vipc   : BitVec 24 := 0
  flValid : Bool := false
  fl     : LvuOp := {}
  busy   : Option LvuOp := none
  micro  : Micro := {}
  spill  : Tbl (BitVec 24) := []
  frameValid : Bool := false
  frame  : LvuOp := {}
  frameMicro : Micro := {}
  poll   : Bool := true
  pollNext : Option Bool := none
  pload  : Bool := false
  pen    : Bool := false
  stopRq : Bool := false
  stopped : Bool := false
  /-- Stopped by a micro-fault until the lap edge or DISCARD (R278). -/
  halt   : Bool := false
  mf     : Bool := false
  perr   : Bool := false
  mfrec  : BitVec 32 := 0
  csver  : BitVec 32 := 0x01000000
  crc    : BitVec 16 := 0
  corr   : Nat := 0
  pset   : BitVec 32 := 0
  praddr : BitVec 32 := 0
  prdata : Tbl (BitVec 32) := []
  pmatch : Tbl (BitVec 32) := []
  patch  : Tbl (BitVec 144) := []
  patchUpset : Tbl Nat := []
  /-- Upset bits of the ROM words (R246). -/
  romUpset : Tbl Nat := []
  deriving DecidableEq, Repr

/-- A signal core: scalar registers (Table 4.2), memories, control registers (Table 4.6) and its place in the lap. -/
structure SigCore where
  n      : ClassRegs := {}
  f      : ClassRegs := {}
  fastOn : Bool := false
  acc    : Tbl (BitVec 56) := []
  l      : Tbl (BitVec 16) := []
  b      : Tbl (BitVec 16) := []
  mt     : Bool := false
  x      : Tbl (BitVec 24) := []
  y      : Tbl (BitVec 24) := []
  prog0  : Tbl (BitVec 32) := []
  prog1  : Tbl (BitVec 32) := []
  pmb    : Bool := false
  /-- Words that read with a double-bit error, keyed 0x10000 x memory + address: memory 0 X, 1 Y, 2 program bank 0,
  3 program bank 1, 4 bank 254 (R165). -/
  upset  : Tbl Bool := []
  frec   : BitVec 24 := 0
  fpc    : BitVec 13 := 0
  faddr  : BitVec 24 := 0
  felem  : BitVec 24 := 0
  fvec   : BitVec 13 := 0x1F00
  ctxi   : BitVec 24 := 0
  arith  : BitVec 24 := 0
  aemask : BitVec 24 := 0x000700
  fmode  : BitVec 24 := 1
  bpm0   : BitVec 24 := 0
  bpm1   : BitVec 24 := 0
  bpm2   : BitVec 24 := 0
  bpm3   : BitVec 24 := 0
  pxpc   : BitVec 13 := 0
  pxe    : BitVec 24 := 0
  win    : Tbl (BitVec 24) := []
  debug  : Bool := false
  fault  : Option PendingFault := none
  phase  : Phase := .idle
  /-- The phase that a core stopped by PRECISE goes on with when it is released (R147). -/
  resume : Phase := .idle
  order  : List Nat := []
  conv   : Option Nat := none
  bufB   : Bool := false
  /-- The convoy that the mover has brought into the other buffer (R87). -/
  ahead  : Option Nat := none
  resident : Option Nat := none
  skipWb : Bool := false
  starts : List StartRec := []
  cur    : Option StartRec := none
  /-- SKIP in the fast class waits for a busy LVU (R243). -/
  fastSkip : Bool := false
  reported : Bool := false
  overran  : Bool := false
  /-- The convoy slot that the seal cut off, 0xFF for none (R64, Table 17.4), for the record at the end of the lap. -/
  cutSlot  : Nat := 0xFF
  lvu    : Lvu := {}
  deriving DecidableEq, Repr

end Sys2Proof.Machine
end

