-- ==== Sys2Proof/Machine/Flags.lean ====
section
/-! DEFINITION. The arithmetic and the flag computations of the signal core and of its long-vector unit: the 24-bit
ALU (R178, R181, R182), the 56-bit accumulators (R142, R143, R174 to R176), transfers to 24 bits (R144) and the
conditions of Table 4.13. -/

namespace Sys2Proof.Machine

/-- The least and greatest 24-bit signed values. -/
def min24 : Int := -8388608
def max24 : Int := 8388607

/-- The least and greatest 56-bit signed values. -/
def min56 : Int := -36028797018963968
def max56 : Int := 36028797018963967

/-- A 24-bit word from an integer, modulo 2^24. -/
def w24 (x : Int) : BitVec 24 := BitVec.ofInt 24 x

/-- A 56-bit word from an integer, modulo 2^56. -/
def w56 (x : Int) : BitVec 56 := BitVec.ofInt 56 x

/-- Clamp to an interval. -/
def clampInt (lo hi x : Int) : Int := if x < lo then lo else if x > hi then hi else x

/-- The result of a 24-bit ALU operation with the four flags it forms and which of them it writes. -/
structure AluRes where
  val : BitVec 24
  z : Bool
  n : Bool
  v : Bool := false
  c : Bool := false
  wzn : Bool := true
  wv : Bool := false
  wc : Bool := false
  deriving DecidableEq, Repr

/-- Flags Z and N of a written 24-bit result (R181). -/
def aluZN (r : BitVec 24) : AluRes := { val := r, z := r == 0, n := r.msb }

/-- Addition with Z, N, V, C; sat clamps the result and V then tells whether it did (R181). -/
def aluAdd (sat : Bool) (a b : BitVec 24) : AluRes :=
  let t := a.toInt + b.toInt
  let ovf := decide (t < min24 ∨ t > max24)
  let r := if sat then w24 (clampInt min24 max24 t) else w24 t
  { val := r, z := r == 0, n := r.msb, v := ovf, c := decide (a.toNat + b.toNat ≥ 16777216), wv := true, wc := true }

/-- Subtraction a - b: C is 1 when no borrow occurs (R181). -/
def aluSub (sat : Bool) (a b : BitVec 24) : AluRes :=
  let t := a.toInt - b.toInt
  let ovf := decide (t < min24 ∨ t > max24)
  let r := if sat then w24 (clampInt min24 max24 t) else w24 t
  { val := r, z := r == 0, n := r.msb, v := ovf, c := decide (b.toNat ≤ a.toNat), wv := true, wc := true }

/-- Absolute value: V for 0x80_0000 (R181). -/
def aluAbs (sat : Bool) (a : BitVec 24) : AluRes :=
  let t : Int := if a.toInt < 0 then -a.toInt else a.toInt
  let r := if sat then w24 (clampInt min24 max24 t) else w24 t
  { val := r, z := r == 0, n := r.msb, v := decide (a.toInt = min24), wv := true }

/-- Shift left by a count of 0 to 31: C is the last bit out, unchanged for 0 and 0 above 24 (R181). -/
def aluLsl (a : BitVec 24) (k : Nat) : AluRes :=
  { aluZN (a <<< k) with c := if k ≤ 24 then a.getLsbD (24 - k) else false, wc := k != 0 }

/-- Logical shift right. -/
def aluLsr (a : BitVec 24) (k : Nat) : AluRes :=
  { aluZN (a >>> k) with c := if k ≤ 24 then a.getLsbD (k - 1) else false, wc := k != 0 }

/-- Arithmetic shift right. -/
def aluAsr (a : BitVec 24) (k : Nat) : AluRes :=
  { aluZN (a.sshiftRight k) with c := if k ≤ 24 then a.getLsbD (k - 1) else false, wc := k != 0 }

/-- The number of leading bits equal to bit 23, less one (CLS). -/
def clsCount (a : BitVec 24) : Nat :=
  let rec go : Nat → Nat → Nat
    | 0, acc => acc
    | i + 1, acc => if a.getLsbD i = a.msb then go i (acc + 1) else acc
  go 24 0 - 1

/-- Signed minimum and maximum of 24-bit words. -/
def smin24 (a b : BitVec 24) : BitVec 24 := if a.toInt ≤ b.toInt then a else b
def smax24 (a b : BitVec 24) : BitVec 24 := if a.toInt ≤ b.toInt then b else a

/-- The condition of a code, on the visible SR (Table 4.13). -/
def condHolds (sr : BitVec 24) (code : Nat) : Bool :=
  let z := sr.getLsbD 0
  let n := sr.getLsbD 1
  let c := sr.getLsbD 2
  let v := sr.getLsbD 3
  match code with
  | 0 => true
  | 1 => z
  | 2 => !z
  | 3 => n
  | 4 => !n
  | 5 => v
  | 6 => !v
  | 7 => c
  | 8 => !c
  | 9 => !z && n == v
  | 10 => n == v
  | 11 => n != v
  | 12 => z || n != v
  | 13 => sr.getLsbD 4
  | 14 => sr.getLsbD 5
  | _ => sr.getLsbD 6

/-- The product of R142: fractional products are shifted left one place, integer products are not. -/
def mulProduct (intmul : Bool) (a b : Int) : Int := if intmul then a * b else 2 * (a * b)

/-- A 24-bit word placed at [47:24] of an accumulator (MVDA). -/
def placeHigh (x : BitVec 24) : Int := x.toInt * 16777216

/-- The result of an accumulator operation, narrowed by R143: value and whether the guard bits overflowed. -/
def narrow56 (accsat : Bool) (t : Int) : BitVec 56 × Bool :=
  let ovf := decide (t < min56 ∨ t > max56)
  (if accsat then w56 (clampInt min56 max56 t) else w56 t, ovf)

/-- The live flag AE: bits [55:47] are not all equal. -/
def accExtended (a : BitVec 56) : Bool :=
  let top := a.toNat / 140737488355328
  !(top == 0 || top == 511)

/-- A transfer from an accumulator to 24 bits, rounding or truncating, by R144: value and whether it saturated. -/
def transfer24 (round satm : Bool) (a : BitVec 56) : BitVec 24 × Bool :=
  let t : Int := if round then a.toInt + 8388608 else a.toInt
  let hi := t / 16777216
  if hi < min24 ∨ hi > max24 then
    if satm then (if t < 0 then 0x800000 else 0x7FFFFF, true) else (w24 hi, false)
  else (w24 hi, false)

/-- A transfer of an exact intermediate value, as transfer24 of a value of unlimited width. -/
def transferInt (round satm : Bool) (t0 : Int) : BitVec 24 × Bool :=
  let t := if round then t0 + 8388608 else t0
  let hi := t / 16777216
  if hi < min24 ∨ hi > max24 then
    if satm then (if t < 0 then 0x800000 else 0x7FFFFF, true) else (w24 hi, false)
  else (w24 hi, false)

/-- The parts of an accumulator (R118): G is sign-extended. -/
def accPart (a : BitVec 56) : Part → BitVec 24
  | .g => (a.extractLsb' 48 8).signExtend 24
  | .h => a.extractLsb' 24 24
  | .l => a.extractLsb' 0 24

/-- An accumulator with one part replaced (R118). -/
def accSetPart (a : BitVec 56) (p : Part) (x : BitVec 24) : BitVec 56 :=
  match p with
  | .g => (x.setWidth 8) ++ (a.extractLsb' 0 48)
  | .h => (a.extractLsb' 48 8) ++ x ++ (a.extractLsb' 0 24)
  | .l => (a.extractLsb' 24 32) ++ x

/-- rev16: the order of the 16 bits reversed. -/
def rev16 (x : BitVec 16) : BitVec 16 := x.reverse

/-- The new pointer of a post-modify with an exact modifier, by R129, and whether CBX is set. -/
def circular (p : BitVec 16) (m : Int) (l b : BitVec 16) : BitVec 16 × Bool :=
  let s : Int := p.toNat + m
  if l = 0 then (BitVec.ofInt 16 s, false)
  else
    let lo : Int := b.toNat
    let hi : Int := b.toNat + l.toNat
    let r := if s ≥ hi then s - l.toNat else if s < lo then s + l.toNat else s
    let q := BitVec.ofInt 16 r
    (q, decide ((q.toNat : Int) < lo ∨ (q.toNat : Int) ≥ hi))

end Sys2Proof.Machine
end

