-- ==== Sys2Proof/Machine/Operands.lean ====
section
/-! DEFINITION. The syllables of the signal core (chapter 5): their typed form, decoding and encoding by Tables 5.1 to
5.14. A decoder answers none where a field breaks a rule of R169, R170 or of its table. -/

namespace Sys2Proof.Machine

/-- Bits [hi:lo] of a number. -/
def fld (w hi lo : Nat) : Nat := w / 2 ^ lo % 2 ^ (hi + 1 - lo)

/-- The eight slots (Table 5.2). -/
inductive SlotName where
  | mac0 | mac1 | alu0 | alu1 | xmem | ymem | ctrl | vec
  deriving DecidableEq, Repr

def SlotName.code : SlotName → Nat
  | .mac0 => 0 | .mac1 => 1 | .alu0 => 2 | .alu1 => 3 | .xmem => 4 | .ymem => 5 | .ctrl => 6 | .vec => 7

def slotOf : Nat → SlotName
  | 0 => .mac0 | 1 => .mac1 | 2 => .alu0 | 3 => .alu1 | 4 => .xmem | 5 => .ymem | 6 => .ctrl | _ => .vec

/-- A MAC syllable (Table 5.4). -/
structure MacSyl where
  op : Nat
  an : Nat
  dj : Nat
  dk : Nat
  am : Nat
  sh : Nat
  deriving DecidableEq, Repr

/-- Which of Dj, Dk, Am and SH an opcode uses (Table 5.5). -/
def macUses (op : Nat) : Bool × Bool × Bool × Bool :=
  if op ≤ 7 then (true, true, false, false)
  else if op = 13 then (false, false, false, false)
  else if op = 17 ∨ op = 18 then (false, false, true, true)
  else if op = 19 then (true, false, true, false)
  else if op = 20 ∨ op = 21 then (true, false, false, false)
  else (false, false, true, false)

/-- A MAC syllable that decodes: a defined opcode, fields in range, unused fields 0. -/
def MacSyl.ok (m : MacSyl) : Bool :=
  let u := macUses m.op
  decide (1 ≤ m.op ∧ m.op ≤ 21) && decide (m.an < 8 ∧ m.dj < 16 ∧ m.dk < 16 ∧ m.am < 8 ∧ m.sh < 56) &&
  (u.1 || m.dj == 0) && (u.2.1 || m.dk == 0) && (u.2.2.1 || m.am == 0) && (u.2.2.2 || m.sh == 0)

def encMac (m : MacSyl) : Nat :=
  m.op * 8388608 + m.an * 1048576 + m.dj * 65536 + m.dk * 4096 + m.am * 512 + m.sh * 8

def decMac (w : Nat) : Option MacSyl :=
  let m : MacSyl := ⟨fld w 27 23, fld w 22 20, fld w 19 16, fld w 15 12, fld w 11 9, fld w 8 3⟩
  if m.ok && fld w 2 0 == 0 then some m else none

/-- An ALU syllable by operand format (Tables 5.6, 5.7, R179). -/
inductive AluSyl where
  | d (op dd da db cond imm5 : Nat)
  | di14 (op dd da imm : Nat)
  | di18 (op dd imm : Nat)
  | a (op ad as_ at_ : Nat)
  | ai10 (ad as_ imm : Nat)
  | ai16 (ad imm : Nat)
  | movda (ad ds : Nat)
  | movad (dd as_ : Nat)
  | movsTo (s da : Nat)
  | movsFrom (dd s : Nat)
  | bnki (s imm : Nat)
  deriving DecidableEq, Repr

/-- Opcodes of format D that use only Da: NEG, NEGS, ABS, ABSS, NOT, MOV, CLS. -/
def aluUnary (op : Nat) : Bool := op == 5 || op == 6 || op == 7 || op == 8 || op == 16 || op == 23 || op == 25

def aluShiftImm (op : Nat) : Bool := op == 20 || op == 21 || op == 22

def AluSyl.ok : AluSyl → Bool
  | .d op dd da db cond imm5 =>
    decide (1 ≤ op ∧ op ≤ 25 ∧ dd < 16 ∧ da < 16 ∧ db < 16 ∧ cond < 16 ∧ imm5 < 24) &&
    (op == 24 || cond == 0) && (aluShiftImm op || imm5 == 0) &&
    (!(aluUnary op || aluShiftImm op) || db == 0) && (op != 11 || dd == 0)
  | .di14 op dd da imm => decide (26 ≤ op ∧ op ≤ 29 ∧ dd < 16 ∧ da < 16 ∧ imm < 16384) && (op != 29 || dd == 0)
  | .di18 op dd imm => decide (30 ≤ op ∧ op ≤ 31 ∧ dd < 16 ∧ imm < 262144)
  | .a op ad as_ at_ => (op == 40 || op == 41 || op == 43) && decide (ad < 64 ∧ as_ < 64 ∧ at_ < 64) && (op != 43 || at_ == 0)
  | .ai10 ad as_ imm => decide (ad < 64 ∧ as_ < 64 ∧ imm < 1024)
  | .ai16 ad imm => decide (ad < 64 ∧ imm < 65536)
  | .movda ad ds => decide (ad < 64 ∧ ds < 16)
  | .movad dd as_ => decide (dd < 16 ∧ as_ < 64)
  | .movsTo s da => decide (s < 4 ∧ da < 16)
  | .movsFrom dd s => decide (dd < 16 ∧ s < 4)
  | .bnki s imm => decide (s < 2 ∧ imm < 256)

def encAlu : AluSyl → Nat
  | .d op dd da db cond imm5 => op * 4194304 + dd * 262144 + da * 16384 + db * 1024 + cond * 64 + imm5
  | .di14 op dd da imm => op * 4194304 + dd * 262144 + da * 16384 + imm
  | .di18 op dd imm => op * 4194304 + dd * 262144 + imm
  | .a op ad as_ at_ => op * 4194304 + ad * 65536 + as_ * 1024 + at_ * 16
  | .ai10 ad as_ imm => 42 * 4194304 + ad * 65536 + as_ * 1024 + imm
  | .ai16 ad imm => 44 * 4194304 + ad * 65536 + imm
  | .movda ad ds => 45 * 4194304 + ad * 65536 + ds * 1024
  | .movad dd as_ => 46 * 4194304 + dd * 262144 + as_ * 1024
  | .movsTo s da => 47 * 4194304 + s * 524288 + da * 16384
  | .movsFrom dd s => 48 * 4194304 + dd * 262144 + s * 32768
  | .bnki s imm => 49 * 4194304 + s * 524288 + imm

/-- The fields of an ALU payload in the format of its opcode, with whether its reserved bits are 0. -/
def aluFields (w : Nat) : Option (AluSyl × Bool) :=
  let op := fld w 27 22
  if 1 ≤ op ∧ op ≤ 25 then some (.d op (fld w 21 18) (fld w 17 14) (fld w 13 10) (fld w 9 6) (fld w 4 0), fld w 5 5 == 0)
  else if 26 ≤ op ∧ op ≤ 29 then some (.di14 op (fld w 21 18) (fld w 17 14) (fld w 13 0), true)
  else if 30 ≤ op ∧ op ≤ 31 then some (.di18 op (fld w 21 18) (fld w 17 0), true)
  else if op = 40 ∨ op = 41 ∨ op = 43 then some (.a op (fld w 21 16) (fld w 15 10) (fld w 9 4), fld w 3 0 == 0)
  else if op = 42 then some (.ai10 (fld w 21 16) (fld w 15 10) (fld w 9 0), true)
  else if op = 44 then some (.ai16 (fld w 21 16) (fld w 15 0), true)
  else if op = 45 then some (.movda (fld w 21 16) (fld w 13 10), fld w 15 14 == 0 && fld w 9 0 == 0)
  else if op = 46 then some (.movad (fld w 21 18) (fld w 15 10), fld w 17 16 == 0 && fld w 9 0 == 0)
  else if op = 47 then some (.movsTo (fld w 21 19) (fld w 17 14), fld w 18 18 == 0 && fld w 13 0 == 0)
  else if op = 48 then some (.movsFrom (fld w 21 18) (fld w 17 15), fld w 14 0 == 0)
  else if op = 49 then some (.bnki (fld w 21 19) (fld w 7 0), fld w 18 8 == 0)
  else none

def decAlu (w : Nat) : Option AluSyl :=
  match aluFields w with
  | some (a, clean) => if a.ok && clean then some a else none
  | none => none

/-- A memory syllable (Tables 5.8 to 5.10). -/
structure MemSyl where
  op   : Nat
  reg  : Nat
  pi   : Nat
  pm   : Nat
  mj   : Nat
  reg2 : Nat
  deriving DecidableEq, Repr

/-- Opcodes whose REG names an accumulator in [22:20]. -/
def memAccReg (op : Nat) : Bool := decide (3 ≤ op ∧ op ≤ 11)

def MemSyl.ok (m : MemSyl) : Bool :=
  decide (m.reg < 16 ∧ m.pi < 16 ∧ m.pm < 6 ∧ m.mj < 16 ∧ m.reg2 < 16) &&
  (if 1 ≤ m.op ∧ m.op ≤ 13 then
     (!memAccReg m.op || m.reg % 2 == 0) && (m.op != 13 || m.reg == 0) && m.reg2 == 0 &&
     (m.pm == 3 || m.pm == 5 || (m.pm == 4 && decide (m.mj < 8)) || m.mj == 0)
   else if 16 ≤ m.op ∧ m.op ≤ 24 then
     m.pi == 0 && m.pm == 0 && m.mj == 0 && (m.op == 24 || m.reg2 % 2 == 0)
   else false)

def encMem (m : MemSyl) : Nat :=
  m.op * 8388608 + m.reg * 524288 + m.pi * 32768 + m.pm * 4096 + m.mj * 256 + m.reg2 * 16

def decMem (w : Nat) : Option MemSyl :=
  let m : MemSyl := ⟨fld w 27 23, fld w 22 19, fld w 18 15, fld w 14 12, fld w 11 8, fld w 7 4⟩
  if m.ok && fld w 3 0 == 0 then some m else none

/-- A control syllable (Tables 5.11, 5.12). -/
inductive CtrlSyl where
  | nop
  | br (cond : Nat) (n : Bool) (target : Nat)
  | brp (cond : Nat) (n : Bool) (pi : Nat)
  | loop (dn endOff : Nat)
  | loopi (count endOff : Nat)
  | repN (n : Nat)
  | repD (dn : Nat)
  | repuN (cond n : Nat)
  | repuD (cond dn : Nat)
  | mvcTo (dn creg : Nat)
  | mvcFrom (dn creg : Nat)
  | endc | rtf | rte | skip | vwait
  deriving DecidableEq, Repr

def CtrlSyl.ok : CtrlSyl → Bool
  | .br cond _ target => decide (cond < 16 ∧ target < 8192)
  | .brp cond _ pi => decide (cond < 16 ∧ pi < 16)
  | .loop dn e => decide (dn < 16 ∧ e < 2048)
  | .loopi c e => decide (c < 65536 ∧ e < 2048)
  | .repN n => decide (1 ≤ n ∧ n ≤ 4096)
  | .repD dn => decide (dn < 16)
  | .repuN cond n => decide (cond < 16 ∧ 1 ≤ n ∧ n ≤ 4096)
  | .repuD cond dn => decide (cond < 16 ∧ dn < 16)
  | .mvcTo dn c => decide (dn < 16 ∧ c < 4)
  | .mvcFrom dn c => decide (dn < 16 ∧ c < 4)
  | _ => true

def encCtrl : CtrlSyl → Nat
  | .nop => 1 * 4194304
  | .br cond n target => 2 * 4194304 + cond * 262144 + (if n then 131072 else 0) + target
  | .brp cond n pi => 3 * 4194304 + cond * 262144 + (if n then 131072 else 0) + pi * 8192
  | .loop dn e => 4 * 4194304 + dn * 262144 + e
  | .loopi c e => 134217728 + c * 2048 + e
  | .repN n => 5 * 4194304 + n
  | .repD dn => 6 * 4194304 + dn * 262144
  | .repuN cond n => 7 * 4194304 + cond * 262144 + n
  | .repuD cond dn => 8 * 4194304 + cond * 262144 + dn * 16384
  | .mvcTo dn c => 9 * 4194304 + dn * 262144 + c * 32768
  | .mvcFrom dn c => 10 * 4194304 + dn * 262144 + c * 32768
  | .endc => 11 * 4194304
  | .rtf => 12 * 4194304
  | .rte => 13 * 4194304
  | .skip => 14 * 4194304
  | .vwait => 15 * 4194304

def ctrlFields (w : Nat) : Option (CtrlSyl × Bool) :=
  if fld w 27 27 = 1 then some (.loopi (fld w 26 11) (fld w 10 0), true)
  else
    match fld w 26 22 with
    | 1 => some (.nop, fld w 21 0 == 0)
    | 2 => some (.br (fld w 21 18) (fld w 17 17 == 1) (fld w 12 0), fld w 16 13 == 0)
    | 3 => some (.brp (fld w 21 18) (fld w 17 17 == 1) (fld w 16 13), fld w 12 0 == 0)
    | 4 => some (.loop (fld w 21 18) (fld w 10 0), fld w 17 11 == 0)
    | 5 => some (.repN (fld w 12 0), fld w 21 13 == 0)
    | 6 => some (.repD (fld w 21 18), fld w 17 0 == 0)
    | 7 => some (.repuN (fld w 21 18) (fld w 12 0), fld w 17 13 == 0)
    | 8 => some (.repuD (fld w 21 18) (fld w 17 14), fld w 13 0 == 0)
    | 9 => some (.mvcTo (fld w 21 18) (fld w 17 15), fld w 14 0 == 0)
    | 10 => some (.mvcFrom (fld w 21 18) (fld w 17 15), fld w 14 0 == 0)
    | 11 => some (.endc, fld w 21 0 == 0)
    | 12 => some (.rtf, fld w 21 0 == 0)
    | 13 => some (.rte, fld w 21 0 == 0)
    | 14 => some (.skip, fld w 21 0 == 0)
    | 15 => some (.vwait, fld w 21 0 == 0)
    | _ => none

def decCtrl (w : Nat) : Option CtrlSyl :=
  match ctrlFields w with
  | some (c, clean) => if c.ok && clean then some c else none
  | none => none

/-- A vector-issue syllable: the VOP and its operand bits (R200); the checks of Table 6.11 are made apart. -/
structure VecSyl where
  vop : Nat
  opd : Nat
  deriving DecidableEq, Repr

/-- The defined VOPs (Table 5.14). -/
def vopDefined (v : Nat) : Bool :=
  decide (1 ≤ v ∧ v ≤ 5 ∨ 8 ≤ v ∧ v ≤ 22 ∨ 24 ≤ v ∧ v ≤ 26 ∨ 32 ≤ v ∧ v ≤ 41)

def decVec (w : Nat) : Option VecSyl :=
  if vopDefined (fld w 27 22) then some ⟨fld w 27 22, fld w 21 0⟩ else none

/-- A syllable in its slot. -/
inductive Syl where
  | mac0 (m : MacSyl)
  | mac1 (m : MacSyl)
  | alu0 (a : AluSyl)
  | alu1 (a : AluSyl)
  | xmem (m : MemSyl)
  | ymem (m : MemSyl)
  | ctrl (c : CtrlSyl)
  | vec (v : VecSyl)
  deriving DecidableEq, Repr

def Syl.slot : Syl → SlotName
  | .mac0 _ => .mac0 | .mac1 _ => .mac1 | .alu0 _ => .alu0 | .alu1 _ => .alu1
  | .xmem _ => .xmem | .ymem _ => .ymem | .ctrl _ => .ctrl | .vec _ => .vec

/-- A syllable that decodes on its own. -/
def Syl.ok : Syl → Bool
  | .mac0 m => m.ok
  | .mac1 m => m.ok
  | .alu0 a => a.ok
  | .alu1 a => a.ok
  | .xmem m => m.ok
  | .ymem m => m.ok
  | .ctrl c => c.ok
  | .vec v => vopDefined v.vop && decide (v.opd < 4194304)

/-- The payload of a syllable. -/
def Syl.payload : Syl → Nat
  | .mac0 m => encMac m
  | .mac1 m => encMac m
  | .alu0 a => encAlu a
  | .alu1 a => encAlu a
  | .xmem m => encMem m
  | .ymem m => encMem m
  | .ctrl c => encCtrl c
  | .vec v => v.vop * 4194304 + v.opd

/-- The syllable's 32-bit word (Table 5.1); e marks the end of its bundle. -/
def encSyl (e : Bool) (y : Syl) : Nat := (if e then 2147483648 else 0) + y.slot.code * 268435456 + y.payload

/-- Decode a syllable's payload in its slot. -/
def decPayload (sl w : Nat) : Option Syl :=
  match sl with
  | 0 => (decMac w).map .mac0
  | 1 => (decMac w).map .mac1
  | 2 => (decAlu w).map .alu0
  | 3 => (decAlu w).map .alu1
  | 4 => (decMem w).map .xmem
  | 5 => (decMem w).map .ymem
  | 6 => (decCtrl w).map .ctrl
  | _ => (decVec w).map .vec

/-- Decode a 32-bit syllable: its E bit and its contents, or none where it is undefined. -/
def decSyl (w : Nat) : Bool × Option Syl := (fld w 31 31 == 1, decPayload (fld w 30 28) (fld w 27 0))

end Sys2Proof.Machine
end

