-- ==== Sys2Proof/Machine/LvuOps.lean ====
section
/-! DEFINITION. The long-vector unit (chapter 6): decode checks of VEC syllables (Table 6.11), address rules (R219) and
the operation of every instruction, on a core's own state. -/

namespace Sys2Proof.Machine

/-- The grouping G of a VG code (Table 6.2). -/
def groupOf (vg : BitVec 2) : Nat := 2 ^ vg.toNat

/-- A V name allowed at grouping g. -/
def vName (g r : Nat) : Bool := r % g == 0

/-- A VA name allowed at grouping g (Table 6.2). -/
def vaName (g r : Nat) : Bool := if g = 1 then true else if g = 2 then r % 2 == 0 else if g = 4 then r == 0 else false

/-- The decode checks of Table 6.11 at grouping g. -/
def vecOk (g vop o : Nat) : Bool :=
  let f := fld o
  let bd := f 8 8 == 1
  let r21 := f 21 18
  let r17 := f 17 14
  let r13 := f 13 10
  let r9 := f 9 6
  let partOk := f 10 0 == 0 &&
    (if f 12 11 = 0 then vName g (f 20 17) else f 20 19 == 0 && vaName g (f 18 17))
  match vop with
  | 1 => partOk
  | 2 => partOk
  | 3 => partOk && f 12 11 == 0
  | 4 => f 8 0 == 0 && vName g r21 && vName g r17 && decide (f 13 9 < 24) && r21 != r17
  | 5 => f 8 0 == 0 && vName g r21 && vName g r17 && decide (f 13 9 < 24) && r21 != r17
  | 8 => f 7 0 == 0 && vName g r21 && vName g r17 && (bd || vName g r13)
  | 9 => f 7 0 == 0 && vName g r21 && vName g r17 && (bd || vName g r13)
  | 10 => f 19 18 == 0 && f 9 9 == 0 && f 7 0 == 0 && vaName g (f 21 20) && vName g r17 && (bd || vName g r13)
  | 11 => f 19 18 == 0 && f 9 9 == 0 && f 7 0 == 0 && vaName g (f 21 20) && vName g r17 && (bd || vName g r13)
  | 12 => f 19 18 == 0 && f 9 9 == 0 && f 7 0 == 0 && vaName g (f 21 20) && vName g r17 && (bd || vName g r13)
  | 13 => f 19 0 == 0 && vaName g (f 21 20)
  | 14 => f 14 0 == 0 && vName g r21 && vaName g (f 17 16)
  | 15 => f 13 0 == 0 && vName g r21 && vName g r17
  | 16 => f 8 0 == 0 && vName g r21 && vName g r17 && decide (f 13 9 < 24)
  | 17 => f 8 0 == 0 && vName g r21 && vName g r17 && decide (f 13 9 < 24)
  | 18 => f 9 9 == 0 && f 7 0 == 0 && vName g r21 && vName g r17 && (bd || vName g r13)
  | 19 => f 9 9 == 0 && f 7 0 == 0 && vName g r21 && vName g r17 && (bd || vName g r13)
  | 20 => f 13 10 == 0 && f 8 0 == 0 && vName g r21 && vName g r17
  | 21 => f 13 10 == 0 && f 8 0 == 0 && vName g r21 && vName g r17
  | 22 => f 17 14 == 0 && f 9 0 == 0 && vName g r21
  | 24 => if f 21 21 = 0 then f 20 11 == 0 && decide (f 10 0 ≤ 1024) else f 20 18 == 0 && f 13 0 == 0
  | 25 => f 21 2 == 0
  | 26 => f 16 14 == 0 && f 9 0 == 0
  | 32 => g == 1 && f 19 18 == 0 && f 6 0 == 0 && decide (r17 + f 9 7 ≤ 15) && !(decide (r17 ≤ r13) && decide (r13 ≤ r17 + f 9 7))
  | 33 => g == 1 && f 7 0 == 0 && decide (r13 ≤ 11) && f 9 8 % 2 == 0
  | 34 => g == 1 && f 3 0 == 0 && decide (r21 ≤ 13) && f 5 4 % 2 == 0
  | 35 => g == 1 && f 1 0 != 3 && r21 != r17
  | 36 => g == 1 && f 3 0 == 0 && r21 != r17
  | 37 => g == 1 && f 4 0 == 0 && r9 != r21
  | 38 => g == 1 && f 19 18 == 0 && f 1 0 == 0
  | 39 => g == 1 && f 0 0 == 0 && decide (f 13 9 < 24) && r21 != r17
  | 40 => g == 1 && f 11 0 == 0 && (r21 == 0 || r21 == 8) && r17 % 2 == 0 && decide (r17 ≤ 10) && f 13 12 != 3 &&
          decide (r17 + 5 < r21 ∨ r21 + 7 < r17)
  | 41 => g == 1 && f 7 0 == 0 && r17 % 2 == 0 && r13 % 2 == 0 &&
          (if f 8 8 = 0 then r21 % 2 == 0 else f 21 20 % 2 == 0 && f 19 18 == 0)
  | _ => false

/-- The memory a VEC access reaches, and the element number at which an element faults. -/
structure LvuFault where
  cause : Nat
  addr  : BitVec 24
  elem  : Nat
  deriving DecidableEq, Repr

/-- The state an LVU instruction works on: the LVU, the local memories and their upsets; the lowest element that set
GOV or SAT, a fault, and the next free value. -/
structure LvuRun where
  l     : Lvu
  x     : Tbl (BitVec 24)
  y     : Tbl (BitVec 24)
  upset : Tbl Bool
  flagged : Option Nat := none
  fault : Option LvuFault := none
  trunc : Bool := false
  /-- Microwords corrected at their fetch (R246). -/
  corr  : Nat := 0
  free  : Nat
  deriving DecidableEq, Repr

/-- Element e of the V group whose base is register r. -/
def LvuRun.v (s : LvuRun) (r e : Nat) : BitVec 24 := Tbl.get 0 s.l.v (128 * r + e)

def LvuRun.va (s : LvuRun) (r e : Nat) : BitVec 56 := Tbl.get 0 s.l.va (128 * r + e)

def LvuRun.setV (s : LvuRun) (r e : Nat) (x : BitVec 24) : LvuRun :=
  { s with l := { s.l with v := Tbl.put 0 s.l.v (128 * r + e) x } }

def LvuRun.setVa (s : LvuRun) (r e : Nat) (x : BitVec 56) : LvuRun :=
  { s with l := { s.l with va := Tbl.put 0 s.l.va (128 * r + e) x } }

/-- Note an element that set a flag: the lowest is kept (R217). -/
def LvuRun.flag (s : LvuRun) (e : Nat) (bits : Nat) : LvuRun :=
  { s with l := { s.l with vstat := s.l.vstat ||| BitVec.ofNat 24 bits },
           flagged := match s.flagged with | some m => some (min m e) | none => some e }

/-- Write an accumulation by R143, of element idx of the group whose base is VAn: GOV is bit 1, VAGOV bit 4 of VSTAT and up, for the
register that holds the element (Table 6.5). e is the element that is noted. -/
def LvuRun.accum (s : LvuRun) (o : LvuOp) (n idx e : Nat) (t : Int) : LvuRun :=
  let r := narrow56 (o.mode.getLsbD 1) t
  let s1 := s.setVa n idx r.1
  if r.2 then s1.flag e (2 + 16 * 2 ^ (n + idx / 128)) else s1

/-- Write the transfer of an exact value to a V element: SAT is bit 2 of VSTAT. -/
def LvuRun.transfer (s : LvuRun) (o : LvuOp) (round : Bool) (r e : Nat) (t : Int) : LvuRun :=
  let x := transferInt round (o.mode.getLsbD 0) t
  let s1 := s.setV r e x.1
  if x.2 then s1.flag e 4 else s1

/-- A free word. -/
def LvuRun.freeInt (s : LvuRun) : Int × LvuRun := ((Config.freeNat s.free : Nat), { s with free := s.free + 1 })

/-- Do something for elements 0 to n - 1 in ascending order, stopping at a fault or a truncation (R221). -/
def lvuEach (n : Nat) (f : LvuRun → Nat → LvuRun) (s : LvuRun) : LvuRun :=
  (List.range n).foldl (fun s e => if s.fault.isSome || s.trunc then s else f s e) s

/-- The effective length (R206). -/
def LvuOp.vle (o : LvuOp) : Nat := min o.vl.toNat (128 * groupOf o.vg)

def LvuOp.f (o : LvuOp) (hi lo : Nat) : Nat := fld o.opd.toNat hi lo

def LvuOp.intmul (o : LvuOp) : Bool := o.mode.getLsbD 3

/-- The second operand: element of Vb, or the latched D value when BD is set. -/
def LvuRun.vb (s : LvuRun) (o : LvuOp) (e : Nat) : BitVec 24 := if o.f 8 8 = 1 then o.d else s.v (o.f 13 10) e

/-- A word of local memory: port false X, true Y. -/
def LvuRun.mem (s : LvuRun) (yport : Bool) (a : Nat) : BitVec 24 := Tbl.get 0 (if yport then s.y else s.x) a

/-- A double-bit error stands at the word of local memory. -/
def LvuRun.bad (s : LvuRun) (yport : Bool) (a : Nat) : Bool := Tbl.get false s.upset ((if yport then 0x10000 else 0) + a)

/-- Where a unit-stride element falls: none when it faults (R219). The first component tells bank 254. -/
def unitAddr (o : LvuOp) (e : Nat) : Option (Bool × Nat) :=
  let a := o.p.toNat + e
  if a > 65535 then none
  else if o.bank = 0 then some (false, a)
  else if o.bank = 254 ∧ 4096 ≤ a ∧ a ≤ 8191 then some (true, a)
  else none

/-- The address a fault reports: bank and P. -/
def faultAddr (bank : BitVec 8) (a : Nat) : BitVec 24 := bank ++ BitVec.ofNat 16 a

/-- Take a fault at element e; first-fault loads truncate at a higher element (R222). -/
def LvuRun.fail (s : LvuRun) (o : LvuOp) (cause : Nat) (addr : BitVec 24) (e : Nat) : LvuRun :=
  if o.vop = 3 ∧ e > 0 then
    { s with trunc := true,
             l := { s.l with vl := BitVec.ofNat 11 e, vfe := BitVec.ofNat 24 (0x800000 + e), vstat := s.l.vstat ||| 0x100 } }
  else { s with fault := some ⟨cause, addr, e⟩ }

/-- VLD, VST and VLDFF on element e. -/
def lvuUnit (o : LvuOp) (store : Bool) (s : LvuRun) (e : Nat) : LvuRun :=
  let yport := o.f 21 21 = 1
  match unitAddr o e with
  | none => s.fail o 5 (faultAddr o.bank (o.p.toNat + e)) e
  | some (page, a) =>
    let part := o.f 12 11
    let va := o.f 18 17
    if store then
      let w := if part = 0 then s.v (o.f 20 17) e
        else accPart (s.va va e) (if part = 1 then .l else if part = 2 then .h else .g)
      if page then { s with l := { s.l with spill := Tbl.put 0 s.l.spill a w }, upset := Tbl.put false s.upset (0x40000 + a) false }
      else if yport then { s with y := Tbl.put 0 s.y a w, upset := Tbl.put false s.upset (0x10000 + a) false }
      else { s with x := Tbl.put 0 s.x a w, upset := Tbl.put false s.upset a false }
    else
      let bad := if page then Tbl.get false s.upset (0x40000 + a) else s.bad yport a
      if bad then s.fail o 6 (faultAddr o.bank a) e
      else
        let w := if page then Tbl.get 0 s.l.spill a else s.mem yport a
        if part = 0 then s.setV (o.f 20 17) e w
        else s.setVa va e (accSetPart (s.va va e) (if part = 1 then .l else if part = 2 then .h else .g) w)

/-- One word of a table or delay line at an address that must not pass 0xFFFF: none after a fault. -/
def lvuWord (o : LvuOp) (s : LvuRun) (a e : Nat) : LvuRun × BitVec 24 :=
  if a > 65535 then (s.fail o 5 (faultAddr 0 a) e, 0)
  else if s.bad o.tport a then (s.fail o 6 (faultAddr 0 a) e, 0)
  else (s, s.mem o.tport a)

/-- Interpolate between two words at a fraction of F bits, by a rounding transfer into Vd. -/
def lvuInterp (o : LvuOp) (s : LvuRun) (e : Nat) (x0 x1 : BitVec 24) (fr fbits : Nat) : LvuRun :=
  s.transfer o true (o.f 21 18) e (x0.toInt * 16777216 + fr * (x1.toInt - x0.toInt) * 2 ^ (24 - fbits))

/-- VTAB and VTABI on element e (R223, R224). -/
def lvuTable (o : LvuOp) (interp : Bool) (s : LvuRun) (e : Nat) : LvuRun :=
  let fb := o.f 13 9
  let a := (s.v (o.f 17 14) e).toNat
  let i := a / 2 ^ fb
  let fr := a % 2 ^ fb
  let len := o.vtlen.toNat
  let out := if interp then decide (i + 1 ≥ len) else decide (i ≥ len)
  if out ∧ ¬ o.tclamp then s.fail o 5 (faultAddr 0 (o.vtb.toNat + i)) e
  else if out then
    if len = 0 then s.setV (o.f 21 18) e 0
    else
      let r := lvuWord o s (o.vtb.toNat + (len - 1)) e
      if r.1.fault.isSome then r.1 else r.1.setV (o.f 21 18) e r.2
  else
    let r0 := lvuWord o s (o.vtb.toNat + i) e
    if r0.1.fault.isSome then r0.1
    else if !interp then r0.1.setV (o.f 21 18) e r0.2
    else
      let r1 := lvuWord o r0.1 (o.vtb.toNat + i + 1) e
      if r1.1.fault.isSome then r1.1 else lvuInterp o r1.1 e r0.2 r1.2 fr fb

/-- VDLY on element e (R225). -/
def lvuDelay (o : LvuOp) (s : LvuRun) (e : Nat) : LvuRun :=
  let fb := o.f 13 9
  let d := (s.v (o.f 17 14) e).toNat
  let ls := o.vtlen.toNat
  let i := d / 2 ^ fb
  let fr := d % 2 ^ fb
  let wr := (o.d.toNat % 65536) % ls
  let at_ (k : Nat) : Nat := o.p.toNat + ((wr + 2 * ls - k % (2 * ls)) % ls) * o.vle + e
  if i ≥ ls ∧ ¬ o.tclamp then s.fail o 5 (faultAddr 0 (o.vtb.toNat + i)) e
  else if ls = 0 then s.setV (o.f 21 18) e 0
  else if i ≥ ls then
    let r := lvuWord o s (at_ (ls - 1)) e
    if r.1.fault.isSome then r.1 else r.1.setV (o.f 21 18) e r.2
  else
    let r0 := lvuWord o s (at_ i) e
    if r0.1.fault.isSome then r0.1
    else
      let r1 := lvuWord o r0.1 (at_ (i + 1)) e
      if r1.1.fault.isSome then r1.1 else lvuInterp o r1.1 e r0.2 r1.2 fr fb

/-- The product of two words under the latched MODE (R215). -/
def LvuOp.mul (o : LvuOp) (a b : BitVec 24) : Int := mulProduct o.intmul a.toInt b.toInt

/-- The element instructions of Table 6.7 on element e. -/
def lvuElem (o : LvuOp) (s : LvuRun) (e : Nat) : LvuRun :=
  let vd := o.f 21 18
  let a := s.v (o.f 17 14) e
  let b := s.vb o e
  let van := o.f 21 20
  match o.vop.toNat with
  | 8 => s.setV vd e (aluAdd (o.f 9 9 = 1) a b).val
  | 9 => s.setV vd e (aluSub (o.f 9 9 = 1) a b).val
  | 10 => s.accum o van e e (o.mul a b)
  | 11 => s.accum o van e e ((s.va van e).toInt + o.mul a b)
  | 12 => s.accum o van e e ((s.va van e).toInt - o.mul a b)
  | 13 => s.setVa van e 0
  | 14 => s.transfer o (o.f 15 15 = 0) vd e (s.va (o.f 17 16) e).toInt
  | 15 => s.setV vd e a
  | 16 => s.setV vd e (a <<< (o.f 13 9))
  | 17 => s.setV vd e (a.sshiftRight (o.f 13 9))
  | 18 => s.setV vd e (smin24 a b)
  | 19 => s.setV vd e (smax24 a b)
  | 20 => s.setV vd e (aluAbs (o.f 9 9 = 1) a).val
  | 21 => s.setV vd e (aluSub (o.f 9 9 = 1) 0 a).val
  | _ => s.setV vd e o.d

/-- VFIR on element e: the taps, then the shift of the history (R227). -/
def lvuFir (o : LvuOp) (s : LvuRun) (e : Nat) : LvuRun :=
  let t := o.f 9 7 + 1
  let vh := o.f 17 14
  let sum := (List.range t).foldl (fun acc k => acc + o.mul (s.v (o.f 13 10) k) (s.v (vh + k) e)) 0
  let s1 := s.accum o (o.f 21 20) e e ((s.va (o.f 21 20) e).toInt + sum)
  (List.range (t - 1)).foldl (fun s2 j => s2.setV (vh + (t - 1 - j)) e (s2.v (vh + (t - 2 - j)) e)) s1

/-- VBIQ on element e (R228): coefficients in Q2.22. -/
def lvuBiq (o : LvuOp) (s : LvuRun) (e : Nat) : LvuRun :=
  let c (k : Nat) : Int := (s.v (o.f 13 10 + k) e).toInt
  let vas := o.f 9 8
  let x := (s.v (o.f 17 14) e).toInt
  let s1 := (s.va vas e).toInt
  let s2 := (s.va (vas + 1) e).toInt
  let r := s.transfer o true (o.f 21 18) e (4 * (c 0 * x) + s1)
  let y := (r.v (o.f 21 18) e).toInt
  let r1 := r.accum o vas e e (4 * (c 1 * x) - 4 * (c 3 * y) + s2)
  r1.accum o (vas + 1) e e (4 * (c 2 * x) - 4 * (c 4 * y))

/-- The product of a coefficient of q fraction bits and a 56-bit state: exact where it fits the state's binary point. R229 does not say
how the bits below that point are cut: the product is one of the two numbers next to it, freely (log 24). -/
def stateProduct (s : LvuRun) (f : BitVec 24) (q : Nat) (a : Int) : Int × LvuRun :=
  let t := f.toInt * a
  if t % 2 ^ q = 0 then (t / 2 ^ q, s) else (t / 2 ^ q + s.freeInt.1 % 2, s.freeInt.2)

/-- VSVF on element e (R229). -/
def lvuSvf (o : LvuOp) (s : LvuRun) (e : Nat) : LvuRun :=
  let vas := o.f 5 4
  let vd := o.f 21 18
  let fw := s.v (o.f 13 10) e
  let qw := s.v (o.f 9 6) e
  let x := (s.v (o.f 17 14) e).toInt * 16777216
  let bp0 := (s.va (vas + 1) e).toInt
  let p1 := stateProduct s fw 23 bp0
  let r1 := p1.2.accum o vas e e ((s.va vas e).toInt + p1.1)
  let lp := (r1.va vas e).toInt
  let p2 := stateProduct r1 qw 22 bp0
  let hp := x - lp - p2.1
  let p3 := stateProduct p2.2 fw 23 hp
  let r2 := p3.2.accum o (vas + 1) e e (bp0 + p3.1)
  let bp := (r2.va (vas + 1) e).toInt
  let r3 := r2.transfer o true vd e lp
  let r4 := r3.transfer o true (vd + 1) e bp
  r4.transfer o true (vd + 2) e hp

/-- VINTP on element e (R230). A window of width 0 leaves the sample open (log 24). -/
def lvuIntp (o : LvuOp) (s : LvuRun) (e : Nat) : LvuRun :=
  let t := 8 * 2 ^ (o.f 1 0)
  let vp := o.f 17 14
  let p := (s.v vp e).toNat
  let i : Int := (p / 4096 : Nat)
  let phi := (p / 16) % 256
  let wd := o.d.toNat % 65536
  let h (k : Nat) : BitVec 24 := s.mem false ((o.vtb.toNat + phi * t + k) % 65536)
  let frame (k : Nat) : BitVec 24 :=
    let j := (i - (t / 2 : Nat) + 1 + k) % (wd : Int)
    s.mem true ((o.p.toNat + e * wd + j.toNat) % 65536)
  let r := if wd = 0 then (let q := s.freeInt; q.2.setV (o.f 21 18) e (w24 q.1))
    else s.transfer o true (o.f 21 18) e ((List.range t).foldl (fun acc k => acc + o.mul (h k) (frame k)) 0)
  r.setV vp e (BitVec.ofNat 24 (p + (s.v (o.f 13 10) e).toNat))

/-- 2^43 times the sine of a phase in the first quarter of the cycle, by its series to x^21 in fixed point of 60 bits. -/
def sineQuarter (ph : Nat) : Int :=
  let x : Int := 7244019458077122842 * ph / 2 ^ 24
  let x2 := x * x / 2 ^ 60
  let r := (List.range 10).foldr (fun (k : Nat) (a : Int) => 2 ^ 60 - x2 * a / 2 ^ 60 / (((2 * k + 2) * (2 * k + 3) : Nat) : Int)) (2 ^ 60)
  x * r / 2 ^ 60 / 2 ^ 17

/-- 2^43 times the sine of a phase, one cycle being 2^24. -/
def sineAt (ph : Nat) : Int :=
  let q := ph % 8388608
  let a := sineQuarter (if q > 4194304 then 8388608 - q else q)
  if ph ≥ 8388608 then -a else a

/-- The words within 2^-20 of the sine of a phase scaled by 1 - 2^-23 (R231), the lowest and the highest. -/
def sineRange (ph : Nat) : Int × Int :=
  let t := sineAt ph * 8388607
  ((t + 2 ^ 43 - 1) / 2 ^ 43 - 8, t / 2 ^ 43 + 8)

/-- A full-scale triangle at a phase. -/
def triangleAt (ph : Nat) : Int :=
  if ph < 8388608 then 2 * ph - 8388608 else 25165824 - 2 * (ph : Int)

/-- A phase lies within Inc of an edge at a: one sample of the two that its correction reaches (R231). -/
def nearEdge (ph inc a : Nat) : Bool :=
  let d := (ph + 16777216 - a) % 16777216
  decide (d < inc ∨ 16777216 - d ≤ inc)

/-- The sample of VOSC (R231). The error of the sine within its bound, the correction near an edge, the levels of the pulse and the phase
at which the triangle begins are Config's (log 22). -/
def oscSample (wf : Nat) (phase inc width : BitVec 24) : BitVec 24 :=
  let ph := phase.toNat
  let open_ := Config.oscillator wf phase inc width
  match wf with
  | 0 =>
    let r := sineRange ph
    w24 (clampInt min24 max24 (r.1 + (open_.toNat : Int) % (r.2 - r.1 + 1)))
  | 1 => if nearEdge ph inc.toNat 0 then open_ else w24 (ph - 8388608)
  | 2 => if nearEdge ph inc.toNat 0 || nearEdge ph inc.toNat width.toNat then open_ else Config.pulseLevel (decide (ph < width.toNat))
  | _ => w24 (clampInt min24 max24 (triangleAt ((ph + Config.trianglePhase) % 16777216)))

/-- VOSC on element e (R231): the sample, then the phase advances. -/
def lvuOsc (o : LvuOp) (s : LvuRun) (e : Nat) : LvuRun :=
  let ph := s.v (o.f 17 14) e
  let inc := s.v (o.f 13 10) e
  let s1 := s.setV (o.f 21 18) e (oscSample (o.f 5 4) ph inc (s.v (o.f 9 6) e))
  s1.setV (o.f 17 14) e (ph + inc)

/-- VENV on element e (R232). -/
def lvuEnv (o : LvuOp) (s : LvuRun) (e : Nat) : LvuRun :=
  let vl := o.f 21 18
  let l := (s.v vl e).toInt
  let t := (s.v (o.f 17 14) e).toInt
  let r := (s.v (o.f 13 10) e).toInt
  let s1 :=
    if o.f 5 5 = 1 then
      let ar : Int := if r < 0 then -r else r
      let d : Int := if t < l then l - t else t - l
      if d ≤ ar then s.setV vl e (w24 t) else s.setV vl e (w24 (if t < l then l - ar else l + ar))
    else
      let step := 2 * (r * (t - l))
      if (step + 8388608) / 16777216 = 0 then s.setV vl e (w24 t)
      else s.transfer o true vl e (l * 16777216 + step)
  s1.setV (o.f 9 6) e (if s1.v vl e = w24 t then 0x7FFFFF else 0)

/-- VMIX (R233): two channels of the bus accumulator. -/
def lvuMix (o : LvuOp) (s : LvuRun) : LvuRun :=
  let van := o.f 21 20
  let j := o.d.toNat % 128
  let sum (r : Nat) : Int :=
    (List.range o.vle).foldl (fun acc e => acc + o.mul (s.v (o.f 17 14) e) (s.v r e)) 0
  let s1 := s.accum o van j j ((s.va van j).toInt + sum (o.f 13 10))
  let j2 := (j + 64) % 128
  s1.accum o van j2 j2 ((s1.va van j2).toInt + sum (o.f 9 6))

/-- VFFT4 on element e (R234). -/
def lvuFft (o : LvuOp) (s : LvuRun) (e : Nat) : LvuRun :=
  let vb := o.f 21 18
  let vw := o.f 17 14
  let re (k : Nat) := s.v (vb + 2 * k) e
  let im (k : Nat) := s.v (vb + 2 * k + 1) e
  let wr (k : Nat) := s.v (vw + 2 * (k - 1)) e
  let wi (k : Nat) := s.v (vw + 2 * (k - 1) + 1) e
  let ar (k : Nat) : Int := if k = 0 then placeHigh (re 0) else o.mul (wr k) (re k) - o.mul (wi k) (im k)
  let ai (k : Nat) : Int := if k = 0 then placeHigh (im 0) else o.mul (wr k) (im k) + o.mul (wi k) (re k)
  let sh : Int := 2 ^ (o.f 13 12)
  let put (s : LvuRun) (r : Nat) (t : Int) : LvuRun := s.transfer o true (vb + r) e (t / sh)
  let s0 := put (put s 0 (ar 0 + ar 1 + ar 2 + ar 3)) 1 (ai 0 + ai 1 + ai 2 + ai 3)
  let s1 := put (put s0 2 (ar 0 + ai 1 - ar 2 - ai 3)) 3 (ai 0 - ar 1 - ai 2 + ar 3)
  let s2 := put (put s1 4 (ar 0 - ar 1 + ar 2 - ar 3)) 5 (ai 0 - ai 1 + ai 2 - ai 3)
  put (put s2 6 (ar 0 - ai 1 - ar 2 + ai 3)) 7 (ai 0 + ar 1 - ai 2 - ar 3)

/-- VCMUL on element e (R235). -/
def lvuCmul (o : LvuOp) (s : LvuRun) (e : Nat) : LvuRun :=
  let a := s.v (o.f 17 14) e
  let b := s.v (o.f 17 14 + 1) e
  let c := s.v (o.f 13 10) e
  let d := s.v (o.f 13 10 + 1) e
  let conj := o.f 9 9 = 1
  let re := if conj then o.mul a c + o.mul b d else o.mul a c - o.mul b d
  let im := if conj then o.mul b c - o.mul a d else o.mul a d + o.mul b c
  if o.f 8 8 = 1 then
    let n := o.f 21 20
    let s1 := s.accum o n e e ((s.va n e).toInt + re)
    s1.accum o (n + 1) e e ((s1.va (n + 1) e).toInt + im)
  else (s.transfer o true (o.f 21 18) e re).transfer o true (o.f 21 18 + 1) e im

/-- The set-up instructions (Table 6.7). -/
def lvuSetL (o : LvuOp) (s : LvuRun) : LvuRun :=
  { s with l := { s.l with vl := if o.f 21 21 = 0 then BitVec.ofNat 11 (o.f 10 0) else BitVec.ofNat 11 (min o.d.toNat 1024) } }

def lvuSetG (o : LvuOp) (s : LvuRun) : LvuRun := { s with l := { s.l with vg := BitVec.ofNat 2 (o.f 1 0) } }

def lvuSetT (o : LvuOp) (s : LvuRun) : LvuRun :=
  { s with l := { s.l with tport := o.f 21 21 = 1, vtb := o.p, vtlen := o.d.setWidth 16 } }

/-- The operation of an accepted instruction. -/
def lvuOperate (o : LvuOp) (s : LvuRun) : LvuRun :=
  let n := o.vle
  match o.vop.toNat with
  | 1 => lvuEach n (lvuUnit o false) s
  | 2 => lvuEach n (lvuUnit o true) s
  | 3 => lvuEach n (lvuUnit o false) s
  | 4 => lvuEach n (lvuTable o false) s
  | 5 => lvuEach n (lvuTable o true) s
  | 24 => lvuSetL o s
  | 25 => lvuSetG o s
  | 26 => lvuSetT o s
  | 32 => lvuEach n (lvuFir o) s
  | 33 => lvuEach n (lvuBiq o) s
  | 34 => lvuEach n (lvuSvf o) s
  | 35 => lvuEach n (lvuIntp o) s
  | 36 => lvuEach n (lvuOsc o) s
  | 37 => lvuEach n (lvuEnv o) s
  | 38 => if n = 0 then s else lvuMix o s
  | 39 => lvuEach n (lvuDelay o) s
  | 40 => lvuEach n (lvuFft o) s
  | 41 => lvuEach n (lvuCmul o) s
  | _ => lvuEach n (lvuElem o) s

/-- The dispatch nibble of a VOP and its operand bits (Table 7.5). -/
def dispatchNibble (vop : Nat) (o : Nat) : Nat :=
  let f := fld o
  match vop with
  | 1 => 4 * f 21 21 + f 12 11
  | 2 => 4 * f 21 21 + f 12 11
  | 3 => 4 * f 21 21
  | 8 => 2 * f 8 8 + f 9 9
  | 9 => 2 * f 8 8 + f 9 9
  | 20 => f 9 9
  | 21 => f 9 9
  | 10 => 2 * f 8 8
  | 11 => 2 * f 8 8
  | 12 => 2 * f 8 8
  | 18 => 2 * f 8 8
  | 19 => 2 * f 8 8
  | 14 => f 15 15
  | 24 => f 21 21
  | 32 => 8 - (f 9 7 + 1)
  | 35 => f 1 0
  | 36 => f 5 4
  | 37 => f 5 5
  | 40 => f 13 12
  | 41 => 2 * f 9 9 + f 8 8
  | _ => 0

/-- Cycles an instruction takes (Table 6.6); 1 with VLe = 0 (R212). -/
def lvuCycles (o : LvuOp) : Nat :=
  let n := o.vle
  let c := max 1 ((n + 15) / 16)
  let parts := (List.range ((n + 127) / 128)).foldl (fun acc r =>
    let m := min 128 (n - 128 * r)
    acc + ((((o.p.toNat + 128 * r) % 16) + m - 1) / 16 + 1)) 0
  if n = 0 then 1
  else match o.vop.toNat with
  | 1 => parts
  | 2 => parts
  | 3 => parts
  | 4 => max 1 ((n + 3) / 4)
  | 5 => max 1 ((n + 3) / 4)
  | 39 => max 1 ((n + 3) / 4)
  | 24 => 1
  | 25 => 1
  | 26 => 1
  | 32 => (o.f 9 7 + 1) * c + 2
  | 33 => 5 * c + 4
  | 34 => 3 * c + 4
  | 35 => (if o.f 1 0 = 2 then 3 else 2) * n + 8
  | 36 => (match o.f 5 4 with | 0 => 3 | 1 => 4 | 2 => 6 | _ => 2) * c + 2
  | 37 => 2 * c + 2
  | 38 => 2 * c + 6
  | 40 => 16 * c + 4
  | 41 => 4 * c + 2
  | _ => c

end Sys2Proof.Machine
end

