-- ==== Sys2Proof/Machine/StDrover.lean ====
section
/-! DEFINITION. The state of the Drovers, of the control RAM and of the Drover applications (chapter 11). -/

namespace Sys2Proof.Machine

/-- What a Drover is doing (Table 11.21): reset while a single-core reset is in progress. -/
inductive DrvRun where
  | running | checkstop | reset | unreleased
  deriving DecidableEq, Repr

/-- A store-buffer entry (R416): an aligned 8-byte granule with a byte mask. at_ is its physical address; priv is the
privilege of its stores, cach tells that its DRAM is cacheable, begun that its write transaction is on its way. -/
structure SbEntry where
  at_   : Nat
  bytes : Tbl Byte
  mask  : List Nat
  addr  : Nat
  priv  : Nat
  cach  : Bool
  begun : Bool := false
  deriving DecidableEq, Repr

/-- A cache line: its physical address and its 64 bytes. lost tells of an uncorrectable error in it (R424). -/
structure Line where
  at_   : Nat
  bytes : Tbl Byte := []
  dirty : Bool := false
  lost  : Bool := false
  deriving DecidableEq, Repr

/-- A load that waits for the read side (R415): the bytes still to come from address addr on, those that have come, and
where they go. fill tells that the read is a D-cache line fill. -/
structure ReadTxn where
  addr : Nat
  left : Nat
  got  : Bytes
  rd   : Nat
  sext : Bool
  fill : Bool
  start : Nat
  deriving DecidableEq, Repr

/-- A write transaction of a line's write-back (R420, R423). -/
structure WriteBack where
  line : Line
  addr : Nat
  deriving DecidableEq, Repr

/-- An imprecise arithmetic exception waiting (R437): the faulting address, KIND, and the instructions executed since. -/
structure ArithPend where
  at_   : Nat
  kind  : Nat
  count : Nat := 0
  deriving DecidableEq, Repr

/-- A Drover: registers, control registers, caches and buffers, and its control block (Tables 11.2 to 11.22). -/
structure Drover where
  w      : Tbl (BitVec 32) := []
  pc     : BitVec 32 := 0x100
  df      : Bool := false
  precise : Bool := false
  xie     : Bool := false
  /-- PSW.PRIV: 0 U, 1 S, 2 M. -/
  priv    : Nat := 2
  /-- SP_U, SP_S, SP_M by privilege. -/
  sp     : Tbl (BitVec 32) := []
  edtb   : BitVec 32 := 0x10000000
  axlost : Nat := 0
  cycles : Nat := 0
  cychi  : BitVec 32 := 0
  xbase  : Nat := 0x1A
  mpuB   : Tbl (BitVec 32) := []
  mpuA   : Tbl (BitVec 32) := []
  run    : DrvRun := .running
  hold   : Bool := false
  wfi    : Bool := false
  arith  : Option ArithPend := none
  /-- The watchdog exception waits for the boundary. -/
  wdDue  : Bool := false
  resv   : Option Nat := none
  buf    : List SbEntry := []
  /-- Lines of the two caches, most recently used first in each set of 128. -/
  icache : Tbl (List Line) := []
  dcache : Tbl (List Line) := []
  lineBuf : Option Line := none
  /-- The fetch queue: up to 8 instructions with their addresses. -/
  queue  : List (Nat × BitVec 32) := []
  read   : Option ReadTxn := none
  wback  : Option WriteBack := none
  snapPc  : BitVec 32 := 0
  snapPsw : BitVec 32 := 0
  snapEsr : Nat := 0
  snapEfa : BitVec 32 := 0
  wdper  : Nat := 100
  wfis   : Bool := false
  first  : Bool := false
  resets : Nat := 0
  /-- The end of the CHECKSTOP timer in ticks plus one; 0: not running. -/
  ckEnd  : Nat := 0
  deriving DecidableEq, Repr

/-- What an application blocks on (R449 to R451). -/
inductive AppBlock where
  | none
  /-- WAIT: the buffer's length and the end of the timeout in ticks plus one, 0 for none. -/
  | wait (len stop : Nat)
  /-- SLEEP until a gPTP time in ns. -/
  | sleep (until_ : Nat)
  /-- A save that the application asked for has not ended (R482). -/
  | save
  /-- A MANIFEST_COMMIT until its checks end (R319). -/
  | commit (handle : Nat)
  deriving DecidableEq, Repr

/-- A message in an application's queue (R451). -/
inductive AppMsg where
  | value (id : Nat) (body : Bytes)
  | result (handle : Nat) (body : Bytes)
  | event (source count : Nat)
  deriving DecidableEq, Repr

/-- A subscription of the applications: its number, who took it, and what it names (R450). -/
structure AppSub where
  id     : Nat
  app    : Nat
  idx    : Nat
  sub    : Nat
  mode   : Nat
  period : Nat
  changed : Bool := false
  last   : Bytes := []
  deriving DecidableEq, Repr

/-- A Drover application (Table 11.25). regs are W1 and the results from W2 on of its last call; buf is what the call wrote
into its buffer. -/
structure App where
  state  : Nat := 0
  image  : Bytes := []
  draft  : Bytes := []
  lastEx : Bytes := []
  status : Nat := 0
  queue  : List AppMsg := []
  block  : AppBlock := .none
  regs   : List Nat := []
  buf    : Bytes := []
  deriving DecidableEq, Repr

/-- The applications together: who holds what, and which one runs on each Drover of role 5. -/
structure Apps where
  tbl     : Tbl App := []
  subs    : List AppSub := []
  semOwner : Tbl Nat := []
  handles : Tbl Nat := []
  bound   : List (Nat × Nat) := []
  /-- Segments of a dictionary value in assembly: application, index, subindex and bytes. -/
  asm     : List (Nat × Nat × Nat × Bytes) := []
  /-- The application whose slice runs on a Drover, plus one, and the last one served plus one. -/
  current : Tbl Nat := []
  last    : Nat := 0
  deriving DecidableEq, Repr

end Sys2Proof.Machine
end

