-- ==== Sys2Proof/Machine/StLoad.lean ====
section
/-! DEFINITION. The state of the lap grid, of contexts and the Starter, of the admitted load, the Relay and the
manifests: chapters 2, 3, 8 and 9. -/

namespace Sys2Proof.Machine

/-- The lap grid in force (R37, R38). Instants are kept in ticks: 225,792 ticks are one ns, which makes the sample
period of every house rate and the cycle of both audio clocks a whole number of ticks. -/
structure Grid where
  running  : Bool := false
  rate     : Nat := 3
  nLap     : Nat := 8
  lap      : Nat := 0
  /-- E in ticks; after a set of the time back it can lie below 0 until the next edge (R509). -/
  epoch    : Int := 0
  epochLap : Nat := 0
  /-- Rate and lap length accepted for the next edge (R36). -/
  change   : Option (Nat × Nat) := none
  /-- The seal of the lap in progress has passed. -/
  sealed   : Bool := false
  /-- Laps left in which outputs are silent after entry to PERFORM (Table 2.10). -/
  silent   : Nat := 0
  /-- The first lap of the next grid started in BOOT is 0 (R38). -/
  fresh    : Bool := true
  /-- gPTP time has been set: the next lap edge starts a new grid (R509). -/
  regrid   : Bool := false
  deriving DecidableEq, Repr

/-- The states of a context (Table 3.3). -/
inductive CtxState where
  | free | armed | running | releasing | poisoned | migrating
  deriving DecidableEq, Repr

/-- The context header (Table 3.2). -/
structure Header where
  state  : CtxState := .free
  kernel : BitVec 16 := 0
  stolen : Bool := false
  relreq : Bool := false
  ended  : Bool := false
  sus    : Bool := false
  relk   : BitVec 6 := 0
  pool   : BitVec 10 := 0
  loud   : BitVec 24 := 0
  gen    : BitVec 8 := 0
  sv     : Bool := false
  ring   : BitVec 12 := 0
  age    : BitVec 48 := 0
  vel    : BitVec 16 := 0
  note   : BitVec 8 := 0
  onset  : BitVec 6 := 0
  scls   : BitVec 4 := 0
  chan   : BitVec 4 := 0
  deriving DecidableEq, Repr

/-- A parameter write that waits for the page copy or for the edge of L_c (R81, R335). -/
structure HeldWrite where
  ctx  : Nat
  word : Nat
  val  : BitVec 24
  /-- The lap edge at which it lands, or none: at the end of the page copy. -/
  atLap : Option Nat
  deriving DecidableEq, Repr

/-- A context: header, state words 8 to 127 and the two parameter pages (Table 3.1). act is the active page. -/
structure Ctx where
  hdr    : Header := {}
  st     : Tbl (BitVec 24) := []
  act    : Tbl (BitVec 24) := []
  shadow : Tbl (BitVec 24) := []
  /-- A write reached the shadow page since the last seal (R80). -/
  dirty  : Bool := false
  /-- Marked for swap at the seal. -/
  marked : Bool := false
  /-- The copy of the new active page into the new shadow page has not ended. -/
  copying : Bool := false
  /-- It swaps one seal later: a manifest that had written its shadow page was aborted (R336). -/
  defer  : Bool := false
  /-- The lap in which it became POISONED. -/
  poisonLap : Nat := 0
  /-- The state before MIGRATING (R338). -/
  prior  : CtxState := .free
  /-- A word of the context that reads with an uncorrectable error (R165). -/
  upset  : Option Nat := none
  /-- Laps of the events that set RELREQ or SUS, and STOLEN: each acts from the lap after (R111, R112). -/
  relLap : Nat := 0
  stolenLap : Nat := 0
  deriving DecidableEq, Repr

/-- An entry of the note table (R103). -/
structure NoteLink where
  scls : BitVec 4
  chan : BitVec 4
  note : BitVec 8
  ctx  : Nat
  deriving DecidableEq, Repr

/-- The end of a hold on a pool: RELK and the event lap (R113). -/
structure HoldEnd where
  pool : Nat
  relk : BitVec 6
  lap  : Nat
  deriving DecidableEq, Repr

/-- A rule enable that takes effect for events of a later lap (R106). -/
structure EnableChange where
  rule : Nat
  old  : Bool
  lap  : Nat
  deriving DecidableEq, Repr

/-- An event on its way into the Starter (R95): its entry in ticks and its split time in ns. -/
structure Ev where
  scls  : BitVec 4
  chan  : BitVec 4
  note  : BitVec 8
  vel   : BitVec 16
  etype : Nat
  entry : Nat
  split : Nat
  deriving DecidableEq, Repr

/-- The Starter (chapter 3). -/
structure Starter where
  /-- Events with a requested time in a later lap (R50, log 33). -/
  waiting : List Ev := []
  /-- Round-robin pointers, kept as the number last used plus one; 0: none yet. -/
  rr      : Tbl Nat := []
  coreRr  : Tbl Nat := []
  /-- Slots charged, key 64 x lap + core. -/
  slots   : Tbl Nat := []
  notes   : List NoteLink := []
  hold    : Tbl Bool := []
  holdEnds : List HoldEnd := []
  /-- Steal candidates of a pool in a cluster, key 8 x pool + cluster: what the policy compares and the context (R110).
  cands: in use in the lap in progress. latched: latched at its seal, for the lap after. best: the 4 best of the write-backs
  since the last edge. -/
  cands   : Tbl (List (Nat × Nat)) := []
  latched : Tbl (List (Nat × Nat)) := []
  best    : Tbl (List (Nat × Nat)) := []
  flight  : List StartRec := []
  /-- Per cluster: the instant in ticks at which the copies sent there end (R99). -/
  copyEnd : Tbl Nat := []
  /-- Per cluster: records whose template copy has not ended. -/
  copies  : Tbl (List StartRec) := []
  /-- The instant at which the issue stage is free (R97). -/
  issueFree : Nat := 0
  enables : List EnableChange := []
  starts  : Tbl Nat := []
  refusals : Tbl Nat := []
  steals  : Tbl Nat := []
  matches_ : Tbl Nat := []
  taken : Nat := 0
  unmatched : Nat := 0
  refContext : Nat := 0
  refCore : Nat := 0
  refGrant : Nat := 0
  refLatency : Nat := 0
  late : Nat := 0
  relNoVoice : Nat := 0
  lastRefused : Bytes := []
  /-- The Starter's objects as they stood before the edge of lap oldLap (R107, R332). -/
  oldObjs : Tbl Bytes := []
  oldLap  : Nat := 0
  deriving DecidableEq, Repr

/-- A feed of a kernel (Table 8.3). -/
structure Feed where
  dir  : Nat
  scope : Bool
  wfix : Nat
  wsmp : Nat
  deriving DecidableEq, Repr

/-- A kernel: its cost table (Table 8.2) as bytes, and its program. -/
structure Kernel where
  table   : Bytes
  program : List (BitVec 32)
  deriving DecidableEq, Repr

/-- A convoy slot (R84). -/
structure Slot where
  kernel : Nat
  pool   : Nat
  core   : Nat
  n      : Nat
  deriving DecidableEq, Repr

/-- A graph edge (Table 9.3). Slots are numbered 16 x cluster + slot. -/
structure Edge where
  src : Nat
  dst : Nat
  channels : Nat
  feedback : Bool
  deriving DecidableEq, Repr

/-- A graph output (Table 9.3). -/
structure Output where
  src   : Nat
  base  : Nat
  channels : Nat
  cls   : Nat
  iface : Nat
  ibase : Nat
  deriving DecidableEq, Repr

/-- A burst descriptor of the Relay timetable (Table 8.11). -/
structure Burst where
  tag   : Nat
  kind  : Nat
  len   : Nat
  dst   : Nat
  src   : Nat
  lane  : Nat
  start : Nat
  deriving DecidableEq, Repr

/-- The admitted load: what admission checks and what a manifest changes (R280). -/
structure Load where
  kernels : List (Nat × Kernel) := []
  slots   : List (Nat × Slot) := []
  edges   : List (Nat × Edge) := []
  outputs : List (Nat × Output) := []
  deriving DecidableEq, Repr

/-- What admission derives from a load (R55, R58, R287): lap offsets of nodes, pads of edges and outputs, and the
dispatch order of each cluster. -/
structure Plan where
  proc  : List (Nat × Nat) := []
  padE  : List (Nat × Nat) := []
  padO  : List (Nat × Nat) := []
  order : List Nat := []
  deriving DecidableEq, Repr

/-- A drain plan: for each convoy slot of a cluster, the slot and core it goes to (R295). -/
structure DrainPlan where
  cluster : Nat
  moves   : List (Nat × Nat × Nat)
  deriving DecidableEq, Repr

/-- Admission (chapter 8). -/
structure Admission where
  load    : Load := {}
  plan    : Plan := {}
  timetable : List Burst := []
  /-- The shadow bank, once it is armed: the banks swap at the next edge (R304). -/
  shadow  : Option (List Burst) := none
  plans   : List DrainPlan := []
  /-- Nodes that rest until a lap after their need rose (R59): slot and first lap in which it runs. -/
  resting : List (Nat × Nat) := []
  reserve : Nat := 1
  out     : Option Nat := none
  /-- Convoy slots drained or restarted elsewhere: the place of record, the present place and the slot (R297, R620). -/
  record  : List (Nat × Nat × Slot) := []
  /-- The reserve was switched on while a cluster was out (R294). -/
  reserveLate : Bool := false
  requests : Nat := 0
  accepted : Nat := 0
  refusals : Tbl Nat := []
  last    : Bytes := []
  deriving DecidableEq, Repr

/-- The block of an output on its way through its pad (R43, R58, R59): the lap in which it leaves, the output as it stood when the
block was summed, the lap of processing and the elements of the mask that the mixer summed. stained: it carries a substitution. -/
structure OutBlock where
  emit : Nat
  num  : Nat
  out  : Output
  lap  : Nat
  elems : List Nat
  stained : Bool
  deriving DecidableEq, Repr

/-- The block of an edge on its way to its consumer (R53, R54, R58): the lap in which the consumer reads it, its producer, the lap
of processing, the elements in it, and the words that the Relay lost, as first word and count (R301). -/
structure EdgeBlock where
  due  : Nat
  num  : Nat
  src  : Nat
  channels : Nat
  lap  : Nat
  elems : List Nat
  lost : List (Nat × Nat) := []
  deriving DecidableEq, Repr

/-- The bus mixers and the delay lines that the movers run. -/
structure Mixers where
  /-- The mask of each convoy dispatched in the lap in progress: elements that contribute (R90). -/
  masks : Tbl (List Nat) := []
  outs  : List OutBlock := []
  edges : List EdgeBlock := []
  /-- Words of stream feeds lost in the lap in progress: convoy slot, first word and count (R301). -/
  feedLost : List (Nat × Nat × Nat) := []
  /-- The slots whose convoys have ended in the lap in progress (R287). -/
  ended : List Nat := []
  deriving DecidableEq, Repr

/-- The Relay. rr holds, per lane, the station served last plus one (R307). -/
structure Relay where
  rr      : Tbl Nat := []
  sent    : Nat := 0
  discarded : Nat := 0
  /-- Index of the next burst of the lap. -/
  next    : Nat := 0
  /-- Descriptors of the active bank that cannot be corrected (Table 17.1, id 6), by index. -/
  bad     : List Nat := []
  deriving DecidableEq, Repr

/-- A manifest entry (Tables 9.2, 9.3). -/
inductive MEntry where
  | write (idx sub : Nat) (val : Bytes)
  | compare (idx sub : Nat) (val : Bytes)
  | slot (cluster slot core kernel pool n : Nat)
  | edge (num src dst channels : Nat) (feedback : Bool)
  | output (num src base channels cls iface ibase : Nat)
  | kernel (k : Nat) (table : Bytes) (program : List (BitVec 32))
  | migrate (src dst core : Nat)
  deriving DecidableEq, Repr

/-- The states of a manifest (Table 9.6). -/
inductive MState where
  | free | opened | checking | staged | given
  deriving DecidableEq, Repr

/-- A manifest on a handle. -/
structure Manifest where
  state   : MState := .free
  entries : List MEntry := []
  payload : Nat := 0
  seqOpen : Nat := 0
  timed   : Option Nat := none
  /-- SEQ and TOKEN of the MANIFEST_COMMIT that waits for its reply (R319). -/
  reply   : Option (Nat × Nat) := none
  lc      : Nat := 0
  twoLap  : Bool := false
  order   : Nat := 0
  /-- The timetable staged for its commit lap (Table 9.9). -/
  bank    : List Burst := []
  /-- Islands whose READY is missing: Relay station numbers, 13 for the Relay itself. -/
  missing : List Nat := []
  /-- GEN of the contexts whose parameters it writes, recorded at the check (R661). -/
  gens    : List (Nat × BitVec 8) := []
  /-- Parameter words written into shadow pages, for the restore of R336. -/
  wrote   : List (Nat × Nat) := []
  /-- Its parameter values have entered the shadow pages. -/
  paramsIn : Bool := false
  /-- What its migration batch has carried: destination context, header, state words and parameters (R340). -/
  carried : List (Nat × Ctx) := []
  /-- A manifest of module firmware that R296 exempts, the cluster it serves plus one, the places of record that a restart
  vacates, and the voices that it starts (R620). -/
  exempt  : Bool := false
  ofCluster : Nat := 0
  clears  : List Nat := []
  restarts : List StartRec := []
  deriving DecidableEq, Repr

/-- The commit engine (chapter 9). -/
structure Manifests where
  tbl     : Tbl Manifest := []
  queue   : List Nat := []
  /-- The commits that arrived in the control-island cycle of the last one (R323): its instant, how many of them end the queue, and
  whether several requesters are among them. turn is the requester that goes first at a tie. -/
  arrived : Nat := 0
  group   : Nat := 0
  tied    : Bool := false
  turn    : Nat := 0
  seq     : Nat := 0
  applied : Nat := 0
  aborted : Nat := 0
  dropped : Nat := 0
  results : Tbl Bytes := []
  moved   : List Bytes := []
  /-- Footprints of manifests that passed: commit sequence number, items written and items read. -/
  passed  : List (Nat × List Nat × List Nat) := []
  deriving DecidableEq, Repr

end Sys2Proof.Machine
end

