-- ==== Sys2Proof/Machine/StIo.lean ====
section
/-! DEFINITION. The state of the network island and of the audio and performance inputs and outputs (chapters 14 and 15). -/

namespace Sys2Proof.Machine

/-- An Ethernet port: link, gPTP, registrations, MAAP and IPv4 (R512 to R518, R526, R533). Instants are in ticks plus one;
0: not running. -/
structure NetPort where
  up      : Bool := false
  /-- When the link went down, in ticks plus one (R503). -/
  downAt  : Nat := 0
  speed   : Nat := 0
  asCap   : Bool := false
  delay   : Nat := 0
  foreign : Bool := false
  pdWait  : Bool := false
  pdSeq   : Nat := 0
  syncSeq : Nat := 0
  annSeq  : Nat := 0
  /-- Sync messages that still report the last phase change (R509). -/
  phaseLeft : Nat := 0
  frames  : Nat := 0
  discards : Nat := 0
  pauses  : Nat := 0
  /-- Listener streams whose Talker Advertise is registered; talker streams (256: CRF) with Listener Ready registered. -/
  regT    : List Nat := []
  regL    : List Nat := []
  maap    : Option Nat := none
  claiming : Bool := false
  addr    : Nat := 0
  mask    : Nat := 0
  gw      : Nat := 0
  origin  : Nat := 0
  upAt    : Nat := 0
  deriving DecidableEq, Repr

/-- A talker or listener stream's counters and sequence state (Table 14.7, R528, R529). -/
structure StreamSt where
  packets : Nat := 0
  late    : Nat := 0
  early   : Nat := 0
  mismatch : Nat := 0
  losses  : Nat := 0
  dups    : Nat := 0
  bad     : Bool := false
  /-- Talker: the next R-TAG number and the number of the next packet of the grid. Listener: the last number accepted. -/
  seq     : Nat := 0
  next    : Nat := 0
  take    : Bool := true
  hist    : BitVec 32 := 0xFFFFFFFF
  /-- The instant of the last packet, in ticks. -/
  lastAt  : Option Int := none
  deriving DecidableEq, Repr

/-- A 1722.1 command that a manifest of module firmware carries out (R532). -/
structure AvCmd where
  port : Nat
  acmp : Bool
  code : Nat
  deriving DecidableEq, Repr

/-- The network island. -/
structure Net where
  p0      : NetPort := {}
  p1      : NetPort := {}
  talk    : Tbl StreamSt := []
  listen  : Tbl StreamSt := []
  /-- Listener samples held for their tags, keyed 512 x tag tick + channel, plus one. -/
  inbuf   : Tbl Nat := []
  crfNext : Nat := 0
  crfSeq  : Nat := 0
  timeBase : Nat := 0
  phase   : Int := 0
  announces : Nat := 0
  syncs   : Nat := 0
  noteBad : Nat := 0
  cmds    : Tbl (Option AvCmd) := []
  /-- Controllers registered for unsolicited notifications. -/
  unsol   : List Nat := []
  availIx : Nat := 0
  /-- The port on which the bound BCP peer's last accepted message arrived. -/
  bcpPort : Nat := 0
  /-- The last whole second of gPTP time that has been marked, in s, and whether PPS_OUT rose at it (R510, R511). -/
  pps     : Nat := 0
  ppsOn   : Bool := false
  deriving DecidableEq, Repr

/-- A sampled contact (R562): its raw and accepted states, and the first-seen time of a new state in ns plus one. -/
structure Contact where
  raw  : Bool := false
  acc  : Bool := false
  t0   : Nat := 0
  /-- The time of the last change of the raw state, in ns. -/
  moved : Nat := 0
  deriving DecidableEq, Repr

/-- A key (R564, R565): note or hold on, and the first-seen scans of its contacts plus one. -/
structure KeySt where
  on   : Bool := false
  k1   : Nat := 0
  k2o  : Nat := 0
  /-- The second contact has been accepted open since the latest note on. -/
  fresh : Bool := false
  deriving DecidableEq, Repr

/-- A controller input (R568 to R570). -/
structure CvSt where
  code : Nat := 0
  high : Bool := false
  /-- The conversion before, for the sample instants that still use it (R569), and the time of the last, in ns. -/
  old  : Nat := 0
  time : Nat := 0
  /-- The last conversion that crossed, or would have crossed, a threshold, in ns. -/
  moved : Nat := 0
  deriving DecidableEq, Repr

/-- A MIDI input's Drover queue and its channels' hold states (R555 to R557). -/
structure MidiIn where
  running : Nat := 0
  queue   : List Bytes := []
  hold    : Tbl Bool := []
  overruns : Nat := 0
  framing : Nat := 0
  deriving DecidableEq, Repr

/-- A gain ramp across the first block emitted at or after a lap edge (R546, R547): the settings between which it runs
and its lap. -/
structure Ramp where
  start : Int
  stop  : Int
  lap   : Nat
  deriving DecidableEq, Repr

/-- The DIN output (R558). -/
structure DinOut where
  /-- Thru messages and queued messages, with the bytes still to send of the first of each; a message without a status byte
  of its own is led by the status that it runs on, 0 for any other. -/
  thru  : List (Nat × Bytes) := []
  queue : List (Nat × Bytes) := []
  /-- The source (1 thru, 2 queued) and the channel status of the last status byte that left; 0 for none. -/
  run   : Nat × Nat := (0, 0)
  /-- The output is inside a queued message. -/
  inMsg : Bool := false
  /-- The byte that is leaving. -/
  busy  : Option Byte := none
  deriving DecidableEq, Repr

/-- The USB device (R552 to R554, R559). -/
structure Usb where
  vbus    : Bool := false
  attached : Bool := false
  suspended : Bool := false
  audio   : Nat := 0
  midiAlt : Nat := 0
  late    : Nat := 0
  /-- Host-to-device samples held for their tags, keyed as those of the network, plus one; device-to-host instants sent. -/
  inbuf   : Tbl Nat := []
  sentTo  : Nat := 0
  deriving DecidableEq, Repr

/-- The audio island's inputs and outputs. Channels are keyed 512 x interface + channel. -/
structure Audio where
  /-- Sample instants passed since the epoch of the grid. -/
  count   : Nat := 0
  /-- Input samples of the lap in progress and of the lap before, keyed 512 x channel key + instant in the lap. -/
  block   : Tbl (BitVec 24) := []
  before  : Tbl (BitVec 24) := []
  /-- What the interfaces carry since the last instant. -/
  out     : Tbl (BitVec 24) := []
  /-- The last 64 samples of each USB and talker channel, keyed 64 x channel key + instant mod 64. -/
  talk    : Tbl (BitVec 24) := []
  /-- The bus mixers' masks and the delay lines (R58, R62, R90). -/
  mix     : Mixers := {}
  /-- Outputs whose drain burst was lost, and the laps whose emission carries zeros for it (R301). -/
  lost    : List (Nat × Nat) := []
  clips   : Tbl Nat := []
  /-- Per line input, the first of the two laps that a change of range zeroes, plus one. -/
  zeroed  : Tbl Nat := []
  lineGain : Tbl Ramp := []
  hpGain  : Tbl Ramp := []
  tdmOn   : Tbl Bool := []
  /-- WCLK_OUT rose at the last sample instant (R510, R511). -/
  wclkOn  : Bool := false
  /-- The lap across whose block the line and headphone outputs ramp to 0 as a mode mutes them, plus one (R548). -/
  muteLap : Nat := 0
  /-- The sample of a drive line whose accepted contacts last entered the Starter, in ns plus one, and the entry of the last of them
  in ticks (R100). -/
  keyScan : Nat := 0
  keyEntry : Nat := 0
  /-- The last scan plus one, and the time in ns of the last GPIO sample. -/
  scan    : Nat := 0
  gpioAt  : Nat := 0
  contacts : Tbl Contact := []
  keys    : Tbl KeySt := []
  /-- Key objects as they stood before a write that waits for the next lap edge (R563, R567). -/
  oldKeys : Tbl Bytes := []
  gpio    : Tbl Contact := []
  cv      : Tbl CvSt := []
  /-- Counted transitions, keyed by quarantine source: bucket numbers. -/
  moves   : Tbl (List Nat) := []
  quar    : List Nat := []
  quars   : Nat := 0
  din     : MidiIn := {}
  usbMidi : MidiIn := {}
  dinOut  : DinOut := {}
  usb     : Usb := {}
  deriving DecidableEq, Repr

end Sys2Proof.Machine
end

