-- ==== Sys2Proof/Machine/StCtl.lean ====
section
/-! DEFINITION. The state of the event concentrator, of the error collector and of the clusters' service states, of the
dictionary and its control ports: chapters 12, 13 and 17. -/

namespace Sys2Proof.Machine

/-- The status codes of Table 13.9. -/
inductive Status where
  | ok | noObject | noSubindex | access | type | range | semNotHeld | busy | full | refused | conflict | late | state
  | auth | crc | compare
  deriving DecidableEq, Repr

/-- The delivery state and settings of an EVC source (Table 12.4). -/
structure EvcSrc where
  count : Nat := 0
  inp   : Bool := false
  owner : Nat := 0
  act   : Bool := false
  pend  : Bool := false
  /-- true: edge. -/
  trig  : Bool := true
  en    : Bool := false
  tgt   : BitVec 4 := 1
  deriving DecidableEq, Repr

/-- The event concentrator (Table 12.7). Timers are kept as the instant at which they end, in ticks plus one; 0: not
running. -/
structure Evc where
  src     : Tbl EvcSrc := []
  holdoff : Tbl (BitVec 16) := []
  holdEnd : Tbl Nat := []
  tmrld   : Tbl (BitVec 32) := []
  tmrEnd  : Tbl Nat := []
  lapdiv  : BitVec 16 := 0
  stray   : Tbl Nat := []
  asleep  : Bool := false
  deriving DecidableEq, Repr

/-- An error record (Table 17.3). -/
structure Record where
  seq     : Nat
  source  : Nat
  cls     : Nat
  code    : Nat
  cluster : Nat
  unit    : Nat
  episode : Nat
  follow  : Nat
  lap     : Nat
  time    : Nat
  detail  : Bytes
  deriving DecidableEq, Repr

/-- An open episode (R615). Instants in ticks. -/
structure Episode where
  num     : Nat
  start   : Int
  last    : Int
  /-- Clusters with a CONTAINED record in it. -/
  seen    : List Nat
  /-- A quarantine restart or an entry to SAFE that it caused is pending. -/
  pendingAct : Bool := false
  deriving DecidableEq, Repr

/-- The error collector, its ring and the archive (R611 to R615). -/
structure ErrLog where
  newest   : Nat := 0
  ring     : List Record := []
  archive  : List Record := []
  dropped  : Nat := 0
  archived : Nat := 0
  episodes : Nat := 0
  lastEp   : Nat := 0
  ep       : Option Episode := none
  corrected : Tbl Nat := []
  /-- Per memory id and cluster or island: instant of the last CORRECTED record in ticks, and the corrections
  since. -/
  corrAt   : Tbl (Option Int) := []
  corrSince : Tbl Nat := []
  deriving DecidableEq, Repr

/-- A cluster's service state (Table 17.9, R617). -/
structure ClusterSt where
  state   : Nat := 0
  quars   : Nat := 0
  /-- An escalating record waits for the next seal (R618). -/
  quarDue : Bool := false
  /-- The restart of its convoys elsewhere is to be placed (R620), with the drain plan it had and the start records made
  from its contexts' headers, by their old numbers. -/
  restartDue : Bool := false
  plan    : Option (List (Nat × Nat × Nat)) := none
  restarts : List StartRec := []
  /-- Moves of a drain that are not yet committed. -/
  moves   : List (Nat × Nat × Nat) := []
  /-- CSM words of the cluster as its slices found them. -/
  csm     : Option (Tbl (BitVec 24)) := none
  /-- A repair is to begin once the module is in MAINTAIN (R629). -/
  repairDue : Bool := false
  deriving DecidableEq, Repr

/-- A subscription (R491). -/
structure Subscr where
  id     : Nat
  idx    : Nat
  sub    : Nat
  mode   : Nat
  period : Nat
  /-- A write has changed the object since the last lap edge, and the value at that edge. -/
  changed : Bool := false
  last   : Bytes := []
  deriving DecidableEq, Repr

/-- A message in a port's outbound queue (R493). -/
inductive OutMsg where
  | reply (m : Bytes)
  | result (m : Bytes)
  | value (id : Nat) (m : Bytes)
  deriving DecidableEq, Repr

/-- A control port (chapter 13). -/
structure PortSt where
  inbox   : List Arrival := []
  out     : List OutMsg := []
  kept    : List (Nat × Bytes) := []
  subs    : List Subscr := []
  asm     : Option (Nat × Nat × Bytes) := none
  notes   : Nat := 0
  cnt     : Tbl Nat := []
  linkEnd : Nat := 0
  holdEnd : Nat := 0
  peer    : Option (BitVec 32 × BitVec 16) := none
  /-- The last authentication counter accepted and the last one sent since the boot nonce was drawn (R500). -/
  ctrIn   : Nat := 0
  ctrOut  : Nat := 0
  irq     : Bool := false
  deriving DecidableEq, Repr

/-- The dictionary (chapter 13): values that differ from their defaults, keyed 256 x index + subindex. -/
structure Dict where
  od      : Tbl Bytes := []
  /-- Per requester values of PERREQ objects, keyed 2^24 x requester + 256 x index + subindex. -/
  perreq  : Tbl Bytes := []
  saved   : Tbl Bytes := []
  savedLoad : Load := {}
  savedOk : Bool := false
  /-- The save in progress: whose reply waits, its MSG x 2^16 + SEQ and its TOKEN, or the number of an application (module
  firmware: no reply waits); and what is saved once the lap edge has come: the persistent objects, the load, the house rate and
  the lap length. -/
  saving  : Option (Requester × Nat × Nat) := none
  saveSet : Option (Tbl Bytes × Load × Nat × Nat) := none
  saveState : Nat := 0
  loadDefaults : Bool := false
  sems    : Tbl Nat := []
  semres  : Nat := 0
  nonce   : BitVec 32 := 0
  authFail : Nat := 0
  /-- Customer key slots that are provisioned, with their keys (R606). -/
  keys    : Tbl Bytes := []
  carrier : Nat := 1
  portA   : PortSt := {}
  portB   : PortSt := {}
  /-- The ports whose messages wait in the input buffers, in order of arrival (R490). -/
  turns   : List Port := []
  /-- The model's own: status and body of the last request answered. -/
  last    : Status := .ok
  lastBody : Bytes := []
  deriving DecidableEq, Repr

end Sys2Proof.Machine
end

