-- ==== Sys2Proof/Machine/StModes.lean ====
section
/-! DEFINITION. The operating mode, start-up, the boot chain, STANDBY, the supply, self-test and availability
(chapters 1, 16, 17 and 18). -/

namespace Sys2Proof.Machine

/-- The modes of Table 1.7; noMode is code 0b111. -/
inductive Mode where
  | standby | boot | perform | maintain | safe | workshop | noMode
  deriving DecidableEq, Repr

/-- The steps of Table 16.4 that end by themselves. -/
inductive StartStep where
  | power | pll | stage2 | rollCall | dram | sram | patch | store
  deriving DecidableEq, Repr

/-- A start-up in progress (R582 to R588). -/
structure StartUp where
  active : Bool := false
  /-- A wake from STANDBY with retention (R602). -/
  wake   : Bool := false
  done   : List StartStep := []
  /-- The patch image that BOOT has loaded (R275, R276). -/
  image  : Option Bytes := none
  /-- BOOT hold (R587). -/
  hold   : Bool := false
  /-- Rows of Table 16.5 that have come about. -/
  rows   : List Nat := []
  /-- us from the start of the start-up to PLL lock, and gPTP time then. -/
  pllUs  : Nat := 0
  pllAt  : Nat := 0
  /-- OD F000.06: us plus one; 0 marks a step not reached. -/
  times  : Tbl Nat := []
  deriving DecidableEq, Repr

/-- The boot record (R583, R593). -/
structure BootRec where
  active  : Nat := 0
  pending : Option Nat := none
  tries   : Nat := 0
  fail    : List Nat := []
  seq     : Nat := 0
  rate    : Nat := 3
  nLap    : Nat := 8
  toSafe  : Bool := false
  deriving DecidableEq, Repr

/-- A firmware update (R596 to R598). left lists the Drovers still to restart, the one in hand first. -/
structure Update where
  state  : Nat := 0
  status : Nat := 0
  left   : List Nat := []
  deriving DecidableEq, Repr

/-- Mode, start-up, the boot chain and what the always-on island keeps. -/
structure ModeSt where
  mode  : Mode := .noMode
  /-- The transition that waits for its lap edge with its cause, and the first lap that it may take effect at (R579). -/
  next  : Option (Mode × Nat) := none
  dueLap : Nat := 0
  cause : Nat := 0
  /-- The instant of the warm reset that a FATAL record in SAFE starts, in ticks plus one (R616). -/
  fatalDue : Nat := 0
  /-- The life-cycle state held in fuses (Table 16.9), an entry to RETURN or END whose erase has not ended. -/
  life : Nat := 0
  erasing : Bool := false
  up   : StartUp := {}
  boot : BootRec := {}
  /-- The slot that runs. -/
  slot : Nat := 0
  /-- Packages that updates have written, by slot; a slot not listed holds what it was shipped with. -/
  packages : Tbl Bytes := []
  /-- Roll-call words by station, complemented (R584). -/
  words : Tbl (BitVec 32) := []
  warm : Nat := 0
  /-- Module time of gPTP time 0, and the module times of the warm resets that R590 counts, in ticks. -/
  clock : Int := 0
  warmAt : List Int := []
  guardTrip : Bool := false
  /-- The instant at which the module has been in PERFORM or MAINTAIN for 60 s, in ticks plus one (R590). -/
  guardDue : Nat := 0
  roles : List Nat := [0x11, 0x02, 0x04, 0x28]
  upd  : Update := {}
  /-- The rollback counter, in fuses (R595). -/
  rollback : Nat := 0
  token : Option Bytes := none
  nonce : BitVec 32 := 0
  /-- Levels at VIN, PWR_EN and RESET_N; rails tells that the islands' rails are up. -/
  vin   : Bool := false
  pwrEn : Bool := false
  resetN : Bool := true
  rails : Bool := false
  holdUp : Bool := false
  /-- A thermal trip; cooled tells that its end waits for PWR_EN. -/
  trip  : Bool := false
  cooled : Bool := false
  /-- FAULT_N; none: high-impedance (R603). -/
  faultN : Option Bool := none
  /-- Entry to STANDBY: 0 none, 1 waits for the streaming service, 2 in progress, 3 waits for a hitless activation (R599). -/
  entering : Nat := 0
  /-- Its cause. -/
  standbyCause : Nat := 0
  /-- Persistent objects and load at an entry to STANDBY with retention (R602). -/
  kept  : Option (Tbl Bytes × Load) := none
  /-- STANDBY was entered with retention on (Table 16.12): the control island's "ret" fields are kept. -/
  retained : Bool := false
  alarm : Nat := 0
  alarmOn : Bool := false
  lastStart : Nat := 0
  deriving DecidableEq, Repr

/-- Supply and temperature as last measured (Table 18.5). -/
structure Supply where
  vin  : Nat := 0
  case_ : Int := 0
  junction : Int := 0
  power : Nat := 0
  vout : Nat := 2
  /-- The warning thresholds as STANDBY was entered. -/
  hot  : Int := 1200
  low  : Nat := 11000
  deriving DecidableEq, Repr

/-- Availability (R633, R634). -/
structure Avail where
  service  : Nat := 0
  impaired : Nat := 0
  outage   : Nat := 0
  offLaps  : Nat := 0
  /-- A stream frame was replaced by zero, or a sample because of a buffer error, in the lap whose block is emitted. -/
  mark     : Bool := false
  /-- Convoy slots whose block of the lap in progress carries a substitution. -/
  taint    : List Nat := []
  /-- Service laps still left out after entry to PERFORM. -/
  skip     : Nat := 0
  /-- The module time at which an outage began, and T_lap then, in ticks. -/
  began    : Option (Int × Nat) := none
  /-- The copy in the archive. -/
  saved    : Nat × Nat × Nat × Nat := (0, 0, 0, 0)
  deriving DecidableEq, Repr

/-- Self-test and repair (R622 to R632). Per cluster: the slice that runs plus one, its runs, and the spare rows mapped in
it. -/
structure TestSt where
  slice   : Tbl Nat := []
  runs    : Tbl Nat := []
  rep     : Tbl Nat := []
  /-- The clusters whose slice a micro-fault has cut, rising (R278). -/
  cut     : List Nat := []
  results : Tbl (BitVec 32) := []
  last    : Bytes := List.replicate 24 0
  passes  : Nat := 0
  /-- The cluster whose turn it is, and the one that a pass has taken, plus one. -/
  turn    : Nat := 0
  pass    : Nat := 0
  /-- Spare rows taken by array, keyed 256 x cluster + array; repair fuses used by cluster. -/
  rows    : Tbl Nat := []
  fuses   : Tbl Nat := []
  /-- Full self-test: state, items to come, results. -/
  full    : Nat := 0
  items   : List Nat := []
  item    : Tbl Nat := []
  /-- Low-level store objects: page data, result and corrected bits. -/
  page    : Bytes := []
  result  : Nat := 0
  bits    : Nat := 0
  deriving DecidableEq, Repr

end Sys2Proof.Machine
end

