-- ==== Sys2Proof/Machine/StOut.lean ====
section
/-! DEFINITION. The model's own record of what has left the module: messages, frames and bytes, oldest first. -/

namespace Sys2Proof.Machine

/-- The frames that the module sends on the network (chapter 14). -/
inductive FrameKind where
  | sync | followUp | announce | pdelayReq | pdelayResp | pdelayRespFollowUp
  | msrpTalker | msrpListener | mvrp | aaf | crf | maapProbe | maapAnnounce | maapDefend
  | adpAvailable | adpDeparting | arp | icmpEcho | dhcp
  deriving DecidableEq, Repr

/-- The answers to 1722.1 commands that the manual names (R531, R532). -/
inductive AvStatus where
  | success | notImplemented | notAuthorized | notSupported | stateUnavailable | noResources | badArguments | noSuchDescriptor
  deriving DecidableEq, Repr

/-- Something that has left the module. -/
inductive Emission where
  /-- A BCP message of port B on the network or on USB. -/
  | bcp (m : Bytes)
  /-- Bytes that a QSPI read command drove (0: port A, 1: port B). -/
  | qspi (port : Nat) (m : Bytes)
  /-- An Ethernet frame by kind, port and the fields that the manual gives it. -/
  | frame (port : Nat) (kind : FrameKind) (fields : List Nat)
  /-- The answer to a 1722.1 command: ACMP or AEM, the command by its place in Table 14.9, status and fields. -/
  | avdecc (port : Nat) (acmp : Bool) (code : Nat) (status : AvStatus) (fields : List Nat)
  /-- A byte that began to leave the DIN output. -/
  | din (b : Byte)
  /-- An isochronous USB transaction: the endpoint's payload. -/
  | usb (m : Bytes)
  deriving DecidableEq, Repr

end Sys2Proof.Machine
end

