-- ==== Sys2Proof/Machine/StStore.lean ====
section
/-! DEFINITION. The state of the sample store (chapter 10). -/

namespace Sys2Proof.Machine

/-- A sample object: its state (Table 10.7), its record (Table 10.6) and its data. -/
structure SObj where
  state  : Nat := 0
  record : Bytes := []
  data   : Bytes := []
  /-- Byte offset of the coding frame that holds frame H (R358). -/
  headOff : Nat := 0
  deriving DecidableEq, Repr

/-- An import session (R384). -/
structure Session where
  state  : Nat := 0
  record : Bytes := []
  data   : Bytes := []
  status : Nat := 0
  deriving DecidableEq, Repr

/-- A keymap's load state (R361). -/
structure Keymap where
  state  : Nat := 0
  words  : Nat := 0
  status : Nat := 0
  /-- Loaded before a change of house rate: LOADED again once its heads are resident (R361). -/
  reload : Bool := false
  deriving DecidableEq, Repr

/-- A stream ring (R366 to R371). -/
structure Ring where
  pool   : Nat := 0
  grants : Nat := 0
  state  : Nat := 0
  object : Nat := 0
  /-- Global context that streams it. -/
  ctx    : Nat := 0
  /-- Play indices that advance words have consumed, as the memory station counts them. -/
  cursor : Nat := 0
  /-- Play indices consumed as the store engine has been told. -/
  consumed : Nat := 0
  /-- Play indices written to the ring so far, head included. -/
  written : Nat := 0
  loopClose : Nat := 0xFFFFFFFF
  /-- LEAVE waits for the next report, and has been reported. -/
  leave  : Bool := false
  left   : Bool := false
  /-- Page reads issued and not complete; reads that belong to a former stream. -/
  reads  : Nat := 0
  stale  : Nat := 0
  /-- Play indices whose frames were replaced by zero. -/
  zeros  : List (Nat × Nat) := []
  subst  : Nat := 0
  /-- Its voice has ended: it fills until it is full (Table 10.13). -/
  orphan : Bool := false
  deriving DecidableEq, Repr

/-- A page read of the store engine: the ring that it fills and the planes that it reads, each 4 x die + plane: one, or for a rebuild the
seven others of the stripe (R351, R352). -/
structure PlaneRead where
  ring   : Nat
  planes : List Nat
  deriving DecidableEq, Repr

/-- A block of a plane (R378 to R380). -/
structure Block where
  pe     : Nat := 0
  reads  : Nat := 0
  soft   : Nat := 0
  retired : Bool := false
  moving : Bool := false
  deriving DecidableEq, Repr

/-- A superblock with its retention dose, in units of 10^-9 day at 40 degrees (R381). -/
structure Superblock where
  written : Bool := false
  dose   : Nat := 0
  moving : Bool := false
  deriving DecidableEq, Repr

/-- The sample store. -/
structure Store where
  objects  : Tbl SObj := []
  sessions : Tbl Session := []
  keymaps  : Tbl Keymap := []
  rings    : Tbl Ring := []
  blocks   : Tbl Block := []
  supers   : Tbl Superblock := []
  /-- Spare blocks taken, keyed 4 x die + plane (R379). -/
  taken    : Tbl Nat := []
  /-- Pages reached by low-level actions, keyed by page address (R632). -/
  flash    : Tbl Bytes := []
  mounted  : Bool := false
  /-- The dies of each plane group that are busy with a program, an erase or a relocation (R350). -/
  busy     : Tbl (BitVec 8) := []
  /-- Page reads in the planes' queues, in the order in which they were sent, and those that wait in the engine (R352). -/
  queued   : List PlaneRead := []
  waiting  : List PlaneRead := []
  /-- Streaming service state (R387) and the instant at which a drain ends, in ticks plus one. -/
  service  : Nat := 0
  drainEnd : Nat := 0
  prep     : Nat := 0
  /-- Heads being populated (R358). -/
  populating : Bool := false
  prefixWords : Nat := 0
  uncorr   : Nat := 0
  rebuilt  : Nat := 0
  clamped  : Nat := 0
  substituted : Nat := 0
  relocated : Nat := 0
  deriving DecidableEq, Repr

end Sys2Proof.Machine
end

