-- ==== Sys2Proof/Machine/State.lean ====
section
/-! DEFINITION. The state of the module: plain data, every register, memory, queue and pin that the manual names. -/

namespace Sys2Proof.Machine

/-- Why the machine stops with a fault. No command of this module does: every path of every meaning answers a next
state or refuses by name. Safe. -/
inductive Fault where
  /-- Reserved for an access outside every memory the manual names; no meaning raises it. Safe. -/
  | noSuchAddress
  deriving DecidableEq, Repr

/-- Why a command has no meaning. -/
inductive Refusal where
  /-- Raised by exec alone, for a command whose meaning is not written. Safe. -/
  | notModelled (mnemonic : String)
  deriving DecidableEq, Repr

structure State where
  /-- Commands waiting, first in, first out. -/
  pending : List Instr := []
  /-- The model's own counter of free values used. -/
  free    : Nat := 0
  /-- The model's own: the value that the last register read returned. -/
  result  : Nat := 0
  /-- gPTP time in ticks of 1/225,792 ns. -/
  now     : Nat := 0
  grid    : Grid := {}
  ctxs    : Tbl Ctx := []
  held    : List HeldWrite := []
  starter : Starter := {}
  adm     : Admission := {}
  relay   : Relay := {}
  man     : Manifests := {}
  cores   : Tbl SigCore := []
  csm     : Tbl (BitVec 24) := []
  /-- CSM words that read with a double-bit error (Table 17.1, id 3). -/
  csmUpset : Tbl Bool := []
  dram    : Tbl Byte := []
  evc     : Evc := {}
  log     : ErrLog := {}
  clus    : Tbl ClusterSt := []
  dict    : Dict := {}
  modes   : ModeSt := {}
  supply  : Supply := {}
  avail   : Avail := {}
  test    : TestSt := {}
  store   : Store := {}
  /-- DRAM words of 8 bytes that read with an error left after the retries (R609), by address / 8. -/
  dramUpset : Tbl Bool := []
  drv     : Tbl Drover := []
  /-- Control RAM, by offset, and its words of 4 bytes that read with a double-bit error. -/
  cram    : Tbl Byte := []
  cramUpset : Tbl Bool := []
  apps    : Apps := {}
  net     : Net := {}
  audio   : Audio := {}
  /-- Counters of Table 2.12 and of OD 3030: core overruns, laps with an overrun, micro-faults, corrected microwords. -/
  overruns : Tbl Nat := []
  overLaps : Nat := 0
  microFaults : Nat := 0
  corrMicro : Nat := 0
  /-- The model's own: what has left the module, oldest first. -/
  sent    : List Emission := []
  deriving DecidableEq, Repr

/-- Sources whose TRIG resets to level (Tables 12.3 and 12.4): a cluster's service and return, and the supply warnings. -/
def levelSources : List Nat := (List.range 8).flatMap (fun c => [16 * c + 12, 16 * c + 13]) ++ [339, 340]

/-- The event concentrator at reset: doorbells of Drover d reach d (R460). -/
def Evc.start : Evc :=
  { src := levelSources.map (fun n => (n, { trig := false })) ++
           (List.range 48).map (fun i => (400 + i, { tgt := BitVec.ofNat 4 (2 ^ (1 + i / 16)) })) }

/-- The module at reset: no supply, no mode, every register at its reset value. -/
def State.reset : State :=
  { evc := Evc.start
    drv := [(0, { run := .unreleased }), (1, { run := .unreleased }), (2, { run := .unreleased }), (3, { run := .unreleased })] }

end Sys2Proof.Machine
end

