-- ==== Sys2Proof/Machine/Ops.lean ====
section
/-! DEFINITION. The named operations over the state that the meanings share: free values, the lap grid, contexts, cores,
EVC sources and error records. -/

namespace Sys2Proof.Machine

/-! ### Free values -/

/-- A free number, and the state with the counter advanced. -/
def takeFree (s : State) : Nat × State := (Config.freeNat s.free, { s with free := s.free + 1 })

/-! ### Time and the lap grid (R33, R37, R40) -/

/-- Ticks in one ns. -/
def tickNs : Nat := 225792

/-- Sample rates of Table 2.1, in Hz. -/
def rateHz : Nat → Nat
  | 0 => 44100 | 1 => 48000 | 2 => 88200 | 3 => 96000 | 4 => 176400 | _ => 192000

/-- The sample period of a rate code, in ticks: exact. -/
def sampleTicks : Nat → Nat
  | 0 => 5120000000 | 1 => 4704000000 | 2 => 2560000000 | 3 => 2352000000 | 4 => 1280000000 | _ => 1176000000

/-- One audio-island cycle in ticks (R16): 98.304 MHz or 90.3168 MHz. -/
def audioCycle (rate : Nat) : Nat := if rate % 2 = 0 then 2500000 else 2296875

def nsTicks (ns : Nat) : Nat := ns * tickNs

/-- gPTP time in whole ns (R37). -/
def nsOf (t : Nat) : Nat := t / tickNs

def Grid.lapTicks (g : Grid) : Nat := g.nLap * sampleTicks g.rate

/-- The instant of sample k of lap l (R37). -/
def Grid.tau (g : Grid) (l k : Nat) : Nat := (g.epoch + (((l - g.epochLap) * g.nLap + k) * sampleTicks g.rate : Nat)).toNat

/-- The lap that contains an instant (R40). -/
def Grid.lapOf (g : Grid) (t : Nat) : Nat := g.epochLap + ((t : Int) - g.epoch).toNat / g.lapTicks

/-- Whole Relay and cluster cycles of a lap (R44, R300). -/
def Grid.tCyc (g : Grid) : Nat := g.lapTicks / tickNs

/-- Time never goes back: advance to an instant. -/
def advance (t : Nat) (s : State) : State := { s with now := max s.now t }

/-! ### Cores and contexts -/

def coreOf (s : State) (k : Nat) : SigCore := Tbl.get {} s.cores k

def setCore (s : State) (k : Nat) (c : SigCore) : State := { s with cores := Tbl.put {} s.cores k c }

def updCore (s : State) (k : Nat) (f : SigCore → SigCore) : State := setCore s k (f (coreOf s k))

def ctxOf (s : State) (n : Nat) : Ctx := Tbl.get {} s.ctxs n

def setCtx (s : State) (n : Nat) (c : Ctx) : State := { s with ctxs := Tbl.put {} s.ctxs n c }

def updCtx (s : State) (n : Nat) (f : Ctx → Ctx) : State := setCtx s n (f (ctxOf s n))

def clusterOf (s : State) (c : Nat) : ClusterSt := Tbl.get {} s.clus c

def setCluster (s : State) (c : Nat) (x : ClusterSt) : State := { s with clus := Tbl.put {} s.clus c x }

/-- The convoy slot that holds a context: 16 x cluster + slot (R68). -/
def slotOfCtx (n : Nat) : Nat := n / 128

/-- An association list's value at a key. -/
def lookupNat {α : Type} : List (Nat × α) → Nat → Option α
  | [], _ => none
  | (j, v) :: t, k => if j = k then some v else lookupNat t k

/-- An association list with the value at a key set or removed, keys rising. -/
def assocSet {α : Type} : List (Nat × α) → Nat → Option α → List (Nat × α)
  | [], k, v => match v with | some x => [(k, x)] | none => []
  | (j, w) :: t, k, v =>
    if k < j then (match v with | some x => (k, x) :: (j, w) :: t | none => (j, w) :: t)
    else if k = j then (match v with | some x => (k, x) :: t | none => t)
    else (j, w) :: assocSet t k v

/-! ### The event concentrator (R455 to R458) -/

/-- Sources that exist (R452 to R454, R460). -/
def evcExists (n : Nat) : Bool :=
  if n = 0 then false
  else if n ≤ 127 then decide ((n - 1) % 16 ≤ 12)
  else if n ≤ 159 then decide (n ≤ 144)
  else if n ≤ 191 then decide (n ≤ 167)
  else if n ≤ 223 then decide (n ≤ 197 ∨ 200 ≤ n ∧ n ≤ 215)
  else if n ≤ 255 then decide (n ≤ 231)
  else if n ≤ 287 then decide (n ≤ 285)
  else if n ≤ 319 then decide (n ≤ 296)
  else if n ≤ 383 then decide (n ≤ 340)
  else decide (n ≤ 511)

/-- Sources that can fire while the control island sleeps (Table 12.3). -/
def evcAsleepSource (n : Nat) : Bool := n == 295 || n == 296 || n == 339 || n == 340

def evcSrc (e : Evc) (n : Nat) : EvcSrc := Tbl.get {} e.src n

def evcPut (e : Evc) (n : Nat) (x : EvcSrc) : Evc := { e with src := Tbl.put {} e.src n x }

/-- A firing: PEND is set and COUNT rises, stopping at 15 (R456). -/
def EvcSrc.fire (x : EvcSrc) : EvcSrc := { x with pend := true, count := min 15 (x.count + 1) }

/-- A level source fires in each cycle in which its input is high while ACT = 0 and PEND = 0 (R456). -/
def EvcSrc.settle (x : EvcSrc) : EvcSrc := if !x.trig && x.inp && !x.act && !x.pend then x.fire else x

/-- A source that can fire now. -/
def evcLive (e : Evc) (n : Nat) : Bool := evcExists n && (!e.asleep || evcAsleepSource n)

/-- An event on a source's input that lasts one cycle (R456). -/
def evcPulse (n : Nat) (e : Evc) : Evc :=
  if evcLive e n then
    let x := evcSrc e n
    evcPut e n (if x.trig then x.fire else if !x.act && !x.pend then x.fire else x)
  else e

/-- The live level of a source's input changes (R456). -/
def evcLevel (n : Nat) (high : Bool) (e : Evc) : Evc :=
  if evcExists n then
    let x := evcSrc e n
    let y := { x with inp := high }
    let edge := x.trig && (if 200 ≤ n ∧ n ≤ 215 then high != x.inp else high && !x.inp)
    let y := if evcLive e n then (if edge then y.fire else y).settle else y
    evcPut e n y
  else e

/-- Fire a source of the EVC. -/
def fire (n : Nat) (s : State) : State := { s with evc := evcPulse n s.evc }

/-- Set the level of a source's input. -/
def level (n : Nat) (high : Bool) (s : State) : State := { s with evc := evcLevel n high s.evc }

/-! ### Error records (R610 to R617) -/

/-- The slot of the ring a SEQ goes to is taken by a record not yet archived (R613). -/
def ringTaken (l : ErrLog) (seq : Nat) : Bool := l.ring.any (fun r => r.seq % 256 == seq % 256)

def nextSeq (n : Nat) : Nat := if n ≥ 0xFFFFFFFF then 1 else n + 1

def nextEpisode (n : Nat) : Nat := if n ≥ 65535 then 1 else n + 1

/-- Join or open an episode for a CONTAINED or FATAL record (R615). -/
def joinEpisode (now : Nat) (cluster : Nat) (l : ErrLog) : ErrLog :=
  match l.ep with
  | some e => { l with ep := some { e with last := now, seen := if cluster < 8 ∧ cluster ∉ e.seen then e.seen ++ [cluster] else e.seen } }
  | none =>
    let n := nextEpisode l.lastEp
    { l with lastEp := n, episodes := sat32 l.episodes,
             ep := some { num := n, start := now, last := now, seen := if cluster < 8 then [cluster] else [] } }

/-- Write a record into the ring, or drop it; the second component tells that it was dropped (R612, R613, R615). -/
def writeRecord (now lap source cls code cluster unit : Nat) (detail : Bytes) (l : ErrLog) : ErrLog × Bool :=
  let l1 := if cls = 0 then l else joinEpisode now cluster l
  let epNum := if cls = 0 then 0 else (match l1.ep with | some e => e.num | none => 0)
  let seq := nextSeq l1.newest
  if ringTaken l1 seq then ({ l1 with newest := seq, dropped := sat32 l1.dropped }, true)
  else
    let follow (r : Record) : Record :=
      if cls ≠ 0 ∧ r.cls ≠ 0 ∧ r.episode = epNum then { r with follow := min 65535 (r.follow + 1) } else r
    ({ l1 with newest := seq,
               ring := l1.ring.map follow ++ [⟨seq, source, cls, code, cluster, unit, epNum, 0, lap, nsOf now, detail⟩] }, false)

/-- An action that the open episode waits for (R615). -/
def episodePending (l : ErrLog) : ErrLog :=
  match l.ep with
  | some e => { l with ep := some { e with pendingAct := true } }
  | none => l

/-- Quarantine of a cluster under test or repair: it goes out with no contexts (Table 17.6); the third is its last
(R617). -/
def quarantineCount (x : ClusterSt) : ClusterSt :=
  { x with quars := x.quars + 1, state := if x.quars + 1 ≥ 3 then 6 else 4 }

/-- A slice that is stopped reports INCOMPLETE, and its signature is not compared (R623, R624). -/
def sliceStop (c : Nat) (s : State) : State :=
  match Tbl.get 0 s.test.slice c with
  | 0 => s
  | i + 1 =>
    { s with test := { s.test with
        slice := Tbl.put 0 s.test.slice c 0, runs := Tbl.put 0 s.test.runs c 0, rep := Tbl.put 0 s.test.rep c 0,
        cut := s.test.cut.filter (· != c),
        results := Tbl.put 0 s.test.results (24 * c + i)
          (BitVec.ofNat 32 (3 * 2 ^ 30 + (if Tbl.get 0 s.test.rep c = 0 then 0 else 2 ^ 26) + Tbl.get 0 s.test.runs c * 2 ^ 24)) } }

/-- A slice that runs on a cluster will not pass: a micro-fault cut it, and it reports INCOMPLETE (R278). -/
def sliceCut (c : Nat) (s : State) : State :=
  if Tbl.get 0 s.test.slice c = 0 then s else { s with test := { s.test with cut := insertNat c s.test.cut } }

/-- The test pass on a cluster ends. -/
def passEnds (c : Nat) (s : State) : State := if s.test.pass = c + 1 then { s with test := { s.test with pass := 0 } } else s

/-- A FATAL record stops every slice: a pass ends and its cluster returns, and a repair leaves its cluster quarantined
(Table 17.14). -/
def stopSlices (s : State) : State :=
  (List.range 8).foldl (fun s c =>
    if Tbl.get 0 s.test.slice c = 0 then s
    else
      let s1 := passEnds c (sliceStop c s)
      let x := clusterOf s1 c
      setCluster s1 c { x with state := if x.state = 2 then 3 else if x.state = 5 then 4 else x.state }) s

/-- What a record brings about (Table 17.6). seen tells that the episode already held a CONTAINED record of the
cluster. -/
def escalate (cls cluster : Nat) (seen : Bool) (s : State) : State :=
  if cls = 1 then
    let x := clusterOf s cluster
    if cluster < 8 && seen then
      if x.state = 0 ∨ x.state = 1 ∨ x.state = 3 then
        { setCluster s cluster { x with quarDue := true } with log := episodePending s.log }
      else if x.state = 2 ∨ x.state = 5 then
        let y := { quarantineCount x with repairDue := decide (x.state = 2 ∧ x.quars + 1 < 3) }
        level (16 * cluster + 12) true (passEnds cluster (sliceStop cluster (setCluster s cluster y)))
      else s
    else s
  else if cls = 2 then
    let s := stopSlices s
    match s.modes.mode with
    | .perform => { s with modes := { s.modes with next := some (.safe, 6), dueLap := 0 }, log := episodePending s.log }
    | .maintain => { s with modes := { s.modes with next := some (.safe, 6), dueLap := 0 }, log := episodePending s.log }
    | .safe => if s.modes.fatalDue = 0 then { s with modes := { s.modes with fatalDue := s.now + nsTicks 20000000 + 1 } } else s
    | _ => s
  else s

/-- The error collector writes one record and acts on it; the record's own source and sources 332 to 334 fire. -/
def logRecord (source cls code cluster unit : Nat) (detail : Bytes) (s : State) : State :=
  let seen := match s.log.ep with | some e => decide (cluster ∈ e.seen) | none => false
  let r := writeRecord s.now s.grid.lap source cls code cluster unit detail s.log
  let s1 := { s with log := r.1 }
  let s2 := if r.2 then fire 334 s1 else s1
  let s3 := if source = 0 then s2 else fire source s2
  let s4 := if cls = 1 then fire 332 s3 else if cls = 2 then fire 333 s3 else s3
  escalate cls cluster seen s4

/-- Corrected single-bit errors under a memory id: counted, the cluster's source fires, and at most one record a second
for each id and cluster or island (R611). place numbers the cluster or island. -/
def logCorrectedAt (id place cluster n : Nat) (s : State) : State :=
  let key := 256 * id + place
  let src := if cluster < 8 then 16 * cluster + 6 else 0
  let l := { s.log with corrected := Tbl.upd 0 s.log.corrected id (fun c => min 0xFFFFFFFF (c + n)),
                        corrSince := Tbl.upd 0 s.log.corrSince key (· + n) }
  let s1 := { s with log := l }
  let due := match Tbl.get none l.corrAt key with | some t => decide ((s.now : Int) ≥ t + nsTicks 1000000000) | none => true
  if due then
    let since := Tbl.get 0 l.corrSince key
    logRecord src 0 1 cluster 255 (leBytes 1 id ++ leBytes 4 since ++ [0, 0, 0])
      { s1 with log := { l with corrAt := Tbl.put none l.corrAt key (some (s.now : Int)), corrSince := Tbl.put 0 l.corrSince key 0 } }
  else if src = 0 then s1 else fire src s1

def logCorrected (id cluster n : Nat) (s : State) : State := logCorrectedAt id cluster cluster n s

/-! ### DRAM and control RAM words that cannot be corrected (R609) -/

/-- A byte of a range lies in a DRAM word that cannot be corrected. -/
def dramBad (s : State) (a n : Nat) : Bool := (List.range n).any (fun i => Tbl.get false s.dramUpset ((a + i) / 8))

/-- A write of DRAM. -/
def dramWrite (a : Nat) (bs : Bytes) (s : State) : State :=
  { s with dram := Tbl.putAll 0 s.dram a bs,
           dramUpset := (List.range bs.length).foldl (fun t i => Tbl.put false t ((a + i) / 8) false) s.dramUpset }

/-- The record of a control RAM word that cannot be corrected (Table 17.4). -/
def cramRecord (a : Nat) (s : State) : State :=
  logRecord 336 2 0x0F 0xFF 0xFF (leBytes 4 a ++ [0, 0, 0, 0]) s

/-- The record of a DRAM read that cannot be corrected, by the region in which it falls (Tables 10.5, 17.2). -/
def dramRecord (a : Nat) (s : State) : State :=
  let fatal := Config.dramVital a
  logRecord 335 (if fatal then 2 else 1) (if fatal then 0x0E else 0x0D) 0xFF 0xFF (leBytes 8 a) s

/-! ### Poisoning (R74, R103) -/

/-- The note table without a context. -/
def unlinkNote (n : Nat) (s : State) : State :=
  { s with starter := { s.starter with notes := s.starter.notes.filter (fun l => l.ctx != n) } }

/-- Held parameter writes of a context are discarded (R81). -/
def dropHeld (n : Nat) (s : State) : State := { s with held := s.held.filter (fun h => h.ctx != n) }

/-- A context leaves the mask of its convoy, and what the delay lines hold of the lap in progress (R66, R90). -/
def Mixers.without (lap n : Nat) (m : Mixers) : Mixers :=
  { m with masks := Tbl.upd [] m.masks (n / 128) (fun es => es.filter (fun e => e != n % 128)),
           edges := m.edges.map (fun b => if b.src = n / 128 ∧ b.lap = lap then { b with elems := b.elems.filter (fun e => e != n % 128) } else b) }

/-- A start record of a context that is poisoned before its start phase: the routine does not run (R76). -/
def killStart (n : Nat) (rs : List StartRec) : List StartRec := rs.map (fun r => if r.ctx = n then { r with dead := true } else r)

/-- The start records of a context that is poisoned, in the Caravanserai's queue and in the core's. -/
def killStarts (n : Nat) (s : State) : State :=
  { s with starter := { s.starter with copies := s.starter.copies.map (fun e => (e.1, killStart n e.2)) },
           cores := s.cores.map (fun e => (e.1, { e.2 with starts := killStart n e.2.starts })) }

/-- A context in ARMED, RUNNING, RELEASING or MIGRATING becomes POISONED at once (Table 3.4). -/
def poison (n : Nat) (s : State) : State :=
  let c := ctxOf s n
  match c.hdr.state with
  | .free => s
  | .poisoned => s
  | _ =>
    let s1 := dropHeld n (unlinkNote n (setCtx s n { c with hdr := { c.hdr with state := .poisoned }, poisonLap := s.grid.lap, upset := none }))
    killStarts n { s1 with
      avail := { s1.avail with taint := insertNat (n / 128) s1.avail.taint },
      audio := { s1.audio with mix := s1.audio.mix.without s.grid.lap n } }

/-- Poison a list of contexts. -/
def poisonAll (ns : List Nat) (s : State) : State := ns.foldl (fun s n => poison n s) s

/-- The contexts of a convoy slot. -/
def slotCtxs (s : State) (slot : Nat) : List Nat :=
  match lookupNat s.adm.load.slots slot with
  | some x => (List.range x.n).map (fun e => 128 * slot + e)
  | none => []

end Sys2Proof.Machine
end

