-- ==== Sys2Proof/Machine/AppCore.lean ====
section
/-! DEFINITION. The message queues of Drover applications (R451). -/

namespace Sys2Proof.Machine

def appOf (s : State) (a : Nat) : App := Tbl.get {} s.apps.tbl a

def setApp (s : State) (a : Nat) (x : App) : State := { s with apps := { s.apps with tbl := Tbl.put {} s.apps.tbl a x } }

def updApp (s : State) (a : Nat) (f : App → App) : State := setApp s a (f (appOf s a))

/-- The codes of Table 13.9. -/
def Status.code : Status → Nat
  | .ok => 0 | .noObject => 1 | .noSubindex => 2 | .access => 3 | .type => 4 | .range => 5 | .semNotHeld => 6 | .busy => 7
  | .full => 8 | .refused => 9 | .conflict => 10 | .late => 11 | .state => 12 | .auth => 13 | .crc => 14 | .compare => 15

/-- A call returns. -/
def appRet (a : Nat) (st : Status) (out : List Nat) (s : State) : State :=
  if (appOf s a).state = 2 then updApp s a (fun x => { x with regs := st.code :: out }) else s

/-- A message enters a queue: a value replaces that of its subscription, an event adds its count to that of its source,
at most 15. -/
def appAdd (m : AppMsg) (q : List AppMsg) : List AppMsg :=
  match m with
  | .value id _ =>
    if q.any (fun o => match o with | .value j _ => j == id | _ => false) then
      q.map (fun o => match o with | .value j b => if j = id then m else .value j b | o => o)
    else q ++ [m]
  | .event n c =>
    if q.any (fun o => match o with | .event k _ => k == n | _ => false) then
      q.map (fun o => match o with | .event k e => if k = n then .event k (min 15 (e + c)) else .event k e | o => o)
    else q ++ [m]
  | .result _ _ => q ++ [m]

def appSend (a : Nat) (m : AppMsg) (s : State) : State := updApp s a (fun x => { x with queue := appAdd m x.queue })

/-- A manifest result goes to the application that holds the handle. -/
def appResult (h : Nat) (body : Bytes) (s : State) : State :=
  match Tbl.get 0 s.apps.handles h with
  | 0 => s
  | a + 1 => { appSend a (.result h body) s with apps := { (appSend a (.result h body) s).apps with handles := Tbl.put 0 s.apps.handles h 0 } }

/-- A source that an application has bound is claimed: its event goes to that application's queue (R451). -/
def boundClaim (w : Nat) (s : State) : State :=
  match s.apps.bound.find? (fun b => b.1 == w % 1024) with
  | some b => appSend b.2 (.event b.1 (w / 65536)) s
  | none => s

/-- The bytes of a queued message: KIND, then the body of Table 13.10, or the source and its count. -/
def AppMsg.bytes : AppMsg → Bytes
  | .value _ b => 0 :: b
  | .result _ b => 1 :: b
  | .event n c => [2] ++ leBytes 2 n ++ leBytes 1 c

end Sys2Proof.Machine
end

