-- ==== Sys2Proof/Machine/Micro.lean ====
section
/-! DEFINITION. The microword engine (chapter 7): fetch from the control store, the checks of a word, its sequencing, its waits, its
micro-registers and its datapath, word by word on a core's own state. -/

namespace Sys2Proof.Machine

def mwf (w : BitVec 144) (hi lo : Nat) : Nat := fld w.toNat hi lo

/-! ### The control store -/

/-- What stands at a control store address (R244, R246, R271): patch tells a word of patch RAM, fixed a word whose single-bit error
the fetch corrects. -/
inductive MicroFetch where
  | unmapped
  | bad
  | word (w : BitVec 144) (patch fixed : Bool)
  deriving DecidableEq, Repr

/-- A word with the upset bits it holds: one is corrected at the fetch, two cannot be (R246). -/
def fetched (w : BitVec 144) (patch : Bool) (upset : Nat) : MicroFetch :=
  if upset ≥ 2 then .bad else .word w patch (upset == 1)

def patchFetch (l : Lvu) (off : Nat) : MicroFetch := fetched (Tbl.get 0 l.patch off) true (Tbl.get 0 l.patchUpset off)

/-- The offset that the lowest matching PMATCH register redirects an address to (R271). -/
def patchMatch (l : Lvu) (t : Nat) : Option Nat :=
  if !l.pen then none
  else
    (List.range 32).findSome? (fun i =>
      let m := (Tbl.get 0 l.pmatch i).toNat
      if fld m 31 31 = 1 ∧ fld m 12 0 = t then some (fld m 24 16) else none)

/-- Fetch (R244, R271). DEDUCED (log 21): every address below 0x1800 that a word sequences to is compared. -/
def microFetch (l : Lvu) (t : Nat) : MicroFetch :=
  if t ≥ 0x1A00 then .unmapped
  else if t ≥ 0x1800 then patchFetch l (t - 0x1800)
  else match patchMatch l t with
    | some off => patchFetch l off
    | none => fetched (Config.romWord (BitVec.ofNat 13 t)) false (Tbl.get 0 l.romUpset t)

/-- No patch word and no ROM word with an error can be met: every routine is the one in ROM, and its effect is that of chapter 6. -/
def Lvu.plainRom (l : Lvu) : Bool :=
  l.romUpset.isEmpty && (!l.pen || (List.range 32).all (fun i => !(Tbl.get 0 l.pmatch i).getLsbD 31))

/-! ### Checks and sequencing -/

/-- A reserved value in a datapath field, or a field that is not enabled and not 0 (Table 7.9). -/
def datapathBad (w : BitVec 144) : Bool :=
  let port (hi : Nat) : Bool :=
    if mwf w hi hi = 0 then mwf w (hi - 1) (hi - 7) != 0 else mwf w (hi - 4) (hi - 5) == 3 || mwf w (hi - 6) (hi - 7) == 3
  let role (r : Nat) : Bool := decide (r ≥ 14)
  port 91 || port 83 || role (mwf w 75 72) || role (mwf w 71 68) || role (mwf w 67 64) ||
  (mwf w 67 64 == 0 && mwf w 63 62 != 0) || decide (mwf w 61 58 ≥ 12) || (mwf w 61 58 == 0 && mwf w 57 54 != 0) ||
  mwf w 57 56 == 3 || decide (mwf w 52 48 ≥ 24) || decide (mwf w 47 45 ≥ 6) || (mwf w 44 43 == 0 && mwf w 42 37 != 0) ||
  mwf w 9 8 == 3

/-- The lowest micro-fault that a fetched word raises, with its code (Table 7.18). streak counts the words before it
without TOK (trap mode) or SAFE (polling). -/
def wordFault (poll : Bool) (m : Micro) (w : BitVec 144) : Option (Nat × Nat) :=
  let seq := mwf w 135 132
  let ecnt := mwf w 95 92
  let lop := mwf w 26 24
  let group := mwf w 131 128
  if mwf w 6 0 ≠ 0 then some (3, 0)
  else if seq ≥ 11 ∨ seq = 4 ∧ ¬ m.mrv then some (4, 0)
  else if mwf w 108 104 ≥ 7 ∨ mwf w 108 104 = 0 ∧ mwf w 103 98 ≠ 0 then some (5, 0)
  else if ecnt ≥ 6 ∨ mwf w 36 33 ≥ 8 ∨ lop ≥ 5 ∨ seq = 6 ∧ (ecnt < 2 ∨ ecnt > 4) ∨ seq = 5 ∧ lop ≠ 0 then some (6, 0)
  else if (seq = 1 ∨ seq = 2 ∨ mwf w 125 122 ≠ 0) ∧ group ≥ 8 then some (7, 0)
  else if datapathBad w then some (8, 0)
  else if !poll ∧ mwf w 96 96 = 0 ∧ m.streak ≥ 7 then some (9, 0)
  else if poll ∧ m.streak ≥ 64 then some (10, 0)
  else if seq = 10 then some (12, mwf w 23 16)
  else none

/-- The condition vector of a group (Table 7.4); pend tells a micro-trap request that is pending. -/
def condVector (l : Lvu) (o : LvuOp) (m : Micro) (pend : Bool) (group : Nat) : Nat :=
  let n := o.vle
  let ec := m.ec.toNat
  match group with
  | 0 => 1
  | 1 => dispatchNibble o.vop.toNat o.opd.toNat
  | 2 => b2n (n = 0) 8 + b2n (decide (ec + 1 ≥ n)) 4 + b2n (decide (ec + 4 ≥ n)) 2 + b2n (decide (ec + 16 ≥ n)) 1
  | 3 => b2n (Tbl.get 0 m.mlc 3 == 0) 8 + b2n (Tbl.get 0 m.mlc 2 == 0) 4 + b2n (Tbl.get 0 m.mlc 1 == 0) 2 + b2n (Tbl.get 0 m.mlc 0 == 0) 1
  | 4 => b2n (o.mode.getLsbD 3) 8 + b2n (o.mode.getLsbD 2) 4 + b2n (o.mode.getLsbD 1) 2 + b2n (o.mode.getLsbD 0) 1
  | 5 => b2n o.fast 8 + b2n o.tclamp 4 + o.vg.toNat
  | 6 => b2n (m.hit.map (fun h => h.1) == some 0) 8 + b2n m.ue 4 + b2n m.rng 2 + b2n m.tmo 1
  | 7 => b2n l.poll 4 + b2n pend 2 + b2n l.stopRq 1
  | _ => 0

/-- The target of R250. -/
def microTarget (l : Lvu) (o : LvuOp) (m : Micro) (pend : Bool) (w : BitVec 144) : Nat :=
  let next := mwf w 121 109
  let cv := condVector l o m pend (mwf w 131 128)
  next / 16 * 16 + Nat.lor (next % 16) (Nat.land cv (mwf w 125 122))

/-- The micro-registers after a word (R257, R258); scal is the scalar result that SCAL selects. -/
def microRegs (o : LvuOp) (m : Micro) (w : BitVec 144) (scal : BitVec 24) : Micro :=
  let ec := match mwf w 95 92 with
    | 1 => 0
    | 2 => m.ec + 16
    | 3 => m.ec + 4
    | 4 => m.ec + 1
    | 5 => (Tbl.get 0 m.mq 0).setWidth 11
    | _ => m.ec
  let d := mwf w 32 31
  let src := Tbl.get 0 m.mq (mwf w 30 29)
  let c := mwf w 23 16
  let mq := match mwf w 36 33 with
    | 1 => Tbl.put 0 m.mq d (BitVec.ofNat 24 c)
    | 2 => Tbl.put 0 m.mq d (Tbl.get 0 m.mq d + (BitVec.ofNat 8 c).signExtend 24)
    | 3 => Tbl.put 0 m.mq d o.d
    | 4 => Tbl.put 0 m.mq d (o.p.setWidth 24)
    | 5 => Tbl.put 0 m.mq d src
    | 6 => Tbl.put 0 m.mq d (Tbl.get 0 m.mq d + src)
    | 7 => Tbl.put 0 m.mq d scal
    | _ => m.mq
  let k := mwf w 28 27
  let n := o.vle
  let mlc := match mwf w 26 24 with
    | 1 => Tbl.put 0 m.mlc k (BitVec.ofNat 12 c)
    | 2 => Tbl.put 0 m.mlc k (src.setWidth 12)
    | 3 => Tbl.put 0 m.mlc k (BitVec.ofNat 12 (max 1 ((n + 15) / 16) - 1))
    | 4 => Tbl.put 0 m.mlc k (BitVec.ofNat 12 (n - 1))
    | _ => m.mlc
  { m with ec := ec, mq := mq, mlc := mlc }

/-- How a word ends a routine. -/
inductive MicroEnd where
  | running
  | done
  | efault
  | trunc
  | fault (cause code upc : Nat)
  | trapped
  | stopped
  deriving DecidableEq, Repr

/-- Where a word sequences to (Table 7.3); m is the state as the word began, m1 with its other writes. -/
def microNext (l : Lvu) (o : LvuOp) (m m1 : Micro) (pend : Bool) (w : BitVec 144) : MicroEnd × Micro :=
  let t := BitVec.ofNat 13 (microTarget l o m pend w)
  let seq := m.upc + 1
  let bit := condVector l o m pend (mwf w 131 128) / 2 ^ mwf w 127 126 % 2 = 1
  let ecnt := mwf w 95 92
  let last := condVector l o m pend 2 / (if ecnt = 2 then 1 else if ecnt = 3 then 2 else 4) % 2 = 1
  let kk := mwf w 28 27
  match mwf w 135 132 with
  | 0 => (.running, { m1 with upc := t })
  | 1 => (.running, { m1 with upc := if bit then t else seq })
  | 2 => (.running, { m1 with upc := if bit then seq else t })
  | 3 => (.running, { m1 with upc := t, mrtn := seq, mrv := true })
  | 4 => (.running, { m1 with upc := m.mrtn, mrv := false })
  | 5 =>
    let v := Tbl.get 0 m.mlc kk
    (.running, if v = 0 then { m1 with upc := seq } else { m1 with upc := t, mlc := Tbl.put 0 m1.mlc kk (v - 1) })
  | 6 => (.running, { m1 with upc := if last then seq else t })
  | 7 => (.done, m1)
  | 8 => (.efault, m1)
  | _ => (.trunc, m1)

/-! ### Waits -/

/-- The cycles until the condition of a word's WAITC holds (Table 7.6). BISTR and DRV come from outside: free. -/
def waitTime (m : Micro) (free c : Nat) : Nat :=
  match c with
  | 1 => (m.pipe.foldl (fun a p => match p.dst with | .data _ => a | _ => max a p.due) 0) - m.cyc
  | 2 => m.readAt - m.cyc
  | 3 => m.spillAt - m.cyc
  | 5 => 8
  | _ => Config.freeNat free

/-- Hold a word (R254): the cycles pass and TO is written; a word that does not wait leaves it. -/
def holdWord (w : BitVec 144) (s : LvuRun) (m : Micro) : LvuRun × Micro :=
  let c := mwf w 108 104
  if c = 0 then (s, m)
  else
    let n := waitTime m s.free c
    let lim := mwf w 103 98
    ({ s with free := if c = 4 ∨ c = 6 then s.free + 1 else s.free }, { m with cyc := m.cyc + min n lim, tmo := decide (n > lim) })

/-! ### The datapath (R259). What Table 7.9 leaves to the words' names is DEDUCED (log 112). -/

/-- A write lands (R249). Accumulations add to what stands there then; flags are set as by R216. -/
def landWrite (o : LvuOp) (p : MicroWrite) (r : LvuRun × Micro) : LvuRun × Micro :=
  let s := r.1
  let m := r.2
  match p.dst with
  | .v => let s1 := s.setV 0 p.key (w24 p.val); (if p.sat then s1.flag p.elem 4 else s1, m)
  | .va => (s.accum o (p.key / 128) (p.key % 128) p.elem ((if p.add then (s.va 0 p.key).toInt else 0) + p.val), m)
  | .part q => (s.setVa 0 p.key (accSetPart (s.va 0 p.key) q (w24 p.val)), m)
  | .temp => (s, { m with temps := Tbl.put 0 m.temps p.key (w56 ((if p.add then (Tbl.get 0 m.temps p.key).toInt else 0) + p.val)) })
  | .data y => (s, if y then { m with yd := Tbl.put 0 m.yd p.key (w24 p.val) } else { m with xd := Tbl.put 0 m.xd p.key (w24 p.val) })

/-- The writes that are due by a cycle land, in the order they were started. -/
def landMicro (o : LvuOp) (c : Nat) (s : LvuRun) (m : Micro) : LvuRun × Micro :=
  (m.pipe.filter (fun p => decide (p.due ≤ c))).foldl (fun r p => landWrite o p r)
    (s, { m with pipe := m.pipe.filter (fun p => !decide (p.due ≤ c)) })

/-- The array drains: every write lands. -/
def drainMicro (o : LvuOp) (s : LvuRun) (m : Micro) : LvuRun × Micro :=
  m.pipe.foldl (fun r p => landWrite o p r) (s, { m with pipe := [] })

/-- The VA register that the operand field of an instruction names (Tables 6.7, 6.8, 6.10). -/
def LvuOp.vaField (o : LvuOp) : Nat :=
  match o.vop.toNat with
  | 1 => o.f 18 17
  | 2 => o.f 18 17
  | 14 => o.f 17 16
  | 33 => o.f 9 8
  | 34 => o.f 5 4
  | _ => o.f 21 20

/-- The key of element e of the V register of a role 1 to 8 (Table 7.9). -/
def roleKey (o : LvuOp) (m : Micro) (role e : Nat) : Nat :=
  let f := match (role - 1) % 4 with | 0 => o.f 21 18 | 1 => o.f 17 14 | 2 => o.f 13 10 | _ => o.f 9 6
  (128 * ((f + (if role ≥ 5 then (Tbl.get 0 m.mq 3).toNat % 16 else 0)) % 16) + e) % 2048

def vaKey (o : LvuOp) (e : Nat) : Nat := (128 * o.vaField + e) % 512

/-- What a read port yields, as a 56-bit number with a word at [47:24]; i is the place of element e in the block. -/
def portVal (o : LvuOp) (s : LvuRun) (m : Micro) (role e i : Nat) : Int :=
  if role = 0 then 0
  else if role ≤ 8 then placeHigh (s.v 0 (roleKey o m role e))
  else if role = 9 then (s.va 0 (vaKey o e)).toInt
  else (Tbl.get 0 m.temps (16 * (role - 10) + i % 16)).toInt

/-- The word at [47:24] of a 56-bit number. -/
def highWord (t : Int) : BitVec 24 := w24 (t / 16777216)

/-- The elements of a block: from EC, as many as the width of the memory access, below VLe. -/
def blockLanes (o : LvuOp) (m : Micro) (w : BitVec 144) : List (Nat × Nat) :=
  let width := if mwf w 91 91 = 1 then mwf w 87 86 else if mwf w 83 83 = 1 then mwf w 79 78 else 0
  let n := match width with | 1 => 4 | 2 => 1 | _ => 16
  ((List.range n).map (fun i => (i, m.ec.toNat + i))).filter (fun p => decide (p.2 < o.vle))

/-- The index of element e: from a read port or MQ1, without its fraction bits where the instruction has them (R223, R225). -/
def indexOf (o : LvuOp) (s : LvuRun) (m : Micro) (w : BitVec 144) (i e : Nat) : Nat :=
  let x := match mwf w 9 8 with
    | 0 => (highWord (portVal o s m (mwf w 75 72) e i)).toNat
    | 1 => (highWord (portVal o s m (mwf w 71 68) e i)).toNat
    | _ => (Tbl.get 0 m.mq 1).toNat
  if o.vop = 4 ∨ o.vop = 5 ∨ o.vop = 39 then x / 2 ^ (o.f 13 9) else x

/-- An index is out of range (R224, R225). -/
def indexOut (o : LvuOp) (i : Nat) : Bool := if o.vop = 5 then decide (i + 1 ≥ o.vtlen.toNat) else decide (i ≥ o.vtlen.toNat)

/-- The address of an index: in the table, or in the delay line of the element. -/
def indexAddr (o : LvuOp) (i e : Nat) : Nat :=
  let ls := o.vtlen.toNat
  if o.vop = 39 then o.p.toNat + (((o.d.toNat % 65536) % ls + 2 * ls - i % (2 * ls)) % ls) * o.vle + e else o.vtb.toNat + i

/-- Where a port's access to element e falls: the address it has and the place, none where R219 lets it reach nothing. f is the
port's field. -/
def microPlace (o : LvuOp) (s : LvuRun) (m : Micro) (w : BitVec 144) (f i e : Nat) : Nat × Option (Bool × Nat) :=
  let bank : BitVec 8 := match fld f 1 0 with | 0 => 0 | 1 => 254 | _ => o.bank
  let at_ (a : Nat) : Nat × Option (Bool × Nat) := (a, unitAddr { o with bank := bank, p := 0 } a)
  match fld f 5 4 with
  | 0 => at_ (o.p.toNat + e)
  | 1 => at_ ((Tbl.get 0 m.mq 2).toNat + e)
  | 2 =>
    let x := indexOf o s m w i e
    if indexOut o x then (if o.tclamp then at_ (indexAddr o (o.vtlen.toNat - 1) e) else (indexAddr o x e, none))
    else at_ (indexAddr o x e)
  | _ => let a := 4096 + Config.freeNat s.free % 4080 + i; (a, some (true, a))

/-- The double-bit error of a word that a port reads. -/
def placeBad (s : LvuRun) (yport : Bool) (p : Bool × Nat) : Bool :=
  if p.1 then Tbl.get false s.upset (0x40000 + p.2) else s.bad yport p.2

def placeWord (s : LvuRun) (yport : Bool) (p : Bool × Nat) : BitVec 24 :=
  if p.1 then Tbl.get 0 s.l.spill p.2 else s.mem yport p.2

/-- The lowest element of a block that a port's access flags, its address, and whether its read is uncorrectable (R219, R221). -/
def portHit (o : LvuOp) (s : LvuRun) (m : Micro) (w : BitVec 144) (yport : Bool) (f : Nat) (lanes : List (Nat × Nat)) : Option (Nat × Nat × Bool) :=
  if f < 128 then none
  else lanes.findSome? (fun p =>
    let q := microPlace o s m w f p.1 p.2
    match q.2 with
    | none => some (p.2, q.1, false)
    | some a => if fld f 6 6 = 0 ∧ placeBad s yport a then some (p.2, q.1, true) else none)

/-- The lower of two flagged elements. -/
def lowerHit (a b : Option (Nat × Nat × Bool)) : Option (Nat × Nat × Bool) :=
  match a, b with
  | some x, some y => if y.1 < x.1 then some y else some x
  | some x, none => some x
  | none, y => y

/-- The words that a port reads for the elements of a block. An index into a table of length 0 reads 0 (R224). -/
def portRead (o : LvuOp) (s : LvuRun) (m : Micro) (w : BitVec 144) (yport : Bool) (f : Nat) (lanes : List (Nat × Nat)) : List (Nat × BitVec 24) :=
  if f < 128 ∨ fld f 6 6 = 1 then []
  else lanes.map (fun p =>
    (p.1, if fld f 5 4 = 2 ∧ o.vtlen = 0 then 0
      else match (microPlace o s m w f p.1 p.2).2 with | some a => placeWord s yport a | none => 0))

/-- The result shifter. -/
def shiftResult (w : BitVec 144) (t : Int) : Int :=
  if mwf w 53 53 = 0 then t * 2 ^ mwf w 52 48 else t / 2 ^ mwf w 52 48

/-- The word that RND/SAT makes of a result, and whether SAT is set (R144, R181). -/
def roundResult (o : LvuOp) (w : BitVec 144) (t : Int) : BitVec 24 × Bool :=
  let satm := o.mode.getLsbD 0
  match mwf w 47 45 with
  | 1 => ((transferInt true false t).1, false)
  | 2 => ((transferInt false false t).1, false)
  | 3 => transferInt true satm t
  | 4 => transferInt false satm t
  | 5 => ((transferInt false true t).1, false)
  | _ => (highWord t, false)

/-- What one element of a block makes: input A, the result of the array, and the product that an accumulation adds. -/
structure LaneOut where
  i   : Nat
  e   : Nat
  a   : Int
  r   : Int
  acc : Option Int
  deriving DecidableEq, Repr

/-- One element through the multiply-add array (Table 7.9, R215). xs and ys are the words read by this word. -/
def laneOut (o : LvuOp) (s : LvuRun) (m : Micro) (w : BitVec 144) (xs ys : List (Nat × BitVec 24)) (i e : Nat) : LaneOut :=
  let data (y : Bool) : Int :=
    placeHigh (match (if y then ys else xs).lookup i with | some v => v | none => Tbl.get 0 (if y then m.yd else m.xd) i)
  let input (k : Nat) : Int :=
    match k with | 0 => portVal o s m (mwf w 75 72) e i | 1 => portVal o s m (mwf w 71 68) e i | 2 => data false | _ => data true
  let scalar : BitVec 24 := if mwf w 42 41 = 3 then o.d else Tbl.get 0 m.mq (mwf w 42 41)
  let a := input (mwf w 15 14)
  let b := if mwf w 44 43 = 1 then placeHigh scalar else input (mwf w 13 12)
  let bw := highWord b
  let prod := mulProduct o.intmul (highWord a).toInt (if mwf w 57 56 = 1 then (bw.toNat : Int) else bw.toInt)
  let src := mwf w 11 10
  let addend : Int := match src with
    | 0 => (s.va 0 (vaKey o e)).toInt
    | 1 => (Tbl.get 0 m.temps (i % 16)).toInt
    | 2 => 0
    | _ => data (mwf w 91 91 == 0 && mwf w 83 83 == 1)
  let own := mwf w 55 54 = 1 ∧ src = 0 ∨ mwf w 55 54 = 2 ∧ src = 1
  match mwf w 61 58 with
  | 0 => ⟨i, e, a, a, none⟩
  | 1 => ⟨i, e, a, prod, none⟩
  | 2 => ⟨i, e, a, addend + prod, if own then some prod else none⟩
  | 3 => ⟨i, e, a, addend - prod, if own then some (-prod) else none⟩
  | 4 => ⟨i, e, a, a + b, none⟩
  | 5 => ⟨i, e, a, a - b, none⟩
  | 6 => ⟨i, e, a, min a b, none⟩
  | 7 => ⟨i, e, a, max a b, none⟩
  | 8 => ⟨i, e, a, (a.natAbs : Int), none⟩
  | 9 => ⟨i, e, a, -a, none⟩
  | _ => ⟨i, e, a, (w56 (Config.freeNat (s.free + 1 + e) : Nat)).toInt, none⟩

/-- The part of an accumulator that VWR names. -/
def vwrPart (k : Nat) : Part := match k with | 1 => .l | 2 => .h | _ => .g

/-- The writes that an element starts: the accumulate target, then VWR. With a target, VWR passes input A on. -/
def laneWrites (o : LvuOp) (m : Micro) (w : BitVec 144) (q : LaneOut) : List MicroWrite :=
  let due := m.cyc + 3
  let target := mwf w 55 54
  let role := mwf w 67 64
  let part := mwf w 63 62
  let acc := match q.acc with | some p => p | none => q.r
  let tgt : List MicroWrite :=
    if target = 1 then [{ due := due, key := vaKey o q.e, elem := q.e, dst := .va, val := acc, add := q.acc.isSome }]
    else if target = 2 then
      [{ due := due, key := (if 10 ≤ role then 16 * (role - 10) else 0) + q.i % 16, elem := q.e, dst := .temp, val := acc, add := q.acc.isSome }]
    else []
  let t := shiftResult w (if target = 0 then q.r else q.a)
  let x := roundResult o w t
  let vwr : List MicroWrite :=
    if role = 0 then []
    else if role ≤ 8 then [{ due := due, key := roleKey o m role q.e, elem := q.e, dst := .v, val := x.1.toInt, sat := x.2 }]
    else if role = 9 then
      if target = 1 then []
      else if part = 0 then [{ due := due, key := vaKey o q.e, elem := q.e, dst := .va, val := t }]
      else [{ due := due, key := vaKey o q.e, elem := q.e, dst := .part (vwrPart part), val := x.1.toInt }]
    else if target = 2 then []
    else [{ due := due, key := 16 * (role - 10) + q.i % 16, elem := q.e, dst := .temp, val := t }]
  tgt ++ vwr

/-- A store of one element through a port. -/
def placePut (s : LvuRun) (yport : Bool) (p : Bool × Nat) (x : BitVec 24) : LvuRun :=
  if p.1 then { s with l := { s.l with spill := Tbl.put 0 s.l.spill p.2 x }, upset := Tbl.put false s.upset (0x40000 + p.2) false }
  else if yport then { s with y := Tbl.put 0 s.y p.2 x, upset := Tbl.put false s.upset (0x10000 + p.2) false }
  else { s with x := Tbl.put 0 s.x p.2 x, upset := Tbl.put false s.upset p.2 false }

/-- The stores of a block through a port, in ascending order. -/
def portStore (o : LvuOp) (m : Micro) (w : BitVec 144) (yport : Bool) (f : Nat) (outs : List LaneOut) (s0 s : LvuRun) : LvuRun :=
  if f < 128 ∨ fld f 6 6 = 0 then s
  else outs.foldl (fun s q =>
    match (microPlace o s0 m w f q.i q.e).2 with
    | some p => placePut s yport p (roundResult o w (shiftResult w q.r)).1
    | none => s) s

/-- The scalar result that SCAL selects: an element of the block, or the sum of the results; free where it selects none. -/
def scalarResult (o : LvuOp) (w : BitVec 144) (free : Nat) (outs : List LaneOut) : BitVec 24 :=
  match mwf w 44 43 with
  | 2 => match outs.find? (fun q => q.i == mwf w 40 37) with | some q => highWord q.a | none => BitVec.ofNat 24 (Config.freeNat free)
  | 3 => (roundResult o w (shiftResult w (outs.foldl (fun a q => a + q.r) 0))).1
  | _ => BitVec.ofNat 24 (Config.freeNat free)

/-- A word acts on the datapath and the micro-registers. An element at or above one that the memory unit flags does nothing (R221). -/
def microAct (o : LvuOp) (w : BitVec 144) (s : LvuRun) (m : Micro) : LvuRun × Micro :=
  let fx := mwf w 91 84
  let fy := mwf w 83 76
  let memory := fx ≥ 128 ∨ fy ≥ 128
  let index := fx ≥ 128 ∧ fld fx 5 4 = 2 ∨ fy ≥ 128 ∧ fld fy 5 4 = 2
  let all := blockLanes o m w
  let hit := lowerHit (portHit o s m w false fx all) (portHit o s m w true fy all)
  let lanes := match hit with | some h => all.filter (fun p => decide (p.2 < h.1)) | none => all
  let late (f : Nat) : Bool := fld f 5 4 == 2
  let rx := portRead o s m w false fx lanes
  let ry := portRead o s m w true fy lanes
  let xs := if late fx then [] else rx
  let ys := if late fy then [] else ry
  let outs := lanes.map (fun p => laneOut o s m w xs ys p.1 p.2)
  let s1 := portStore o m w true fy outs s (portStore o m w false fx outs s s)
  let reads (y : Bool) (due : Nat) (r : List (Nat × BitVec 24)) : List MicroWrite :=
    r.map (fun p => { due := due, key := p.1, elem := 0, dst := .data y, val := p.2.toInt })
  let spilled := fx ≥ 192 ∧ (fld fx 5 4 = 3 ∨ fld fx 1 0 = 1) ∨ fy ≥ 192 ∧ (fld fy 5 4 = 3 ∨ fld fy 1 0 = 1)
  let m1 := microRegs o m w (scalarResult o w s.free outs)
  ({ s1 with free := s.free + 2049 },
   { m1 with
     pipe := m.pipe ++ outs.flatMap (laneWrites o m w) ++ reads false (if late fx then m.cyc + 2 else m.cyc + 1) rx ++
       reads true (if late fy then m.cyc + 2 else m.cyc + 1) ry
     readAt := if index then m.cyc + 2 else m.readAt
     spillAt := if spilled then m.cyc + 1 else m.spillAt
     hit := if memory then hit.map (fun h => (h.1, h.2.1)) else m.hit
     ue := if memory then (match hit with | some h => h.2.2 | none => false) else m.ue
     rng := if index then all.any (fun p => indexOut o (indexOf o s m w p.1 p.2)) else m.rng })

/-! ### A routine -/

/-- Run words from UPC on. trap counts the words before a micro-trap request is pending (R260); in polling mode a stop that is
pending is taken at the end of a SAFE word (R266). walk is set once a word of patch RAM, or one with an error, is met. -/
def microRun (o : LvuOp) (trap : Option Nat) : Nat → LvuRun → Micro → MicroEnd × LvuRun × Micro
  | 0, s, m => (.running, s, m)
  | n + 1, s0, m0 =>
    let l := s0.l
    let left := trap.map (fun t => t - (m0.words))
    let pend := !l.poll && left == some 0
    match microFetch l m0.upc.toNat with
    | .unmapped => (.fault 1 0 m0.upc.toNat, s0, { m0 with walk := true })
    | .bad => (.fault 2 0 m0.upc.toNat, s0, { m0 with walk := true })
    | .word w patch fixed =>
      let s1 := if fixed then { s0 with corr := s0.corr + 1 } else s0
      let mw := { m0 with walk := m0.walk || patch || fixed }
      match wordFault l.poll mw w with
      | some (c, code) => (.fault c code m0.upc.toNat, s1, mw)
      | none =>
        if pend && mwf w 96 96 == 1 && !m0.resumed then (.trapped, s1, mw)
        else
          let h := holdWord w s1 mw
          let b := landMicro o h.2.cyc h.1 h.2
          let a := microAct o w b.1 b.2
          let mark := if l.poll then mwf w 97 97 == 1 else mwf w 96 96 == 1
          let m1 := { a.2 with streak := if mark then 0 else m0.streak + 1, cyc := a.2.cyc + 1, words := m0.words + 1, resumed := false }
          let e := microNext l o b.2 m1 pend w
          match e.1 with
          | .running =>
            if l.poll && l.stopRq && mwf w 97 97 == 1 then (.stopped, a.1, e.2) else microRun o trap n a.1 e.2
          | x => (x, a.1, { e.2 with ec := b.2.ec, hit := b.2.hit, ue := b.2.ue })

/-- A routine to its end, or for 4,096 words. -/
def microWords : Nat := 4096

/-- A routine is not the one in ROM: it runs through patch RAM, or through a word with an error (R271); a resumed one goes on as it
was begun (log 21). -/
def microMode (o : LvuOp) (s : LvuRun) (m : Micro) : Bool :=
  m.walk || (!m.resumed && !s.l.plainRom && (microRun o none microWords s m).2.2.walk)

/-! ### The routines in ROM -/

/-- The elements of a block of a ROM routine: the step in which the elements of an instruction complete together; 0 where an instruction
has no elements of its own. -/
def romBlock (o : LvuOp) : Nat :=
  match o.vop.toNat with
  | 4 => 4
  | 5 => 4
  | 39 => 4
  | 35 => 1
  | 24 => 0
  | 25 => 0
  | 26 => 0
  | 38 => 0
  | _ => 16

/-- One element of an instruction that works by elements. -/
def lvuElement (o : LvuOp) : LvuRun → Nat → LvuRun :=
  match o.vop.toNat with
  | 1 => lvuUnit o false
  | 2 => lvuUnit o true
  | 3 => lvuUnit o false
  | 4 => lvuTable o false
  | 5 => lvuTable o true
  | 32 => lvuFir o
  | 33 => lvuBiq o
  | 34 => lvuSvf o
  | 35 => lvuIntp o
  | 36 => lvuOsc o
  | 37 => lvuEnv o
  | 39 => lvuDelay o
  | 40 => lvuFft o
  | 41 => lvuCmul o
  | _ => lvuElem o

/-- Elements a to b - 1 of an instruction. -/
def lvuSpan (o : LvuOp) (a b : Nat) (s : LvuRun) : LvuRun :=
  ((List.range b).drop a).foldl (fun s e => if s.fault.isSome || s.trunc then s else lvuElement o s e) s

/-- The rest of an instruction from element a on. -/
def lvuRest (o : LvuOp) (a : Nat) (s : LvuRun) : LvuRun := if a = 0 then lvuOperate o s else lvuSpan o a o.vle s

end Sys2Proof.Machine
end

