-- ==== Sys2Proof/Machine/Packing.lean ====
section
/-! DEFINITION. The sample packing format (R389 to R395): CRCs, the coding-frame header and its decoder. -/

namespace Sys2Proof.Machine

/-- One step of a most significant bit first CRC of width w over one byte. -/
def crcByte (w poly : Nat) (c : Nat) (b : Byte) : Nat :=
  (List.range 8).foldl (fun c i =>
    let bit := if b.getLsbD (7 - i) then 1 else 0
    let top := c / 2 ^ (w - 1)
    let sh := (c * 2) % 2 ^ w
    if (top + bit) % 2 = 1 then Nat.xor sh poly else sh) c

/-- CRC-8 of a coding-frame header (Table 10.16). -/
def crc8 (bs : Bytes) : Nat := bs.foldl (crcByte 8 0x07) 0

/-- CRC-16 of R272 from a starting value. -/
def crc16 (c : Nat) (bs : Bytes) : Nat := bs.foldl (crcByte 16 0x1021) c

/-- One byte of the reflected CRC-32C (R484). -/
def crc32cByte (c : Nat) (b : Byte) : Nat :=
  (List.range 8).foldl (fun c _ => if c % 2 = 1 then Nat.xor (c / 2) 0x82F63B78 else c / 2) (Nat.xor c b.toNat)

/-- CRC-32C (R484). -/
def crc32c (bs : Bytes) : Nat := Nat.xor (bs.foldl crc32cByte 0xFFFFFFFF) 0xFFFFFFFF

/-- The bits of a byte, most significant first. -/
def byteBits (b : Byte) : List Bool := (List.range 8).map (fun i => b.getLsbD (7 - i))

def bitsOf (bs : Bytes) : List Bool := bs.flatMap byteBits

/-- Read n bits as an unsigned number; none past the end. -/
def takeBits : Nat → List Bool → Option (Nat × List Bool)
  | 0, bs => some (0, bs)
  | _ + 1, [] => none
  | n + 1, b :: bs =>
    match takeBits n bs with
    | some (v, r) => some ((if b then 2 ^ n else 0) + v, r)
    | none => none

/-- A w-bit field as a two's-complement number. -/
def signedOf (w v : Nat) : Int := if 2 * v ≥ 2 ^ w then (v : Int) - 2 ^ w else v

def takeSigned (w : Nat) (bs : List Bool) : Option (Int × List Bool) :=
  match takeBits w bs with
  | some (v, r) => some (signedOf w v, r)
  | none => none

/-- Zero bits before the next 1 bit, at most 32; the 1 bit is read (R393). -/
def takeUnary : Nat → List Bool → Option (Nat × List Bool)
  | _, [] => none
  | n, true :: bs => some (n, bs)
  | n, false :: bs => if n ≥ 32 then none else takeUnary (n + 1) bs

/-- One residual with parameter K (R393). -/
def takeResidual (w k : Nat) (bs : List Bool) : Option (Int × List Bool) :=
  if k = 31 then takeSigned (w + 4) bs
  else
    match takeUnary 0 bs with
    | none => none
    | some (q, r) =>
      match (if q = 32 then takeBits (w + 4) r else takeBits k r) with
      | none => none
      | some (v, r2) =>
        let u := if q = 32 then v else q * 2 ^ k + v
        some (if u % 2 = 0 then (u / 2 : Nat) else -(((u + 1) / 2 : Nat) : Int), r2)

/-- The prediction of Table 10.17 from the samples so far, newest first. -/
def predict (m : Nat) (xs : List Int) : Int :=
  let x (i : Nat) := xs.getD i 0
  match m with
  | 0 => 0
  | 1 => x 0
  | 2 => 2 * x 0 - x 1
  | 3 => 3 * x 0 - 3 * x 1 + x 2
  | _ => 4 * x 0 - 6 * x 1 + 4 * x 2 - x 3

/-- A sample lies in the w-bit signed range (R394). -/
def inWord (w : Nat) (x : Int) : Bool := decide (-(2 ^ (w - 1)) ≤ x ∧ x ≤ 2 ^ (w - 1) - 1)

/-- Read n signed samples of w bits, newest first onto a list. -/
def takeRaw (w : Nat) : Nat → List Int → List Bool → Option (List Int × List Bool)
  | 0, xs, bs => some (xs, bs)
  | n + 1, xs, bs =>
    match takeSigned w bs with
    | some (v, r) => takeRaw w n (v :: xs) r
    | none => none

/-- Decode the residuals of samples t … of a block; k is the K in force (R393, R394). -/
def takeResiduals (w m : Nat) : Nat → Nat → Nat → List Int → List Bool → Option (List Int × List Bool)
  | 0, _, _, xs, bs => some (xs, bs)
  | n + 1, t, k, xs, bs =>
    match (if t % 128 = 0 ∨ t = m then takeBits 5 bs else some (k, bs)) with
    | none => none
    | some (k1, r) =>
      match takeResidual w k1 r with
      | none => none
      | some (e, r2) =>
        let x := predict m xs + e
        if inWord w x then takeResiduals w m n (t + 1) k1 (x :: xs) r2 else none

/-- One channel block of n samples, in ascending order (R392). -/
def takeChannel (w n : Nat) (bs : List Bool) : Option (List Int × List Bool) :=
  match takeBits 3 bs with
  | none => none
  | some (m, r) =>
    if m = 5 then
      match takeSigned w r with
      | some (v, r2) => some (List.replicate n v, r2)
      | none => none
    else if m ≥ 6 then none
    else
      match takeRaw w (min m n) [] r with
      | none => none
      | some (xs, r2) =>
        match takeResiduals w m (n - min m n) m 0 xs r2 with
        | some (ys, r3) => some (ys.reverse, r3)
        | none => none

/-- Drop bits to a byte boundary: the stream holds whole bytes to its end. -/
def alignBits (bs : List Bool) : List Bool := bs.drop (bs.length % 8)

/-- Channel blocks one after another (R392). -/
def takeChannels (w n : Nat) : Nat → List Bool → Option (List (List Int) × List Bool)
  | 0, bs => some ([], bs)
  | c + 1, bs =>
    match takeChannel w n bs with
    | none => none
    | some (xs, r) =>
      match takeChannels w n c (alignBits r) with
      | some (ys, r2) => some (xs :: ys, r2)
      | none => none

/-- Bits of a word size code (Table 10.6). -/
def wordBits (ws : Nat) : Nat := if ws = 0 then 16 else if ws = 1 then 20 else 24

/-- A decoded coding frame: its length in bytes, its frame count and one sample list per channel, as 24-bit words. -/
structure Coding where
  len : Nat
  n   : Nat
  xs  : List (List (BitVec 24))
  deriving DecidableEq, Repr

/-- Decode the coding frame at the head of a byte string; none if it is invalid (R395). -/
def decodeCoding (channels : Nat) (bs : Bytes) : Option Coding :=
  let h := leNat (bs.take 8)
  let len := fld h 47 32
  let ws := fld h 31 30
  let cm1 := fld h 29 27
  let n := fld h 25 16 + 1
  let w := wordBits ws
  let c := cm1 + 1
  let escLen := 8 + (n * c * w + 7) / 8
  if bs.length < 8 ∨ fld h 15 0 ≠ 0x5D31 ∨ fld h 55 48 ≠ 0 ∨ ws = 3 ∨ c ≠ channels ∨ len < 8 ∨ bs.length < len
      ∨ fld h 63 56 ≠ crc8 (bs.take 7) then none
  else
    let bits := bitsOf ((bs.take len).drop 8)
    let word (x : Int) : BitVec 24 := BitVec.ofInt 24 (x * 2 ^ (24 - w))
    if fld h 26 26 = 1 then
      if len ≠ escLen then none
      else
        match takeRaw w (n * c) [] bits with
        | none => none
        | some (xs, _) =>
          let all := xs.reverse
          some ⟨len, n, (List.range c).map (fun ch => (List.range n).map (fun t => word (all.getD (t * c + ch) 0)))⟩
    else if len > escLen then none
    else
      match takeChannels w n c bits with
      | none => none
      | some (xs, r) => if r = [] then some ⟨len, n, xs.map (fun l => l.map word)⟩ else none

/-- Every coding frame of an object's data, or none if one is invalid or one but the last holds fewer than 1,024 frames
(R389). -/
def decodeAll (channels : Nat) : Nat → Bytes → Option (List Coding)
  | 0, bs => if bs = [] then some [] else none
  | fuel + 1, bs =>
    if bs = [] then some []
    else
      match decodeCoding channels bs with
      | none => none
      | some f =>
        let rest := bs.drop f.len
        if rest ≠ [] ∧ f.n ≠ 1024 then none
        else
          match decodeAll channels fuel rest with
          | some fs => some (f :: fs)
          | none => none

/-- The byte offset of the coding frame that holds a frame, with the number of that frame within it, by the headers alone (R389, R390). -/
def codingAt : Nat → Bytes → Nat → Nat → Nat × Nat
  | 0, _, j, off => (off, j)
  | fuel + 1, bs, j, off =>
    let h := leNat (bs.take 8)
    let n := fld h 25 16 + 1
    let len := fld h 47 32
    if j < n ∨ len < 8 ∨ bs.length < len then (off, j) else codingAt fuel (bs.drop len) (j - n) (off + len)

/-- Frame number j of object data, one word per channel, none where its coding frame is invalid. Coding frames depend on no other, so
those after an invalid one decode (R395). -/
def objectFrame (channels fuel : Nat) (bs : Bytes) (j : Nat) : Option (List (BitVec 24)) :=
  let p := codingAt fuel bs j 0
  match decodeCoding channels (bs.drop p.1) with
  | none => none
  | some f => if p.2 < f.n then some (f.xs.map (fun l => l.getD p.2 0)) else none

end Sys2Proof.Machine
end

