-- ==== Sys2Proof/Machine/SigMem.lean ====
section
/-! DEFINITION. Memory as a signal core's XMEM and YMEM slots reach it: the bank map (Table 4.5), permits (R125), the
Caravanserai windows (R77, R78), DRAM windows (R127), the LVU page (Table 6.3) and the control registers (Table 4.6). -/

namespace Sys2Proof.Machine

/-- The code of a context state (Table 3.3). -/
def CtxState.code : CtxState → Nat
  | .free => 0 | .armed => 1 | .running => 2 | .releasing => 3 | .poisoned => 4 | .migrating => 5

/-- Header words 0 to 7 (Table 3.2). -/
def Header.word (h : Header) : Nat → BitVec 24
  | 0 => BitVec.ofNat 24 (h.state.code * 2097152 + h.kernel.toNat)
  | 1 => BitVec.ofNat 24 (b2n h.stolen 8388608 + b2n h.relreq 4194304 + b2n h.ended 2097152 + b2n h.sus 1048576 +
      h.relk.toNat * 4096 + h.pool.toNat)
  | 2 => h.loud
  | 3 => BitVec.ofNat 24 (h.gen.toNat * 65536 + b2n h.sv 4096 + h.ring.toNat)
  | 4 => h.age.extractLsb' 24 24
  | 5 => h.age.extractLsb' 0 24
  | 6 => BitVec.ofNat 24 (h.vel.toNat * 256 + h.note.toNat)
  | _ => BitVec.ofNat 24 (h.onset.toNat * 262144 + h.scls.toNat * 16384 + h.chan.toNat * 1024)

/-- Word w (0 to 191) of a context; parameters from the active page (R77). -/
def Ctx.word (c : Ctx) (w : Nat) : BitVec 24 :=
  if w < 8 then c.hdr.word w else if w < 128 then Tbl.get 0 c.st w else Tbl.get 0 c.act (w - 128)

/-- The permit mask bit of a bank (R125, Table 4.6). -/
def permitted (c : SigCore) (bank : Nat) (store : Bool) : Bool :=
  if bank = 0 ∨ bank = 254 then true
  else if bank = 255 then (if store then c.bpm0.getLsbD 22 else true)
  else if bank ≤ 16 then c.bpm0.getLsbD (bank - 1)
  else if bank ≤ 37 then c.bpm0.getLsbD (16 + (bank - 32))
  else if bank ≤ 87 then c.bpm1.getLsbD (bank - 64)
  else if bank ≤ 111 then c.bpm2.getLsbD (bank - 88)
  else c.bpm3.getLsbD (bank - 112)

/-- Offsets of bank 255 that name a register (Table 4.6). -/
def ctrlReg (p : Nat) : Bool :=
  decide (p ≤ 3 ∨ 8 ≤ p ∧ p ≤ 13 ∨ p = 16 ∨ p = 17 ∨ p = 20 ∨ 24 ≤ p ∧ p ≤ 29 ∨ p = 32 ∨ 256 ≤ p ∧ p ≤ 319)

/-- Offsets of bank 254 inside its listed ranges (Table 6.3). -/
def lvuPage (p : Nat) : Bool := decide (p ≤ 6 ∨ p = 8 ∨ 16 ≤ p ∧ p ≤ 23 ∨ 32 ≤ p ∧ p ≤ 47 ∨ 4096 ≤ p ∧ p ≤ 8191)

/-- A window register's fields. -/
def winOn (c : SigCore) (bank : Nat) : Bool := (Tbl.get 0 c.win (bank - 64)).getLsbD 23

def winWrite (c : SigCore) (bank : Nat) : Bool := (Tbl.get 0 c.win (bank - 64)).getLsbD 22

/-- DRAM byte address of word p of a window (R127). -/
def winAddr (c : SigCore) (bank p : Nat) : Nat := (Tbl.get 0 c.win (bank - 64)).toNat % 65536 * 262144 + 4 * p

/-- An access that Table 4.5, R78, R123 or R127 refuses with a bank fault. -/
def bankFault (c : SigCore) (bank p : Nat) (store : Bool) : Bool :=
  if bank ≤ 16 then false
  else if bank < 32 then true
  else if bank ≤ 35 then store && (p % 128 == 0 || decide (3 ≤ p % 128 ∧ p % 128 ≤ 7))
  else if bank ≤ 37 then store
  else if bank < 64 then true
  else if bank ≤ 127 then !winOn c bank || (store && !winWrite c bank)
  else if bank < 254 then true
  else if bank = 254 then !lvuPage p
  else !ctrlReg p

/-- The fault cause of an access, if any: bank before permit (R126), then an uncorrectable read (R161). -/
def memFault (c : SigCore) (yport : Bool) (bank p : Nat) (store : Bool) : Option Nat :=
  if bankFault c bank p store then some 2
  else if !permitted c bank store then some 3
  else if store then none
  else if bank = 0 ∧ Tbl.get false c.upset ((if yport then 65536 else 0) + p) then some 6
  else if bank = 254 ∧ Tbl.get false c.upset (262144 + p) then some 6
  else none

/-- The FCS word (Table 4.15). -/
def fcsWord (c : SigCore) : BitVec 24 :=
  BitVec.ofNat 24 (b2n (c.f.stack != []) 128 + b2n (c.fastOn && c.starts != []) 64 + min 8 c.starts.length * 4 +
    b2n c.mt 2 + b2n c.fastOn 1)

/-- FLCTL and the other words of a latch or frame (Tables 6.3, 7.10). -/
def latchWord (o : LvuOp) (valid : Bool) : Nat → BitVec 24
  | 0 => BitVec.ofNat 24 (b2n valid 8388608 + b2n o.fast 4194304 + o.vop.toNat)
  | 1 => o.opd.setWidth 24
  | 2 => o.bank ++ o.p
  | 3 => o.d
  | 4 => BitVec.ofNat 24 (o.mode.toNat * 256 + o.vg.toNat * 16 + b2n o.tclamp 1)
  | 5 => o.vl.setWidth 24
  | 6 => BitVec.ofNat 24 (b2n o.tport 65536 + o.vtb.toNat)
  | _ => o.vtlen.setWidth 24

/-- A word of the micro-trap frame (Table 7.10). -/
def frameWord (l : Lvu) (i : Nat) : BitVec 24 :=
  let m := l.frameMicro
  match i with
  | 0 => BitVec.ofNat 24 (b2n l.frameValid 8388608 + b2n m.tmo 4194304 + b2n m.mrv 2097152 + m.upc.toNat)
  | 1 => BitVec.ofNat 24 (m.mrtn.toNat * 2048 + m.ec.toNat)
  | 2 => (Tbl.get 0 m.mlc 1) ++ (Tbl.get 0 m.mlc 0)
  | 3 => (Tbl.get 0 m.mlc 3) ++ (Tbl.get 0 m.mlc 2)
  | 8 => latchWord l.frame false 0
  | n => if n < 8 then Tbl.get 0 m.mq (n - 4) else latchWord l.frame false (n - 8)

/-- A read of bank 254 (Table 6.3). -/
def lvuPageRead (l : Lvu) (p : Nat) : BitVec 24 :=
  if p ≥ 4096 then Tbl.get 0 l.spill p
  else if p ≥ 32 then frameWord l (p - 32)
  else if p ≥ 16 then latchWord l.fl l.flValid (p - 16)
  else match p with
  | 0 => l.vl.setWidth 24
  | 1 => l.vg.setWidth 24
  | 2 => BitVec.ofNat 24 (b2n l.tport 65536 + l.vtb.toNat)
  | 3 => l.vtlen.setWidth 24
  | 4 => l.vctl
  | 5 => l.vstat ||| (if l.busy.isSome then 1 else 0)
  | 6 => l.vfe
  | _ => l.vipc

/-- A store to bank 254: RO words are ignored, VSTAT is write-1-to-clear (Tables 6.3, 6.5). -/
def lvuPageWrite (l : Lvu) (p : Nat) (w : BitVec 24) : Lvu :=
  if p ≥ 4096 then { l with spill := Tbl.put 0 l.spill p w }
  else match p with
  | 4 => { l with vctl := w &&& 1 }
  | 5 => { l with vstat := l.vstat &&& ~~~(w &&& 0x1F6) }
  | 17 => { l with fl := { l.fl with opd := w.setWidth 22 } }
  | 18 => { l with fl := { l.fl with bank := w.extractLsb' 16 8, p := w.setWidth 16 } }
  | 19 => { l with fl := { l.fl with d := w } }
  | 20 => { l with fl := { l.fl with mode := w.extractLsb' 8 4, tclamp := w.getLsbD 0 } }
  | 21 => { l with fl := { l.fl with vl := w.setWidth 11 } }
  | 22 => { l with fl := { l.fl with tport := w.getLsbD 16, vtb := w.setWidth 16 } }
  | 23 => { l with fl := { l.fl with vtlen := w.setWidth 16 } }
  | _ => l

/-- A read of bank 255 (Table 4.6) but for LAPCYC. -/
def ctrlRead (s : State) (k : Nat) (c : SigCore) (p : Nat) : BitVec 24 :=
  match p with
  | 0 => BitVec.ofNat 24 k
  | 1 => if c.pmb then 1 else 0
  | 3 => BitVec.ofNat 24 s.grid.lap
  | 8 => c.frec
  | 9 => c.fpc.setWidth 24
  | 10 => c.faddr
  | 11 => c.felem
  | 12 => c.fvec.setWidth 24
  | 13 => c.ctxi
  | 16 => c.arith
  | 17 => c.aemask
  | 20 => c.fmode
  | 24 => c.bpm0
  | 25 => c.bpm1
  | 26 => c.bpm2
  | 27 => c.bpm3
  | 28 => c.pxpc.setWidth 24
  | 29 => c.pxe
  | 32 => BitVec.ofNat 24 (c.n.stack.length + b2n (c.f.stack != []) 16)
  | _ => Tbl.get 0 c.win (p - 256)

/-- CSM key of a word of a cluster. -/
def csmKey (cluster bank p : Nat) : Nat := cluster * 1048576 + (bank - 1) * 65536 + p

/-- The global context number and word that a Caravanserai window address names (R77). -/
def windowCtx (k bank p : Nat) : Nat × Nat :=
  if bank ≤ 35 then (2048 * (k / 8) + (bank - 32) * 512 + p / 128, p % 128)
  else (2048 * (k / 8) + (bank - 36) * 1024 + p / 64, 128 + p % 64)

/-- A load that does not fault: the word and the state after it (LAPCYC takes a free value, log 25; a Caravanserai word
that cannot be corrected poisons its context and reads 0, R165). -/
def memLoad (s : State) (k : Nat) (yport : Bool) (bank p : Nat) : BitVec 24 × State :=
  let c := coreOf s k
  if bank = 0 then (Tbl.get 0 (if yport then c.y else c.x) p, s)
  else if bank ≤ 16 then
    let a := csmKey (k / 8) bank p
    (if Tbl.get false s.csmUpset a then 0 else Tbl.get 0 s.csm a, s)
  else if bank ≤ 37 then
    let a := windowCtx k bank p
    if (ctxOf s a.1).upset = some a.2 then
      (0, logRecord (16 * (k / 8) + 5) 1 2 (k / 8) (k % 8) (leBytes 2 a.1 ++ leBytes 1 a.2 ++ [0, 0, 0, 0, 0]) (poison a.1 s))
    else ((ctxOf s a.1).word a.2, s)
  else if bank ≤ 127 then
    let a := winAddr c bank p
    if dramBad s a 3 then (0, dramRecord a s) else (BitVec.ofNat 24 (leNat (Tbl.slice 0 s.dram a 3)), s)
  else if bank = 254 then (lvuPageRead c.lvu p, s)
  else if p = 2 then (let r := takeFree s; (BitVec.ofNat 24 r.1, r.2))
  else (ctrlRead s k c p, s)

/-- The store of a word into a context through a window (R78). -/
def windowStore (c : Ctx) (w : Nat) (x : BitVec 24) : Ctx :=
  if w = 2 then { c with hdr := { c.hdr with loud := x } }
  else if w = 1 then { c with hdr := { c.hdr with ended := x.getLsbD 21 } }
  else { c with st := Tbl.put 0 c.st w x }

/-- A store that does not fault. -/
def memStore (s : State) (k : Nat) (yport : Bool) (bank p : Nat) (x : BitVec 24) : State :=
  let c := coreOf s k
  if bank = 0 then
    setCore s k (if yport then { c with y := Tbl.put 0 c.y p x, upset := Tbl.put false c.upset (65536 + p) false }
      else { c with x := Tbl.put 0 c.x p x, upset := Tbl.put false c.upset p false })
  else if bank ≤ 16 then
    let a := csmKey (k / 8) bank p
    { s with csm := Tbl.put 0 s.csm a x, csmUpset := Tbl.put false s.csmUpset a false }
  else if bank ≤ 37 then
    let a := windowCtx k bank p
    updCtx s a.1 (fun c => windowStore c a.2 x)
  else if bank ≤ 127 then
    dramWrite (winAddr c bank p) (leBytes 3 x.toNat ++ [0]) s
  else if bank = 254 then setCore s k { c with lvu := lvuPageWrite c.lvu p x, upset := Tbl.put false c.upset (262144 + p) false }
  else if p = 12 then setCore s k { c with fvec := x.setWidth 13 }
  else if p = 13 then setCore s k { c with ctxi := x &&& 0x8007FF }
  else s

end Sys2Proof.Machine
end

