-- ==== Sys2Proof/Machine/SigCore.lean ====
section
/-! DEFINITION. Bundle issue on a signal core: forming and checking a bundle (R167, R202), results in flight (R132 to
R135), the operations of every slot and the flow of control (chapters 4 and 5). -/

namespace Sys2Proof.Machine

/-! ### Class registers and results in flight -/

def SigCore.cls (c : SigCore) : ClassRegs := if c.fastOn then c.f else c.n

def SigCore.setCls (c : SigCore) (r : ClassRegs) : SigCore := if c.fastOn then { c with f := r } else { c with n := r }

def SigCore.acc' (c : SigCore) (n : Nat) : BitVec 56 := Tbl.get 0 c.acc n

/-- A write of MODE by its access codes: PRECISE is kept where a 1 is written while debug is off (Table 4.4). -/
def modeWrite (c : SigCore) (old : BitVec 24) (x : Nat) : BitVec 24 :=
  let v := BitVec.ofNat 24 (x % 16)
  if c.debug || !v.getLsbD 2 then v else (v &&& 0xB) ||| (old &&& 4)

/-- A move to SR by the access codes of Table 4.3 (R180). -/
def srMove (old : BitVec 24) (x : BitVec 24) : BitVec 24 :=
  ((old &&& ~~~(0x3F : BitVec 24)) ||| (x &&& 0x3F)) &&& ~~~(x &&& 0xFF0700)

/-- A loop register takes a value if the loop in which the write was issued is still the innermost (R195). -/
def loopWrite (r : ClassRegs) (depth : Nat) (f : LoopRegs → LoopRegs) : ClassRegs :=
  if r.stack.length = depth then { r with cur := f r.cur } else r

/-- AE of a class while accumulator n holds a: it follows the accumulator that a MAC slot wrote last (R120). -/
def ClassRegs.follow (r : ClassRegs) (n : Nat) (a : BitVec 56) : ClassRegs :=
  if r.mac = some n then { r with sr := (r.sr &&& 0xFFFFBF) ||| (if accExtended a then 0x40 else 0) } else r

/-- A write of an accumulator, which AE of both classes follows (R120, R156). -/
def SigCore.putAcc (c : SigCore) (n : Nat) (a : BitVec 56) : SigCore :=
  { c with acc := Tbl.put 0 c.acc n a, n := c.n.follow n a, f := c.f.follow n a }

/-- Land one result. -/
def landOne (c : SigCore) (w : InFlight) : SigCore :=
  let r := c.cls
  let v := w.val
  match w.dst with
  | .d n => c.setCls { r with d := Tbl.put 0 r.d n (BitVec.ofNat 24 v) }
  | .acc n => c.putAcc n (BitVec.ofNat 56 v)
  | .part n p => c.putAcc n (accSetPart (c.acc' n) p (BitVec.ofNat 24 v))
  | .p n => c.setCls { r with p := Tbl.put 0 r.p n (BitVec.ofNat 16 v) }
  | .m n => c.setCls { r with m := Tbl.put 0 r.m n (BitVec.ofNat 16 v) }
  | .l n => { c with l := Tbl.put 0 c.l n (BitVec.ofNat 16 v) }
  | .b n => { c with b := Tbl.put 0 c.b n (BitVec.ofNat 16 v) }
  | .xbk => c.setCls { r with xbk := BitVec.ofNat 8 v }
  | .ybk => c.setCls { r with ybk := BitVec.ofNat 8 v }
  | .mode => c.setCls { r with mode := modeWrite c r.mode v }
  | .sr => c.setCls { r with sr := srMove r.sr (BitVec.ofNat 24 v) }
  | .aluFlags => c.setCls { r with sr := (r.sr &&& ~~~(BitVec.ofNat 24 w.mask)) ||| BitVec.ofNat 24 v }
  | .macFlags n => c.setCls { r with sr := (r.sr &&& ~~~(BitVec.ofNat 24 w.mask)) ||| BitVec.ofNat 24 v, mac := some n }
  | .sticky => c.setCls { r with sr := r.sr ||| BitVec.ofNat 24 v }
  | .lcnt => c.setCls (loopWrite r w.mask (fun l => { l with lcnt := BitVec.ofNat 16 v }))
  | .ltop => c.setCls (loopWrite r w.mask (fun l => { l with ltop := BitVec.ofNat 13 v }))
  | .lend => c.setCls (loopWrite r w.mask (fun l => { l with lend := BitVec.ofNat 13 v }))
  | .rpc => c.setCls { r with rpc := BitVec.ofNat 13 v }

/-- Put a result behind those that are due no later. -/
def insertDue (w : InFlight) : List InFlight → List InFlight
  | [] => [w]
  | x :: xs => if w.due < x.due then w :: x :: xs else x :: insertDue w xs

/-- Results in the order of their visibility, and of issue where two land at the same bundle (R135). -/
def byDue (l : List InFlight) : List InFlight := l.foldl (fun acc w => insertDue w acc) []

/-- Land every result due by bundle n of the class, in the order of visibility (R132, R135). -/
def landTo (c : SigCore) (n : Nat) : SigCore :=
  let due := byDue (c.cls.fly.filter (fun w => decide (w.due ≤ n)))
  let rest := c.cls.fly.filter (fun w => !decide (w.due ≤ n))
  let c1 := due.foldl landOne c
  c1.setCls { c1.cls with fly := rest }

/-- Land everything in flight, bundle count by bundle count: the waits of ENDC, RTF and fault entry (R197, R161). No
result is more than 8 bundles away. -/
def landAll (c : SigCore) : SigCore := (List.range 9).foldl (fun c i => landTo c (c.cls.count + i)) c

/-! ### Bundles -/

/-- A syllable of program memory; the system default handler stands at 0x1F00 to 0x1FFF (R124). -/
def SigCore.prog (c : SigCore) (a : Nat) : Nat :=
  if a % 8192 ≥ 0x1F00 then (Config.defaultHandler (a % 8192 - 0x1F00)).toNat
  else (Tbl.get 0 (if c.pmb then c.prog1 else c.prog0) (a % 8192)).toNat

/-- The syllables of the bundle at an address, up to the first with E = 1 or eight (R167). -/
def syllables (c : SigCore) : Nat → Nat → List Nat
  | 0, _ => []
  | k + 1, a => let w := c.prog a; if fld w 31 31 = 1 then [w] else w :: syllables c k (a + 1)

def bundleLen (c : SigCore) (a : Nat) : Nat := (syllables c 8 a).length

/-- The slots of syllables that break the ascending slot order (Table 5.15). -/
def orderBreak : Option Nat → List Nat → Nat
  | _, [] => 0
  | prev, w :: ws =>
    let sl := fld w 30 28
    match prev with
    | some p => if sl ≤ p then 2 ^ sl ||| orderBreak (some sl) ws else orderBreak (some sl) ws
    | none => orderBreak (some sl) ws

/-- A bundle: its address, the address after it, the slots whose form does not decode or breaks the order, and its syllables. -/
structure Bundle where
  addr : Nat
  next : Nat
  bad  : Nat
  syls : List Syl
  deriving DecidableEq, Repr

def fetchBundle (c : SigCore) (a : Nat) : Bundle :=
  let ws := syllables c 8 a
  let next := (a + ws.length) % 8192
  let long := if ws.length = 8 ∧ fld (ws.getD 7 0) 31 31 = 0 then 128 else 0
  let ds := ws.map (fun w => (fld w 30 28, (decSyl w).2))
  ⟨a, next, ds.foldl (fun m d => if d.2.isNone then m ||| 2 ^ d.1 else m) (orderBreak none ws ||| long), ds.filterMap (·.2)⟩

/-- What a syllable writes, for R116. -/
inductive Res where
  | d (n : Nat) | accG (n : Nat) | accH (n : Nat) | accL (n : Nat) | p (n : Nat) | addr (n : Nat)
  | xbk | ybk | mode | sr | aluF | macF | rpc | creg
  deriving DecidableEq, Repr

def accRes (n : Nat) : List Res := [.accG n, .accH n, .accL n]

/-- The flags (as a mask of bits 3 to 0) that an ALU0 opcode writes (Table 5.7). -/
def aluFlagMask : AluSyl → Nat
  | .d op .. =>
    if op ≤ 6 ∨ op = 11 then 15 else if op ≤ 8 then 11 else if op ≤ 10 then 3 else if op ≤ 16 then 3
    else if op ≤ 22 then 7 else if op = 25 then 3 else 0
  | .di14 op .. => if op = 26 ∨ op = 29 then 15 else 3
  | _ => 0

/-- An address register number (Table 5.3) as a resource. -/
def adRes (n : Nat) : Res := if n < 16 then .p n else .addr n

def aluWrites (isAlu0 : Bool) (a : AluSyl) : List Res :=
  (if isAlu0 && aluFlagMask a != 0 then [Res.aluF] else []) ++
  (match a with
   | .d op dd _ _ _ _ => if op = 11 then [] else [.d dd]
   | .di14 op dd _ _ => if op = 29 then [] else [.d dd]
   | .di18 _ dd _ => [.d dd]
   | .a _ ad _ _ => [adRes ad]
   | .ai10 ad _ _ => [adRes ad]
   | .ai16 ad _ => [adRes ad]
   | .movda ad _ => [adRes ad]
   | .movad dd _ => [.d dd]
   | .movsTo s _ => if s = 0 then [.xbk] else if s = 1 then [.ybk] else if s = 2 then [.mode] else [.sr, .aluF, .macF]
   | .movsFrom dd _ => [.d dd]
   | .bnki s _ => if s = 0 then [.xbk] else [.ybk])

def memWrites (m : MemSyl) : List Res :=
  (if m.pm != 0 then [Res.p m.pi] else []) ++
  (match m.op with
   | 1 => [.d m.reg]
   | 3 => [.accL (m.reg / 2)]
   | 4 => [.accH (m.reg / 2)]
   | 5 => [.accG (m.reg / 2)]
   | 6 => accRes (m.reg / 2)
   | 12 => [.d m.reg]
   | 16 => [.d m.reg]
   | 17 => [.d m.reg]
   | 18 => [.d m.reg]
   | 19 => [.d m.reg]
   | 20 => [.d m.reg]
   | 21 => [.accL (m.reg2 / 2)]
   | 22 => [.accH (m.reg2 / 2)]
   | 23 => [.accG (m.reg2 / 2)]
   | 24 => [.d m.reg]
   | _ => [])

def ctrlWrites : CtrlSyl → List Res
  | .mvcTo _ c => if c = 3 then [.rpc] else [.creg]
  | .mvcFrom dn _ => [.d dn]
  | _ => []

def sylWrites : Syl → List Res
  | .mac0 m => accRes m.an
  | .mac1 m => accRes m.an
  | .alu0 a => aluWrites true a
  | .alu1 a => aluWrites false a
  | .xmem m => memWrites m
  | .ymem m => memWrites m
  | .ctrl c => ctrlWrites c
  | .vec _ => []

/-- The MAC slots write MZ and MN together, which R120 allows; a move to SR does not share them. -/
def macFlagWrites : Syl → Bool
  | .mac0 _ => true
  | .mac1 _ => true
  | _ => false

/-- Slots of two syllables that write one register, accumulator part or flag group (R116). -/
def clashSlots : List Syl → Nat
  | [] => 0
  | y :: ys =>
    ys.foldl (fun m z =>
      if (sylWrites y).any (fun r => (sylWrites z).contains r) ||
         (macFlagWrites y && (sylWrites z).contains .macF) then m ||| 2 ^ y.slot.code ||| 2 ^ z.slot.code else m)
      (clashSlots ys)

def isBranch : CtrlSyl → Bool
  | .br .. => true
  | .brp .. => true
  | _ => false

def isLoop : CtrlSyl → Bool
  | .loop .. => true
  | .loopi .. => true
  | _ => false

def isRep : CtrlSyl → Bool
  | .repN _ => true
  | .repD _ => true
  | .repuN .. => true
  | .repuD .. => true
  | _ => false

def loopEndOff : CtrlSyl → Nat
  | .loop _ e => e
  | .loopi _ e => e
  | _ => 0

/-- Active loops of a class, innermost first: the current one, then those saved; the bottom entry is the loop registers
as they stood before the outermost LOOP (R150). -/
def activeLoops (r : ClassRegs) : List LoopRegs := if r.stack.isEmpty then [] else r.cur :: r.stack.dropLast

/-- Whether a bundle is one of the last three of an active loop's body (R137). -/
def inLastThree (c : SigCore) (r : ClassRegs) (b : Bundle) : Bool :=
  let a1 := b.next
  let a2 := (a1 + bundleLen c a1) % 8192
  (activeLoops r).any (fun l => l.lend.toNat == b.addr || l.lend.toNat == a1 || l.lend.toNat == a2)

/-- The control checks of Table 5.15 that read the class, the loop registers and FREC.INF. -/
def ctrlBad (c : SigCore) (r : ClassRegs) (b : Bundle) (x : CtrlSyl) : Bool :=
  let endcOrRet := x == .endc || x == .rtf || x == .rte || x == .skip
  let flow := isBranch x || isLoop x || isRep x || endcOrRet
  let inf := c.frec.getLsbD 22
  (r.delay.isSome && flow) ||
  ((isBranch x || x == .endc) && inLastThree c r b) ||
  (r.rep.isSome && (flow || (match x with | .mvcTo _ 3 => true | _ => false))) ||
  (isRep x && (activeLoops r).any (fun l => l.lend.toNat == b.addr)) ||
  (isLoop x && (decide (b.next + loopEndOff x > 8191) ||
    (activeLoops r).any (fun l => decide (l.lend.toNat ≤ b.next + loopEndOff x)))) ||
  (x == .endc && (c.fastOn || inf)) || (x == .rtf && !c.fastOn) || ((x == .rte || x == .skip) && !inf)

/-- Whether an ALU syllable may not stand in ALU1 (R178), or writes L or B in the fast class (R157). -/
def alu1Bad : AluSyl → Bool
  | .d op .. => op == 11
  | .di14 op .. => op == 29
  | .movsTo s _ => s == 3
  | _ => false

def writesLB (a : AluSyl) : Bool := (aluWrites false a).any (fun r => match r with | .addr n => decide (n ≥ 32) | _ => false)

/-- Slots that the checks on single syllables record. -/
def sylBad (c : SigCore) (r : ClassRegs) (b : Bundle) : Syl → Nat
  | .alu0 a => if c.fastOn && writesLB a then 4 else 0
  | .alu1 a => if alu1Bad a || (c.fastOn && writesLB a) then 8 else 0
  | .xmem m => if m.op = 12 then 16 else 0
  | .ctrl x => if ctrlBad c r b x then 64 else 0
  | .vec v => if vecOk (groupOf c.lvu.vgDec) v.vop v.opd then 0 else 128
  | _ => 0

/-- The slots of an illegal bundle, 0 for a legal one (R202). -/
def illegalSlots (c : SigCore) (r : ClassRegs) (b : Bundle) : Nat :=
  b.bad ||| b.syls.foldl (fun m y => m ||| sylBad c r b y) (clashSlots b.syls)

/-! ### Operation of the slots. Every operand is read from the class registers as they stand when the bundle issues. -/

def ClassRegs.D (r : ClassRegs) (n : Nat) : BitVec 24 := Tbl.get 0 r.d n

def ClassRegs.P (r : ClassRegs) (n : Nat) : BitVec 16 := Tbl.get 0 r.p n

/-- A P, M, L or B register by its six-bit number (Table 5.3). In the fast class every circular length reads as 0 (R157). -/
def adRead (c : SigCore) (r : ClassRegs) (n : Nat) : BitVec 16 :=
  if n < 16 then Tbl.get 0 r.p n else if n < 32 then Tbl.get 0 r.m (n - 16)
  else if n < 48 then (if c.fastOn then 0 else Tbl.get 0 c.l (n - 32)) else Tbl.get 0 c.b (n - 48)

/-- The result of a write to a P, M, L or B register (Table 4.10). -/
def adWrite (now n : Nat) (v : BitVec 16) : InFlight :=
  if n < 16 then { due := now + 1, dst := .p n, val := v.toNat }
  else if n < 32 then { due := now + 1, dst := .m (n - 16), val := v.toNat }
  else if n < 48 then { due := now + 2, dst := .l (n - 32), val := v.toNat }
  else { due := now + 2, dst := .b (n - 48), val := v.toNat }

/-- The accumulator that an accumulating operation adds to: the previous bundle's MAC result where there is one (R133). -/
def accBypass (c : SigCore) (r : ClassRegs) (n : Nat) : BitVec 56 :=
  match (r.fly.filter (fun w => w.dst == .acc n && w.byMac == some (r.count - 1) && decide (r.count > 0))).getLast? with
  | some w => BitVec.ofNat 56 w.val
  | none => c.acc' n

/-- The exact result of a MAC opcode (Table 5.5, R174, R175, R176). -/
def macExact (c : SigCore) (r : ClassRegs) (m : MacSyl) : Int :=
  let im := r.mode.getLsbD 3
  let j := (r.D m.dj).toInt
  let ks := (r.D m.dk).toInt
  let ku : Int := (r.D m.dk).toNat
  let an := (accBypass c r m.an).toInt
  let am := (c.acc' m.am).toInt
  match m.op with
  | 1 => mulProduct im j ks
  | 2 => an + mulProduct im j ks
  | 3 => an - mulProduct im j ks
  | 4 => -(mulProduct im j ks)
  | 5 => j * ku
  | 6 => an + j * ku
  | 7 => an - j * ku
  | 8 => an + am
  | 9 => an - am
  | 10 => am
  | 11 => -am
  | 12 => if am < 0 then -am else am
  | 13 => 0
  | 14 => (am + 8388608) / 16777216 * 16777216
  | 15 => if an ≤ am then am else an
  | 16 => if an ≤ am then an else am
  | 17 => am * 2 ^ m.sh
  | 18 => am / 2 ^ m.sh
  | 19 =>
    let s : Int := ((r.D m.dj).extractLsb' 0 7).toInt
    if s ≥ 0 then am * 2 ^ s.toNat else am / 2 ^ (-s).toNat
  | 20 => placeHigh (r.D m.dj)
  | _ => an + placeHigh (r.D m.dj)

/-- The results of a MAC syllable: accumulator and flags 2 bundles later. DESIGN CHOICE (log 107): Table 4.10 has no row for the sticky
flags GOV, AGOV, SAT and CBX; the next bundle sees them. -/
def macResults (c : SigCore) (r : ClassRegs) (m : MacSyl) : List InFlight :=
  let v := narrow56 (r.mode.getLsbD 1) (macExact c r m)
  [{ due := r.count + 2, dst := .acc m.an, val := v.1.toNat, byMac := some r.count },
   { due := r.count + 2, dst := .macFlags m.an, mask := 0x70,
     val := b2n (v.1 == 0) 16 + b2n v.1.msb 32 + b2n (accExtended v.1) 64 }] ++
  (if v.2 then [{ due := r.count + 1, dst := .sticky, val := 256 + 65536 * 2 ^ m.an }] else [])

/-- The value and flags of an opcode of format D or DI14. -/
def aluCompute (r : ClassRegs) : AluSyl → AluRes
  | .d op _ da db cond imm5 =>
    let a := r.D da
    let b := r.D db
    let sh := b.toNat % 32
    match op with
    | 1 => aluAdd false a b
    | 2 => aluSub false a b
    | 3 => aluAdd true a b
    | 4 => aluSub true a b
    | 5 => aluSub false 0 a
    | 6 => aluSub true 0 a
    | 7 => aluAbs false a
    | 8 => aluAbs true a
    | 9 => aluZN (smin24 a b)
    | 10 => aluZN (smax24 a b)
    | 11 => aluSub false a b
    | 12 => aluZN (a &&& b)
    | 13 => aluZN (a ||| b)
    | 14 => aluZN (a ^^^ b)
    | 15 => aluZN (a &&& ~~~b)
    | 16 => aluZN (~~~a)
    | 17 => aluLsl a sh
    | 18 => aluLsr a sh
    | 19 => aluAsr a sh
    | 20 => aluLsl a imm5
    | 21 => aluLsr a imm5
    | 22 => aluAsr a imm5
    | 23 => aluZN a
    | 24 => aluZN (if condHolds r.sr cond then a else b)
    | _ => aluZN (BitVec.ofNat 24 (clsCount a))
  | .di14 op _ da imm =>
    let a := r.D da
    let se := (BitVec.ofNat 14 imm).signExtend 24
    match op with
    | 26 => aluAdd false a se
    | 27 => aluZN (a &&& BitVec.ofNat 24 imm)
    | 28 => aluZN (a ||| BitVec.ofNat 24 imm)
    | _ => aluSub false a se
  | _ => aluZN 0

/-- The flag write of an ALU0 result: C of a shift by 0 is unchanged. -/
def aluFlagResult (now mask : Nat) (x : AluRes) : InFlight :=
  let mk := if mask = 7 ∧ !x.wc then 3 else mask
  { due := now + 1, dst := .aluFlags, mask := mk,
    val := (b2n x.z 1 + b2n x.n 2 + b2n x.c 4 + b2n x.v 8) &&& mk }

/-- The results of an ALU syllable. -/
def aluResults (alu0 : Bool) (c : SigCore) (r : ClassRegs) (a : AluSyl) : List InFlight :=
  let now := r.count
  let d (n : Nat) (v : BitVec 24) : InFlight := { due := now + 1, dst := .d n, val := v.toNat }
  let flags := if alu0 && aluFlagMask a != 0 then [aluFlagResult now (aluFlagMask a) (aluCompute r a)] else []
  match a with
  | .d op dd _ _ _ _ => (if op = 11 then [] else [d dd (aluCompute r a).val]) ++ flags
  | .di14 op dd _ _ => (if op = 29 then [] else [d dd (aluCompute r a).val]) ++ flags
  | .di18 op dd imm => [d dd (if op = 30 then (BitVec.ofNat 18 imm).signExtend 24 else BitVec.ofNat 24 (imm * 64))]
  | .a op ad as_ at_ =>
    [adWrite now ad (if op = 40 then adRead c r as_ + adRead c r at_ else if op = 41 then adRead c r as_ - adRead c r at_
      else adRead c r as_)]
  | .ai10 ad as_ imm => [adWrite now ad (adRead c r as_ + (BitVec.ofNat 10 imm).signExtend 16)]
  | .ai16 ad imm => [adWrite now ad (BitVec.ofNat 16 imm)]
  | .movda ad ds => [adWrite now ad ((r.D ds).setWidth 16)]
  | .movad dd as_ =>
    [d dd (if 16 ≤ as_ ∧ as_ < 32 then (adRead c r as_).signExtend 24 else (adRead c r as_).setWidth 24)]
  | .movsTo s da =>
    let v := (r.D da).toNat
    if s = 0 then [{ due := now + 2, dst := .xbk, val := v % 256 }]
    else if s = 1 then [{ due := now + 2, dst := .ybk, val := v % 256 }]
    else if s = 2 then [{ due := now + 2, dst := .mode, val := v }]
    else [{ due := now + 1, dst := .sr, val := v }]
  | .movsFrom dd s =>
    [d dd (if s = 0 then r.xbk.setWidth 24 else if s = 1 then r.ybk.setWidth 24 else if s = 2 then r.mode else r.sr)]
  | .bnki s imm => [{ due := now + 2, dst := if s = 0 then .xbk else .ybk, val := imm }]

/-- The modifier of a post-modify form (Table 4.9). -/
def pmModifier (r : ClassRegs) (m : MemSyl) : Int :=
  match m.pm with
  | 1 => 1
  | 2 => -1
  | 3 => (Tbl.get 0 r.m m.mj).toInt
  | 4 => (BitVec.ofNat 3 m.mj).toInt
  | _ => 0

/-- L and B of an index as the class sees them: every circular length of the fast class reads as 0 (R157). -/
def circOf (c : SigCore) (i : Nat) : BitVec 16 × BitVec 16 :=
  if c.fastOn then (0, 0) else (Tbl.get 0 c.l i, Tbl.get 0 c.b i)

/-- The post-modify of a memory syllable: the new pointer and whether CBX is set (R128, R129). -/
def postModify (c : SigCore) (r : ClassRegs) (m : MemSyl) : BitVec 16 × Bool :=
  if m.pm = 5 then (rev16 (rev16 (r.P m.pi) + rev16 (Tbl.get 0 r.m m.mj)), false)
  else circular (r.P m.pi) (pmModifier r m) (circOf c m.pi).1 (circOf c m.pi).2

def postResults (c : SigCore) (r : ClassRegs) (m : MemSyl) : List InFlight :=
  if m.pm = 0 then []
  else
    let v := postModify c r m
    { due := r.count + 1, dst := .p m.pi, val := v.1.toNat } ::
    (if v.2 then [{ due := r.count + 1, dst := .sticky, val := 1024 }] else [])

/-- Whether a memory syllable loads, and whether it stores. -/
def memLoads (m : MemSyl) : Bool := m.op == 1 || decide (3 ≤ m.op ∧ m.op ≤ 6) || m.op == 12

def memStores (m : MemSyl) : Bool := m.op == 2 || decide (7 ≤ m.op ∧ m.op ≤ 11)

/-- The address TAPD writes (R131, R187). DESIGN CHOICE (log 107): forming it sets no CBX, which tells of post-modifies. -/
def tapdAddr (c : SigCore) (r : ClassRegs) (m : MemSyl) : Nat :=
  (circular (r.P m.pi) 1 (circOf c m.pi).1 (circOf c m.pi).2).1.toNat

/-- The delay of a load by region (Table 4.10); a DRAM window's word is there for every later bundle (R134). -/
def loadDelay (bank : Nat) : Nat :=
  if bank = 0 ∨ bank ≥ 254 then 3 else if bank ≤ 16 then 6 else if bank ≤ 37 then 8 else 1

/-- The destination of a loaded word. -/
def loadResult (r : ClassRegs) (m : MemSyl) (bank : Nat) (w : BitVec 24) : InFlight :=
  let due := r.count + loadDelay bank
  let n := m.reg / 2
  match m.op with
  | 3 => { due, dst := .part n .l, val := w.toNat }
  | 4 => { due, dst := .part n .h, val := w.toNat }
  | 5 => { due, dst := .part n .g, val := w.toNat }
  | 6 => { due, dst := .acc n, val := (w56 (placeHigh w)).toNat }
  | _ => { due, dst := .d m.reg, val := w.toNat }

/-- The word a store writes, and whether its transfer saturated. -/
def storeWord (c : SigCore) (r : ClassRegs) (m : MemSyl) : BitVec 24 × Bool :=
  let a := c.acc' (m.reg / 2)
  match m.op with
  | 2 => (r.D m.reg, false)
  | 7 => (accPart a .l, false)
  | 8 => (accPart a .h, false)
  | 9 => (accPart a .g, false)
  | 10 => transfer24 true (r.mode.getLsbD 0) a
  | _ => transfer24 false (r.mode.getLsbD 0) a

/-- The results of a move (opcodes 0x10 to 0x18). -/
def moveResults (c : SigCore) (r : ClassRegs) (m : MemSyl) : List InFlight :=
  let am := c.acc' (m.reg2 / 2)
  let now := r.count
  let d (v : BitVec 24) : InFlight := { due := now + 1, dst := .d m.reg, val := v.toNat }
  let sat (x : BitVec 24 × Bool) : List InFlight :=
    d x.1 :: (if x.2 then [{ due := now + 1, dst := .sticky, val := 512 }] else [])
  match m.op with
  | 16 => sat (transfer24 true (r.mode.getLsbD 0) am)
  | 17 => sat (transfer24 false (r.mode.getLsbD 0) am)
  | 18 => [d (accPart am .l)]
  | 19 => [d (accPart am .h)]
  | 20 => [d (accPart am .g)]
  | 21 => [{ due := now + 1, dst := .part (m.reg2 / 2) .l, val := (r.D m.reg).toNat }]
  | 22 => [{ due := now + 1, dst := .part (m.reg2 / 2) .h, val := (r.D m.reg).toNat }]
  | 23 => [{ due := now + 1, dst := .part (m.reg2 / 2) .g, val := (r.D m.reg).toNat }]
  | _ => [d (r.D m.reg2)]

/-- The fault cause and address of a memory syllable, if any (R186, R187). -/
def memSylFault (c : SigCore) (r : ClassRegs) (yport : Bool) (m : MemSyl) : Option (Nat × BitVec 24) :=
  let bank := (if yport then r.ybk else r.xbk).toNat
  let p := (r.P m.pi).toNat
  let at_ (q : Nat) : BitVec 24 := BitVec.ofNat 24 (bank * 65536 + q)
  if m.op = 12 then
    if bank ≠ 0 then some (2, at_ p)
    else match memFault c true 0 p false with
      | some k => some (k, at_ p)
      | none => none
  else if memLoads m || memStores m then
    match memFault c yport bank p (memStores m) with
    | some k => some (k, at_ p)
    | none => none
  else none

/-- The fault of a bundle that decodes: the lowest cause, its slots and its address (R161). DESIGN CHOICE (log 108): FADDR takes the
address of XMEM where both memory slots fault with that cause, and 0 for a fault without a memory access. -/
def bundleFault (c : SigCore) (r : ClassRegs) (b : Bundle) : Option PendingFault :=
  let fs : List (Nat × Nat × BitVec 24) := b.syls.filterMap (fun y =>
    match y with
    | .xmem m => (memSylFault c r false m).map (fun f => (f.1, 16, f.2))
    | .ymem m => (memSylFault c r true m).map (fun f => (f.1, 32, f.2))
    | .ctrl x => if isLoop x && decide (r.stack.length ≥ (if c.fastOn then 1 else 4)) then some (4, 64, 0) else none
    | _ => none)
  match fs with
  | [] => none
  | f :: rest =>
    let low := rest.foldl (fun g h => if h.1 < g.1 then h else g) f
    let slots := fs.foldl (fun m h => if h.1 = low.1 then m ||| h.2.1 else m) 0
    some { cause := low.1, slots := slots, addr := low.2.2 }

/-- The loads and stores of a bundle's memory slots: loads read before any store of the bundle, the YMEM store stands
(R188). -/
def memPass (s : State) (k : Nat) (r : ClassRegs) (b : Bundle) : State × List InFlight :=
  let ms : List (Bool × MemSyl) := b.syls.filterMap (fun y =>
    match y with | .xmem m => some (false, m) | .ymem m => some (true, m) | _ => none)
  let bankOf (y : Bool) : Nat := (if y then r.ybk else r.xbk).toNat
  let loads := ms.foldl (fun (acc : State × List InFlight) ym =>
    if memLoads ym.2 then
      let v := memLoad acc.1 k ym.1 (bankOf ym.1) (r.P ym.2.pi).toNat
      (v.2, acc.2 ++ [loadResult r ym.2 (bankOf ym.1) v.1])
    else acc) (s, [])
  let tapd := ms.filterMap (fun ym => if ym.2.op = 12 then some (tapdAddr (coreOf s k) r ym.2, Tbl.get 0 (coreOf s k).y (r.P ym.2.pi).toNat) else none)
  let stored := ms.foldl (fun (acc : State × List InFlight) ym =>
    if memStores ym.2 then
      let w := storeWord (coreOf s k) r ym.2
      (memStore acc.1 k ym.1 (bankOf ym.1) (r.P ym.2.pi).toNat w.1,
       acc.2 ++ (if w.2 then [{ due := r.count + 1, dst := .sticky, val := 512 }] else []))
    else acc) loads
  (tapd.foldl (fun s t => memStore s k true 0 t.1 t.2) stored.1, stored.2)

/-- Results of every other kind in a bundle. -/
def otherResults (c : SigCore) (r : ClassRegs) (b : Bundle) : List InFlight :=
  b.syls.flatMap (fun y =>
    match y with
    | .mac0 m => macResults c r m
    | .mac1 m => macResults c r m
    | .alu0 a => aluResults true c r a
    | .alu1 a => aluResults false c r a
    | .xmem m => (if m.op ≥ 16 then moveResults c r m else []) ++ postResults c r m
    | .ymem m => (if m.op ≥ 16 then moveResults c r m else []) ++ postResults c r m
    | .ctrl (.mvcTo dn g) =>
      let v := (r.D dn).toNat
      if g = 0 then [{ due := r.count + 1, dst := .lcnt, val := v, mask := r.stack.length }]
      else if g = 1 then [{ due := r.count + 1, dst := .ltop, val := v, mask := r.stack.length }]
      else if g = 2 then [{ due := r.count + 1, dst := .lend, val := v, mask := r.stack.length }]
      else [{ due := r.count + 1, dst := .rpc, val := v }]
    | .ctrl (.mvcFrom dn g) =>
      let v := if g = 0 then r.cur.lcnt.toNat else if g = 1 then r.cur.ltop.toNat else if g = 2 then r.cur.lend.toNat
        else r.rpc.toNat
      [{ due := r.count + 1, dst := .d dn, val := v }]
    | _ => [])

/-- A move to SR comes before the settings of sticky flags in its bundle (R180). -/
def moveFirst (rs : List InFlight) : List InFlight := rs.filter (fun w => w.dst == .sr) ++ rs.filter (fun w => w.dst != .sr)

/-! ### Flow of control -/

/-- End loops, innermost first, whose body does not hold a branch target (R151). -/
def endLoopsOutside (t : Nat) : Nat → ClassRegs → ClassRegs
  | 0, r => r
  | n + 1, r =>
    match r.stack with
    | [] => r
    | o :: os =>
      if r.cur.ltop.toNat ≤ t ∧ t ≤ r.cur.lend.toNat then r
      else endLoopsOutside t n { r with cur := o, stack := os }

/-- The end of an ordinary bundle: the loop test of R152, or the next address. -/
def afterBundle (b : Bundle) (r : ClassRegs) : ClassRegs :=
  match r.stack with
  | [] => { r with pc := BitVec.ofNat 13 b.next }
  | o :: os =>
    if r.cur.lend.toNat = b.addr then
      -- a write to LCNT in this bundle is read by the test
      let cnt := match (r.fly.filter (fun w => w.dst == .lcnt)).getLast? with
        | some w => BitVec.ofNat 16 w.val
        | none => r.cur.lcnt
      let fly := r.fly.filter (fun w => w.dst != .lcnt)
      if cnt.toNat > 1 then { r with cur := { r.cur with lcnt := cnt - 1 }, pc := r.cur.ltop, fly := fly }
      else { r with cur := o, stack := os, pc := BitVec.ofNat 13 b.next, fly := fly }
    else { r with pc := BitVec.ofNat 13 b.next }

/-- Count down the delay bundles of a taken branch or of ENDC after a bundle; the flag tells that ENDC's are over. -/
def afterDelay (r : ClassRegs) : ClassRegs × Bool :=
  match r.delay with
  | none => (r, false)
  | some d =>
    if d.left ≤ 1 then
      match d.target with
      | some t => ({ endLoopsOutside t.toNat 5 r with pc := t, delay := none }, false)
      | none => ({ r with delay := none }, true)
    else ({ r with delay := some { d with left := d.left - 1 } }, false)

/-- The control syllable of a bundle. -/
def ctrlOf (b : Bundle) : Option CtrlSyl := b.syls.findSome? (fun y => match y with | .ctrl c => some c | _ => none)

def vecOf (b : Bundle) : Option VecSyl := b.syls.findSome? (fun y => match y with | .vec v => some v | _ => none)

/-- The count of a REP Dn or REPU Dn (R153). -/
def repCount (v : BitVec 24) : Nat := min v.toNat 4096

/-- Begin a repetition of the next bundle. -/
def startRep (n : Nat) (cond : Option Nat) (r : ClassRegs) : ClassRegs :=
  { r with rep := some { left := n, cond := cond.map (BitVec.ofNat 4), first := true, annul := n == 0 }, rpc := BitVec.ofNat 13 n }

/-- Push a loop, or skip its body for a count of 0 (R149, R193): the skip costs two annulled bundles. -/
def startLoop (c : SigCore) (b : Bundle) (count endOff : Nat) (r : ClassRegs) : ClassRegs :=
  let lend := b.next + endOff
  if count = 0 then { r with pc := BitVec.ofNat 13 (lend + bundleLen c lend), count := r.count + 2 }
  else { r with stack := r.cur :: r.stack, cur := ⟨BitVec.ofNat 16 count, BitVec.ofNat 13 b.next, BitVec.ofNat 13 lend⟩ }

/-- What the control syllable of an executed bundle does to the flow, after the bundle's own end. old is the class as it
stood when the bundle issued. -/
def ctrlFlow (c : SigCore) (b : Bundle) (old : ClassRegs) (x : CtrlSyl) (r : ClassRegs) : ClassRegs :=
  match x with
  | .br cond n t => if condHolds old.sr cond then { r with delay := some ⟨2, some (BitVec.ofNat 13 t), n⟩ } else r
  | .brp cond n pi => if condHolds old.sr cond then { r with delay := some ⟨2, some ((old.P pi).setWidth 13), n⟩ } else r
  | .loop dn e => startLoop c b ((old.D dn).toNat % 65536) e r
  | .loopi cnt e => startLoop c b cnt e r
  | .repN n => startRep n none r
  | .repD dn => startRep (repCount (old.D dn)) none r
  | .repuN cond n => startRep n (some cond) r
  | .repuD cond dn => startRep (repCount (old.D dn)) (some cond) r
  | .endc => { r with delay := some ⟨2, none, false⟩ }
  | _ => r

/-- After one issue of a bundle: the repetition in progress, the loop test, the delay bundles. The flag tells that ENDC's
delay bundles are over. -/
def flowAfter (c : SigCore) (b : Bundle) (old : ClassRegs) (annulled : Bool) (r : ClassRegs) : ClassRegs × Bool :=
  let r1 := { r with count := r.count + 1 }
  match r1.rep with
  | some p =>
    if p.left > 1 then ({ r1 with rep := some { p with left := p.left - 1, first := false } }, false)
    else afterDelay (afterBundle b { r1 with rep := none })
  | none =>
    let r2 := afterBundle b r1
    if old.delay.isSome then afterDelay r2
    else
      let r3 := match ctrlOf b with
        | some x => if annulled then r2 else ctrlFlow c b old x r2
        | none => r2
      (r3, false)

/-- The repetition that is about to issue: RPC shows those left after it (R194). -/
def enterRep (r : ClassRegs) : ClassRegs :=
  match r.rep with
  | some p => { r with rpc := BitVec.ofNat 13 (p.left - 1) }
  | none => r

/-- REPU: once its condition holds no further repetition issues (R194). -/
def repuDone (r : ClassRegs) : Bool :=
  match r.rep with
  | some p => !p.first && (match p.cond with | some cc => condHolds r.sr cc.toNat | none => false)
  | none => false

/-- The operands that a VEC syllable hands over (R201, R211). -/
def vecOperands (c : SigCore) (r : ClassRegs) (pc : Nat) (v : VecSyl) : LvuOp :=
  let f := fld v.opd
  let pi := if v.vop ≤ 3 then f 16 13 else if v.vop = 26 then f 20 17 else if v.vop = 35 then f 9 6 else f 8 5
  let dk := if v.vop = 24 then f 17 14 else if v.vop = 35 ∨ v.vop = 38 then f 5 2 else if v.vop = 39 then f 4 1 else f 13 10
  let usesP := decide (v.vop ≤ 3) || v.vop == 26 || v.vop == 35 || v.vop == 39
  let usesD := v.vop == 22 || v.vop == 26 || v.vop == 35 || v.vop == 38 || v.vop == 39 || (v.vop == 24 && f 21 21 == 1) ||
    ((decide (8 ≤ v.vop ∧ v.vop ≤ 12) || v.vop == 18 || v.vop == 19) && f 8 8 == 1)
  { vop := BitVec.ofNat 6 v.vop, opd := BitVec.ofNat 22 v.opd, fast := c.fastOn,
    bank := if v.vop ≤ 3 then (if f 21 21 = 1 then r.ybk else r.xbk) else 0,
    p := if usesP then r.P pi else 0, d := if usesD then r.D dk else 0, mode := r.mode.setWidth 4,
    vg := c.lvu.vg, tclamp := c.lvu.vctl.getLsbD 0, vl := c.lvu.vl, tport := c.lvu.tport, vtb := c.lvu.vtb,
    vtlen := c.lvu.vtlen, pc := BitVec.ofNat 13 pc }

/-- The LVU takes an instruction: it latches the operands and clears its micro-state (R211, R256). -/
def lvuAccept (l : Lvu) (o : LvuOp) : Lvu :=
  { l with busy := some o, micro := { upc := o.vop.setWidth 13 },
           vgDec := if o.vop = 25 then BitVec.ofNat 2 (fld o.opd.toNat 1 0) else l.vgDec }

/-- Whether a bundle must wait for the LVU: a VEC syllable or VWAIT while it is busy or stopped (R196, R201, R268). -/
def lvuStall (c : SigCore) (b : Bundle) : Bool :=
  (c.lvu.busy.isSome || c.lvu.stopped || c.lvu.halt) && ((vecOf b).isSome || ctrlOf b == some .vwait)

/-- PRECISE stops a core (R147); it goes on from the phase in which it was. -/
def SigCore.halted (c : SigCore) : SigCore := if c.phase = .precise then c else { c with resume := c.phase, phase := .precise }

/-- A Drover releases a core that PRECISE stopped (R147). -/
def SigCore.release (c : SigCore) : SigCore := if c.phase = .precise then { c with phase := c.resume } else c

/-- Set a fault that waits for its entry. -/
def raiseFault (s : State) (k : Nat) (f : PendingFault) : State := updCore s k (fun c => { c with fault := some f })

/-- A bundle with PRECISE set that sets GOV, SAT or CBX stops the core after it completes (R147). -/
def preciseStop (r : ClassRegs) (rs : List InFlight) : Bool :=
  r.mode.getLsbD 2 && rs.any (fun w => w.dst == .sticky)

/-- Execute a legal bundle that does not stall and does not fault: the state, whether ENDC's delay bundles are over, and whether
PRECISE stops the core. -/
def executeBundle (s : State) (k : Nat) (b : Bundle) (annulled : Bool) : State × Bool × Bool :=
  let c := coreOf s k
  let r := c.cls
  if annulled then
    let r1 := flowAfter c b r true r
    (setCore s k (c.setCls r1.1), r1.2, false)
  else
    let m := memPass s k r b
    let res := moveFirst (m.2 ++ otherResults c r b)
    let c1 := coreOf m.1 k
    let c2 := match vecOf b with
      | some v => { c1 with lvu := lvuAccept c1.lvu (vecOperands c r b.addr v) }
      | none => c1
    let r1 := flowAfter c b r false { r with fly := r.fly ++ res }
    let stop := preciseStop r res
    let c3 := if stop then { c2 with pxpc := BitVec.ofNat 13 b.addr, pxe := 0 } else c2
    (setCore m.1 k (c3.setCls r1.1), r1.2, stop)

/-- A core issues bundles in its start phase and in its running order. -/
def issuing (c : SigCore) : Bool := (c.phase == .running || c.phase == .starting && c.fastOn) && c.fault.isNone && !c.fastSkip

/-- The class after REPU has found its condition true: the bundle after the prefixed one is next (R194). -/
def settleRepu (c : SigCore) (r : ClassRegs) : ClassRegs :=
  if repuDone r then (afterDelay (afterBundle (fetchBundle c r.pc.toNat) { r with rep := none, rpc := 0 })).1 else r

/-- A syllable of the bundle reads with a double-bit error. -/
def progUpset (c : SigCore) (b : Bundle) : Bool :=
  (List.range ((b.next + 8192 - b.addr) % 8192)).any (fun i =>
    Tbl.get false c.upset ((if c.pmb then 196608 else 131072) + (b.addr + i) % 8192))

end Sys2Proof.Machine
end

