-- ==== Sys2Proof/Machine/LvuExec.lean ====
section
/-! DEFINITION. The LVU at work: completion, faults and PRECISE stops of an instruction (R217, R240), micro-traps and stops (R260 to R269), micro-faults (R277, R278) and the LVU control block
(R270 to R274). -/

namespace Sys2Proof.Machine

def lvuOf (s : State) (k : Nat) : Lvu := (coreOf s k).lvu

def updLvu (s : State) (k : Nat) (f : Lvu → Lvu) : State := updCore s k (fun c => { c with lvu := f c.lvu })

/-! ### Completion, faults and stops of an instruction -/

/-- The LVU returns to idle: a POLL write that waited takes effect (R265), and a stop request that is still pending stops it (R268). -/
def Lvu.idle (l : Lvu) : Lvu :=
  { l with busy := none, micro := {}, poll := l.pollNext.getD l.poll, pollNext := none, stopped := l.stopped || l.stopRq, stopRq := false }

/-- The record of an LVU fault (R240): the latch is not valid when a fault handler is already running (Table 6.12). -/
def lvuFaultSet (o : LvuOp) (cause : Nat) (addr : BitVec 24) (e : Nat) (c : SigCore) : SigCore :=
  { c with
    fault := some { cause := cause, slots := 128, addr := addr, elem := BitVec.ofNat 24 (0x800000 + e % 128) },
    lvu := { c.lvu with vfe := BitVec.ofNat 24 (0x800000 + e % 1024), vipc := BitVec.ofNat 24 (0x800000 + o.pc.toNat),
                        flValid := !c.frec.getLsbD 22, fl := o } }

/-- Correct single-bit errors of microwords: counted in CORR and in the module total (R246, R276). -/
def lcsCorrected (k n : Nat) (s : State) : State :=
  logCorrected 5 (k / 8) n
    { updLvu s k (fun l => { l with corr := min 0xFFFF (l.corr + n) }) with corrMicro := min 0xFFFFFFFF (s.corrMicro + n) }

/-- What an instruction works on: the LVU and the memories of its core. -/
def lvuStart (k : Nat) (s : State) : LvuRun :=
  let c := coreOf s k
  { l := c.lvu, x := c.x, y := c.y, upset := c.upset, free := s.free, flagged := c.lvu.micro.flagged }

/-- A core after an instruction has worked on it. -/
def LvuRun.into (r : LvuRun) (k : Nat) (s : State) : State :=
  { setCore s k { coreOf s k with lvu := r.l, x := r.x, y := r.y, upset := r.upset } with free := r.free }

/-- An instruction ends with what its operation left: its fault (R240) or its PRECISE stop (R217). -/
def lvuEnd (k : Nat) (o : LvuOp) (r : LvuRun) (s : State) : State :=
  let c := coreOf s k
  let c1 := { c with lvu := r.l.idle, x := r.x, y := r.y, upset := r.upset }
  let c2 := match r.fault with
    | some f => lvuFaultSet o f.cause f.addr f.elem c1
    | none =>
      match r.flagged with
      | some e =>
        if o.mode.getLsbD 2 then
          { c1.halted with pxpc := o.pc, pxe := BitVec.ofNat 24 (0x800000 + e % 128) }
        else c1
      | none => c1
  { setCore s k c2 with free := r.free }

/-- An instruction completes by chapter 6, from element a on. -/
def lvuCompleteFrom (a k : Nat) (o : LvuOp) (s : State) : State := lvuEnd k o (lvuRest o a (lvuStart k s)) s

/-- An instruction completes by chapter 6. -/
def lvuComplete (k : Nat) (o : LvuOp) (s : State) : State := lvuEnd k o (lvuOperate o (lvuStart k s)) s

/-- Stop a core for the rest of the lap (R163): FREC records the cause; a start routine in progress is abandoned and its
context becomes POISONED. DESIGN CHOICE (log 113): R163 and R278 give a micro-fault its cause alone; FREC.SLOT, FADDR and FELEM are then 0
and FPC is the class's pc. -/
def stopCore (k : Nat) (cause : Nat) (f : PendingFault) (s : State) : State :=
  let c := coreOf s k
  let frec := BitVec.ofNat 24 (0xC00000 + b2n c.fastOn 2097152 + cause * 65536 + f.slots % 256 * 256)
  let abandoned := if c.fastOn then (match c.cur with | some r => [r.ctx] | none => []) else []
  let c1 := { c with frec := frec, fpc := c.cls.pc, faddr := f.addr, felem := f.elem, fault := none, phase := .stopped, cur := none }
  poisonAll abandoned (setCore s k c1)

/-- A micro-fault (R278). -/
def lvuMicroFault (k : Nat) (cause code upc : Nat) (s : State) : State :=
  let c := coreOf s k
  let rec_ := if c.lvu.mfrec.getLsbD 31 then c.lvu.mfrec
    else BitVec.ofNat 32 (0x80000000 + cause % 16 * 16777216 + code % 256 * 65536 + upc % 8192)
  let l := { Lvu.idle { c.lvu with stopRq := false } with mf := true, halt := true, mfrec := rec_ }
  let s1 := { setCore s k { c with lvu := l } with microFaults := sat32 s.microFaults }
  let s2 := logRecord (16 * (k / 8) + 4) 1 0x06 (k / 8) (k % 8) (leBytes 4 rec_.toNat ++ [0, 0, 0, 0]) s1
  if c.lvu.poll then sliceCut (k / 8) s2 else stopCore k 7 { cause := 7, slots := 0 } s2

/-- A run of microwords goes into the core: its registers and memories, and the words corrected at their fetch. -/
def microInto (k : Nat) (r : LvuRun) (s : State) : State :=
  let s1 := r.into k s
  if r.corr = 0 then s1 else lcsCorrected k r.corr s1

/-- The array drains and the frame is written: the LVU is idle with the instruction in the frame, whose words are then good
(R237, R261, R266). -/
def lvuFrame (k : Nat) (o : LvuOp) (r : LvuRun) (m : Micro) (s : State) : State :=
  let d := drainMicro o r m
  let s1 := microInto k d.1 s
  updCore s1 k (fun c =>
    { c with upset := (List.range 16).foldl (fun u i => Tbl.put false u (262144 + 32 + i) false) c.upset,
             lvu := { c.lvu.idle with frameValid := true, frame := o,
                                      frameMicro := { d.2 with temps := [], streak := 0, cyc := 0, words := 0, readAt := 0, spillAt := 0, flagged := d.1.flagged } } })

/-- How a run of microwords ends the instruction (R251). -/
def microEnd (k : Nat) (o : LvuOp) (e : MicroEnd × LvuRun × Micro) (s : State) : State :=
  let d := drainMicro o e.2.1 e.2.2
  let m := e.2.2
  let el := match m.hit with | some h => h.1 | none => m.ec.toNat
  let bank : BitVec 8 := if o.vop = 4 ∨ o.vop = 5 ∨ o.vop = 39 then 0 else o.bank
  let a := match m.hit with | some h => h.2 | none => o.p.toNat + m.ec.toNat
  let ended (r : LvuRun) : State := lvuEnd k o r (microInto k d.1 s)
  match e.1 with
  | .running => updLvu (microInto k e.2.1 s) k (fun l => { l with micro := { m with walk := true, flagged := e.2.1.flagged } })
  | .done => ended d.1
  | .efault => ended { d.1 with fault := some ⟨if m.ue then 6 else 5, faultAddr bank a, el⟩ }
  | .trunc =>
    ended { d.1 with l := { d.1.l with vl := BitVec.ofNat 11 el, vfe := BitVec.ofNat 24 (0x800000 + el % 1024), vstat := d.1.l.vstat ||| 0x100 } }
  | .fault cause code upc => lvuMicroFault k cause code upc (microInto k d.1 s)
  | .trapped => lvuFrame k o e.2.1 { m with walk := true } s
  | .stopped => updLvu (lvuFrame k o e.2.1 { m with walk := true } s) k (fun l => { l with stopRq := false, stopped := true })

/-- The LVU carries out its instruction if its VOP is the one named (R210, R245): by chapter 6, or word by word where the routine is not
the one in ROM. A pending scalar fault is taken first (R239). -/
def lvuRunOp (vop k : Nat) (s : State) : State :=
  let c := coreOf s k
  match c.lvu.busy with
  | none => s
  | some o =>
    if o.vop.toNat ≠ vop ∨ c.lvu.stopped ∨ c.lvu.halt ∨ c.fault.isSome then s
    else if microMode o (lvuStart k s) c.lvu.micro then microEnd k o (microRun o none microWords (lvuStart k s) c.lvu.micro) s
    else if c.lvu.micro.resumed then lvuCompleteFrom c.lvu.micro.ec.toNat k o s
    else lvuComplete k o s

/-! ### Micro-traps and stops -/

/-- The micro-state at a trap of a routine in ROM, which is not given: every field but EC is free (log 21). -/
def freeMicro (n : Nat) (ec : Nat) : Micro :=
  let v (i w : Nat) : BitVec w := BitVec.ofNat w (Config.freeNat (n + i))
  { upc := v 0 13, ec := BitVec.ofNat 11 ec,
    mq := Tbl.putAll 0 [] 0 [v 2 24, v 3 24, v 4 24, v 5 24],
    mlc := Tbl.putAll 0 [] 0 [v 6 12, v 7 12, v 8 12, v 9 12],
    mrtn := v 10 13, mrv := (v 11 1) == 1, tmo := (v 12 1) == 1 }

/-- The element that a ROM routine has come to when it is stopped: the first of a block, from the one it was resumed at on; which one
is free (log 21). -/
def stopElement (o : LvuOp) (from_ free : Nat) : Nat :=
  let b := romBlock o
  if b = 0 then 0
  else
    let n := (o.vle - from_ + b - 1) / b
    from_ + b * (Config.freeNat free % max 1 n)

/-- An instruction is stopped before its end: by a micro-trap, in which case a free number of words has run before the request, or in
polling mode at a SAFE word (R260, R266). done tells that the word it meets is a DONE word: the instruction then completes. -/
def lvuInterrupt (k : Nat) (o : LvuOp) (done : Bool) (s : State) : State :=
  let m := (lvuOf s k).micro
  let r := lvuStart k s
  if microMode o r m then
    microEnd k o (microRun o (if done then none else some (Config.freeNat s.free)) microWords { r with free := s.free + 1 } m) s
  else
    let a := if m.resumed then m.ec.toNat else 0
    let e := stopElement o a s.free
    let part := lvuSpan o a e { r with free := s.free + 14 }
    if done || part.fault.isSome || part.trunc then lvuCompleteFrom a k o s
    else lvuFrame k o part (freeMicro (s.free + 1) e) s

/-- A frame word reads with a double-bit error (R263). -/
def frameUpset (c : SigCore) : Bool := (List.range 16).any (fun i => Tbl.get false c.upset (262144 + 32 + i))

/-- Resume the instruction of the frame with its micro-state (R263). -/
def lvuResume (k : Nat) (s : State) : State :=
  let c := coreOf s k
  if !c.lvu.frameValid then s
  else if frameUpset c then lvuMicroFault k 11 0 c.lvu.frameMicro.upc.toNat { s with cores := (updCore s k (fun c => { c with mt := false })).cores }
  else
    setCore s k { c with mt := false,
                         lvu := { c.lvu with stopped := false, frameValid := false, busy := some c.lvu.frame,
                                             micro := { c.lvu.frameMicro with resumed := true } } }

/-- A start record that the start phase of the lap in progress is to run: its context is ARMED and has stayed so (R76, R104). -/
def startReady (s : State) (r : StartRec) : Bool := decide (r.lap + 1 ≤ s.grid.lap) && !r.dead && (ctxOf s r.ctx).hdr.state == .armed

/-- A fast-class entry is due (R104, R158, R159). -/
def startWaits (s : State) (c : SigCore) : Bool := !c.fastOn && c.starts.any (startReady s)

/-- Requests for a micro-trap: a fast-class entry that is due, or a stop (R237, R269). -/
def trapRequest (s : State) (c : SigCore) : Bool := startWaits s c || c.lvu.stopRq

/-! ### The LVU control block -/

/-- A cluster whose contexts have left it: under test or repair, or out (R617, Table 17.9), or returning before its memories are
restored (R275). -/
def drained (s : State) (c : Nat) : Bool :=
  let st := (clusterOf s c).state
  st == 2 || st == 4 || st == 5 || st == 6 || (st == 3 && (clusterOf s c).csm.isSome)

def bootOrWorkshop (s : State) : Bool := s.modes.mode == .boot || s.modes.mode == .workshop

/-- CSVER: the patch set and CRC are live while the load port is open (Table 7.16). -/
def Lvu.csverNow (l : Lvu) : BitVec 32 :=
  if l.pload then (l.csver &&& 0xFF000000) ||| BitVec.ofNat 32 (l.pset.toNat % 256 * 65536 + l.crc.toNat) else l.csver

/-- A write of PLOAD (R270, Table 7.12). -/
def lcsPload (k : Nat) (on : Bool) (s : State) : State :=
  let l := lvuOf s k
  if on then
    if l.busy.isNone && (bootOrWorkshop s || drained s (k / 8)) then
      if l.pload then s
      else updLvu s k (fun l => { l with pload := true, pset := 0, praddr := 0, pmatch := [], csver := l.csver &&& 0xFF000000,
                                         crc := 0xFFFF, pen := false })
    else s
  else updLvu s k (fun l => { l with csver := l.csverNow, pload := false })

/-- A write of PEN (Table 7.12): a 1 is ignored while the load port is open. -/
def lcsPen (k : Nat) (on : Bool) (s : State) : State :=
  if on && (lvuOf s k).pload then s else updLvu s k (fun l => { l with pen := on })

/-- A write of POLL (R265): it waits for a busy LVU. -/
def lcsPoll (k : Nat) (on : Bool) (s : State) : State :=
  updLvu s k (fun l => if l.busy.isSome then { l with pollNext := some on } else { l with poll := on })

/-- A write of STOP (R268, R269). -/
def lcsStop (k : Nat) (s : State) : State :=
  if !drained s (k / 8) then s
  else updLvu s k (fun l => if l.busy.isSome then { l with stopRq := true } else { l with stopped := true, frameValid := false })

/-- A write of RESUME (R268): a stopped LVU with a frame goes on. -/
def lcsResume (k : Nat) (s : State) : State := if (lvuOf s k).stopped then lvuResume k s else s

/-- A write of DISCARD (R268, R278). -/
def lcsDiscard (k : Nat) (s : State) : State :=
  let l := lvuOf s k
  if l.stopped || l.halt then
    updCore s k (fun c => { c with mt := false, lvu := { c.lvu.idle with stopped := false, halt := false, stopRq := false, frameValid := false } })
  else s

/-- A microword's place in the load port takes bytes into the CRC (R273). -/
def lcsFeed (bs : Bytes) (l : Lvu) : Lvu := { l with crc := BitVec.ofNat 16 (crc16 l.crc.toNat bs) }

/-- A write of PRDATA0 to PRDATA3. -/
def lcsPrdata (k i v : Nat) (s : State) : State :=
  if (lvuOf s k).pload then updLvu s k (fun l => lcsFeed (leBytes 4 v) { l with prdata := Tbl.put 0 l.prdata i (BitVec.ofNat 32 v) }) else s

/-- A write of PRDATA4 commits the word (R270, R273). A word whose check fails is written with its error: one bit is corrected at each
fetch, two make it bad (R246). -/
def lcsCommit (k v : Nat) (s : State) : State :=
  let l := lvuOf s k
  if !l.pload then s
  else
    let d (i : Nat) : Nat := (Tbl.get 0 l.prdata i).toNat
    let w : BitVec 144 := BitVec.ofNat 144 (d 0 + 2 ^ 32 * d 1 + 2 ^ 64 * d 2 + 2 ^ 96 * d 3 + 2 ^ 128 * (v % 65536))
    let a := l.praddr.toNat % 512
    updLvu s k (fun l => lcsFeed (leBytes 2 v)
      { l with patch := Tbl.put 0 l.patch a (if Config.microEcc w = 1 then Config.microFix w else w),
               patchUpset := Tbl.put 0 l.patchUpset a (Config.microEcc w),
               praddr := BitVec.ofNat 32 ((a + 1) % 512), perr := l.perr || Config.microEcc w != 0 })

/-- A write of PMATCHn while the load port is open; reserved bits stay 0 (Table 7.15). -/
def lcsPmatch (k i v : Nat) (s : State) : State :=
  if (lvuOf s k).pload then
    updLvu s k (fun l => lcsFeed (leBytes 4 v) { l with pmatch := Tbl.put 0 l.pmatch i (BitVec.ofNat 32 v &&& 0x81FF1FFF) })
  else s

/-- A write at an offset of the control block (Table 7.11). LCSCTL's fields act together: PLOAD, PEN and POLL take their
new values, then STOP, RESUME and DISCARD. -/
def lcsWrite (k off v : Nat) (s : State) : State :=
  if off = 0 then
    let s1 := lcsPoll k (v % 2 = 1) (lcsPen k (v / 2 % 2 = 1) (lcsPload k (v / 4 % 2 = 1) s))
    let s2 := if v / 256 % 2 = 1 then lcsStop k s1 else s1
    let s3 := if v / 512 % 2 = 1 then lcsResume k s2 else s2
    if v / 1024 % 2 = 1 then lcsDiscard k s3 else s3
  else if off = 4 then
    updLvu s k (fun l => { l with perr := l.perr && !(v / 32 % 2 == 1), mf := l.mf && !(v / 8 % 2 == 1) })
  else if off = 8 then
    updLvu s k (fun l => if v / 2 ^ 31 % 2 = 1 then { l with mfrec := l.mfrec &&& 0x7FFFFFFF } else l)
  else if off = 0x14 then (if (lvuOf s k).pload then updLvu s k (fun l => { l with pset := BitVec.ofNat 32 (v % 256) }) else s)
  else if off = 0x18 then (if (lvuOf s k).pload then updLvu s k (fun l => { l with praddr := BitVec.ofNat 32 (v % 512) }) else s)
  else if 0x1C ≤ off ∧ off ≤ 0x28 ∧ off % 4 = 0 then lcsPrdata k ((off - 0x1C) / 4) v s
  else if off = 0x2C then lcsCommit k v s
  else if 0x40 ≤ off ∧ off ≤ 0xBC ∧ off % 4 = 0 then lcsPmatch k ((off - 0x40) / 4) v s
  else s

/-- CORR is read and cleared (Table 7.11). -/
def lcsCorrRead (k : Nat) (s : State) : Nat × State :=
  ((lvuOf s k).corr, updLvu s k (fun l => { l with corr := 0 }))

/-- A read at an offset of the control block. -/
def lcsRead (k off : Nat) (s : State) : Nat × State :=
  let l := lvuOf s k
  if off = 0x10 then lcsCorrRead k s
  else
    (if off = 0 then b2n l.pload 4 + b2n l.pen 2 + b2n l.poll 1
     else if off = 4 then b2n l.perr 32 + b2n l.frameValid 16 + b2n l.mf 8 + b2n l.stopRq 4 + b2n l.stopped 2 + b2n l.busy.isSome 1
     else if off = 8 then l.mfrec.toNat
     else if off = 0xC then l.csverNow.toNat
     else if off = 0x14 then l.pset.toNat
     else if off = 0x18 then l.praddr.toNat
     else if 0x40 ≤ off ∧ off ≤ 0xBC ∧ off % 4 = 0 then (Tbl.get 0 l.pmatch ((off - 0x40) / 4)).toNat
     else 0, s)

end Sys2Proof.Machine
end

