-- ==== Sys2Proof/Machine/OdTable.lean ====
section
/-! DEFINITION. The objects of the dictionary (R474 to R481): one row for every object or run of objects that a table of
the manual lists, with its type, access, masks, flags, range and default. -/

namespace Sys2Proof.Machine

/-- The types of Table 13.2. -/
inductive OdType where
  | bool | u8 | u16 | u24 | u32 | u64 | s8 | s16 | s24 | s32 | q23 | f32 | time64 | str | blob
  deriving DecidableEq, Repr

/-- The access codes of Table 13.3. -/
inductive OdAcc where
  | ro | rw | wo | rws
  deriving DecidableEq, Repr

/-- A row: indices ix to ixHi, subindices sub to subHi. df is the default; len the greatest length of a STR or BLOB;
exact tells that a BLOB has that length only; fl holds the flags PERSIST 1, MANIFEST 2, BOOTRD 4 and PERREQ 8; rm and wm
are RMASK and WMASK. -/
structure OdRow where
  ix    : Nat
  ixHi  : Nat
  sub   : Nat
  subHi : Nat
  ty    : OdType
  acc   : OdAcc
  df    : Int
  nm    : String
  mn    : Option Int := none
  mx    : Option Int := none
  len   : Nat := 0
  exact : Bool := false
  rm    : Nat := 7
  wm    : Nat := 7
  fl    : Nat := 0
  sem   : Option Nat := none
  deriving DecidableEq, Repr

/-- Code and fixed length of a type (Table 13.2); 0 for STR and BLOB. -/
def OdType.code : OdType → Nat
  | .bool => 1 | .u8 => 2 | .u16 => 3 | .u24 => 4 | .u32 => 5 | .u64 => 6 | .s8 => 7 | .s16 => 8 | .s24 => 9 | .s32 => 10
  | .q23 => 11 | .f32 => 12 | .time64 => 13 | .str => 14 | .blob => 15

def OdType.bytes : OdType → Nat
  | .bool => 1 | .u8 => 1 | .u16 => 2 | .u24 => 3 | .u32 => 4 | .u64 => 8 | .s8 => 1 | .s16 => 2 | .s24 => 3 | .s32 => 4
  | .q23 => 3 | .f32 => 4 | .time64 => 8 | .str => 0 | .blob => 0

def OdType.signed : OdType → Bool
  | .s8 => true | .s16 => true | .s24 => true | .s32 => true | .q23 => true | _ => false

/-- The bounds a type has of itself. -/
def OdType.min (t : OdType) : Int := if t.signed then -(2 ^ (8 * t.bytes - 1)) else 0

def OdType.max (t : OdType) : Int :=
  if t = .bool then 1 else if t.bytes = 0 then 0 else if t.signed then 2 ^ (8 * t.bytes - 1) - 1 else 2 ^ (8 * t.bytes) - 1

def OdAcc.code : OdAcc → Nat | .ro => 0 | .rw => 1 | .wo => 2 | .rws => 3

/-- One object. -/
def ob (ix sub : Nat) (ty : OdType) (acc : OdAcc) (df : Int) (nm : String) : OdRow :=
  { ix, ixHi := ix, sub, subHi := sub, ty, acc, df, nm }

/-- A run of objects. -/
def obs (ix ixHi sub subHi : Nat) (ty : OdType) (acc : OdAcc) (df : Int) (nm : String) : OdRow :=
  { ix, ixHi, sub, subHi, ty, acc, df, nm }

def OdRow.upto (r : OdRow) (m : Int) : OdRow := { r with mx := some m }

def OdRow.within (r : OdRow) (a b : Int) : OdRow := { r with mn := some a, mx := some b }

def OdRow.size (r : OdRow) (n : Nat) : OdRow := { r with len := n }

def OdRow.fixed (r : OdRow) (n : Nat) : OdRow := { r with len := n, exact := true }

def OdRow.persist (r : OdRow) : OdRow := { r with fl := r.fl ||| 1 }

def OdRow.manifest (r : OdRow) : OdRow := { r with fl := r.fl ||| 2 }

def OdRow.bootrd (r : OdRow) : OdRow := { r with fl := r.fl ||| 4 }

def OdRow.perreq (r : OdRow) : OdRow := { r with fl := r.fl ||| 8 }

def OdRow.guarded (r : OdRow) : OdRow := { r with sem := some 0 }

def OdRow.only (r : OdRow) (m : Nat) : OdRow := { r with rm := m, wm := m }

/-- Types, descriptions and the control range (Tables 13.1, 13.6, 9.13). -/
def odControl : List OdRow := [
  (obs 0x0001 0x000F 1 1 .u32 .ro 0 "Encoded length").bootrd,
  ((ob 0x0200 1 .u32 .rw 0 "Description select").upto 0xFFFFFF).perreq.bootrd,
  ((ob 0x0200 2 .blob .ro 0 "Description").fixed 68).bootrd,
  (ob 0x0300 1 .u8 .ro 0 "Subscriptions, port A").upto 64,
  (ob 0x0300 2 .u8 .ro 0 "Subscriptions, port B").upto 64,
  (ob 0x1000 1 .u32 .ro 0x5A71 "Vendor id").bootrd,
  ((ob 0x1000 2 .str .ro 0 "Product").size 9).bootrd,
  ((ob 0x1000 3 .u8 .ro 0 "Variant").upto 1).bootrd,
  ((ob 0x1000 4 .str .ro 0 "Serial number").size 16).bootrd,
  (ob 0x1000 5 .u32 .ro 0 "Firmware release").bootrd,
  ((ob 0x1000 6 .u8 .ro 0 "Boot slot").upto 1).bootrd,
  (ob 0x1000 7 .u8 .ro 0 "Hardware revision").bootrd,
  ((ob 0x1001 1 .u8 .ro 0 "Mode").upto 7).bootrd,
  ((ob 0x1001 2 .u8 .ro 0 "Life-cycle state").upto 5).bootrd,
  ((ob 0x1010 1 .u8 .rws 1 "Port B binding").upto 2).persist.guarded,
  (ob 0x1010 2 .u8 .ro 1 "Port B carrier in force").upto 2,
  ((ob 0x1011 1 .u16 .rws 49374 "BCP UDP port").within 1024 65535).persist.guarded,
  (ob 0x1011 2 .blob .ro 0 "Bound peer").fixed 6,
  (ob 0x1012 1 .bool .rws 0 "BCP authentication").persist.guarded,
  ((ob 0x1012 2 .u8 .rws 0 "Key slot").upto 3).persist.guarded,
  ob 0x1012 3 .u8 .ro 0 "Provisioned slots",
  (ob 0x1012 4 .u32 .ro 0 "Boot nonce").bootrd,
  ob 0x1012 5 .u32 .ro 0 "Authentication failures" ] ++ [
  ((obs 0x1013 0x1013 1 2 .u16 .rws 100 "Link-loss timeout").upto 10000).persist.guarded,
  (obs 0x1014 0x1014 1 2 .u16 .rw 0 "Notification hold-off").persist,
  obs 0x1015 0x1015 1 6 .u32 .ro 0 "Port A counters",
  obs 0x1016 0x1016 1 6 .u32 .ro 0 "Port B counters",
  (ob 0x1030 1 .u8 .wo 0 "Save").within 1 1,
  (ob 0x1030 2 .u8 .wo 0 "Restore defaults").within 1 1,
  (ob 0x1030 3 .u8 .ro 0 "Save state").upto 3,
  (obs 0x1200 0x1200 1 28 .u8 .ro 0 "Manifest state").upto 4,
  (obs 0x1201 0x1201 1 28 .blob .ro 0 "Last result").fixed 24,
  ob 0x1202 1 .u32 .ro 0 "Commit sequence",
  ob 0x1202 2 .u32 .ro 0 "Applied",
  ob 0x1202 3 .u32 .ro 0 "Aborted after check",
  (ob 0x1202 4 .blob .ro 0 "Moved slots").size 4096,
  ob 0x1202 5 .u32 .ro 0 "Parameter values dropped",
  (obs 0x1300 0x1300 1 32 .u8 .ro 0 "Semaphore owner").upto 3,
  ((obs 0x1301 0x1301 1 64 .u64 .rws 0 "Guard entries").upto 0x801FFFFFFFFFFFFF).guarded ]

/-- Chapters 2, 3, 7 and 8. -/
def odLoad : List OdRow := [
  ((ob 0x2001 1 .u8 .rw 3 "House rate").upto 5),
  ((ob 0x2001 2 .u8 .rw 8 "Lap length").within 4 64),
  ob 0x2001 3 .u64 .ro 0 "Lap number",
  ob 0x2001 4 .time64 .ro 0 "Epoch time",
  ob 0x2001 5 .u64 .ro 0 "Epoch lap",
  ob 0x2001 6 .u32 .ro 0 "Lap period",
  ob 0x2001 7 .u16 .ro 1536 "Fixed lap overhead",
  ob 0x3001 1 .bool .rw 1 "Reserve",
  (ob 0x3001 2 .u8 .ro 1 "Reserve state").upto 2,
  ob 0x3001 3 .u8 .ro 0xFF "Cluster out",
  ob 0x3001 4 .u8 .ro 0 "Drain plans",
  ((ob 0x3002 1 .u8 .rw 4 "Hot-start slots").within 1 8).manifest.persist,
  ((ob 0x3002 2 .u16 .rw 600 "Slot length").within 400 2000).manifest.persist,
  ob 0x3003 1 .u32 .ro 79397 "Usable cycles",
  ob 0x3003 2 .u32 .ro 555779 "Cluster cycle limit",
  ob 0x3003 3 .u16 .ro 1792 "Cluster context limit",
  obs 0x3004 0x3004 1 64 .u32 .ro 0 "Core finish",
  obs 0x3005 0x3005 1 8 .u16 .ro 0 "Contexts",
  ob 0x3005 9 .u16 .ro 0 "Contexts, module",
  obs 0x3006 0x3006 1 4 .u32 .ro 0 "Lane beats",
  ob 0x3006 5 .u16 .ro 0 "Bursts",
  ob 0x3006 6 .u32 .ro 72965 "Lane limit",
  ob 0x3006 7 .u32 .ro 9216 "Migration allowance",
  ob 0x3007 1 .u32 .ro 0 "DRAM bytes",
  ob 0x3007 2 .u32 .ro 3416666 "DRAM limit",
  ob 0x3008 1 .u16 .ro 0 "Grants admitted",
  ob 0x3008 2 .u16 .ro 4096 "Grants total",
  obs 0x3009 0x3009 1 8 .u32 .ro 0 "CSM words" ] ++ [
  obs 0x3010 0x3010 1 64 .u32 .ro 0 "Core overruns",
  ob 0x3010 65 .u32 .ro 0 "Total overrun laps",
  ob 0x3020 1 .u32 .ro 0 "Requests",
  ob 0x3020 2 .u32 .ro 0 "Accepted",
  obs 0x3020 0x3020 3 9 .u32 .ro 0 "Refusals",
  (ob 0x3020 10 .blob .ro 0 "Last refusal").fixed 24,
  obs 0x3030 0x3030 1 64 .u32 .ro 0 "CSVER of core",
  ob 0x3030 65 .u32 .ro 0 "Expected CSVER",
  ob 0x3030 66 .u32 .ro 0 "Micro-faults",
  ob 0x3030 67 .u32 .ro 0 "Corrected microwords",
  (ob 0x3040 1 .blob .ro 0 "Active timetable").size 32770,
  ((ob 0x3400 1 .u16 .rw 0 "Context select").upto 16383).perreq,
  (ob 0x3400 2 .blob .ro 0 "Context header").fixed 24,
  (obs 0x4001 0x43FF 2 2 .blob .ro 0 "Cost table").size 4096 ]

/-- Pools, rules, the Starter, templates and parameters (Tables 3.7 to 3.9). -/
def odStarter : List OdRow := [
  ((obs 0x4400 0x47FF 1 1 .u16 .rw 0 "Kernel").upto 1023).manifest.persist,
  ((obs 0x4400 0x47FF 2 9 .u16 .rw 0 "Share").upto 2048).manifest.persist,
  ((obs 0x4400 0x47FF 10 10 .u8 .rw 4 "Steal spares").upto 32).manifest.persist,
  ((obs 0x4400 0x47FF 11 11 .u8 .rw 0 "Steal policy").upto 3).manifest.persist,
  ((obs 0x4400 0x47FF 12 12 .u8 .rw 0 "Grants per voice").upto 8).manifest.persist,
  obs 0x4400 0x47FF 13 13 .u16 .ro 0 "Active",
  obs 0x4400 0x47FF 14 14 .u32 .ro 0 "Starts",
  obs 0x4400 0x47FF 15 15 .u32 .ro 0 "Refusals",
  obs 0x4400 0x47FF 16 16 .u32 .ro 0 "Steals",
  obs 0x4400 0x47FF 17 17 .bool .ro 0 "Hold",
  (obs 0x4400 0x47FF 18 18 .u16 .rw 0xFFFF "Restart template").manifest.persist,
  (obs 0x4800 0x4BFF 1 1 .bool .rw 0 "Enable").persist,
  ((obs 0x4800 0x4BFF 2 2 .u8 .rw 0 "Source class").upto 6).manifest.persist,
  (obs 0x4800 0x4BFF 3 3 .u16 .rw 0xFFFF "Channel mask").manifest.persist,
  (obs 0x4800 0x4BFF 4 4 .u8 .rw 0 "Note low").manifest.persist,
  (obs 0x4800 0x4BFF 5 5 .u8 .rw 255 "Note high").manifest.persist,
  (obs 0x4800 0x4BFF 6 6 .u16 .rw 0 "Velocity low").manifest.persist,
  (obs 0x4800 0x4BFF 7 7 .u16 .rw 0xFFFF "Velocity high").manifest.persist,
  ((obs 0x4800 0x4BFF 8 8 .u8 .rw 1 "Event type").within 1 6).manifest.persist,
  ((obs 0x4800 0x4BFF 9 9 .u8 .rw 0 "Action").upto 5).manifest.persist,
  ((obs 0x4800 0x4BFF 10 10 .u8 .rw 0 "Retrigger").upto 1).manifest.persist,
  ((obs 0x4800 0x4BFF 11 11 .u8 .rw 0 "Voice count").upto 8).manifest.persist,
  ((obs 0x4800 0x4BFF 12 19 .u16 .rw 0 "Pool of voice").upto 1023).manifest.persist,
  ((obs 0x4800 0x4BFF 20 27 .u16 .rw 0 "Template of voice").upto 2047).manifest.persist,
  (obs 0x4800 0x4BFF 28 28 .u8 .rw 0xFF "Velocity word").manifest.persist,
  (obs 0x4800 0x4BFF 29 29 .u8 .rw 0xFF "Note word").manifest.persist,
  obs 0x4800 0x4BFF 30 30 .u32 .ro 0 "Matches" ] ++ [
  ob 0x4C00 1 .u32 .ro 0 "Events taken",
  ob 0x4C00 2 .u32 .ro 0 "Unmatched",
  ob 0x4C00 3 .u32 .ro 0 "Refused, CONTEXT",
  ob 0x4C00 4 .u32 .ro 0 "Refused, CORE",
  ob 0x4C00 5 .u32 .ro 0 "Refused, GRANT",
  ob 0x4C00 6 .u32 .ro 0 "Refused, LATENCY",
  ob 0x4C00 7 .u32 .ro 0 "Late requested times",
  ob 0x4C00 8 .u32 .ro 0 "Releases without a voice",
  (ob 0x4C00 9 .blob .ro 0 "Last refused event").fixed 16,
  ((obs 0x5000 0x57FF 1 1 .blob .rw 0 "Template").fixed 576).manifest.persist,
  (obs 0x5000 0x57FF 2 2 .u16 .rw 0 "Template kernel").manifest.persist,
  obs 0x8000 0xBFFF 0 63 .u24 .rw 0 "Parameter" ]

/-- The sample store (Table 10.18). -/
def odStore : List OdRow := [
  ob 0xC000 1 .u64 .ro 0 "User capacity",
  ob 0xC000 2 .u64 .ro 0 "Free",
  ob 0xC000 3 .u32 .ro 0 "Objects",
  ob 0xC000 4 .u64 .ro 0 "Head region used",
  ob 0xC000 5 .u32 .ro 0 "Prefix words used",
  ob 0xC001 1 .u16 .ro 0 "Spare superblocks",
  ob 0xC001 2 .u16 .ro 0 "P/E mean",
  ob 0xC001 3 .u16 .ro 0 "P/E maximum",
  ob 0xC001 4 .u16 .ro 0 "Highest dose",
  (ob 0xC001 5 .u8 .ro 0 "Write state").upto 2,
  (ob 0xC002 1 .u8 .rw 0 "Streaming").upto 1,
  (ob 0xC002 2 .u8 .ro 0 "Streaming state").upto 3,
  ob 0xC010 1 .u32 .ro 0 "Uncorrectable pages",
  ob 0xC010 2 .u32 .ro 0 "Rebuilt reads",
  ob 0xC010 3 .u32 .ro 0 "Clamped advances",
  ob 0xC010 4 .u32 .ro 0 "Substituted windows",
  ob 0xC010 5 .u32 .ro 0 "Relocations",
  (ob 0xC020 1 .u16 .rw 180 "Offline dose").upto 1000,
  (ob 0xC020 2 .u8 .wo 0 "Prepare for storage").within 1 1,
  (ob 0xC020 3 .u8 .ro 0 "Preparation state").upto 2 ] ++ [
  ((ob 0xC100 1 .blob .wo 0 "Import open").fixed 32).only 1,
  ((ob 0xC100 2 .blob .wo 0 "Import data").size 0xFFFFFFFF).only 1,
  ((ob 0xC100 3 .u8 .wo 0 "Import action").within 1 2).only 1,
  ((ob 0xC100 4 .u8 .ro 0 "Import state").upto 5).only 1,
  (ob 0xC100 5 .u8 .ro 0 "Import status").only 1,
  ((ob 0xC101 1 .blob .wo 0 "Import open").fixed 32).only 2,
  ((ob 0xC101 2 .blob .wo 0 "Import data").size 0xFFFFFFFF).only 2,
  ((ob 0xC101 3 .u8 .wo 0 "Import action").within 1 2).only 2,
  ((ob 0xC101 4 .u8 .ro 0 "Import state").upto 5).only 2,
  (ob 0xC101 5 .u8 .ro 0 "Import status").only 2,
  ((ob 0xC102 1 .blob .wo 0 "Import open").fixed 32).only 4,
  ((ob 0xC102 2 .blob .wo 0 "Import data").size 0xFFFFFFFF).only 4,
  ((ob 0xC102 3 .u8 .wo 0 "Import action").within 1 2).only 4,
  ((ob 0xC102 4 .u8 .ro 0 "Import state").upto 5).only 4,
  (ob 0xC102 5 .u8 .ro 0 "Import status").only 4,
  (ob 0xC110 1 .u32 .wo 0 "Delete").upto 0xFFFFF,
  ((ob 0xC200 1 .u32 .rw 0 "Object select").upto 0xFFFFF).perreq,
  (ob 0xC200 2 .blob .ro 0 "Object record").fixed 32,
  ob 0xC200 3 .u8 .ro 0 "Object state",
  (obs 0xC400 0xCBFF 1 1 .u16 .rw 0xFFFF "Template keymap").manifest.persist,
  ((obs 0xCC00 0xCFFF 1 1 .blob .rw 0 "Keymap zones").size 24576).persist,
  (obs 0xCC00 0xCFFF 2 2 .u8 .ro 0 "Keymap state").upto 3,
  obs 0xCC00 0xCFFF 3 3 .u16 .ro 0 "Zone count",
  obs 0xCC00 0xCFFF 4 4 .u32 .ro 0 "Prefix words",
  obs 0xCC00 0xCFFF 5 5 .u8 .ro 0 "Last load status",
  (obs 0xE000 0xEFFF 1 1 .blob .ro 0 "Stream record").fixed 24 ]

/-- Time and the network (Tables 14.7, 14.14 and 14.15). -/
def odNetwork : List OdRow := [
  ob 0x2100 1 .time64 .ro 0 "gPTP time",
  ob 0x2100 2 .time64 .wo 0 "Set time",
  ob 0x2100 3 .u64 .ro 0 "Clock identity",
  (ob 0x2100 4 .u8 .rw 246 "priority1").persist,
  (ob 0x2100 5 .u8 .rw 248 "priority2").persist,
  (ob 0x2100 6 .s16 .rw 37 "UTC offset").persist,
  (ob 0x2100 7 .bool .rw 0 "UTC offset valid").persist,
  ob 0x2100 8 .u16 .ro 0 "Time base indicator",
  ob 0x2100 9 .u32 .ro 0 "Foreign Announce",
  ob 0x2100 10 .u32 .ro 0 "Ignored Sync",
  (obs 0x2101 0x2102 1 1 .u8 .ro 0 "gPTP port state").upto 1,
  obs 0x2101 0x2102 2 2 .bool .ro 0 "asCapable",
  obs 0x2101 0x2102 3 3 .u32 .ro 0 "Mean link delay",
  (ob 0x2110 1 .bool .rw 1 "MCLK enable").persist,
  (ob 0x2110 2 .bool .rw 1 "WCLK enable").persist,
  (ob 0x2110 3 .bool .rw 1 "PPS enable").persist,
  (ob 0x2120 1 .bool .rw 1 "CRF enable").persist,
  ob 0x2120 2 .u64 .ro 0 "CRF stream ID",
  ((ob 0x2120 3 .u16 .rw 192 "CRF offset").upto 9600).persist,
  (ob 0x2120 4 .u8 .rw 3 "CRF ports").within 1 3,
  (obs 0x2200 0x2201 1 1 .u8 .ro 0 "Speed in force").upto 3,
  ((obs 0x2200 0x2201 2 2 .u8 .rw 7 "Speeds allowed").upto 7).persist,
  obs 0x2200 0x2201 3 3 .u64 .ro 0 "MAC address",
  obs 0x2200 0x2201 4 4 .u32 .ro 0 "Frames received",
  obs 0x2200 0x2201 5 5 .u32 .ro 0 "Frames discarded",
  obs 0x2200 0x2201 6 6 .u32 .ro 0 "PAUSE discarded" ] ++ [
  (obs 0x2300 0x24FF 1 1 .bool .rw 0 "Stream enable").manifest.persist,
  (obs 0x2300 0x24FF 2 2 .u64 .rw 0 "Stream ID").manifest.persist,
  ((obs 0x2300 0x24FF 3 3 .u64 .rw 0 "Destination").upto 0xFFFFFFFFFFFF).manifest.persist,
  ((obs 0x2300 0x24FF 4 4 .u16 .rw 2 "VLAN").within 1 4094).manifest.persist,
  ((obs 0x2300 0x24FF 5 5 .u8 .rw 0 "Class").upto 1).manifest.persist,
  ((obs 0x2300 0x24FF 6 6 .u8 .rw 2 "Channels").within 1 64).manifest.persist,
  ((obs 0x2300 0x24FF 7 7 .u16 .rw 0 "Channel base").upto 511).manifest.persist,
  ((obs 0x2300 0x23FF 8 8 .u32 .rw 2000000 "Transit").upto 100000000).manifest.persist,
  ((obs 0x2400 0x24FF 8 8 .u32 .rw 0 "Transit").upto 0).manifest.persist,
  ((obs 0x2300 0x24FF 9 9 .u8 .rw 1 "Ports").within 1 3).manifest.persist,
  (obs 0x2300 0x24FF 10 10 .u8 .ro 0 "State").upto 5,
  obs 0x2300 0x24FF 11 11 .u32 .ro 0 "Packets",
  obs 0x2300 0x24FF 12 12 .u32 .ro 0 "Late samples",
  obs 0x2300 0x24FF 13 13 .u32 .ro 0 "Early packets",
  obs 0x2300 0x24FF 14 14 .u32 .ro 0 "Format mismatches",
  obs 0x2300 0x24FF 15 15 .u32 .ro 0 "Sequence losses",
  obs 0x2300 0x24FF 16 16 .u32 .ro 0 "Duplicates discarded",
  ((obs 0x2500 0x2501 1 1 .u8 .rw 0 "IP mode").upto 2).persist,
  (obs 0x2500 0x2501 2 2 .u32 .rw 0 "Static address").persist,
  (obs 0x2500 0x2501 3 3 .u32 .rw 0xFFFFFF00 "Static mask").persist,
  (obs 0x2500 0x2501 4 4 .u32 .rw 0 "Static gateway").persist,
  obs 0x2500 0x2501 5 5 .u32 .ro 0 "Address in force",
  obs 0x2500 0x2501 6 6 .u32 .ro 0 "Mask in force",
  obs 0x2500 0x2501 7 7 .u32 .ro 0 "Gateway in force",
  (obs 0x2500 0x2501 8 8 .u8 .ro 0 "Address origin").upto 3,
  ob 0x2600 1 .u64 .ro 0 "Entity ID",
  (ob 0x2600 2 .bool .rws 0 "1722.1 control").persist.guarded,
  ((ob 0x2600 3 .str .rw 0 "Entity name").size 64).persist,
  (ob 0x2700 1 .bool .rw 0 "Note listener enable").persist,
  (ob 0x2700 2 .u64 .rw 0 "Note stream ID").persist,
  ob 0x2700 3 .u32 .ro 0 "Note records discarded" ]

/-- Audio and performance inputs and outputs (chapter 15). -/
def odInputs : List OdRow := [
  ((obs 0x2800 0x2800 1 4 .u8 .rw 0 "Input range").upto 1).persist,
  obs 0x2800 0x2800 5 8 .u32 .ro 0 "Clip counts",
  (obs 0x2801 0x2801 1 8 .bool .rw 0 "Line output mute").persist,
  ((obs 0x2802 0x2802 1 2 .s16 .rw (-40) "Headphone volume").within (-161) 0).persist,
  (obs 0x2810 0x2813 1 1 .bool .rw 0 "Enable").persist,
  ((obs 0x2810 0x2813 2 2 .u8 .rw 0 "Slots").upto 3).persist,
  ((obs 0x2810 0x2813 3 3 .u8 .rw 0 "Frame format").upto 2).persist,
  ob 0x2820 1 .u32 .ro 0 "USB late samples",
  ob 0x2820 2 .u8 .ro 32 "USB channels in force",
  (ob 0x2830 1 .bool .rw 1 "DIN routing").persist,
  (ob 0x2830 2 .bool .rw 0 "DIN copy").persist,
  (ob 0x2830 3 .bool .rw 0 "DIN thru").persist,
  ob 0x2830 4 .u32 .ro 0 "Framing errors",
  ob 0x2830 5 .u32 .ro 0 "Queue overruns",
  (ob 0x2830 6 .blob .wo 0 "Send").size 256,
  (ob 0x2831 1 .bool .rw 1 "USB routing").persist,
  (ob 0x2831 2 .bool .rw 0 "USB copy").persist,
  ob 0x2831 3 .u32 .ro 0 "USB queue overruns",
  (ob 0x2840 1 .bool .rw 1 "Scan enable").persist,
  (ob 0x2840 2 .blob .ro 0 "Raw states").fixed 80,
  (ob 0x2841 1 .blob .ro 0 "Quarantined").size 1344,
  ob 0x2841 2 .u32 .ro 0 "Quarantines" ] ++ [
  (obs 0x2900 0x2A3F 1 1 .bool .rw 0 "Enable").persist,
  (obs 0x2900 0x2A3F 2 2 .u16 .rw 0xFFFF "First contact").persist,
  (obs 0x2900 0x2A3F 3 3 .u16 .rw 0xFFFF "Second contact").persist,
  ((obs 0x2900 0x2A3F 4 4 .u8 .rw 0 "Kind").upto 1).persist,
  ((obs 0x2900 0x2A3F 5 5 .u8 .rw 0 "Release contact").upto 1).persist,
  (obs 0x2900 0x2A3F 6 6 .u8 .rw 0 "NOTE").persist,
  ((obs 0x2900 0x2A3F 7 7 .u8 .rw 0 "CHAN").upto 15).persist,
  ((obs 0x2900 0x2A3F 8 8 .u8 .rw 0 "Curve").upto 7).persist,
  ((obs 0x2900 0x2A3F 9 9 .u16 .rw 0 "Debounce, first contact").upto 500).persist,
  ((obs 0x2900 0x2A3F 10 10 .u16 .rw 0 "Debounce, second contact").upto 500).persist,
  (obs 0x2900 0x2A3F 11 11 .u16 .rw 0xFFFF "Fixed velocity").persist,
  ((obs 0x2A80 0x2A87 1 1 .blob .rw 0 "Curve").fixed 512).persist,
  ((obs 0x2A80 0x2A87 2 2 .u16 .rw 4 "Scale S").within 1 1000).persist,
  (obs 0x2B00 0x2B0F 1 1 .u16 .ro 0 "Value").upto 4095,
  ((obs 0x2B00 0x2B0F 2 2 .u16 .rw 2458 "Rising threshold").upto 4095).persist,
  ((obs 0x2B00 0x2B0F 3 3 .u16 .rw 1638 "Falling threshold").upto 4095).persist,
  ((obs 0x2B00 0x2B0F 4 4 .u8 .rw 0 "Rising type").upto 6).persist,
  ((obs 0x2B00 0x2B0F 5 5 .u8 .rw 0 "Falling type").upto 6).persist,
  ((obs 0x2B00 0x2B0F 6 6 .u8 .rw 0 "CHAN").upto 15).persist,
  ((obs 0x2B20 0x2B2F 1 1 .u8 .rw 0 "Mode").upto 2).persist,
  ((obs 0x2B20 0x2B2F 2 2 .u8 .rw 1 "Pull").upto 2).persist,
  (obs 0x2B20 0x2B2F 3 3 .bool .rw 0 "Invert").persist,
  ((obs 0x2B20 0x2B2F 4 4 .u16 .rw 0 "Debounce").upto 5000).persist,
  ((obs 0x2B20 0x2B2F 5 5 .u8 .rw 0 "Rising type").upto 6).persist,
  ((obs 0x2B20 0x2B2F 6 6 .u8 .rw 0 "Falling type").upto 6).persist,
  (obs 0x2B20 0x2B2F 7 7 .u16 .rw 0xFFFF "Velocity").persist,
  obs 0x2B20 0x2B2F 8 8 .bool .rw 0 "Level",
  ((obs 0x2B20 0x2B2F 9 9 .u8 .rw 0 "CHAN").upto 15).persist ]

/-- Modes, updates, applications, errors, self-test, availability and supply (chapters 11, 16, 17 and 18). -/
def odService : List OdRow := [
  (((ob 0xF000 1 .u8 .rws 2 "Mode request").upto 5)).guarded,
  (ob 0xF000 2 .u8 .ro 0 "Transition").upto 1,
  ob 0xF000 3 .bool .rw 0 "Boot to SAFE",
  ob 0xF000 4 .u8 .ro 0 "Mode cause",
  ob 0xF000 5 .u16 .ro 0 "Warm resets",
  (ob 0xF000 6 .blob .ro 0 "Start-up times").fixed 32,
  ((ob 0xF000 7 .u8 .rws 0 "Warm reset").within 0xA5 0xA5).guarded,
  ((ob 0xF001 1 .u8 .rws 0 "Life-cycle request").upto 5).guarded,
  (ob 0xF001 2 .blob .rw 0 "Life-cycle token").fixed 88,
  ob 0xF001 3 .u32 .ro 0 "Service nonce",
  ((obs 0xF001 0xF001 4 7 .blob .wo 0 "Customer key").fixed 32).guarded,
  obs 0xF002 0xF002 1 13 .u32 .ro 0xFFFFFFFF "Identity word",
  (ob 0xF010 1 .u8 .ro 0 "Target slot").upto 1,
  ((ob 0xF010 2 .blob .rws 0 "Image").size 536870912).guarded,
  ((ob 0xF010 3 .u8 .rws 0 "Verify").within 1 1).guarded,
  (ob 0xF010 4 .u8 .ro 0 "Update state").upto 7,
  ((ob 0xF010 5 .u8 .rws 0 "Activate").within 1 2).guarded,
  ((ob 0xF010 6 .u8 .rws 0 "Confirm rollback").within 1 1).guarded,
  ob 0xF010 7 .u8 .ro 0 "Rollback counter",
  ob 0xF010 8 .u8 .ro 0 "Last status",
  (ob 0xF010 9 .blob .ro 0 "Role map").fixed 4,
  (ob 0xF020 1 .bool .rw 1 "Retention").persist,
  ob 0xF020 2 .time64 .rw 0 "Alarm",
  (ob 0xF020 3 .bool .rw 1 "Alarm wakes").persist,
  ob 0xF030 1 .u16 .ro 0 "VIN",
  ob 0xF030 2 .s16 .ro 0 "Case temperature",
  ob 0xF030 3 .s16 .ro 0 "Hottest junction",
  ob 0xF030 4 .u32 .ro 0 "Power drawn",
  (ob 0xF030 5 .u8 .ro 0 "VOUT33 state").upto 2,
  ((ob 0xF030 6 .s16 .rw 1200 "Case warning threshold").within 0 1300).persist,
  ((ob 0xF030 7 .u16 .rw 11000 "VIN warning threshold").within 10800 12500).persist,
  (ob 0xF030 8 .u8 .ro 0 "Cause of last start-up").upto 4 ] ++ [
  (obs 0xF050 0xF057 1 1 .u8 .ro 0 "State").upto 5,
  ((obs 0xF050 0xF057 2 2 .blob .rws 0 "Image").size 67108960).guarded,
  ((obs 0xF050 0xF057 3 3 .u8 .rws 0 "Install").within 1 2).guarded,
  ((obs 0xF050 0xF057 4 4 .u8 .rws 0 "Run").upto 1).guarded,
  (obs 0xF050 0xF057 5 5 .blob .ro 0 "Header").size 64,
  (obs 0xF050 0xF057 6 6 .blob .ro 0 "Last exception").fixed 24,
  obs 0xF050 0xF057 7 7 .u8 .ro 0 "Last status",
  (ob 0xF058 1 .bool .rws 0 "Images without a tag").persist.guarded,
  (ob 0xF058 2 .u8 .ro 0 "Running").upto 8,
  ob 0xF100 1 .u32 .ro 0 "Newest record",
  ob 0xF100 2 .u32 .ro 0 "Oldest held",
  ob 0xF100 3 .u32 .ro 0 "Dropped",
  ob 0xF100 4 .u32 .ro 0 "Archived through",
  ob 0xF100 5 .u16 .ro 0 "Open episode",
  ob 0xF100 6 .u32 .ro 0 "Episodes",
  (ob 0xF100 7 .u8 .wo 0 "Clear").within 1 1,
  (obs 0xF101 0xF101 0 255 .blob .ro 0 "Ring slot").fixed 40,
  (ob 0xF102 1 .blob .ro 0 "Archive").size 67108864,
  obs 0xF110 0xF110 1 13 .u32 .ro 0 "Corrected" ] ++ [
  (ob 0xF200 1 .u32 .rw 600 "Pass interval").persist.upto 86400,
  ob 0xF200 2 .u32 .ro 0 "Passes",
  (ob 0xF200 3 .u8 .wo 0 "Test now").upto 7,
  (ob 0xF200 4 .bool .rw 1 "Automatic return").persist,
  (ob 0xF200 5 .u8 .wo 0 "Repair again").upto 7,
  obs 0xF201 0xF201 1 192 .u32 .ro 0 "Slice results",
  (ob 0xF202 1 .blob .ro 0 "Last slice").fixed 24,
  (obs 0xF210 0xF210 1 8 .u8 .ro 0 "Cluster state").upto 6,
  obs 0xF210 0xF210 9 16 .u8 .ro 0 "Quarantines",
  (obs 0xF220 0xF220 1 8 .u8 .ro 0 "Repair fuses used").upto 32,
  (ob 0xF230 1 .u16 .rw 0 "Self-test run").upto 255,
  (ob 0xF230 2 .u8 .ro 0 "Self-test state").upto 3,
  (ob 0xF230 3 .blob .ro 0 "Self-test results").fixed 8,
  (ob 0xF230 4 .u8 .wo 0 "Self-test abort").within 1 1,
  (ob 0xF300 1 .u32 .rw 0 "Page address").upto 0x7FFFFFF,
  (ob 0xF300 2 .blob .rw 0 "Page data").size 18432,
  (ob 0xF300 3 .u8 .wo 0 "Action").within 1 5,
  ob 0xF300 4 .u8 .ro 0 "Result",
  ob 0xF300 5 .u16 .ro 0 "Corrected bits",
  ob 0xF400 1 .u64 .ro 0 "Service laps",
  ob 0xF400 2 .u64 .ro 0 "Impaired laps",
  ob 0xF400 3 .u64 .ro 0 "Outage laps",
  ob 0xF400 4 .u32 .ro 1000000000 "Availability",
  ob 0xF400 5 .u64 .ro 0 "Service laps, reserve off",
  (ob 0xF400 6 .u8 .wo 0 "Clear").within 1 1 ]

/-- Every object. -/
def odTable : List OdRow := odControl ++ odLoad ++ odStarter ++ odStore ++ odNetwork ++ odInputs ++ odService

/-- The rows that could hold an object of an index, by the range of Table 13.1 that holds it. -/
def odRows (ix : Nat) : List OdRow :=
  if ix < 0x2000 then odControl
  else if ix < 0x2800 then (if ix = 0x2001 then odLoad else odNetwork)
  else if ix < 0x3000 then odInputs
  else if ix < 0x4400 then odLoad
  else if ix < 0xC000 then odStarter
  else if ix < 0xF000 then odStore
  else odService

/-- The row of an object, if there is one. -/
def odRow (ix sub : Nat) : Option OdRow :=
  (odRows ix).find? (fun r => decide (r.ix ≤ ix ∧ ix ≤ r.ixHi ∧ r.sub ≤ sub ∧ sub ≤ r.subHi))

/-- Whether an index holds an object (R474). -/
def odIndex (ix : Nat) : Bool := (odRows ix).any (fun r => decide (r.ix ≤ ix ∧ ix ≤ r.ixHi))

def OdRow.vmin (r : OdRow) : Int := r.mn.getD r.ty.min

def OdRow.vmax (r : OdRow) : Int := r.mx.getD r.ty.max

/-- An integer in the bytes of a type. -/
def intBytes (n : Nat) (v : Int) : Bytes := leBytes n (v % (2 ^ (8 * n) : Int)).toNat

/-- The bytes of the words "ATY-9624M". -/
def productName : Bytes := [0x41, 0x54, 0x59, 0x2D, 0x39, 0x36, 0x32, 0x34, 0x4D]

/-- The default of an object (the default of a curve is entry i = 65,535 - 256 i, Table 15.7). -/
def odDefault (ix sub : Nat) : Bytes :=
  match odRow ix sub with
  | none => []
  | some r =>
    if r.ty.bytes ≠ 0 then
      if 0x2300 ≤ ix ∧ ix ≤ 0x23FF ∧ sub = 2 then leBytes 8 (Config.macAddress 0 * 65536 + (ix - 0x2300))
      else intBytes r.ty.bytes r.df
    else if 0x2A80 ≤ ix ∧ ix ≤ 0x2A87 then (List.range 256).flatMap (fun i => leBytes 2 (65535 - 256 * i))
    else if ix = 0x2600 ∨ ix = 0x1000 ∧ sub = 2 then productName
    else if 0x5000 ≤ ix ∧ ix ≤ 0x57FF then List.replicate 576 0
    else if r.exact ∧ r.acc = .ro then List.replicate r.len 0
    else []

def odKey (ix sub : Nat) : Nat := 256 * ix + sub

/-- The bytes a stored object holds. -/
def odBytes (s : State) (ix sub : Nat) : Bytes :=
  match lookupNat s.dict.od (odKey ix sub) with
  | some b => b
  | none => odDefault ix sub

/-- The number a stored object holds. -/
def od (s : State) (ix sub : Nat) : Nat := leNat (odBytes s ix sub)

/-- The signed number a stored object holds. -/
def odInt (s : State) (ix sub : Nat) : Int := leInt (odBytes s ix sub)

def odBool (s : State) (ix sub : Nat) : Bool := od s ix sub != 0

/-- Store an object's value; a value equal to the default is not listed. -/
def odPut (ix sub : Nat) (v : Bytes) (s : State) : State :=
  { s with dict := { s.dict with
      od := assocSet s.dict.od (odKey ix sub) (if v = odDefault ix sub then none else some v) } }

def odSet (ix sub : Nat) (v : Nat) (s : State) : State :=
  match odRow ix sub with
  | some r => odPut ix sub (leBytes r.ty.bytes v) s
  | none => s

end Sys2Proof.Machine
end

