-- ==== Sys2Proof/Machine/Stream.lean ====
section
/-! DEFINITION. Kernels' cost tables (Table 8.2), object records (Table 10.6) and streams (R363 to R376): heads, rings,
play order, the window and the status word that the mover puts before a kernel, and the advance words it sends back. -/

namespace Sys2Proof.Machine

/-! ### Cost tables -/

/-- A little-endian field of n bytes at an offset. -/
def fieldAt (bs : Bytes) (off n : Nat) : Nat := leNat ((bs.drop off).take n)

def Kernel.flags (k : Kernel) : Nat := fieldAt k.table 1 1
def Kernel.dramWin (k : Kernel) : Bool := k.flags % 2 = 1
def Kernel.precise (k : Kernel) : Bool := k.flags / 2 % 2 = 1
def Kernel.stream (k : Kernel) : Bool := k.flags / 4 % 2 = 1
def Kernel.ownHandler (k : Kernel) : Bool := k.flags / 8 % 2 = 1
def Kernel.programLen (k : Kernel) : Nat := fieldAt k.table 4 2
def Kernel.start (k : Kernel) : Nat := fieldAt k.table 6 2
def Kernel.xWords (k : Kernel) : Nat := fieldAt k.table 8 2
def Kernel.yWords (k : Kernel) : Nat := fieldAt k.table 10 2
def Kernel.channels (k : Kernel) : Nat := fieldAt k.table 12 1
/-- Rho is a byte whose value 0 stands for 256 where STREAM = 1 (Table 8.2 gives 64 to 256 in one byte; log 32). -/
def Kernel.rho (k : Kernel) : Nat :=
  let r := fieldAt k.table 13 1
  if k.stream && r == 0 then 256 else r
def Kernel.feedCount (k : Kernel) : Nat := fieldAt k.table 14 1
def Kernel.csm (k : Kernel) : Nat := fieldAt k.table 16 4
def Kernel.csmPerCtx (k : Kernel) : Nat := fieldAt k.table 20 4
def Kernel.permit (k : Kernel) (i : Nat) : Nat := fieldAt k.table (24 + 4 * i) 4
def Kernel.feedWord (k : Kernel) (i : Nat) : Nat := fieldAt k.table (40 + 8 * i) 8
def Kernel.fixedCost (k : Kernel) (n : Nat) : Nat := fieldAt k.table (40 + 8 * k.feedCount + 4 * (n - 1)) 4
def Kernel.sampleCost (k : Kernel) (n : Nat) : Nat := fieldAt k.table (552 + 8 * k.feedCount + 4 * (n - 1)) 4
/-- The lap cost of a convoy of n (R284). -/
def Kernel.cost (k : Kernel) (nLap n : Nat) : Nat := k.fixedCost n + nLap * k.sampleCost n

/-- A feed descriptor's fields (Table 8.3). -/
def feedOf (w : Nat) : Feed := ⟨fld w 63 62, fld w 61 61 = 1, fld w 47 24, fld w 23 0⟩

def Kernel.feeds (k : Kernel) : List Feed := (List.range k.feedCount).map (fun i => feedOf (k.feedWord i))

/-- The kernel of an id in a load. -/
def Load.kernel (l : Load) (id : Nat) : Option Kernel := lookupNat l.kernels id

def Load.slot (l : Load) (i : Nat) : Option Slot := lookupNat l.slots i

/-- The kernel of a convoy slot of the load in force. -/
def slotKernel (s : State) (slot : Nat) : Option (Slot × Kernel) :=
  match s.adm.load.slot slot with
  | some x => (match s.adm.load.kernel x.kernel with | some k => some (x, k) | none => none)
  | none => none

/-- The core that processes a convoy slot. -/
def slotCoreIn (i : Nat) (x : Slot) : Nat := 8 * (i / 16) + x.core % 8

/-- The input channels, as interface and channel, that the convoys of a cluster read: each once, in slot order (log 104). -/
def Load.inputs (l : Load) (cluster : Nat) : List (Nat × Nat) :=
  ((l.slots.filter (fun e => e.1 / 16 == cluster)).flatMap (fun e =>
    match l.kernel e.2.kernel with | some k => Config.inputChannels k.table | none => [])).eraseDups

/-- The station that brings an input channel: 10 for the network station's interfaces, 11 for the audio station's (Table 15.1). -/
def inputStation (iface : Nat) : Nat := if iface = 4 ∨ iface = 5 then 10 else 11

/-- Words of a burst of 256 beats (R301). -/
def burstWords : Nat := 1365

/-- The first word of a kernel's program in a program bank: open, and so far below the default handler that the program ends before it
(R124, log 20). -/
def kernelBase (s : State) (core id : Nat) : Nat :=
  match s.adm.load.kernel id with
  | some k => Config.kernelEntry core id % (0x1F01 - k.programLen)
  | none => 0

/-! ### Object records (Table 10.6) -/

structure ObjRec where
  id : Nat
  channels : Nat
  ws : Nat
  res : Nat
  head : Nat
  rho : Nat
  peak : Nat
  frames : Nat
  ls : Nat
  le : Nat
  bytes : Nat
  crc : Nat
  deriving DecidableEq, Repr

def objRec (b : Bytes) : ObjRec :=
  ⟨fieldAt b 0 4, fieldAt b 4 1, fieldAt b 5 1, fieldAt b 6 1, fieldAt b 7 1, fieldAt b 8 2, fieldAt b 10 2, fieldAt b 12 4,
   fieldAt b 16 4, fieldAt b 20 4, fieldAt b 24 4, fieldAt b 28 4⟩

def objOf (s : State) (id : Nat) : SObj := Tbl.get {} s.store.objects id

def setObj (s : State) (id : Nat) (o : SObj) : State := { s with store := { s.store with objects := Tbl.put {} s.store.objects id o } }

/-- Frames of an object's head at a rate (R357). -/
def headFrames (r : ObjRec) (rate : Nat) : Nat := (r.head * r.rho * rateHz rate + 63999) / 64000

/-- Bytes an object's head occupies. -/
def headBytes (r : ObjRec) (rate : Nat) : Nat := (headFrames r rate * r.channels * 3 + 63) / 64 * 64

/-- Bytes of the head region in use at a rate: every object in HEADING or READY. -/
def headsUsed (s : State) (rate : Nat) : Nat :=
  s.store.objects.foldl (fun acc o => if o.2.state = 3 ∨ o.2.state = 4 then acc + headBytes (objRec o.2.record) rate else acc) 0

/-- The head region (Table 10.5). -/
def headRegion : Nat := 12 * 2 ^ 30

/-- The grant cost of an object for a kernel (R364). -/
def grantCost (kch krho peak rate : Nat) : Nat :=
  max ((krho * kch * 3 * rateHz rate + 64 * 576000 - 1) / (64 * 576000))
      ((krho * peak * rateHz rate + 64 * 1024 * 580500 - 1) / (64 * 1024 * 580500))

/-! ### Keymaps (R360 to R363) -/

/-- A zone of a keymap (Table 10.8). -/
structure Zone where
  noteLo : Nat
  noteHi : Nat
  velLo : Nat
  velHi : Nat
  object : Nat
  res : Nat
  deriving DecidableEq, Repr

def zoneAt (b : Bytes) (i : Nat) : Zone :=
  ⟨fieldAt b (12 * i) 1, fieldAt b (12 * i + 1) 1, fieldAt b (12 * i + 2) 2, fieldAt b (12 * i + 4) 2, fieldAt b (12 * i + 6) 4,
   fieldAt b (12 * i + 10) 2⟩

def zones (b : Bytes) : List Zone := (List.range (b.length / 12)).map (zoneAt b)

def keymapZones (s : State) (m : Nat) : List Zone := zones (odBytes s (0xCC00 + m) 1)

def keymapState (s : State) (m : Nat) : Nat := (Tbl.get {} s.store.keymaps m).state

/-- The keymap of a template, or none (R359). -/
def templateKeymap (s : State) (t : Nat) : Option Nat := let m := od s (0xC400 + t) 1; if m ≥ 1024 then none else some m

/-- The object a voice streams: the first zone that holds its note and velocity (R363). -/
def zoneObject (zs : List Zone) (note vel : Nat) : Option Nat :=
  match zs.find? (fun z => decide (z.noteLo ≤ note ∧ note ≤ z.noteHi ∧ z.velLo ≤ vel ∧ vel ≤ z.velHi)) with
  | some z => some z.object
  | none => none

/-! ### Streams (R367 to R376) -/

def ringOf (s : State) (r : Nat) : Ring := Tbl.get {} s.store.rings r

def setRing (s : State) (r : Nat) (x : Ring) : State := { s with store := { s.store with rings := Tbl.put {} s.store.rings r x } }

/-- Frames a ring of g grants holds (R369). -/
def ringFrames (g ch : Nat) : Nat := (65536 * g - 64) / (3 * ch)

/-- The frame that a play index names (R368): close is the play index at which the loop closed. -/
def playFrame (r : ObjRec) (close k : Nat) : Nat :=
  if r.le = 0 ∨ k < r.le then k
  else if k < close then r.ls + (k - r.le) % (r.le - r.ls)
  else r.le + (k - close)

/-- The play index after an object's last frame, none while a loop is open. -/
def playEnd (r : ObjRec) (close : Nat) : Option Nat :=
  if r.le = 0 then some r.frames else if close = 0xFFFFFFFF then none else some (close + (r.frames - r.le))

/-- One frame of a stream: its words, whether it is a frame replaced by zero (ERR), and whether the ring lacked it. A frame of an invalid
coding frame is zero and sets ERR (R395). -/
def streamFrame (rate : Nat) (o : SObj) (g : Ring) (k : Int) : List (BitVec 24) × Bool × Bool :=
  let r := objRec o.record
  let zero := List.replicate r.channels (0 : BitVec 24)
  let frame (i : Nat) : List (BitVec 24) × Bool × Bool :=
    match objectFrame r.channels r.frames o.data (playFrame r g.loopClose i) with
    | some ws => (ws, false, false)
    | none => (zero, true, false)
  if k < 0 then (zero, false, false)
  else
    let i := k.toNat
    let past := match playEnd r g.loopClose with | some e => decide (i ≥ e) | none => false
    if past then (zero, false, false)
    else if i < headFrames r rate then frame i
    else if i ≥ g.written then (zero, true, true)
    else if g.zeros.any (fun z => decide (z.1 ≤ i ∧ i < z.1 + z.2)) then (zero, true, false)
    else frame i

/-- A = ceil(N_lap x Rho / 64) of R372. -/
def advanceMax (nLap : Nat) (k : Kernel) : Nat := (nLap * k.rho + 63) / 64

/-- Words of one stream area (R86): for each channel 128 windows of A + 32. -/
def streamArea (nLap : Nat) (k : Kernel) : Nat := if k.stream then k.channels * 128 * (advanceMax nLap k + 32) else 0

/-- The base of the stream area of a convoy buffer (R86, R160). DESIGN CHOICE (log 109): the area of buffer B stands right after an area
of the same kernel's size. -/
def streamBase (nLap : Nat) (k : Kernel) (bufB : Bool) : Nat := if bufB then streamArea nLap k % 65536 else 0

/-- The status word of Table 10.12 for the window at a ring's cursor. -/
def statusWord (nLap : Nat) (k : Kernel) (o : SObj) (g : Ring) (err : Bool) : BitVec 24 :=
  let r := objRec o.record
  let a := advanceMax nLap k
  let loopOpen := decide (r.le > 0) && decide (g.loopClose = 0xFFFFFFFF)
  match playEnd r g.loopClose with
  | none => BitVec.ofNat 24 ((if err then 4194304 else 0) + (if loopOpen then 2097152 else 0) + 0x1FFFFF)
  | some e =>
    BitVec.ofNat 24 ((if e < g.cursor + a + 16 then 8388608 else 0) + (if err then 4194304 else 0) +
      (if loopOpen then 2097152 + 0x1FFFFF else min 0x1FFFFF (e - g.cursor)))

/-- The CSM word of feed f of a context: the manual does not say where a feed's words lie (log 31). -/
def csmFeedKey (ctx f : Nat) : Nat := 1048576 * (ctx / 2048) + Config.csmFeedWord ctx f % 1048576

/-- Fill the window of one element in Y and its status word (R372, R375, R376). -/
def fillWindow (core base nLap : Nat) (k : Kernel) (e : Nat) (s : State) (ring : Nat) : State :=
  let g := ringOf s ring
  let o := objOf s g.object
  let wd := advanceMax nLap k + 32
  let fr := (List.range wd).map (fun (j : Nat) => streamFrame s.grid.rate o g ((g.cursor : Int) - 16 + (j : Nat)))
  let err := fr.any (fun f => f.2.1)
  let under := fr.any (fun f => f.2.2)
  let y := (List.range k.channels).foldl (fun y ch =>
    Tbl.putAll 0 y ((base + (ch * 128 + e) * wd) % 65536) (fr.map (fun f => f.1.getD ch 0))) (coreOf s core).y
  let upset := (List.range k.channels).foldl (fun u ch => (List.range wd).foldl (fun u j =>
    Tbl.put false u (0x10000 + (base + (ch * 128 + e) * wd) % 65536 + j) false) u) (coreOf s core).upset
  let s1 := updCore s core (fun c => { c with y := y, upset := upset })
  let s2 := { s1 with csm := Tbl.put 0 s1.csm (csmFeedKey g.ctx 1) (statusWord nLap k o g err),
                      csmUpset := Tbl.put false s1.csmUpset (csmFeedKey g.ctx 1) false }
  let s3 := if err then
      fire 129 (setRing { s2 with
        avail := { s2.avail with taint := insertNat (g.ctx / 128) s2.avail.taint }
        store := { s2.store with substituted := sat32 s2.store.substituted } } ring
        { g with subst := min 65535 (g.subst + 1) })
    else s2
  if under then logRecord 130 1 0x11 (core / 8) 255 (leBytes 2 ring) s3 else s3

/-- After a convoy the mover sends each element's advance word in feed 0 (R373). -/
def advanceWord (nLap : Nat) (k : Kernel) (s : State) (ctx : Nat) : State :=
  let c := ctxOf s ctx
  if !c.hdr.sv then s
  else
    let ring := c.hdr.ring.toNat
    let g := ringOf s ring
    if g.ctx ≠ ctx ∨ g.state = 0 then s
    else
      let st := if c.hdr.state = .migrating then c.prior else c.hdr.state
      if st = .running ∨ st = .releasing then
        let adv := (Tbl.get 0 s.csm (csmFeedKey ctx 0)).toNat % 512
        let a := advanceMax nLap k
        let s1 := if adv > a then { s with store := { s.store with clamped := sat32 s.store.clamped } } else s
        setRing s1 ring { g with cursor := g.cursor + min adv a, leave := g.leave || st == .releasing }
      else s

/-- The stream of a context that became FREE closes (R111, R377): what its ring still reads is discarded. -/
def closeStream (ctx : Nat) (s : State) : State :=
  let c := ctxOf s ctx
  if !c.hdr.sv then s
  else
    let ring := c.hdr.ring.toNat
    let g := ringOf s ring
    if g.ctx = ctx ∧ g.state = 1 then setRing s ring { g with orphan := true } else s

/-- Whether some voice in RUNNING or RELEASING streams an object (R388). -/
def objectSounding (s : State) (id : Nat) : Bool :=
  s.store.rings.any (fun e =>
    let g := e.2
    let h := (ctxOf s g.ctx).hdr
    g.state != 0 && g.object == id && h.sv && h.ring.toNat == e.1 && (h.state == .running || h.state == .releasing))

/-- A DELETING object that no voice streams any more becomes FREE, and the rings that still read it stop (R388). -/
def freeDeleted (s : State) : State :=
  let gone := (s.store.objects.filter (fun o => o.2.state == 5 && !objectSounding s o.1)).map (·.1)
  { s with store := { s.store with
      objects := s.store.objects.filter (fun o => !gone.contains o.1),
      rings := s.store.rings.map (fun e =>
        if gone.contains e.2.object && e.2.state != 0 then (e.1, { e.2 with state := 0, stale := e.2.stale + e.2.reads, reads := 0 }) else e) } }

end Sys2Proof.Machine
end

