-- ==== Sys2Proof/Machine/SigFlow.lean ====
section
/-! DEFINITION. A core in its lap: the header load (R88, Table 3.4), the start phase (R104), convoys (R85 to R89, R160,
R197), fault entry and the two ways a handler ends (R161 to R164), and the issue of one bundle. -/

namespace Sys2Proof.Machine

/-! ### Convoys -/

/-- The header as a convoy copy shows it: requests of events of the lap in progress are not in it yet (R111, R112). -/
def Ctx.headerSeen (lap : Nat) (c : Ctx) : Header :=
  { c.hdr with stolen := c.hdr.stolen && decide (c.stolenLap < lap), relreq := c.hdr.relreq && decide (c.relLap < lap) }

/-- Word w of a context as the mover brings it into X. -/
def Ctx.rowWord (lap : Nat) (c : Ctx) (w : Nat) : BitVec 24 := if w < 8 then (c.headerSeen lap).word w else c.word w

/-- The moves (source slot, destination slot) of two-lap manifests whose copy lap is the lap in progress (R338). -/
def copyLapMoves (s : State) : List (Nat × Nat) :=
  s.man.tbl.flatMap (fun e =>
    if e.2.state = .given ∧ e.2.twoLap ∧ e.2.lc = s.grid.lap + 1 then
      e.2.entries.filterMap (fun x => match x with | .migrate a b _ => some (a, b) | _ => none)
    else [])

/-- The end of a hold on a pool by an event of the lap before (R113): the RELK of the last one. -/
def holdEndOf (s : State) (pool : Nat) : Option (BitVec 6) :=
  match (s.starter.holdEnds.filter (fun h => h.pool == pool && h.lap + 1 == s.grid.lap)).getLast? with
  | some h => some h.relk
  | none => none

/-- The transitions of Table 3.4 that a header load applies to one context. A release has no effect on a voice that a steal of the
same lap or an earlier one ends (R76). DESIGN CHOICE (log 106): RELREQ reads 0 once the mover has applied it. -/
def headerStep (s : State) (moving : Bool) (c : Ctx) : Ctx :=
  let h := c.hdr
  let h1 :=
    if (c.headerSeen s.grid.lap).stolen then h
    else if h.state = .running ∧ h.relreq ∧ c.relLap < s.grid.lap then { h with state := .releasing, relreq := false }
    else if h.sus then
      match holdEndOf s h.pool.toNat with
      | some relk =>
        if h.state = .armed then { h with sus := false, relk := relk, relreq := true }
        else if h.state = .running ∨ h.state = .releasing then { h with state := .releasing, sus := false, relk := relk }
        else h
      | none => h
    else h
  if moving && (h1.state == .running || h1.state == .releasing) then
    { c with hdr := { h1 with state := .migrating }, prior := h1.state }
  else { c with hdr := h1 }

/-- Apply the header load to every context of a slot. -/
def headerLoad (slot : Nat) (s : State) : State :=
  let moving := (copyLapMoves s).any (fun m => m.1 == slot)
  (slotCtxs s slot).foldl (fun s n => setCtx s n (headerStep s moving (ctxOf s n))) s

/-- Base of a convoy buffer in X (R85). -/
def bufBase (bufB : Bool) : Nat := if bufB then 0x6000 else 0

/-- Write rows of one context into X. -/
def loadColumn (lap base e : Nat) (c : Ctx) (rows : List Nat) (x : Tbl (BitVec 24)) : Tbl (BitVec 24) :=
  rows.foldl (fun x w => Tbl.put 0 x (base + 128 * w + e) (c.rowWord lap w)) x

/-- Words of X that the mover writes read without error again. -/
def clearColumn (base e : Nat) (rows : List Nat) (u : Tbl Bool) : Tbl Bool :=
  rows.foldl (fun u w => Tbl.put false u (base + 128 * w + e) false) u

/-- A convoy read that cannot be corrected poisons its context (Table 17.1, id 4). -/
def convoyUpsets (slot k : Nat) (s : State) : State :=
  (slotCtxs s slot).foldl (fun s n =>
    match (ctxOf s n).upset with
    | some w => logRecord (16 * (k / 8) + 5) 1 2 (k / 8) 255 (leBytes 2 n ++ leBytes 1 w ++ [0, 0, 0, 0, 0]) (poison n s)
    | none => s) s

/-- Whether the context's voice is processed in the lap: it runs, or it is moving and runs one last time (R86, R338). -/
def Ctx.sounds (c : Ctx) : Bool := c.hdr.state == .armed || c.hdr.state == .running || c.hdr.state == .releasing || c.hdr.state == .migrating

/-- Bring a convoy into a buffer: header rows with their transitions, state rows unless resident, and parameter rows (R85,
R88); stream windows for its voices (R86, R372). -/
def loadInto (bufB : Bool) (k slot : Nat) (s : State) : State :=
  let s1 := convoyUpsets slot k (headerLoad slot s)
  let c := coreOf s1 k
  let base := bufBase bufB
  let rows := if c.resident = some slot then List.range 8 ++ (List.range 64).map (· + 128) else List.range 192
  let x := (slotCtxs s1 slot).foldl (fun x n => loadColumn s.grid.lap base (n % 128) (ctxOf s1 n) rows x) c.x
  let upset := (slotCtxs s1 slot).foldl (fun u n => clearColumn base (n % 128) rows u) c.upset
  let s2 := setCore s1 k { c with x := x, upset := upset }
  match slotKernel s2 slot with
  | some (_, kr) =>
    if kr.stream then
      (slotCtxs s2 slot).foldl (fun s n =>
        let h := (ctxOf s n).hdr
        if h.sv && (ringOf s h.ring.toNat).ctx == n && (ctxOf s n).sounds then
          fillWindow k (streamBase s.grid.nLap kr bufB) s.grid.nLap kr (n % 128) s h.ring.toNat
        else s) s2
    else s2
  | none => s2

/-- Bring a core's first convoy of the lap into the buffer in use. -/
def loadConvoy (k slot : Nat) (s : State) : State := updCore (loadInto (coreOf s k).bufB k slot s) k (fun c => { c with conv := some slot })

/-- The mover brings the convoy that follows the one in progress into the other buffer while the core processes; DESIGN CHOICE
(log 27): all of it as the one in progress is dispatched (R87). -/
def loadAhead (k : Nat) (s : State) : State :=
  let c := coreOf s k
  match c.order with
  | [] => s
  | slot :: _ => updCore (loadInto (!c.bufB) k slot (setCore s k { c with resident := none })) k (fun c => { c with ahead := some slot })

/-! ### Masks, edges and lost words (R53, R54, R58, R90, R301) -/

def onMix (f : Mixers → Mixers) (s : State) : State := { s with audio := { s.audio with mix := f s.audio.mix } }

/-- The elements of a convoy slot that contribute to the buses (Table 3.3): those in RUNNING and RELEASING, and those in MIGRATING,
which are at the source. -/
def contributing (s : State) (slot : Nat) : List Nat :=
  ((slotCtxs s slot).filter (fun n =>
    let h := (ctxOf s n).hdr.state
    h == .running || h == .releasing || h == .migrating)).map (· % 128)

/-- The sample of a channel of a producer: the sum of its elements' samples, held in a 24-bit word. -/
def edgeSample (b : EdgeBlock) (ch k : Nat) : BitVec 24 :=
  if b.lost.any (fun l => decide (l.1 ≤ ch + b.channels * k ∧ ch + b.channels * k < l.1 + l.2)) then 0
  else BitVec.ofInt 24 (max (-8388608) (min 8388607 ((b.elems.map (fun e => (Config.busSample b.src e ch b.lap k).toInt)).sum)))

/-- The samples that a convoy reads of the edges into it stand in its cluster's CSM at its dispatch; where a block is missing they are
zeros (R54, R58, Table 2.11). The place is open (log 103). -/
def deliverEdges (slot : Nat) (s : State) : State :=
  (s.adm.load.edges.filter (fun e => e.2.dst == slot)).foldl (fun s e =>
    let b := (s.audio.mix.edges.find? (fun b => b.num == e.1 && b.due == s.grid.lap)).getD ⟨s.grid.lap, e.1, e.2.src, e.2.channels, 0, [], []⟩
    (List.range (e.2.channels * s.grid.nLap)).foldl (fun s i =>
      let a := 1048576 * (slot / 16) + (Config.csmEdgeWord e.1 + i) % 1048576
      { s with csm := Tbl.put 0 s.csm a (edgeSample b (i / s.grid.nLap) (i % s.grid.nLap)), csmUpset := Tbl.put false s.csmUpset a false }) s) s

/-- The lap in which the consumer of an edge reads what the producer leaves in the lap in progress: a hop carries audio into the next
lap, a feedback edge is read in the lap after, a pad adds its laps (R53, R54, R58). -/
def edgeDue (s : State) (e : Nat × Edge) : Nat :=
  if e.2.feedback then s.grid.lap + 1
  else s.grid.lap + (if e.2.src / 16 = e.2.dst / 16 then 0 else 1) + (lookupNat s.adm.plan.padE e.1).getD 0

/-- A convoy that has ended hands its block to the edges out of it. -/
def feedEdges (slot : Nat) (s : State) : State :=
  let es := Tbl.get [] s.audio.mix.masks slot
  let new := (s.adm.load.edges.filter (fun e => e.2.src == slot)).map (fun e =>
    (⟨edgeDue s e, e.1, slot, e.2.channels, s.grid.lap, es, []⟩ : EdgeBlock))
  onMix (fun m => { m with edges := m.edges ++ new, ended := insertNat slot m.ended }) s

/-- Words of a stream feed that the Relay lost read as zeros in the windows (R301); the words of a feed are taken in the order element,
channel, frame (log 103). -/
def zeroFeed (k slot : Nat) (s : State) : State :=
  match slotKernel s slot with
  | none => s
  | some (x, kr) =>
    let a := advanceMax s.grid.nLap kr
    let base := streamBase s.grid.nLap kr (coreOf s k).bufB
    let words := (s.audio.mix.feedLost.filter (fun l => l.1 == slot)).flatMap (fun l => (List.range l.2.2).map (· + l.2.1))
    words.foldl (fun s i =>
      let at_ := (base + (i / a % kr.channels * 128 + i / (kr.channels * a)) * (a + 32) + 32 + i % a) % 65536
      if a = 0 ∨ x.n * kr.channels * a ≤ i then s else updCore s k (fun c => { c with y := Tbl.put 0 c.y at_ 0 })) s

/-- A producer on another core of the cluster holds a convoy until it has ended (R53, R287). The 8 cycles after that are time, which the
model leaves to the command that dispatches (log 111). A producer that will not run in the lap holds nothing. -/
def producersEnded (s : State) (k slot : Nat) : Bool :=
  s.adm.load.edges.all (fun e =>
    e.2.feedback || e.2.dst != slot || e.2.src / 16 != slot / 16 ||
    (match s.adm.load.slot e.2.src with
     | some x =>
       let p := coreOf s (slotCoreIn e.2.src x)
       slotCoreIn e.2.src x == k || s.audio.mix.ended.contains e.2.src || !(p.order.contains e.2.src || p.conv == some e.2.src)
     | none => true))

/-- Begin a loaded convoy at its kernel's entry point (R160). -/
def beginConvoy (k slot : Nat) (s0 : State) : State :=
  let s := zeroFeed k slot (deliverEdges slot (onMix (fun m => { m with masks := Tbl.put [] m.masks slot (contributing s0 slot) }) s0))
  let c := coreOf s k
  let kr := slotKernel s slot
  let n := match s.adm.load.slot slot with | some x => x.n | none => 0
  let id := match s.adm.load.slot slot with | some x => x.kernel | none => 0
  let p1 := match kr with | some (_, t) => streamBase s.grid.nLap t c.bufB | none => 0
  let own := match kr with | some (_, t) => t.ownHandler | none => false
  let r := { c.n with
    p := Tbl.put 0 (Tbl.put 0 c.n.p 0 (BitVec.ofNat 16 (bufBase c.bufB))) 1 (BitVec.ofNat 16 p1),
    d := Tbl.put 0 (Tbl.put 0 c.n.d 0 (BitVec.ofNat 24 n)) 1 (BitVec.ofNat 24 (slot % 16)),
    xbk := 0, ybk := 0, pc := BitVec.ofNat 13 (kernelBase s k id), rep := none, delay := none, skipTo := none }
  loadAhead k (setCore s k { c with
    n := r, fvec := if own then BitVec.ofNat 13 (Config.kernelHandler k id % 0x1F00) else 0x1F00, ctxi := 0,
    phase := .running, fastOn := false, skipWb := false, order := c.order.tail })

/-- After the last convoy the core reports the end of its running order (R62). -/
def endOrder (k : Nat) (s : State) : State :=
  updCore s k (fun c => { c with phase := .done, reported := true, conv := none, ahead := none, order := [] })

/-- Dispatch the next convoy of the running order, which the mover has brought in, or end it. A convoy whose producers on other cores
of the cluster have not ended waits (R287): the core stays as it is until it is asked again. -/
def dispatchNext (k : Nat) (s : State) : State :=
  let c := coreOf s k
  match c.order with
  | [] => endOrder k s
  | slot :: _ =>
    if !producersEnded s k slot then setCore s k { c with phase := .waiting }
    else if c.conv = some slot then beginConvoy k slot s
    else if c.ahead = some slot then beginConvoy k slot (setCore s k { c with bufB := !c.bufB, ahead := none, conv := some slot, resident := none })
    else beginConvoy k slot (loadConvoy k slot (setCore s k { c with bufB := !c.bufB, resident := none }))

/-- Write back one element of a convoy (R89); END or a completed fade frees its context (R111, R114). A migrating element
hands its state words on and keeps its header (R340). -/
def writeBackCtx (lap base : Nat) (x : Tbl (BitVec 24)) (e : Nat) (c : Ctx) : Ctx :=
  if c.hdr.state = .running ∨ c.hdr.state = .releasing ∨ c.hdr.state = .migrating then
    let w (i : Nat) : BitVec 24 := Tbl.get 0 x (base + 128 * i + e)
    let ended := c.hdr.ended || (w 1).getLsbD 21
    let st := (List.range 120).foldl (fun st i => Tbl.put 0 st (8 + i) (w (8 + i))) c.st
    let gone := ended || (c.hdr.stolen && decide (c.stolenLap < lap))
    { c with st := st, hdr := { c.hdr with loud := if c.hdr.state = .migrating then c.hdr.loud else w 2, ended := ended, state := if gone then .free else c.hdr.state } }
  else c

/-- A context that became FREE leaves the note table, its held writes and its stream (R81, R103, R111). -/
def released (n : Nat) (s : State) : State := dropHeld n (unlinkNote n (closeStream n s))

/-- What a steal policy compares (Tables 3.2, 3.13); none: the context is no candidate. LOUD from 0x80_0000 up counts as 0x7F_FFFF. -/
def stealMeasure (policy : Nat) (h : Header) : Option Nat :=
  if h.stolen then none
  else if policy = 1 then (if h.state = .releasing ∨ h.state = .running ∧ h.sus = true then some h.age.toNat else none)
  else if h.state = .running ∨ h.state = .releasing then
    (if policy = 2 then some (min h.loud.toNat 0x7FFFFF) else if policy = 3 then some h.age.toNat else none)
  else none

/-- Insert a candidate among the 4 best, lowest first. -/
def insertCand (a : Nat × Nat) (l : List (Nat × Nat)) : List (Nat × Nat) :=
  (l.takeWhile (fun b => decide (b.1 < a.1 ∨ b.1 = a.1 ∧ b.2 < a.2)) ++ a :: l.dropWhile (fun b => decide (b.1 < a.1 ∨ b.1 = a.1 ∧ b.2 < a.2))).take 4

/-- The write-back of a context enters it among the steal candidates of its pool in its cluster (R110). -/
def candWrite (n : Nat) (s : State) : State :=
  let h := (ctxOf s n).hdr
  let p := h.pool.toNat
  match stealMeasure (od s (0x4400 + p) 11) h with
  | some m => { s with starter := { s.starter with best := Tbl.upd [] s.starter.best (8 * p + n / 2048) (insertCand (m, n)) } }
  | none => s

/-- Write a convoy back (R89); each context's policy value meets its pool's candidates (R110). -/
def writeBack (k slot : Nat) (s : State) : State :=
  let c := coreOf s k
  (slotCtxs s slot).foldl (fun s n =>
    let a := ctxOf s n
    let b := writeBackCtx s.grid.lap (bufBase c.bufB) c.x (n % 128) a
    let s1 := setCtx s n b
    candWrite n (if a.hdr.state ≠ .free ∧ b.hdr.state = .free then released n s1 else s1)) s

/-- The bus mixer removes the contributions of a convoy that SKIP ended (R164). -/
def unmask (slot : Nat) (s : State) : State := onMix (fun m => { m with masks := Tbl.put [] m.masks slot [] }) s

/-- The end of a convoy: its write-back unless it was skipped, its advance words, objects that no voice streams any
more (R197, R373, R388), and its block for the edges out of it. -/
def endConvoy (k : Nat) (s : State) : State :=
  let c := landAll (coreOf s k)
  let s1 := setCore s k (c.setCls { c.cls with stack := [], rep := none, delay := none })
  match c.conv with
  | none => s1
  | some slot =>
    if c.skipWb then updCore (feedEdges slot (unmask slot s1)) k (fun c => { c with conv := none, resident := none })
    else
      let s2 := match slotKernel s1 slot with
        | some (_, kr) => if kr.stream then (slotCtxs s1 slot).foldl (fun s n => advanceWord s.grid.nLap kr s n) s1 else s1
        | none => s1
      let s3 := freeDeleted (writeBack k slot (feedEdges slot s2))
      updCore s3 k (fun c => { c with conv := none, resident := some slot })

/-! ### The start phase -/

/-- The next start record of the lap whose context has stayed ARMED; other records that are due are dropped (R76, R104). -/
def takeStart (lap : Nat) (ready : StartRec → Bool) : List StartRec → Option StartRec × List StartRec
  | [] => (none, [])
  | r :: rs =>
    if r.lap + 1 ≤ lap then (if ready r then (some r, rs) else takeStart lap ready rs)
    else
      let t := takeStart lap ready rs
      (t.1, r :: t.2)

/-- Enter the fast class for a start record (R104, R158): what the class in progress has in flight lands first (R159). -/
def enterFast (k : Nat) (r : StartRec) (rest : List StartRec) (s : State) : State :=
  let c := landAll (coreOf s k)
  let i := r.ctx % 2048
  let f := { c.f with
    mode := c.fmode,
    xbk := BitVec.ofNat 8 (32 + i / 512), ybk := BitVec.ofNat 8 (36 + i / 1024),
    p := Tbl.put 0 (Tbl.put 0 c.f.p 0 (BitVec.ofNat 16 (i % 512 * 128))) 1 (BitVec.ofNat 16 (i % 1024 * 64)),
    d := Tbl.put 0 c.f.d 0 (BitVec.ofNat 24 i),
    pc := BitVec.ofNat 13 (Config.kernelStart k r.kernel), rep := none, delay := none, skipTo := none, stack := [], fly := [] }
  setCore s k { c with f := f, fastOn := true, starts := rest, cur := some r, ctxi := BitVec.ofNat 24 (0x800000 + i) }

/-- Leave the fast class: a trapped LVU instruction resumes (R238); after the start phase the first convoy is dispatched. -/
def leaveFast (k : Nat) (s : State) : State :=
  let s1 := updCore s k (fun c => { c with fastOn := false, cur := none })
  let c := coreOf s1 k
  let s2 := if c.mt && !c.lvu.stopped then lvuResume k s1 else s1
  if c.phase = .starting then dispatchNext k s2 else s2

/-- Take the next start record, or return to the normal class. -/
def nextStart (k : Nat) (s : State) : State :=
  let c := coreOf s k
  let t := takeStart s.grid.lap (startReady s) c.starts
  match t.1 with
  | some r => enterFast k r t.2 s
  | none => leaveFast k (setCore s k { c with starts := t.2 })

/-- The context of a start routine that returned (Table 3.4, R338). -/
def startedCtx (lap : Nat) (moving : Bool) (c : Ctx) : Ctx :=
  if c.hdr.state ≠ .armed then c
  else
    let st : CtxState := if c.hdr.relreq && decide (c.relLap < lap) then .releasing else .running
    let h := { c.hdr with state := st, relreq := c.hdr.relreq && !decide (c.relLap < lap) }
    if moving then { c with hdr := { h with state := .migrating }, prior := st } else { c with hdr := h }

/-- RTF (R198, R104): results land, the context runs, its column is refreshed, and the next start follows. -/
def endStart (k : Nat) (s : State) : State :=
  let c := landAll (coreOf s k)
  let c1 := c.setCls { c.cls with stack := [], rep := none, delay := none }
  let s1 := setCore s k c1
  match c1.cur with
  | none => nextStart k s1
  | some r =>
    let moving := (copyLapMoves s).any (fun m => m.1 == slotOfCtx r.ctx)
    let s2 := updCtx s1 r.ctx (startedCtx s.grid.lap moving)
    let s3 := if c1.conv = some (slotOfCtx r.ctx) then
        updCore s2 k (fun c => { c with
        x := loadColumn s.grid.lap (bufBase c.bufB) (r.ctx % 128) (ctxOf s2 r.ctx) (List.range 192) c.x,
        upset := clearColumn (bufBase c.bufB) (r.ctx % 128) (List.range 192) c.upset })
      else s2
    nextStart k s3

/-! ### Faults -/

/-- SKIP (R162, R198): the write-back is discarded and the convoy ends, or the start is abandoned, once the LVU is idle (R243). DESIGN
CHOICE (log 110): the context of an abandoned start becomes POISONED, whichever handler ends so. -/
def skipFault (k : Nat) (s : State) : State :=
  let s1 := updCore s k (fun c => { c with
    frec := c.frec &&& 0x3FFFFF,
    lvu := { c.lvu with flValid := false, vipc := c.lvu.vipc &&& 0x7FFFFF } })
  let c := coreOf s1 k
  if c.fastOn then
    let c1 := landAll c
    let ab := match c.cur with | some r => [r.ctx] | none => []
    let s2 := poisonAll ab (setCore s1 k ({ c1 with cur := none }.setCls { c1.cls with stack := [], rep := none, delay := none }))
    if c.lvu.busy.isSome then updCore s2 k (fun c => { c with fastSkip := true }) else nextStart k s2
  else setCore s1 k (({ c with skipWb := true, phase := .ending }).setCls { c.n with stack := [], rep := none, delay := none })

/-- RTE (R162, R241): the fault-return state is restored; a latched LVU instruction restarts. -/
def returnFault (k : Nat) (s : State) : State :=
  let c := coreOf s k
  let r := c.cls
  let drop := r.stack.length - r.ret.depth
  let inner : List LoopRegs := r.cur :: r.stack
  let kept := inner.drop drop
  let r1 := { r with cur := kept.headD r.cur, stack := kept.tail, pc := c.fpc, rep := r.ret.rep, delay := r.ret.delay, ret := {} }
  let c1 := ({ c with frec := c.frec &&& 0x3FFFFF, phase := if r.ret.ending then .ending else c.phase }).setCls r1
  if r.ret.restart then
    let o := c.lvu.fl
    if vecOk (groupOf o.vg) o.vop.toNat o.opd.toNat then
      setCore s k { c1 with lvu := { c1.lvu with busy := some o, micro := { upc := o.vop.setWidth 13 }, flValid := false,
                                                 vipc := c.lvu.vipc &&& 0x7FFFFF, vgDec := o.vg, vg := o.vg,
                                                 vl := o.vl, tport := o.tport, vtb := o.vtb, vtlen := o.vtlen } }
    else setCore s k { c1 with fault := some { cause := 1, slots := 128 } }
  else setCore s k c1

/-- The system default handler (R164): it poisons, logs and ends with SKIP. -/
def defaultHandler (k : Nat) (s : State) : State :=
  let c := coreOf s k
  let hit : List Nat × Nat :=
    if c.ctxi.getLsbD 23 then
      let n := 2048 * (k / 8) + c.ctxi.toNat % 2048
      ([n], n)
    else match c.conv with
      | some slot =>
        if c.felem.getLsbD 23 then
          let n := 128 * slot + c.felem.toNat % 128
          ([n], n)
        else (slotCtxs s slot, 0xFFFF)
      | none => ([], 0xFFFF)
  let s1 := poisonAll hit.1 s
  let s2 := logRecord (16 * (k / 8) + 3) 1 0x04 (k / 8) (k % 8)
    (leBytes 3 c.frec.toNat ++ leBytes 2 c.fpc.toNat ++ leBytes 2 hit.2 ++ [0]) s1
  skipFault k s2

/-- Fault entry (R161 to R163). -/
def faultEntry (k : Nat) (s : State) : State :=
  let c0 := coreOf s k
  match c0.fault with
  | none => s
  | some f =>
    if c0.frec.getLsbD 22 then
      let s1 := stopCore k 8 f (updLvu s k (fun l => { l with flValid := false }))
      let c := coreOf s1 k
      logRecord (16 * (k / 8) + 3) 1 0x05 (k / 8) (k % 8) (leBytes 3 c.frec.toNat ++ leBytes 2 c.fpc.toNat ++ [0, 0, 0]) s1
    else
      let c := landAll c0
      let r := c.cls
      let lvuFault := f.slots = 128 ∧ (f.cause = 5 ∨ f.cause = 6)
      let wait := c.phase = .ending ∧ ¬ c.fastOn
      let ret : FaultReturn := ⟨r.rep, r.delay, r.stack.length, lvuFault, wait⟩
      let c1 := ({ c with
        phase := if wait then .running else c.phase, fastSkip := false,
        frec := BitVec.ofNat 24 (0xC00000 + b2n c.fastOn 2097152 + f.cause % 32 * 65536 + f.slots % 256 * 256),
        fpc := r.pc, faddr := f.addr, felem := f.elem, fault := none }).setCls
          { r with pc := c.fvec, rep := none, delay := none, ret := ret }
      let s1 := setCore s k c1
      if c.fvec = 0x1F00 then defaultHandler k s1 else s1

/-! ### One bundle -/

/-- Whether RTE waits: its restart needs an idle LVU (R241). RTF waits for the LVU (R238). -/
def returnStall (c : SigCore) (b : Bundle) : Bool :=
  c.lvu.busy.isSome && (ctrlOf b == some .rtf || (ctrlOf b == some .rte && c.cls.ret.restart))

/-- What RTF, RTE and SKIP do once their bundle has executed. -/
def bundleReturn (k : Nat) (b : Bundle) (s : State) : State :=
  match ctrlOf b with
  | some .rtf => endStart k s
  | some .rte => returnFault k s
  | some .skip => skipFault k s
  | _ => s

/-- The fault of a bundle before it executes (R161): the lowest cause stands. A syllable that reads with a double-bit error is cause 6;
DESIGN CHOICE (log 108): SLOT is then 0 and FADDR the bundle's address. -/
def issueFault (c : SigCore) (r : ClassRegs) (b : Bundle) (annulled : Bool) : Option PendingFault :=
  let ill := illegalSlots c r b
  if ill ≠ 0 then some { cause := 1, slots := ill }
  else
    let f := if annulled then none else bundleFault c r b
    if progUpset c b then
      match f with
      | some g => if g.cause < 6 then some g else some { cause := 6, slots := 0, addr := BitVec.ofNat 24 b.addr }
      | none => some { cause := 6, slots := 0, addr := BitVec.ofNat 24 b.addr }
    else f

/-- Whether a bundle is checked before it could stall: its decoding is wrong or cannot be read. -/
def decodeFails (c : SigCore) (r : ClassRegs) (b : Bundle) : Bool := illegalSlots c r b != 0 || progUpset c b

/-- A core issues one bundle (R115), or enters the fast class at the bundle boundary at which a start is due, once the LVU is idle
(R159, R265). A bundle that fails a check or faults executes no slot; its fault waits for its entry. -/
def bundleIssue (k : Nat) (s : State) : State :=
  let c0 := coreOf s k
  if c0.fault.isSome then s
  else if c0.fastSkip then (if c0.lvu.busy.isSome then s else nextStart k (setCore s k { c0 with fastSkip := false }))
  else if c0.phase == .running && startWaits s c0 then (if c0.lvu.busy.isSome then s else nextStart k s)
  else if !issuing c0 then s
  else
    let c1 := landTo c0 c0.cls.count
    let r := enterRep (settleRepu c1 c1.cls)
    let c := c1.setCls r
    let b := fetchBundle c r.pc.toNat
    let s1 := setCore s k c
    let annulled := (match r.delay with | some d => d.annul | none => false) || (match r.rep with | some p => p.annul | none => false)
    if !decodeFails c r b && !annulled && (lvuStall c b || returnStall c b) then s
    else
      match issueFault c r b annulled with
      | some f => raiseFault s1 k f
      | none =>
        let e := executeBundle s1 k b annulled
        let s2 := if e.2.1 then updCore e.1 k (fun c => { c with phase := .ending }) else e.1
        let s3 := if annulled then s2 else bundleReturn k b s2
        if e.2.2 then updCore s3 k SigCore.halted else s3

end Sys2Proof.Machine
end

