-- ==== Sys2Proof/Machine/Signal.lean ====
section
/-! DEFINITION. The commands of chapters 4 to 7: a core's bundles and faults, its start phase and convoys, and the LVU's
instructions, traps, stops and control block. -/

namespace Sys2Proof.Machine

abbrev Out := Host.Outcome State Fault Refusal

/-- BUNDLE_ISSUE (R115). A core that has no bundle to issue, or whose bundle stalls, stays as it is. -/
def execBundleIssue (k : Fin 64) (s : State) : Out := .next (bundleIssue k.val s)

/-- FAULT_ENTRY (R161). -/
def execFaultEntry (k : Fin 64) (s : State) : Out := .next (faultEntry k.val s)

/-- HEADER_ROW_LOAD (R88): the header rows of the core's first convoy, into the buffer that R85 names. DESIGN CHOICE (log 109): a core's
only convoy that has lost its residency goes into the other buffer. -/
def execHeaderRowLoad (k : Fin 64) (s : State) : Out :=
  let c := coreOf s k.val
  .next (
    if c.phase = .idle ∧ c.conv = none then
      match c.order with
      | [] => s
      | slot :: rest =>
        if rest = [] ∧ c.resident = some slot then loadConvoy k.val slot s
        else loadConvoy k.val slot (setCore s k.val { c with bufB := !c.bufB, resident := none })
    else s)

/-- START_PHASE (R104): the start records of the lap, then the first convoy. An entry that meets a busy LVU waits (R159, R265). -/
def execStartPhase (k : Fin 64) (s : State) : Out :=
  let c := coreOf s k.val
  .next (if c.phase = .idle ∧ ¬ (startWaits s c ∧ c.lvu.busy.isSome) then nextStart k.val (setCore s k.val { c with phase := .starting }) else s)

/-- CONVOY_DISPATCH (R160, R197): after ENDC's wait, which an LVU at work or a fault prolongs, or a wait for producers (R287). -/
def execConvoyDispatch (k : Fin 64) (s : State) : Out :=
  let c := coreOf s k.val
  .next (
    if c.phase = .ending ∧ c.lvu.busy = none ∧ c.fault = none then dispatchNext k.val (endConvoy k.val s)
    else if c.phase = .waiting then dispatchNext k.val s
    else s)

/-- VLD (R220): the instruction that the core's LVU holds, if it is this one. -/
def execVld (k : Fin 64) (s : State) : Out := .next (lvuRunOp 1 k.val s)

/-- VST (R220): the instruction that the core's LVU holds, if it is this one. -/
def execVst (k : Fin 64) (s : State) : Out := .next (lvuRunOp 2 k.val s)

/-- VLDFF (R222): the instruction that the core's LVU holds, if it is this one. -/
def execVldff (k : Fin 64) (s : State) : Out := .next (lvuRunOp 3 k.val s)

/-- VTAB (R223): the instruction that the core's LVU holds, if it is this one. -/
def execVtab (k : Fin 64) (s : State) : Out := .next (lvuRunOp 4 k.val s)

/-- VTABI (R223): the instruction that the core's LVU holds, if it is this one. -/
def execVtabi (k : Fin 64) (s : State) : Out := .next (lvuRunOp 5 k.val s)

/-- VADD (R218): the instruction that the core's LVU holds, if it is this one. -/
def execVadd (k : Fin 64) (s : State) : Out := .next (lvuRunOp 8 k.val s)

/-- VSUB (R218): the instruction that the core's LVU holds, if it is this one. -/
def execVsub (k : Fin 64) (s : State) : Out := .next (lvuRunOp 9 k.val s)

/-- VMUL (R218): the instruction that the core's LVU holds, if it is this one. -/
def execVmul (k : Fin 64) (s : State) : Out := .next (lvuRunOp 10 k.val s)

/-- VMAC (R218): the instruction that the core's LVU holds, if it is this one. -/
def execVmac (k : Fin 64) (s : State) : Out := .next (lvuRunOp 11 k.val s)

/-- VMSU (R218): the instruction that the core's LVU holds, if it is this one. -/
def execVmsu (k : Fin 64) (s : State) : Out := .next (lvuRunOp 12 k.val s)

/-- VCLRA (R218): the instruction that the core's LVU holds, if it is this one. -/
def execVclra (k : Fin 64) (s : State) : Out := .next (lvuRunOp 13 k.val s)

/-- VRND (R218): the instruction that the core's LVU holds, if it is this one. -/
def execVrnd (k : Fin 64) (s : State) : Out := .next (lvuRunOp 14 k.val s)

/-- VMOV (R218): the instruction that the core's LVU holds, if it is this one. -/
def execVmov (k : Fin 64) (s : State) : Out := .next (lvuRunOp 15 k.val s)

/-- VSHL (R218): the instruction that the core's LVU holds, if it is this one. -/
def execVshl (k : Fin 64) (s : State) : Out := .next (lvuRunOp 16 k.val s)

/-- VSHR (R218): the instruction that the core's LVU holds, if it is this one. -/
def execVshr (k : Fin 64) (s : State) : Out := .next (lvuRunOp 17 k.val s)

/-- VMIN (R218): the instruction that the core's LVU holds, if it is this one. -/
def execVmin (k : Fin 64) (s : State) : Out := .next (lvuRunOp 18 k.val s)

/-- VMAX (R218): the instruction that the core's LVU holds, if it is this one. -/
def execVmax (k : Fin 64) (s : State) : Out := .next (lvuRunOp 19 k.val s)

/-- VABS (R218): the instruction that the core's LVU holds, if it is this one. -/
def execVabs (k : Fin 64) (s : State) : Out := .next (lvuRunOp 20 k.val s)

/-- VNEG (R218): the instruction that the core's LVU holds, if it is this one. -/
def execVneg (k : Fin 64) (s : State) : Out := .next (lvuRunOp 21 k.val s)

/-- VSPLAT (R218): the instruction that the core's LVU holds, if it is this one. -/
def execVsplat (k : Fin 64) (s : State) : Out := .next (lvuRunOp 22 k.val s)

/-- VSETL (R218): the instruction that the core's LVU holds, if it is this one. -/
def execVsetl (k : Fin 64) (s : State) : Out := .next (lvuRunOp 24 k.val s)

/-- VSETG (R207): the instruction that the core's LVU holds, if it is this one. -/
def execVsetg (k : Fin 64) (s : State) : Out := .next (lvuRunOp 25 k.val s)

/-- VSETT (R218): the instruction that the core's LVU holds, if it is this one. -/
def execVsett (k : Fin 64) (s : State) : Out := .next (lvuRunOp 26 k.val s)

/-- VFIR (R227): the instruction that the core's LVU holds, if it is this one. -/
def execVfir (k : Fin 64) (s : State) : Out := .next (lvuRunOp 32 k.val s)

/-- VBIQ (R228): the instruction that the core's LVU holds, if it is this one. -/
def execVbiq (k : Fin 64) (s : State) : Out := .next (lvuRunOp 33 k.val s)

/-- VSVF (R229): the instruction that the core's LVU holds, if it is this one. -/
def execVsvf (k : Fin 64) (s : State) : Out := .next (lvuRunOp 34 k.val s)

/-- VINTP (R230): the instruction that the core's LVU holds, if it is this one. -/
def execVintp (k : Fin 64) (s : State) : Out := .next (lvuRunOp 35 k.val s)

/-- VOSC (R231): the instruction that the core's LVU holds, if it is this one. -/
def execVosc (k : Fin 64) (s : State) : Out := .next (lvuRunOp 36 k.val s)

/-- VENV (R232): the instruction that the core's LVU holds, if it is this one. -/
def execVenv (k : Fin 64) (s : State) : Out := .next (lvuRunOp 37 k.val s)

/-- VMIX (R233): the instruction that the core's LVU holds, if it is this one. -/
def execVmix (k : Fin 64) (s : State) : Out := .next (lvuRunOp 38 k.val s)

/-- VDLY (R225): the instruction that the core's LVU holds, if it is this one. -/
def execVdly (k : Fin 64) (s : State) : Out := .next (lvuRunOp 39 k.val s)

/-- VFFT4 (R234): the instruction that the core's LVU holds, if it is this one. -/
def execVfft4 (k : Fin 64) (s : State) : Out := .next (lvuRunOp 40 k.val s)

/-- VCMUL (R235): the instruction that the core's LVU holds, if it is this one. -/
def execVcmul (k : Fin 64) (s : State) : Out := .next (lvuRunOp 41 k.val s)

/-- MICRO_TRAP (R237, R260, R261): taken in trap mode for a request; a request that meets a DONE word lets the
instruction complete. A stop leaves the LVU stopped (R269); a start that is due enters the fast class (R159). -/
def execMicroTrap (k : Fin 64) (done : Bool) (s : State) : Out :=
  let c := coreOf s k.val
  .next (
    match c.lvu.busy with
    | none => s
    | some o =>
      if c.lvu.poll || !trapRequest s c then s
      else
        let stop := c.lvu.stopRq
        let s1 := updCore (lvuInterrupt k.val o done (updLvu s k.val (fun l => { l with stopRq := false }))) k.val
          (fun c => { c with mt := c.mt || c.lvu.frameValid })
        let s2 := updLvu s1 k.val (fun l => { l with stopped := (l.stopped || stop) && !l.halt })
        if c.phase == .running && startWaits s c && (coreOf s2 k.val).fault.isNone && !(lvuOf s2 k.val).halt then nextStart k.val s2 else s2)

/-- LVU_STOP_TAKEN (R266): in polling mode, at a SAFE word; a SAFE word that is also a DONE word completes. -/
def execLvuStopTaken (k : Fin 64) (done : Bool) (s : State) : Out :=
  let c := coreOf s k.val
  .next (
    match c.lvu.busy with
    | none => s
    | some o =>
      if !c.lvu.poll || !c.lvu.stopRq then s
      else
        let s1 := lvuInterrupt k.val o done (if done then updLvu s k.val (fun l => { l with frameValid := false }) else s)
        if (lvuOf s1 k.val).halt || (lvuOf s1 k.val).busy.isSome then s1
        else updLvu s1 k.val (fun l => { l with stopRq := false, stopped := true }))

/-- PATCH_RAM_SCRUB (R246): a visit in an idle cycle that finds 0, 1 or 2 upset bits in a word. -/
def execPatchRamScrub (k : Fin 64) (w : Fin 512) (bits : Fin 3) (s : State) : Out :=
  .next (
    if (lvuOf s k.val).busy.isSome then s
    else if bits.val = 0 then s
    else if bits.val = 1 then lcsCorrected k.val 1 (updLvu s k.val (fun l => { l with patchUpset := Tbl.put 0 l.patchUpset w.val 0 }))
    else
      logRecord (16 * (k.val / 8) + 7) 1 0x03 (k.val / 8) (k.val % 8) (leBytes 1 5 ++ [0] ++ leBytes 2 w.val ++ [0, 0, 0, 0])
        (updLvu s k.val (fun l => { l with patchUpset := Tbl.put 0 l.patchUpset w.val 2 })))

/-- LCSCTL_STOP (R268, R269). -/
def execLcsctlStop (k : Fin 64) (s : State) : Out := .next (lcsStop k.val s)

/-- LCSCTL_RESUME (R268). -/
def execLcsctlResume (k : Fin 64) (s : State) : Out := .next (lcsResume k.val s)

/-- LCSCTL_DISCARD (R268). -/
def execLcsctlDiscard (k : Fin 64) (s : State) : Out := .next (lcsDiscard k.val s)

/-- LCSCTL_PLOAD (R270). -/
def execLcsctlPload (k : Fin 64) (on : Bool) (s : State) : Out := .next (lcsPload k.val on s)

/-- LCSCTL_PEN (R271, Table 7.12). -/
def execLcsctlPen (k : Fin 64) (on : Bool) (s : State) : Out := .next (lcsPen k.val on s)

/-- LCSCTL_POLL (R265). -/
def execLcsctlPoll (k : Fin 64) (on : Bool) (s : State) : Out := .next (lcsPoll k.val on s)

/-- PRDATA4_COMMIT (R270, R273). -/
def execPrdata4Commit (k : Fin 64) (v : BitVec 32) (s : State) : Out := .next (lcsCommit k.val v.toNat s)

/-- CORR_READ (Table 7.11): read and cleared. -/
def execCorrRead (k : Fin 64) (s : State) : Out :=
  let r := lcsCorrRead k.val s
  .next { r.2 with result := r.1 }

end Sys2Proof.Machine
end

