-- ==== Sys2Proof/Machine/Starter.lean ====
section
/-! DEFINITION. The Starter (R91 to R113): matching an event against the rules, its releases and holds, the placement of
its voices, the deadlines, and the start records on their way into the Caravanserai. -/

namespace Sys2Proof.Machine

/-! ### Rules -/

/-- The bytes of a rule, template or pool object for events of lap l: events of earlier laps see the former image (R107, R331). -/
def starterBytes (s : State) (l ix sub : Nat) : Bytes :=
  if l < s.starter.oldLap then (lookupNat s.starter.oldObjs (odKey ix sub)).getD (odBytes s ix sub) else odBytes s ix sub

/-- An object of pool p for events of lap l. -/
def poolVal (s : State) (l p sub : Nat) : Nat := leNat (starterBytes s l (0x4400 + p) sub)

/-- Whether rule r is enabled for events of lap l: a change that lands in a lap acts from the next one, and a change by a manifest
from its commit lap (R106, R331). -/
def ruleOn (s : State) (l r : Nat) : Bool :=
  match s.starter.enables.find? (fun c => c.rule == r && decide (l ≤ c.lap)) with
  | some c => c.old
  | none => leNat (starterBytes s l (0x4800 + r) 1) == 1

/-- An object of rule r. -/
def ruleVal (s : State) (l r sub : Nat) : Nat := leNat (starterBytes s l (0x4800 + r) sub)

/-- Rules that may be enabled, in rule-number order. -/
def ruleNumbers (s : State) : List Nat :=
  let stored := s.dict.od.filterMap (fun e =>
    if 0x4800 * 256 ≤ e.1 ∧ e.1 < 0x4C00 * 256 ∧ e.1 % 256 = 1 then some (e.1 / 256 - 0x4800) else none)
  let former := s.starter.oldObjs.filterMap (fun e =>
    if 0x4800 * 256 ≤ e.1 ∧ e.1 < 0x4C00 * 256 ∧ e.1 % 256 = 1 then some (e.1 / 256 - 0x4800) else none)
  s.starter.enables.foldl (fun ns c => insertNat c.rule ns) (former.foldl (fun ns r => insertNat r ns) stored)

/-- A voice of an expansion. -/
structure Voice where
  pool  : Nat
  tmpl  : Nat
  velw  : Nat
  notew : Nat
  deriving DecidableEq, Repr

/-- The voices of a rule, in voice order. -/
def ruleVoices (s : State) (l r : Nat) : List Voice :=
  (List.range (ruleVal s l r 11)).map (fun i =>
    ⟨ruleVal s l r (12 + i), ruleVal s l r (20 + i), ruleVal s l r 28, ruleVal s l r 29⟩)

/-- A rule whose voices name a template with a keymap that is not LOADED matches no event (R362). -/
def ruleLoaded (s : State) (l r : Nat) : Bool :=
  (ruleVoices s l r).all (fun v => match templateKeymap s v.tmpl with | some m => keymapState s m == 2 | none => true)

/-- Whether rule r matches an event of lap l (Table 3.8). -/
def ruleMatches (s : State) (l : Nat) (e : Ev) (r : Nat) : Bool :=
  ruleOn s l r && ruleVal s l r 2 == e.scls.toNat && (ruleVal s l r 3).testBit e.chan.toNat &&
  decide (ruleVal s l r 4 ≤ e.note.toNat ∧ e.note.toNat ≤ ruleVal s l r 5) &&
  (decide (3 ≤ e.etype) || decide (ruleVal s l r 6 ≤ e.vel.toNat ∧ e.vel.toNat ≤ ruleVal s l r 7)) &&
  ruleVal s l r 8 == e.etype && ruleLoaded s l r

/-- The voices an event expands to (R96). -/
def expansion (s : State) (l : Nat) (rules : List Nat) : List Voice :=
  (rules.filter (fun r => ruleVal s l r 9 == 1 || ruleVal s l r 9 == 3)).flatMap (ruleVoices s l)

/-! ### Refusals (R108) -/

/-- The refusal record of OD 4C00.09 (Table 3.9). -/
def refusalRecord (time : Nat) (e : Ev) (reason pool : Nat) : Bytes :=
  leBytes 8 time ++ leBytes 1 e.scls.toNat ++ leBytes 1 e.chan.toNat ++ leBytes 1 e.note.toNat ++ leBytes 1 reason ++
    leBytes 2 pool ++ [0, 0]

/-- The event's pool: that of the first voice of its expansion, or none. -/
def eventPool (vs : List Voice) : Nat := match vs with | v :: _ => v.pool | [] => 0xFFFF

/-- Refuse an event's starts: reason 1 CORE, 4 GRANT, 5 CONTEXT, 6 LATENCY (Table 10.11). -/
def refuseEvent (time : Nat) (e : Ev) (reason pool : Nat) (s : State) : State :=
  let a := s.starter
  let a1 := { a with lastRefused := refusalRecord time e reason pool,
                     refusals := if pool = 0xFFFF then a.refusals else Tbl.upd 0 a.refusals pool sat32 }
  let a2 := match reason with
    | 1 => { a1 with refCore := sat32 a1.refCore }
    | 4 => { a1 with refGrant := sat32 a1.refGrant }
    | 5 => { a1 with refContext := sat32 a1.refContext }
    | _ => { a1 with refLatency := sat32 a1.refLatency }
  fire 192 { s with starter := a2 }

/-! ### Releases and holds (R112, R113) -/

/-- The sample index of a split time within the block of lap l (R101, R112). -/
def sampleIndex (g : Grid) (l split : Nat) : Nat := (nsTicks split - g.tau l 0) / sampleTicks g.rate

/-- A header update takes the service port of its cluster for one cycle: copies that run or wait there end one cycle later, and
a copy of the same event that is sent there waits for it (R99). -/
def bumpCopies (cluster at_ : Nat) (s : State) : State :=
  { s with starter := { s.starter with copyEnd := Tbl.upd 0 s.starter.copyEnd cluster (fun e => max e at_ + tickNs) } }

/-- Release one voice for an event of lap l: RELREQ, or SUS while its pool is held. A voice on its way to the
Caravanserai takes it in its start record. -/
def releaseVoice (l : Nat) (relk : BitVec 6) (n : Nat) (s : State) : State :=
  let held (p : Nat) : Bool := Tbl.get false s.starter.hold p
  let s1 := unlinkNote n s
  if s.starter.flight.any (fun r => r.ctx == n) then
    { s1 with starter := { s1.starter with flight := s1.starter.flight.map (fun r =>
        if r.ctx = n then
          if held r.pool then { r with sus := true } else { r with relreq := true, relk := relk, relLap := l }
        else r) } }
  else
    updCtx s1 n (fun c =>
      match c.hdr.state with
      | .releasing => c
      | .free => c
      | .poisoned => c
      | _ =>
        if held c.hdr.pool.toNat then { c with hdr := { c.hdr with sus := true } }
        else { c with hdr := { c.hdr with relreq := true, relk := relk }, relLap := l })

/-- The voices linked to an event's note key. -/
def keyVoices (s : State) (e : Ev) : List Nat :=
  (s.starter.notes.filter (fun k => k.scls == e.scls && k.chan == e.chan && k.note == e.note)).map (·.ctx)

/-- Release every voice of an event's note key. -/
def releaseKey (l at_ : Nat) (e : Ev) (s : State) : State :=
  let relk := BitVec.ofNat 6 (sampleIndex s.grid l e.split)
  (keyVoices s e).foldl (fun s n => bumpCopies (n / 2048) at_ (releaseVoice l relk n s)) s

/-- End a hold that is in force. -/
def endHold (l : Nat) (relk : BitVec 6) (p : Nat) (s : State) : State :=
  if Tbl.get false s.starter.hold p then
    { s with starter := { s.starter with hold := Tbl.put false s.starter.hold p false,
                                         holdEnds := s.starter.holdEnds ++ [⟨p, relk, l⟩] } }
  else s

/-- What one matching rule releases and holds (Table 3.12). -/
def ruleReleases (l at_ : Nat) (e : Ev) (s : State) (r : Nat) : State :=
  let pools := (ruleVoices s l r).map (·.pool)
  match ruleVal s l r 9 with
  | 1 => if ruleVal s l r 10 = 1 then releaseKey l at_ e s else s
  | 2 | 3 =>
    if keyVoices s e = [] then { s with starter := { s.starter with relNoVoice := sat32 s.starter.relNoVoice } }
    else releaseKey l at_ e s
  | 4 => { s with starter := { s.starter with hold := pools.foldl (fun h p => Tbl.put false h p true) s.starter.hold } }
  | 5 => pools.foldl (fun s p => endHold l (BitVec.ofNat 6 (sampleIndex s.grid l e.split)) p s) s
  | _ => s

/-! ### Placement (R92, R93, R109 to R111) -/

/-- A context state that counts as active (Table 3.7). -/
def CtxState.active : CtxState → Bool
  | .armed => true | .running => true | .releasing => true | .migrating => true | _ => false

/-- A context that the Starter may draw: FREE, with no start record on its way to it. -/
def ctxFree (s : State) (n : Nat) : Bool := (ctxOf s n).hdr.state == .free && !s.starter.flight.any (fun r => r.ctx == n)

/-- The active count of a pool in a cluster. -/
def activeIn (s : State) (p c : Nat) : Nat :=
  (s.ctxs.filter (fun e => e.1 / 2048 == c && e.2.hdr.state.active && e.2.hdr.pool.toNat == p)).length +
  (s.starter.flight.filter (fun r => r.ctx / 2048 == c && r.pool == p)).length

/-- Convoy slots that a manifest in force at the edge of its copy lap closes to draws of that lap (R337). -/
def slotClosing (s : State) (l slot : Nat) : Bool :=
  s.man.tbl.any (fun m => m.2.state == .given && m.2.twoLap && m.2.lc == l + 1 &&
    m.2.entries.any (fun x => match x with
      | .migrate a b _ => a == slot || b == slot
      | .slot c i _ _ _ n => 16 * c + i == slot && (match s.adm.load.slot slot with | some y => decide (n < y.n) | none => false)
      | _ => false))

/-- The lowest free context of a pool on a core, for an event of lap l. -/
def freeOn (s : State) (l p c k : Nat) : Option Nat :=
  s.adm.load.slots.findSome? (fun e =>
    if e.1 / 16 = c ∧ e.2.core % 8 = k ∧ e.2.pool = p ∧ !slotClosing s l e.1 then
      ((List.range e.2.n).map (fun i => 128 * e.1 + i)).find? (ctxFree s)
    else none)

/-- The next core of a cluster after the pool's core pointer with a free context and a slot left, and that context. -/
def roomIn (s : State) (l p c : Nat) : Option (Nat × Nat) :=
  let last := Tbl.get 0 s.starter.coreRr (8 * p + c)
  (List.range 8).findSome? (fun i =>
    let k := (last + i) % 8
    if Tbl.get 0 s.starter.slots (64 * (l + 1) + 8 * c + k) < od s 0x3002 1 then
      (match freeOn s l p c k with | some n => some (k, n) | none => none)
    else none)

/-- A cluster takes new draws (R94). -/
def clusterOpen (s : State) (c : Nat) : Bool := (clusterOf s c).state == 0

def poolShare (s : State) (l p c : Nat) : Nat := poolVal s l p (2 + c)

def poolSpares (s : State) (l p : Nat) : Nat := poolVal s l p 10

/-- A candidate that may still be stolen under a policy (Table 3.13). -/
def stealable (s : State) (policy n : Nat) : Bool :=
  let h := (ctxOf s n).hdr
  !h.stolen && (if policy = 1 then h.state == .releasing || (h.state == .running && h.sus)
    else h.state == .running || h.state == .releasing)

/-- The better of two candidates: the smaller measure, then the lower number (R109). -/
def betterCand (a b : Nat × Nat) : Nat × Nat := if b.1 < a.1 ∨ (b.1 = a.1 ∧ b.2 < a.2) then b else a

/-- The best of a list of candidates. -/
def bestCand : List (Nat × Nat) → Option (Nat × Nat)
  | [] => none
  | a :: t => some (t.foldl betterCand a)

/-- The victim for a start of pool p (R93, R109). -/
def victim (s : State) (l p policy : Nat) : Option (Nat × Nat) :=
  bestCand ((List.range 8).flatMap (fun c =>
    if clusterOpen s c && decide (activeIn s p c < poolShare s l p c + poolSpares s l p) && (roomIn s l p c).isSome then
      (Tbl.get [] s.starter.cands (8 * p + c)).filter (fun a => stealable s policy a.2)
    else []))

/-- Mark a voice STOLEN for an event of lap l: it leaves the note table and the candidates (R103, R110, R111). -/
def stealVoice (l p n : Nat) (s : State) : State :=
  let s1 := updCtx (unlinkNote n s) n (fun c => { c with hdr := { c.hdr with stolen := true }, stolenLap := l })
  let a := s1.starter
  { s1 with starter := { a with
      cands := Tbl.put [] a.cands (8 * p + n / 2048) ((Tbl.get [] a.cands (8 * p + n / 2048)).filter (fun x => x.2 != n)),
      steals := Tbl.upd 0 a.steals p sat32 } }

/-- A ring that no voice and no start record owns. -/
def ringIdle (s : State) (r : Nat) : Bool :=
  !s.ctxs.any (fun e => e.2.hdr.state != .free && e.2.hdr.sv && e.2.hdr.ring.toNat == r) &&
  !s.starter.flight.any (fun x => x.sv && x.ring.toNat == r)

/-- The lowest idle ring of a pool (R366). -/
def idleRing (s : State) (p : Nat) : Option Nat :=
  (s.store.rings.find? (fun e => e.2.pool == p && e.2.grants != 0 && ringIdle s e.1)).map (·.1)

/-- Draw a context for one voice: its start record leaves for the cluster, its slot is charged and its note linked. -/
def drawVoice (e : Ev) (l : Nat) (v : Voice) (ring : Option Nat) (k n : Nat) (s : State) : State :=
  let c := n / 2048
  let object := match templateKeymap s v.tmpl with
    | some m => (zoneObject (keymapZones s m) e.note.toNat e.vel.toNat).getD 0
    | none => 0
  let rec_ : StartRec := {
    ctx := n, lap := l, tmpl := v.tmpl, velw := v.velw, notew := v.notew, vel := e.vel, note := e.note, chan := e.chan,
    scls := e.scls, onset := BitVec.ofNat 6 (sampleIndex s.grid l e.split), pool := v.pool,
    kernel := poolVal s l v.pool 1, grants := poolVal s l v.pool 12, obj := object,
    ring := BitVec.ofNat 12 (ring.getD 0), sv := ring.isSome }
  let a := s.starter
  { s with starter := { a with
      rr := Tbl.put 0 a.rr v.pool (c + 1), coreRr := Tbl.put 0 a.coreRr (8 * v.pool + c) (k + 1),
      slots := Tbl.upd 0 a.slots (64 * (l + 1) + 8 * c + k) (· + 1),
      notes := a.notes ++ [⟨e.scls, e.chan, e.note, n⟩], flight := a.flight ++ [rec_],
      starts := Tbl.upd 0 a.starts v.pool sat32 } }

/-- Place one voice (R93): the state with it drawn, or the reason code of its refusal. -/
def placeVoice (e : Ev) (l at_ : Nat) (v : Voice) (s : State) : Except Nat State :=
  let p := v.pool
  let streaming := poolVal s l p 12 != 0
  let ring := if streaming then idleRing s p else none
  if streaming && s.store.service != 0 then .error 4
  else if (streaming && ring.isNone) || decide ((keyVoices s e).length ≥ 64) then .error 5
  else
    let last := Tbl.get 0 s.starter.rr p
    let shared := ((List.range 8).map (fun i => (last + i) % 8)).filter (fun c =>
      clusterOpen s c && decide (activeIn s p c < poolShare s l p c))
    match shared.findSome? (roomIn s l p) with
    | some (k, n) => .ok (drawVoice e l v ring k n s)
    | none =>
      if shared ≠ [] then .error 1
      else
        let policy := poolVal s l p 11
        if policy = 0 then .error 5
        else
          match victim s l p policy with
          | none => .error 5
          | some w =>
            match roomIn s l p (w.2 / 2048) with
            | none => .error 5
            | some (k, n) => .ok (drawVoice e l v ring k n (bumpCopies (w.2 / 2048) at_ (stealVoice l p w.2 s)))

/-- Place every voice of an expansion, or the reason of the first that fails. -/
def placeAll (e : Ev) (l at_ : Nat) : List Voice → State → Except Nat State
  | [], s => .ok s
  | v :: vs, s =>
    match placeVoice e l at_ v s with
    | .ok s1 => placeAll e l at_ vs s1
    | .error r => .error r

/-! ### Deadlines (R97 to R99) -/

/-- Twelve audio-island cycles after the issue stage takes an event, its last record leaves. -/
def leaveTime (s : State) (e : Ev) : Nat := max e.entry s.starter.issueFree + 12 * audioCycle s.grid.rate

/-- Charge the header updates and the template copies of new records to their clusters, 1 and 16 cycles each, from the later
of their arrival and the end of the copy before. -/
def chargeCopies (at_ : Nat) (new : List StartRec) (ends : Tbl Nat) : Tbl Nat :=
  new.foldl (fun t r => Tbl.upd 0 t (r.ctx / 2048) (fun e => max e at_ + 17 * tickNs)) ends

/-- Records of this event: those that were not in flight before it. -/
def newRecords (before after : State) : List StartRec := after.starter.flight.drop before.starter.flight.length

/-- Test the starts of an event after its releases: all start, or a reason. -/
def tryStarts (e : Ev) (l at_ : Nat) (vs : List Voice) (s : State) : Except Nat State :=
  match placeAll e l at_ vs s with
  | .error r => .error r
  | .ok s1 =>
    let ends := chargeCopies at_ (newRecords s s1) s1.starter.copyEnd
    if vs ≠ [] ∧ at_ > s.grid.tau (l + 1) 0 + nsTicks 400 then .error 6
    else if (newRecords s s1).any (fun r => decide (Tbl.get 0 ends (r.ctx / 2048) > s.grid.tau (l + 1) 0 + nsTicks 496)) then .error 6
    else .ok { s1 with starter := { s1.starter with copyEnd := ends } }

/-- The issue stage is occupied by an event of n voices (R97). -/
def occupyIssue (e : Ev) (n : Nat) (s : State) : State :=
  { s with starter := { s.starter with
      issueFree := max e.entry s.starter.issueFree + max 1 ((n + 3) / 4) * audioCycle s.grid.rate } }

/-- An event whose lap has come or passed (R95, R96). -/
def actOnEvent (e : Ev) (s : State) : State :=
  let l := s.grid.lapOf (nsTicks e.split)
  let rules := (ruleNumbers s).filter (ruleMatches s l e)
  let vs := expansion s l rules
  let at_ := leaveTime s e
  let s1 := { s with starter := { s.starter with
      matches_ := rules.foldl (fun t r => Tbl.upd 0 t r sat32) s.starter.matches_ } }
  if rules = [] then
    occupyIssue e 0 { s1 with starter := { s1.starter with unmatched := sat32 s1.starter.unmatched } }
  else
    let s2 := rules.foldl (ruleReleases l at_ e) s1
    let s3 := match (if vs.length > 64 then .error 5 else tryStarts e l at_ vs s2) with
      | .ok s => s
      | .error r => refuseEvent e.split e r (eventPool vs) s2
    occupyIssue e vs.length s3

/-- The Starter takes events in PERFORM and MAINTAIN (Table 1.7). -/
def starterRuns (s : State) : Bool :=
  s.grid.running && (s.modes.mode == .perform || s.modes.mode == .maintain) && decide (s.modes.entering < 2)

/-- The Starter takes one event (R50, R95). req is the requested gPTP time of a note message or application post, in ns. -/
def starterEvent (e0 : Ev) (req : Option Nat) (s0 : State) : State :=
  let s := advance e0.entry s0
  if !starterRuns s then s
  else
    let s1 := { s with starter := { s.starter with taken := sat32 s.starter.taken } }
    let arrival := nsOf e0.entry
    match req with
    | none => actOnEvent e0 s1
    | some t =>
      if t < arrival then
        actOnEvent { e0 with split := arrival / 1000 * 1000 }
          (fire 193 { s1 with starter := { s1.starter with late := sat32 s1.starter.late } })
      else if t > arrival + 1000000000 then
        let l := s.grid.lapOf e0.entry
        let vs := expansion s1 l ((ruleNumbers s1).filter (ruleMatches s1 l e0))
        occupyIssue e0 vs.length (refuseEvent arrival e0 6 (eventPool vs) s1)
      else
        let e := { e0 with split := t / 1000 * 1000 }
        if s.grid.lapOf (nsTicks e.split) > s.grid.lap then
          { s1 with starter := { s1.starter with waiting := s1.starter.waiting ++ [e] } }
        else actOnEvent e s1

/-- Events whose requested time lies in the lap that begins are acted on at its edge (log 33). -/
def wakeEvents (s : State) : State :=
  let due (e : Ev) : Bool := decide (s.grid.lapOf (nsTicks e.split) ≤ s.grid.lap)
  let now := s.starter.waiting.filter due
  now.foldl (fun s e => actOnEvent { e with entry := s.now } s)
    { s with starter := { s.starter with waiting := s.starter.waiting.filter (fun e => !due e) } }

/-! ### Start records in the Caravanserai (R99, R101) -/

/-- The header of a drawn context. -/
def armedHeader (h : Header) (r : StartRec) : Header :=
  { state := .armed, kernel := BitVec.ofNat 16 r.kernel, stolen := r.stolen, relreq := r.relreq, ended := false,
    sus := r.sus, relk := r.relk, pool := BitVec.ofNat 10 r.pool, loud := 0, gen := h.gen + 1, sv := r.sv, ring := r.ring,
    age := BitVec.ofNat 48 r.lap, vel := r.vel, note := r.note, onset := r.onset, scls := r.scls, chan := r.chan }

/-- A start record reaches its cluster: the header is updated and a template copy is queued. -/
def recordArrives (r : StartRec) (s : State) : State :=
  let s1 := updCtx s r.ctx (fun c => { c with hdr := armedHeader c.hdr r, relLap := r.relLap, stolenLap := r.stolenLap })
  { s1 with starter := { s1.starter with copies := Tbl.upd [] s1.starter.copies (r.ctx / 2048) (· ++ [r]) } }

/-- The 24-bit words of a template image. -/
def templateWord (img : Bytes) (w : Nat) : BitVec 24 := BitVec.ofNat 24 (leNat ((img.drop (3 * w)).take 3))

/-- Put template words 8 to 191 into a context, and the velocity and note words into its parameters (R101). -/
def applyTemplate (img : Bytes) (r : StartRec) (c : Ctx) : Ctx :=
  let st := (List.range 120).foldl (fun t i => Tbl.put 0 t (8 + i) (templateWord img (8 + i))) []
  let pg := (List.range 64).foldl (fun t i => Tbl.put 0 t i (templateWord img (128 + i))) []
  let pg1 := if r.velw < 64 then Tbl.put 0 pg r.velw (BitVec.ofNat 24 (r.vel.toNat * 256)) else pg
  let pg2 := if r.notew < 64 then Tbl.put 0 pg1 r.notew (r.note.setWidth 24) else pg1
  { c with st := st, act := pg2, shadow := pg2, dirty := false, marked := false, copying := false, upset := none }

/-- The core that runs a convoy slot. -/
def slotCore (s : State) (slot : Nat) : Nat :=
  8 * (slot / 16) + (match s.adm.load.slot slot with | some x => x.core % 8 | none => 0)

/-- A write to a context whose template copy runs or waits finds both pages filled: the copy goes ahead of it on the service
port (R83, R99). -/
def copiedFirst (n : Nat) (s : State) : State :=
  match (Tbl.get [] s.starter.copies (n / 2048)).find? (fun r => r.ctx == n && !r.copied && !r.dead) with
  | none => s
  | some r =>
    let done (rs : List StartRec) : List StartRec := rs.map (fun x => if x.ctx = n then { x with copied := true } else x)
    updCtx { s with starter := { s.starter with copies := Tbl.upd [] s.starter.copies (n / 2048) done } } n
      (applyTemplate (starterBytes s r.lap (0x5000 + r.tmpl) 1) r)

/-- A template copy ends; the record waits in the core's start queue. -/
def copyEnds (cluster : Nat) (s : State) : State :=
  match Tbl.get [] s.starter.copies cluster with
  | [] => s
  | r :: rest =>
    let s1 := if r.copied || r.dead then s else updCtx s r.ctx (applyTemplate (starterBytes s r.lap (0x5000 + r.tmpl) 1) r)
    let s2 := { s1 with starter := { s1.starter with copies := Tbl.put [] s1.starter.copies cluster rest } }
    if r.dead then s2
    else updCore s2 (slotCore s2 (slotOfCtx r.ctx)) (fun c => { c with starts := c.starts ++ [{ r with copied := true }] })

/-- STARTER_EVENT (R95): entry and split time in ns; etype + 1 is the type of Table 3.11. -/
def execStarterEvent (scls : Fin 7) (chan : BitVec 4) (note : BitVec 8) (vel : BitVec 16) (etype : Fin 6) (entry split : Nat)
    (req : Option Nat) (s : State) : Out :=
  .next (starterEvent ⟨BitVec.ofNat 4 scls.val, chan, note, vel, etype.val + 1, nsTicks entry, split / 1000 * 1000⟩ req s)

/-- START_RECORD_ARRIVAL (R99): the oldest record on its way to a cluster. -/
def execStartRecordArrival (c : Fin 8) (s : State) : Out :=
  .next (
    match s.starter.flight.find? (fun r => r.ctx / 2048 == c.val) with
    | none => s
    | some r => recordArrives r { s with starter := { s.starter with flight := s.starter.flight.erase r } })

/-- TEMPLATE_COPY_END (R99). -/
def execTemplateCopyEnd (c : Fin 8) (s : State) : Out := .next (copyEnds c.val s)

end Sys2Proof.Machine
end

