-- ==== Sys2Proof/Machine/Admission.lean ====
section
/-! DEFINITION. Admission (R280 to R298): the load as a request would leave it, the budgets of Table 8.5 in the order of
R291, the plan that R55 and R287 derive, the burst demands of Table 8.6, drain plans, and the refusal record. -/

namespace Sys2Proof.Machine

/-- The load with the settings that budgets depend on, as a request would leave it. -/
structure View where
  load  : Load
  od    : List (Nat × Bytes)
  rate  : Nat
  nLap  : Nat
  reserve : Bool
  /-- The migration allowance is placed: the reserve is on, or a drain or return has yet to complete (R288, R294). -/
  allow : Bool
  /-- Lap offsets of nodes that run already (R55). -/
  held  : List (Nat × Nat)
  /-- Clusters that are quarantined: their convoys are charged to none of their budgets (R620). -/
  gone  : List Nat := []
  deriving DecidableEq, Repr

def View.bytes (v : View) (ix sub : Nat) : Bytes :=
  match lookupNat v.od (odKey ix sub) with
  | some b => b
  | none => odDefault ix sub

def View.val (v : View) (ix sub : Nat) : Nat := leNat (v.bytes ix sub)

/-- The admitted load as a view, with a change of the grid that has been accepted (R281). -/
def viewOf (s : State) : View :=
  { load := s.adm.load, od := s.dict.od, rate := match s.grid.change with | some c => c.1 | none => s.grid.rate,
    nLap := match s.grid.change with | some c => c.2 | none => s.grid.nLap, reserve := s.adm.reserve == 1,
    allow := s.adm.reserve != 0 || s.adm.out.isSome, held := s.adm.plan.proc, gone := (List.range 8).filter (fun c => decide (4 ≤ (clusterOf s c).state)) }

/-- The admitted load on the grid in force. -/
def viewNow (s : State) : View := { viewOf s with rate := s.grid.rate, nLap := s.grid.nLap }

/-- The station of an interface (Table 15.1). -/
def ifaceStation (i : Nat) : Nat := if i = 4 ∨ i = 5 then 10 else 11

/-- A slot number renamed by a migration. -/
def renameSlot (a b i : Nat) : Nat := if i = a then b else i

/-- A load in which a convoy has moved, with its edges and outputs (R55). -/
def Load.move (l : Load) (a b core : Nat) : Load :=
  match l.slot a with
  | none => l
  | some x =>
    { l with slots := assocSet (assocSet l.slots a none) b (some { x with core := core }),
             edges := l.edges.map (fun e => (e.1, { e.2 with src := renameSlot a b e.2.src, dst := renameSlot a b e.2.dst })),
             outputs := l.outputs.map (fun o => (o.1, { o.2 with src := renameSlot a b o.2.src })) }

/-- What one entry of a manifest changes in a view. -/
def View.entry (v : View) : MEntry → View
  | .write ix sub val =>
    let v1 := { v with od := assocSet v.od (odKey ix sub) (if val = odDefault ix sub then none else some val) }
    if ix = 0x2001 ∧ sub = 1 then { v1 with rate := leNat val }
    else if ix = 0x2001 ∧ sub = 2 then { v1 with nLap := leNat val }
    else v1
  | .compare _ _ _ => v
  | .slot c i core kernel pool n =>
    { v with load := { v.load with slots := assocSet v.load.slots (16 * c + i) (if n = 0 then none else some ⟨kernel, pool, core, n⟩) },
             held := if n = 0 then assocSet v.held (16 * c + i) none else v.held }
  | .edge num src dst ch fb =>
    { v with load := { v.load with edges := assocSet v.load.edges num (if ch = 0 then none else some ⟨src, dst, ch, fb⟩) } }
  | .output num src base ch cls iface ibase =>
    { v with load := { v.load with outputs := assocSet v.load.outputs num (if ch = 0 then none else some ⟨src, base, ch, cls, iface, ibase⟩) } }
  | .kernel k t p => { v with load := { v.load with kernels := assocSet v.load.kernels k (some ⟨t, p⟩) } }
  | .migrate a b core =>
    { v with load := v.load.move a b core,
             held := assocSet (assocSet v.held a none) b (lookupNat v.held a) }

def View.entries (v : View) (es : List MEntry) : View := es.foldl View.entry v

/-! ### The plan (R55, R287) -/

/-- One round of the walk of R55: nodes whose producers are done get their need. -/
def walkRound (v : View) (done : List (Nat × Nat)) (todo : List Nat) : List (Nat × Nat) :=
  todo.filterMap (fun n =>
    let ins := v.load.edges.filter (fun e => e.2.dst == n && !e.2.feedback)
    if ins.all (fun e => (lookupNat done e.2.src).isSome) then
      let need := ins.foldl (fun m e => max m ((lookupNat done e.2.src).getD 0 + (if e.2.src / 16 = n / 16 then 0 else 1))) 1
      let proc := match lookupNat v.held n with | some h => if h ≥ need then h else need | none => need
      some (n, proc)
    else none)

/-- The walk of R55 over the nodes of a load: nodes placed in order, and those a cycle keeps. The lowest numbered ready
node goes first. -/
def walk (v : View) : Nat → List (Nat × Nat) → List Nat → List (Nat × Nat) × List Nat
  | 0, done, todo => (done, todo)
  | f + 1, done, todo =>
    match walkRound v done todo with
    | [] => (done, todo)
    | a :: _ => walk v f (done ++ [a]) (todo.filter (fun n => n != a.1))

/-- A topological order of convoys over the edges within their clusters, feedback left out; the lowest numbered ready convoy goes first.
Convoys that a cycle keeps come last. -/
def orderWalk (v : View) : Nat → List Nat → List Nat → List Nat
  | 0, done, todo => done ++ todo
  | f + 1, done, todo =>
    let ready (n : Nat) : Bool := v.load.edges.all (fun e => e.2.dst != n || e.2.feedback || e.2.src / 16 != n / 16 || !todo.contains e.2.src)
    match todo.find? ready with
    | some n => orderWalk v f (done ++ [n]) (todo.filter (fun m => m != n))
    | none => done ++ todo

/-- The dispatch order of the clusters' convoys (R287). -/
def dispatchOrder (v : View) : List Nat := orderWalk v v.load.slots.length [] (v.load.slots.map (·.1))

/-- What admission derives from a load, and whether the walk reached every node. An output that the walk did not reach, or that fails its
class, has a pad of 0 (R291). -/
def planOf (v : View) : Plan × Bool :=
  let nodes := v.load.slots.map (·.1)
  let w := walk v nodes.length [] nodes
  let padE := v.load.edges.map (fun e =>
    (e.1, if e.2.feedback then 0 else
      match lookupNat w.1 e.2.src, lookupNat w.1 e.2.dst with
      | some a, some b => b - a - (if e.2.src / 16 = e.2.dst / 16 then 0 else 1)
      | _, _ => 0))
  let padO := v.load.outputs.map (fun o => (o.1, match lookupNat w.1 o.2.src with | some p => o.2.cls - (p + 1) | none => 0))
  (⟨w.1, padE, padO, dispatchOrder v⟩, w.2 = [])

/-! ### Costs -/

def View.kernelOf (v : View) (x : Slot) : Kernel := (v.load.kernel x.kernel).getD ⟨[], []⟩

/-- C(n) of a slot (R284). -/
def View.cost (v : View) (x : Slot) : Nat := (v.kernelOf x).cost v.nLap x.n

def View.sSlots (v : View) : Nat := v.val 0x3002 1

def View.lSlot (v : View) : Nat := v.val 0x3002 2

/-- T_cyc (R300). -/
def View.tCyc (v : View) : Nat := v.nLap * sampleTicks v.rate / tickNs

/-- U of R286. -/
def View.usable (v : View) : Nat := v.tCyc - 1536 - v.sSlots * v.lSlot

/-- Start and end of each convoy, in cycles from the end of the charged start phase (R287): slot, begin, end. -/
def timeline (v : View) (order : List Nat) : List (Nat × Nat × Nat) :=
  order.foldl (fun acc n =>
    match v.load.slot n with
    | none => acc
    | some x =>
      let k := slotCoreIn n x
      let sameCore := acc.filter (fun a => match v.load.slot a.1 with | some y => slotCoreIn a.1 y == k | none => false)
      let t := sameCore.foldl (fun m a => max m a.2.2) 0
      let b := v.load.edges.foldl (fun m e =>
        if e.2.dst = n ∧ !e.2.feedback ∧ e.2.src / 16 = n / 16 then
          match lookupNat acc e.2.src, v.load.slot e.2.src with
          | some se, some y => if slotCoreIn e.2.src y = k then m else max m (se.2 + 8)
          | _, _ => m
        else m) t
      acc ++ [(n, b, b + v.cost x)]) []

/-- t(k) of R287. -/
def coreFinish (v : View) (tl : List (Nat × Nat × Nat)) (k : Nat) : Nat :=
  if v.gone.contains (k / 8) then 0
  else tl.foldl (fun m a => match v.load.slot a.1 with
    | some x => if slotCoreIn a.1 x = k then max m a.2.2 else m
    | none => m) 0

/-- Slots of a cluster. -/
def View.inCluster (v : View) (c : Nat) : List (Nat × Slot) := v.load.slots.filter (fun e => e.1 / 16 == c)

/-- Slots of a cluster that are charged to its budgets (R620). -/
def View.charged (v : View) (c : Nat) : List (Nat × Slot) := if v.gone.contains c then [] else v.inCluster c

def clusterContexts (v : View) (c : Nat) : Nat := (v.charged c).foldl (fun m e => m + e.2.n) 0

def clusterCycles (v : View) (c : Nat) : Nat := (v.charged c).foldl (fun m e => m + v.cost e.2) 0

/-- Kernels present in a set of slots, once each. -/
def kernelsIn (es : List (Nat × Slot)) : List Nat := es.foldl (fun ks e => insertNat e.2.kernel ks) []

/-- CSM words charged in a cluster (Table 8.5, R54, R58). -/
def clusterCsm (v : View) (p : Plan) (c : Nat) : Nat :=
  let es := v.charged c
  let tables := (kernelsIn es).foldl (fun m k => m + (match v.load.kernel k with | some t => t.csm | none => 0)) 0
  let per := es.foldl (fun m e => m + (v.kernelOf e.2).csmPerCtx * e.2.n) 0
  let pads := v.load.edges.foldl (fun m e =>
    if e.2.dst / 16 ≠ c then m
    else if e.2.feedback then (if e.2.src / 16 = c then m + e.2.channels * v.nLap else m)
    else m + (lookupNat p.padE e.1).getD 0 * v.nLap * e.2.channels) 0
  let outs := v.load.outputs.foldl (fun m o =>
    if o.2.src / 16 = c then m + (lookupNat p.padO o.1).getD 0 * v.nLap * o.2.channels else m) 0
  if v.gone.contains c then 0 else tables + per + pads + outs

/-- Program syllables of the distinct kernels of a core (R124). -/
def coreProgram (v : View) (k : Nat) : Nat :=
  (kernelsIn ((v.charged (k / 8)).filter (fun e => slotCoreIn e.1 e.2 == k))).foldl (fun m i =>
    m + (match v.load.kernel i with | some t => t.programLen | none => 0)) 0

/-- Pools with a kernel. -/
def View.pools (v : View) : List Nat :=
  v.od.filterMap (fun e =>
    if 0x4400 * 256 ≤ e.1 ∧ e.1 < 0x4800 * 256 ∧ e.1 % 256 = 1 ∧ leNat e.2 ≠ 0 then some (e.1 / 256 - 0x4400) else none)

/-- Contexts for which a pool's grants are charged: share plus spares over the clusters with a share (R290). -/
def poolSize (v : View) (p : Nat) : Nat :=
  (List.range 8).foldl (fun m c =>
    let sh := v.val (0x4400 + p) (2 + c)
    if sh = 0 then m else m + sh + v.val (0x4400 + p) 10) 0

def grantsCharged (v : View) : Nat := v.pools.foldl (fun m p => m + v.val (0x4400 + p) 12 * poolSize v p) 0

/-! ### Burst demands (R288, Table 8.6) -/

/-- A transfer to place: kind, tag, source, destination, beats, first cycle and last cycle of its window; part tells the transfers of one
stream of traffic apart, as the samples of a drain. -/
structure Demand where
  kind : Nat
  tag  : Nat
  src  : Nat
  dst  : Nat
  beats : Nat
  lo   : Nat
  hi   : Nat
  part : Nat := 0
  deriving DecidableEq, Repr

/-- Split a transfer into bursts of at most 256 beats. -/
def splitDemand (d : Demand) : List Demand :=
  (List.range ((d.beats + 255) / 256)).map (fun i => { d with beats := min 256 (d.beats - 256 * i) })

def wordBeats (w : Nat) : Nat := (3 * w + 15) / 16

/-- Feeds of one convoy. The words of a feed of every context are packed as one transfer (R301). -/
def feedDemands (v : View) (n disp fin : Nat) (x : Slot) (first : Bool) : List Demand :=
  let k := v.kernelOf x
  let c := n / 16
  let one (i : Nat) (f : Feed) (times : Nat) : Demand :=
    let w := times * (f.wfix + v.nLap * f.wsmp)
    -- the status feed of a streaming convoy begins at cycle 512 or later (R373)
    if f.dir = 0 then ⟨3, 8 * n + i, 9, c, wordBeats w, if k.stream && i == 1 then 512 else 0, disp - 64, 0⟩ else ⟨4, 8 * n + i, c, 9, wordBeats w, fin, v.tCyc, 0⟩
  let feeds := (List.range k.feedCount).zip k.feeds
  feeds.flatMap (fun f => if f.2.scope then (if first then [one f.1 f.2 1] else []) else [one f.1 f.2 x.n])

/-- The end of the charged start phase in a lap. -/
def View.base (v : View) : Nat := 512 + v.sSlots * v.lSlot

/-- The input transfers of a cluster from a station: the first burst in the head window, the rest before the first convoy that reads them
(R47, R288). -/
def inputDemands (v : View) (disp : Nat → Nat) (c st : Nat) : List Demand :=
  let reads (k : Nat) : Bool := match v.load.kernel k with | some t => (Config.inputChannels t.table).any (fun ch => inputStation ch.1 == st) | none => false
  let beats := wordBeats (((v.load.inputs c).filter (fun ch => inputStation ch.1 == st)).length * v.nLap)
  let due := ((v.load.slots.filter (fun e => e.1 / 16 == c && reads e.2.kernel)).map (fun e => disp e.1)).foldl min v.tCyc
  [⟨6, 0, st, c, min 256 beats, 0, 256, 0⟩, ⟨6, 0, st, c, beats - 256, 0, due, 1⟩]

/-- Every transfer of a view, without the migration allowance (Table 8.6). -/
def traffic (v : View) (p : Plan) : List Demand :=
  let tl := timeline v p.order
  let disp (n : Nat) : Nat := v.base + (match lookupNat tl n with | some t => t.1 | none => 0)
  let fin (n : Nat) : Nat := v.base + (match lookupNat tl n with | some t => t.2 | none => 0)
  let streams := v.load.slots.flatMap (fun e =>
    let k := v.kernelOf e.2
    if k.stream then [(⟨1, e.1, 9, e.1 / 16, wordBeats (e.2.n * k.channels * advanceMax v.nLap k), 512, disp e.1 - 64, 0⟩ : Demand)] else [])
  let rings : List Demand := [⟨2, 0, 8, 9, (grantsCharged v * ((576 * v.nLap * sampleTicks v.rate + 999999 * tickNs) / (1000000 * tickNs)) + 15) / 16, 0, v.tCyc, 0⟩]
  let feeds := v.load.slots.flatMap (fun e =>
    let first := !(v.load.slots.any (fun g => g.1 / 16 == e.1 / 16 && g.2.kernel == e.2.kernel && decide (g.1 < e.1)))
    feedDemands v e.1 (disp e.1) (fin e.1) e.2 first)
  let hops := v.load.edges.flatMap (fun e =>
    if e.2.src / 16 = e.2.dst / 16 then []
    else [(⟨5, e.1, e.2.src / 16, e.2.dst / 16, wordBeats (e.2.channels * v.nLap), 0, disp e.2.dst - 16, 0⟩ : Demand)])
  let inputs := (List.range 8).flatMap (fun c => [10, 11].flatMap (inputDemands v disp c))
  let drains := v.load.outputs.flatMap (fun o =>
    (List.range v.nLap).map (fun i =>
      -- samples 1 and up of the block that the lap emits, then sample 0 of the next
      let j := i + 1
      let last := j = v.nLap
      (⟨7, o.1, o.2.src / 16, ifaceStation o.2.iface, wordBeats o.2.channels, if last then v.tCyc - 976 else 0,
        if last then v.tCyc - 720 else j * sampleTicks v.rate / tickNs - 395, j⟩ : Demand)))
  streams ++ rings ++ feeds ++ hops ++ inputs ++ drains

/-- Every burst demand of a view, without the migration allowance. -/
def demands (v : View) (p : Plan) : List Demand := (traffic v p).flatMap splitDemand

/-- Two transfers are the same traffic in two cases. -/
def sameTraffic (a b : Demand) : Bool := a.kind == b.kind && a.tag == b.tag && a.src == b.src && a.dst == b.dst && a.part == b.part

/-- A transfer that may come about in either of two cases: the larger of its beats, in the part of its windows that serves both (R281). -/
def addTraffic (ds : List Demand) (d : Demand) : List Demand :=
  if ds.any (sameTraffic d) then
    ds.map (fun e => if sameTraffic d e then { e with beats := max e.beats d.beats, lo := max e.lo d.lo, hi := min e.hi d.hi } else e)
  else ds ++ [d]

/-- The burst demands of several cases, each of which may come about (R281). -/
def demandsOver (vs : List View) : List Demand :=
  ((vs.flatMap (fun v => traffic v (planOf v).1)).foldl addTraffic []).flatMap splitDemand

/-- The 36 bursts of the migration allowance; none where no load is admitted (Table 8.14). -/
def allowance (vs : List View) : List Demand :=
  match vs.find? (fun v => v.load.slots != []) with
  | some v => List.replicate 36 ⟨8, 0, 12, 12, 256, 0, v.tCyc, 0⟩
  | none => []

/-- The limit of R306. -/
def laneLimit (tCyc : Nat) : Nat := 896 * (tCyc / 1024) + min 896 (tCyc % 1024)

/-- The beats of a burst that fall in an interval. -/
def beatsIn (b : Burst) (lo hi : Nat) : Nat := min (b.start + b.len + 1) hi - max b.start lo

/-- Whether two bursts share a cycle. -/
def overlap (a b : Burst) : Bool := decide (a.start < b.start + b.len + 1 ∧ b.start < a.start + a.len + 1)

/-- The checks of R305 on one burst. -/
def burstOk (tCyc : Nat) (b : Burst) : Bool :=
  decide (1 ≤ b.kind ∧ b.kind ≤ 8) && decide (b.src ≤ 12 ∧ b.dst ≤ 12) && decide (b.lane ≤ 3) && decide (b.len ≤ 255) &&
  decide (b.start + b.len + 1 ≤ tCyc) && (b.kind == 8 || b.src != b.dst)

/-- At the first beat of a burst, how many bursts of a list use a station (R302). -/
def stationsOk (bs : List Burst) (b : Burst) : Bool :=
  b.kind == 8 ||
  (decide ((bs.filter (fun x => x.kind != 8 && x.src == b.src && decide (x.start ≤ b.start ∧ b.start ≤ x.start + x.len))).length ≤ 2) &&
   decide ((bs.filter (fun x => x.kind != 8 && x.dst == b.dst && decide (x.start ≤ b.start ∧ b.start ≤ x.start + x.len))).length ≤ 2))

/-- The beats of a lane in the window of 1,024 cycles that a burst begins in, and in the one after (R306). -/
def windowsOk (tCyc : Nat) (bs : List Burst) (b : Burst) : Bool :=
  [b.start / 1024, b.start / 1024 + 1].all (fun w =>
    decide (((bs.filter (fun x => x.lane == b.lane)).foldl (fun m x => m + beatsIn x (1024 * w) (min tCyc (1024 * (w + 1)))) 0) ≤ 896))

/-- Why the Relay refuses a bank: the index of the lowest descriptor that breaks a rule, none where it arms it (R305). -/
def bankBreach (tCyc : Nat) (bs : List Burst) : Option Nat :=
  (List.range bs.length).find? (fun i =>
    match bs[i]? with
    | none => false
    | some b =>
      decide (i ≥ 4096) || !burstOk tCyc b || (bs.take i).any (fun a => a.lane == b.lane && overlap a b) || !stationsOk bs b || !windowsOk tCyc bs b)

/-- Whether the Relay arms a bank (R305). -/
def bankOk (tCyc : Nat) (bs : List Burst) : Bool := (bankBreach tCyc bs).isNone

/-- The drains of each output run in sample order (R45). -/
def drainsInOrder (bs : List Burst) : Bool :=
  (List.range bs.length).all (fun i => match bs[i]? with
    | none => true
    | some b => b.kind != 7 || (bs.take i).all (fun a => a.kind != 7 || a.tag != b.tag || decide (a.start + a.len < b.start)))

def demandRow (d : Demand) : List Nat := [d.kind, d.tag, d.src, d.dst, d.beats, d.lo, d.hi]

/-- The bank that the placement procedure makes for a list of demands, each burst in its window (R662), before the Relay checks it. -/
def placedBank (ds : List Demand) : Option (List Burst) :=
  let rows := ds.map demandRow
  let got := ((List.range ds.length).zip ds).map (fun e =>
    match Config.placeBurst rows e.1 with
    | some (lane, start) =>
      if e.2.lo ≤ start ∧ start + e.2.beats ≤ e.2.hi then
        some (⟨e.2.tag % 65536, e.2.kind, e.2.beats - 1, e.2.dst, e.2.src, lane % 4, start⟩ : Burst)
      else none
    | none => none)
  if got.all (·.isSome) && drainsInOrder (got.filterMap id) then some (got.filterMap id) else none

/-- The timetable for a list of demands, if the procedure places them and the Relay arms the bank (R305, R662). -/
def placeDemands (tCyc : Nat) (ds : List Demand) : Option (List Burst) :=
  match placedBank ds with
  | some bs => if bankOk tCyc bs then some bs else none
  | none => none

/-- The cases of a request that have one lap length; a timetable serves one. -/
def relayCases (vs : List View) : List (List View) := (vs.map View.tCyc).eraseDups.map (fun t => vs.filter (fun v => v.tCyc == t))

/-- T_cyc of cases that share it. -/
def casesCyc (vs : List View) : Nat := match vs with | v :: _ => v.tCyc | [] => 0

/-- DRAM bytes charged per lap (R289). -/
def dramBytes (ds : List Demand) : Nat := ds.foldl (fun m d => if d.src = 9 ∨ d.dst = 9 then m + 16 * d.beats else m) 0

/-- floor(41 x 10^9 x T_lap). -/
def dramLimit (v : View) : Nat := 41 * (v.nLap * sampleTicks v.rate) / tickNs

/-! ### Checks in the order of R291 -/

/-- A failing check: Table 8.8 without the lap, the entry and the requester; hit tells the entries it counts. -/
structure Fail where
  reason : Nat
  resource : Nat
  cluster : Nat := 0xFF
  core : Nat := 0xFF
  lane : Nat := 0xFF
  needed : Nat := 1
  avail : Nat := 0
  hit : MEntry → Bool

/-- Entries that name a kernel. -/
def hitKernel (k : Nat) : MEntry → Bool
  | .kernel j _ _ => j == k
  | .slot _ _ _ j _ n => j == k && n != 0
  | .write ix sub v => decide (0x4400 ≤ ix ∧ ix ≤ 0x47FF ∧ sub = 1) && leNat v == k
  | _ => false

/-- Entries that put a convoy of some set into the load. -/
def hitSlots (p : Nat → Bool) : MEntry → Bool
  | .slot c i _ _ _ n => p (16 * c + i) && n != 0
  | .migrate _ b _ => p b
  | _ => false

/-- Entries that put a convoy into a cluster. -/
def hitCluster (c : Nat) : MEntry → Bool := hitSlots (fun n => n / 16 == c)

/-- Entries that load one of some kernels. -/
def hitKernels (ks : List Nat) : MEntry → Bool
  | .kernel k _ _ => ks.contains k
  | _ => false

def hitPool (p : Nat) : MEntry → Bool
  | .write ix _ _ => ix == 0x4400 + p
  | _ => false

def hitObject (ix : Nat) : MEntry → Bool
  | .write i _ _ => i == ix
  | _ => false

/-- Entries that change an edge of some set, or an output of some set. -/
def hitEdges (p : Nat → Nat → Bool) : MEntry → Bool
  | .edge _ a b ch fb => ch != 0 && !fb && p a b
  | _ => false

def hitOutputs (p : Nat → Bool) : MEntry → Bool
  | .output _ a _ ch _ _ _ => ch != 0 && p a
  | _ => false

/-- Entries that change the usable cycles (R286). -/
def hitUsable (e : MEntry) : Bool := hitObject 0x3002 e || hitObject 0x2001 e

/-- Entries of pools whose grants are charged. -/
def hitGrants (v : View) : MEntry → Bool
  | .write ix sub _ => decide (0x4400 ≤ ix) && v.pools.contains (ix - 0x4400) && decide (1 ≤ sub ∧ sub ≤ 12)
  | _ => false

/-- A kernel moves words to or from DRAM. -/
def movesDram (k : Kernel) : Bool := k.stream || decide (0 < k.feedCount)

/-- Entries that the DRAM charge counts (R289). -/
def hitDram (v : View) (e : MEntry) : Bool :=
  let of (k : Nat) : Bool := match v.load.kernel k with | some t => movesDram t | none => false
  hitGrants v e || hitObject 0x2001 e || hitSlots (fun n => match v.load.slot n with | some x => of x.kernel | none => false) e ||
  (match e with | .kernel k _ _ => of k && v.load.slots.any (fun s => s.2.kernel == k) | _ => false)

/-- Entries that the Relay's timetable counts (R288). -/
def hitRelay (v : View) (e : MEntry) : Bool :=
  hitDram v e || hitObject 0x3002 e || hitSlots (fun _ => true) e ||
  (match e with
   | .edge _ a b ch _ => ch != 0 && a / 16 != b / 16
   | .output _ _ _ ch _ _ _ => ch != 0
   | .kernel k _ _ => v.load.slots.any (fun s => s.2.kernel == k)
   | _ => false)

/-- Entries that raise some budget. -/
def hitGraph : MEntry → Bool
  | .slot _ _ _ _ _ n => n != 0
  | .edge _ _ _ ch _ => ch != 0
  | .output _ _ _ ch _ _ _ => ch != 0
  | .migrate _ _ _ => true
  | .kernel _ _ _ => true
  | .write ix _ _ => decide (0x4400 ≤ ix ∧ ix ≤ 0x47FF) || ix == 0x3002 || ix == 0x2001
  | _ => false

/-- The producers that come before some convoys over edges without feedback, with those convoys; within their clusters only if so told. -/
def upstream (v : View) (inside : Bool) : Nat → List Nat → List Nat
  | 0, ns => ns
  | f + 1, ns =>
    let more := (v.load.edges.filter (fun e => !e.2.feedback && ns.contains e.2.dst && !ns.contains e.2.src &&
      (!inside || e.2.src / 16 == e.2.dst / 16))).map (·.2.src)
    if more = [] then ns else upstream v inside f (ns ++ more.eraseDups)

/-- The convoys of a core. -/
def View.onCore (v : View) (k : Nat) : List Nat := (v.load.slots.filter (fun e => slotCoreIn e.1 e.2 == k)).map (·.1)

/-- The kernels of some convoys. -/
def View.kernelsOf (v : View) (ns : List Nat) : List Nat := kernelsIn (v.load.slots.filter (fun e => ns.contains e.1))

def noEntry : MEntry → Bool := fun _ => false

/-- The first failure of a list of checks. -/
def firstFail : List (Option Fail) → Option Fail
  | [] => none
  | some f :: _ => some f
  | none :: t => firstFail t

/-- The form of a cost table (Table 8.4, rows 1 to 3). -/
def tableForm (k : Nat) (t : Kernel) : Bool :=
  let f := t.feedCount
  t.table.length == 1066 + 8 * f && fieldAt t.table 0 1 == 1 && fieldAt t.table 2 2 == k && decide (t.flags < 16) &&
  fieldAt t.table 15 1 == 0 && decide (f ≤ 8) && decide (1 ≤ t.programLen ∧ t.programLen ≤ 7936) &&
  (List.range 4).all (fun i => decide (t.permit i < 16777216)) &&
  (List.range f).all (fun i => decide (fld (t.feedWord i) 63 62 ≤ 1) && fld (t.feedWord i) 60 48 == 0) &&
  fieldAt t.table (1064 + 8 * f) 2 == crc16 0xFFFF (t.table.take (1064 + 8 * f)) &&
  (t.stream || (t.channels == 0 && fieldAt t.table 13 1 == 0))

/-- Table 8.4 for one kernel. -/
def kernelCheck (v : View) (k : Nat) (t : Kernel) : Option Fail :=
  let y := t.yWords + 2 * 128 * t.channels * (advanceMax v.nLap t + 32)
  if !tableForm k t then some { reason := 1, resource := 19, hit := hitKernel k }
  else if t.dramWin then some { reason := 3, resource := 20, hit := hitKernel k }
  else if t.precise then some { reason := 1, resource := 21, hit := hitKernel k }
  else if t.start + 264 > v.lSlot then
    some { reason := 1, resource := 4, needed := t.start, avail := v.lSlot - 264, hit := fun e => hitKernels [k] e || hitObject 0x3002 e }
  else if t.xWords > 16384 then some { reason := 5, resource := 5, needed := t.xWords, avail := 16384, hit := hitKernel k }
  else if y > 65536 then some { reason := 5, resource := 6, needed := y, avail := 65536, hit := hitKernel k }
  else if t.stream && !(decide (1 ≤ t.channels ∧ t.channels ≤ 8) && decide (64 ≤ t.rho)) then
    some { reason := 4, resource := 22, hit := hitKernel k }
  else none

/-- Step 1: every kernel of the load, and every kernel that a slot or a pool names. -/
def checkKernels (v : View) : Option Fail :=
  let named := v.load.slots.map (·.2.kernel) ++ v.pools.map (fun p => v.val (0x4400 + p) 1)
  firstFail (named.map (fun k =>
    if (v.load.kernel k).isNone then some { reason := 1, resource := 19, hit := hitKernel k } else none) ++
    v.load.kernels.map (fun e => kernelCheck v e.1 e.2))

/-- Pools and templates of rule voices, and restart templates (R106, R619). -/
def checkTemplates (v : View) : Option Fail :=
  let rules := (v.od.map (fun e => e.1 / 256)).filter (fun ix => decide (0x4800 ≤ ix ∧ ix ≤ 0x4BFF))
  let ruleFails := rules.flatMap (fun ix =>
    (List.range (v.val ix 11)).map (fun i =>
      let p := v.val ix (12 + i)
      let t := v.val ix (20 + i)
      if v.val (0x5000 + t) 2 ≠ v.val (0x4400 + p) 1 then
        some { reason := 5, resource := 24, hit := fun e => hitObject ix e || hitPool p e || hitObject (0x5000 + t) e }
      else none))
  let pools := (v.od.filter (fun e => decide (0x4400 * 256 ≤ e.1 ∧ e.1 < 0x4800 * 256) && e.1 % 256 == 18)).map (fun e => e.1 / 256 - 0x4400)
  let restartFails := pools.map (fun p =>
    let t := v.val (0x4400 + p) 18
    if t = 0xFFFF then none
    else if v.val (0x5000 + t) 2 ≠ v.val (0x4400 + p) 1 ∨ v.val (0x4400 + p) 1 = 0 then
      some { reason := 5, resource := 24, hit := fun e => hitPool p e || hitObject (0x5000 + t) e }
    else if v.val (0x4400 + p) 12 > 0 then some { reason := 4, resource := 22, hit := hitPool p }
    else none)
  firstFail (ruleFails ++ restartFails)

/-- Step 2: ends of edges and outputs hold convoys, templates fit pools, contexts and CSM. -/
def checkContexts (v : View) (p : Plan) : Option Fail :=
  let has (n : Nat) : Bool := (v.load.slot n).isSome
  let edges := v.load.edges.map (fun e =>
    if has e.2.src && has e.2.dst then none
    else some { reason := 5, resource := 8, cluster := (if has e.2.src then e.2.dst else e.2.src) / 16, hit := fun x => match x with
        | .edge j _ _ _ _ => j == e.1
        | .slot c i _ _ _ _ => 16 * c + i == e.2.src || 16 * c + i == e.2.dst
        | _ => false })
  let outs := v.load.outputs.map (fun o =>
    if has o.2.src then none
    else some { reason := 5, resource := 8, cluster := o.2.src / 16, hit := fun x => match x with
        | .output j _ _ _ _ _ _ => j == o.1
        | .slot c i _ _ _ _ => 16 * c + i == o.2.src
        | _ => false })
  let ctx := (List.range 8).map (fun c =>
    let n := clusterContexts v c
    if n > 2048 then some { reason := 5, resource := 9, cluster := c, needed := n, avail := 2048, hit := hitCluster c } else none)
  let csm := (List.range 8).map (fun c =>
    let n := clusterCsm v p c
    if n > 1048576 then
      some { reason := 5, resource := 7, cluster := c, needed := n, avail := 1048576, hit := fun e =>
        hitCluster c e || hitKernels (kernelsIn (v.charged c)) e || hitObject 0x2001 e || hitOutputs (fun a => a / 16 == c) e ||
        (match e with | .edge _ _ b ch _ => ch != 0 && b / 16 == c | _ => false) }
    else none)
  firstFail (edges ++ outs ++ ctx ++ csm ++ [checkTemplates v])

/-- Entries that the cycles of a cluster count. -/
def hitCycles (v : View) (c : Nat) (e : MEntry) : Bool := hitCluster c e || hitKernels (kernelsIn (v.charged c)) e || hitUsable e

/-- Step 3: core finish, cluster cycles and program memory. -/
def checkCores (v : View) (p : Plan) : Option Fail :=
  let tl := timeline v p.order
  let u := v.usable
  let fin := (List.range 64).map (fun k =>
    let t := coreFinish v tl k
    let ns := upstream v true 16 (v.onCore k)
    let hit (e : MEntry) : Bool :=
      hitSlots ns.contains e || hitKernels (v.kernelsOf ns) e || hitUsable e || hitEdges (fun a b => a / 16 == b / 16 && ns.contains b) e
    if t > u then some { reason := 1, resource := 1, cluster := k / 8, core := k % 8, needed := t, avail := u, hit := hit } else none)
  let cyc := (List.range 8).map (fun c =>
    let t := clusterCycles v c
    if t > 8 * u then some { reason := 1, resource := 2, cluster := c, needed := t, avail := 8 * u, hit := hitCycles v c } else none)
  let prog := (List.range 64).map (fun k =>
    let t := coreProgram v k
    if t > 7936 then some { reason := 1, resource := 3, cluster := k / 8, core := k % 8, needed := t, avail := 7936,
                            hit := fun e => hitSlots (v.onCore k).contains e || hitKernels (v.kernelsOf (v.onCore k)) e } else none)
  firstFail (fin ++ cyc ++ prog)

/-- Step 4: cycles without a feedback edge and latency classes (R54, R55). -/
def checkLatency (v : View) (p : Plan) (whole : Bool) : Option Fail :=
  let loose (n : Nat) : Bool := (lookupNat p.proc n).isNone
  let cyc := if whole then none else some { reason := 6, resource := 16, hit := hitEdges (fun a b => loose a && loose b) }
  let outs := v.load.outputs.map (fun o =>
    let need := (lookupNat p.proc o.2.src).getD 0 + 1
    let ns := upstream v false 128 [o.2.src]
    let hit (e : MEntry) : Bool :=
      hitEdges (fun _ b => ns.contains b) e || (match e with | .output j _ _ _ _ _ _ => j == o.1 | .migrate _ b _ => ns.contains b | _ => false)
    if need > o.2.cls then some { reason := 6, resource := 16, cluster := o.2.src / 16, needed := need, avail := o.2.cls, hit := hit }
    else none)
  firstFail (cyc :: outs)

/-- Frames per AAF packet of a class at a house rate (R519). -/
def aafFrames (cls rate : Nat) : Nat := (if cls = 0 then 6 else 12) * (if rate < 2 then 1 else if rate < 4 then 2 else 4)

/-- The enabled streams, talkers from index 2300 on or listeners from 2400 on. -/
def enabledStreams (v : View) (base : Nat) : List Nat :=
  v.od.filterMap (fun e => if base ≤ e.1 / 256 ∧ e.1 / 256 < base + 256 ∧ e.1 % 256 = 1 ∧ leNat e.2 = 1 then some (e.1 / 256) else none)

/-- The stream capacity of Table 14.6 (R524). -/
def checkStreams (v : View) : Option Fail :=
  let room := if v.rate < 4 then 512 else 256
  let hit : MEntry → Bool := fun e => match e with
    | .write ix _ _ => (0x2300 ≤ ix && ix < 0x2500) || ix == 0x2001
    | _ => false
  let total (base : Nat) : Nat := (enabledStreams v base).foldl (fun n ix => n + v.val ix 6) 0
  let above (base : Nat) : Option Fail :=
    if total base > room then some { reason := 2, resource := 12, needed := total base, avail := room, hit := hit } else none
  let long := (enabledStreams v 0x2300).find? (fun ix => decide (aafFrames (v.val ix 5) v.rate * v.val ix 6 * 3 > 1476))
  firstFail [above 0x2300, above 0x2400,
    match long with
    | some ix => some { reason := 2, resource := 12, needed := aafFrames (v.val ix 5) v.rate * v.val ix 6 * 3, avail := 1476, hit := hit }
    | none => none]

/-- The cycles in which a station that sends or receives some transfers is asked for more than 2 beats a cycle, whatever the placement:
the beats of the transfers whose windows lie in an interval, and the beats it can take (R302, R662). -/
def portShort (ds : List Demand) (side : Demand → Nat) (st : Nat) : Option (Nat × Nat) :=
  let mine := ds.filter (fun d => d.kind != 8 && side d == st)
  mine.findSome? (fun (a : Demand) => mine.findSome? (fun (b : Demand) =>
    let beats : Nat := (mine.filter (fun d => decide (a.lo ≤ d.lo ∧ d.hi ≤ b.hi))).foldl (fun m d => m + d.beats) 0
    if decide (a.lo < b.hi) && decide (2 * (b.hi - a.lo) < beats) then some (beats, 2 * (b.hi - a.lo)) else none))

/-- Step 5: bursts, lane beats and their placement, over cases of one lap length (R305, R306, R662). -/
def checkRelay (vs : List View) : Option Fail :=
  let ds := demandsOver vs
  let t := casesCyc vs
  let beats := ds.foldl (fun m d => m + d.beats) 0
  let hit : MEntry → Bool := fun e => vs.any (fun v => hitRelay v e)
  let short := (List.range 13).findSome? (fun st => match portShort ds (·.src) st with | some x => some x | none => portShort ds (·.dst) st)
  if ds.length > 4096 then some { reason := 2, resource := 11, needed := ds.length, avail := 4096, hit := hit }
  else if beats > 4 * laneLimit t then some { reason := 2, resource := 10, needed := beats, avail := 4 * laneLimit t, hit := hit }
  else match short with
  | some _ => some { reason := 2, resource := 12, needed := 3, avail := 2, hit := hit }
  | none =>
    match placeDemands t ds with
    | some _ => none
    | none => some { reason := 2, resource := 13, hit := hit }

/-- The descriptor for which the Relay refuses the bank of a request (R305). -/
def refusedDescriptor (vs : List View) : Option Nat :=
  (relayCases vs).findSome? (fun c => match placedBank (demandsOver c) with | some bs => bankBreach (casesCyc c) bs | none => none)

/-- The timetable staged for a request: the beats of every case, and the migration allowance where it has room (R281, R288). The first
case tells the lap length. -/
def stagedBank (vs : List View) : Option (List Burst) :=
  match relayCases vs with
  | [] => none
  | c :: _ =>
    let ds := demandsOver c
    let plain := placeDemands (casesCyc c) ds
    if c.any (·.allow) then (match placeDemands (casesCyc c) (ds ++ allowance c) with | some bs => some bs | none => plain) else plain

/-- Step 6. -/
def checkDram (v : View) (ds : List Demand) : Option Fail :=
  let b := dramBytes ds
  if b > dramLimit v then some { reason := 3, resource := 14, needed := b, avail := dramLimit v, hit := hitDram v } else none

/-- The keymaps that templates of a pool's rule voices name; none for a template without one. -/
def poolKeymaps (v : View) (p : Nat) : List (Option Nat) :=
  let rules := (v.od.map (fun e => e.1 / 256)).filter (fun ix => decide (0x4800 ≤ ix ∧ ix ≤ 0x4BFF))
  (rules.eraseDups).flatMap (fun ix =>
    (List.range (v.val ix 11)).filterMap (fun i =>
      if v.val ix (12 + i) = p then
        let m := v.val (0xC400 + v.val ix (20 + i)) 1
        some (if m ≥ 1024 then none else some m)
      else none))

/-- The checks of R365 on one streaming pool. -/
def streamPoolOk (s : State) (v : View) (p : Nat) (k : Kernel) : Bool :=
  let g := v.val (0x4400 + p) 12
  let maps := poolKeymaps v p
  let objs := maps.flatMap (fun m => match m with | some m => (zones (v.bytes (0xCC00 + m) 1)).map (·.object) | none => [])
  let recs := objs.map (fun o => objRec (objOf s o).record)
  let feed (i : Nat) : Feed := feedOf (k.feedWord i)
  let peak := recs.foldl (fun m r => max m r.peak) 0
  maps.all (·.isSome) && decide (grantCost k.channels k.rho peak v.rate ≤ g) &&
  recs.all (fun r => r.channels == k.channels && decide (k.rho ≤ r.rho)) &&
  decide (2 ≤ k.feedCount) && (feed 0 == ⟨1, false, 1, 0⟩) && (feed 1 == ⟨0, false, 1, 0⟩) &&
  decide (k.channels * (k.rho + 32) + 2 ≤ k.csmPerCtx)

/-- Keymaps that templates name and that are not LOADED (R362). -/
def keymapUnloaded (s : State) (v : View) : Option Nat :=
  (v.od.filterMap (fun e =>
    if 0xC400 * 256 ≤ e.1 ∧ e.1 < 0xCC00 * 256 ∧ lookupNat s.dict.od e.1 ≠ some e.2 ∧ leNat e.2 < 1024 ∧ keymapState s (leNat e.2) ≠ 2 then
      some (e.1 / 256) else none)).head?

/-- Step 7 (R290, R362, R365, R357). -/
def checkGrants (s : State) (v : View) : Option Fail :=
  let g := grantsCharged v
  let pools := v.pools.map (fun p =>
    match v.load.kernel (v.val (0x4400 + p) 1) with
    | some k => if k.stream && !streamPoolOk s v p k then some { reason := 4, resource := 22, hit := fun e => hitPool p e || hitKernels [v.val (0x4400 + p) 1] e } else none
    | none => none)
  let heads := if v.rate ≠ s.grid.rate ∧ headsUsed s v.rate > headRegion then
      [some { reason := 4, resource := 22, needed := headsUsed s v.rate % 2 ^ 32, avail := headRegion % 2 ^ 32, hit := hitObject 0x2001 }] else []
  let maps := match keymapUnloaded s v with
    | some ix => [some { reason := 4, resource := 22, hit := hitObject ix }]
    | none => []
  let charge := if g > 4096 then [some { reason := 4, resource := 15, needed := g, avail := 4096, hit := hitGrants v }] else []
  firstFail (charge ++ pools ++ heads ++ maps)

/-- The load as rows of numbers, for the placement procedure. -/
def loadRows (v : View) : List (List Nat) :=
  v.load.slots.map (fun e => [e.1, e.2.kernel, e.2.pool, e.2.core, e.2.n]) ++
  v.load.edges.map (fun e => [e.1, e.2.src, e.2.dst, e.2.channels])

/-- The worst of the failures of one step over every case: that with the largest need. -/
def worst : List Fail → Option Fail
  | [] => none
  | f :: t => some (t.foldl (fun a b => if a.needed < b.needed then b else a) f)

/-- Steps 1 to 7 at the reserve-off limits, each over every case that may come about (R281, R291). batch is what the Relay's step finds
of a migration batch (R339). -/
def checkOff (s : State) (vs : List View) (batch : Option Fail := none) : Option Fail :=
  let each (f : View → Plan × Bool → Option Fail) : Option Fail := worst (vs.filterMap (fun v => f v (planOf v)))
  firstFail [each (fun v _ => checkKernels v), each (fun v p => checkContexts v p.1), each (fun v p => checkCores v p.1),
    each (fun v p => checkLatency v p.1 p.2), each (fun v _ => checkStreams v), worst ((relayCases vs).filterMap checkRelay), batch,
    each (fun v p => checkDram v (demands v p.1)), each (fun v _ => checkGrants s v)]

/-- Slots of a cluster in any of the cases that may come about, once each. -/
def slotsOver (vs : List View) (c : Nat) : List Nat := (vs.flatMap (fun v => (v.inCluster c).map (·.1))).eraseDups

/-- A view in which the convoys of a plan have moved. -/
def movedBy (ms : List (Nat × Nat × Nat)) (v : View) : View :=
  ms.foldl (fun w m => if (w.load.slot m.1).isSome then w.entry (.migrate m.1 m.2.1 m.2.2) else w) { v with reserve := false }

/-- The bursts of the allowance, routed from one cluster to another, meet R302 together with every other burst of a timetable (R295). -/
def allowanceRoutes (bs : List Burst) (src dst : Nat) : Bool :=
  let routed := bs.map (fun b => if b.kind = 8 then { b with kind := 5, src := src, dst := dst } else b)
  routed.all (stationsOk routed)

/-- The moved load has a timetable with the migration allowance, which can carry the cluster's contexts to every destination. -/
def planRoutes (vs : List View) (c : Nat) (moves : List (Nat × Nat × Nat)) : Bool :=
  (relayCases vs).all (fun w =>
    match placeDemands (casesCyc w) (demandsOver w ++ allowance w) with
    | some bs => moves.all (fun m => allowanceRoutes bs c (m.2.1 / 16))
    | none => false)

/-- The drain plan of a cluster that the procedure finds, if the load with the cluster out meets every budget in every case
that may come about (R281, R295). -/
def drainPlan (s : State) (vs : List View) (c : Nat) : Option DrainPlan :=
  let got := (slotsOver vs c).map (fun n => (n, Config.placeConvoy (vs.flatMap loadRows) n))
  let free (d : Nat × Nat) : Bool := d.1 / 16 != c && decide (d.1 < 128) && decide (d.2 < 8) &&
    (clusterOf s (d.1 / 16)).state == 0 && vs.all (fun v => (v.load.slot d.1).isNone)
  if got.all (fun e => match e.2 with | some d => free d | none => false) then
    let moves := got.filterMap (fun e => match e.2 with | some d => some (e.1, d.1, d.2) | none => none)
    let dests := moves.map (fun m => m.2.1)
    let after := vs.map (movedBy moves)
    if dests.eraseDups.length = dests.length ∧ (checkOff s after).isNone ∧ planRoutes after c moves then some ⟨c, moves⟩ else none
  else none

/-- Clusters that hold load in some case. -/
def loaded (vs : List View) : List Nat := (List.range 8).filter (fun c => slotsOver vs c != [])

/-- Every drain plan: none when some loaded cluster has none. -/
def drainPlans (s : State) (vs : List View) : Option (List DrainPlan) :=
  let ps := (loaded vs).map (drainPlan s vs)
  if ps.all (·.isSome) then some (ps.filterMap id) else none

/-- The limits that the reserve tightens (Table 8.5). -/
def reserveLimits (v : View) : Option Fail :=
  let u := v.usable
  let cyc := (List.range 8).map (fun c =>
    let t := clusterCycles v c
    if t > 7 * u then some { reason := 7, resource := 2, cluster := c, needed := t, avail := 7 * u, hit := hitCycles v c } else none)
  let ctx := (List.range 8).map (fun c =>
    let n := clusterContexts v c
    if n > 1792 then some { reason := 7, resource := 9, cluster := c, needed := n, avail := 1792, hit := hitCluster c } else none)
  let all := (List.range 8).foldl (fun m c => m + clusterContexts v c) 0
  let module := if all > 14336 then [some { reason := 7, resource := 9, needed := all, avail := 14336, hit := hitSlots (fun _ => true) }] else []
  firstFail (cyc ++ ctx ++ module)

/-- The migration allowance finds its place beside the load. -/
def checkAllowance (vs : List View) : Option Fail :=
  match placeDemands (casesCyc vs) (demandsOver vs ++ allowance vs) with
  | some _ => none
  | none => some { reason := 7, resource := 18, needed := 9216, hit := noEntry }

/-- Every loaded cluster has a drain plan that stands in every case. -/
def checkPlans (s : State) (vs : List View) : Option Fail :=
  match drainPlans s vs with
  | some _ => none
  | none => some { reason := 7, resource := 17, hit := noEntry }

/-- The reserve is spent: a cluster is drained, draining or returning (R296). -/
def reserveSpent (s : State) : Bool := s.adm.reserve == 2

/-- The use of every budget of Table 8.5, as numbers, for the comparison of R296. -/
def budgetUse (v : View) : List Nat :=
  let pl := planOf v
  let ds := demands v pl.1
  (List.range 8).map (clusterCycles v) ++ (List.range 8).map (clusterContexts v) ++ (List.range 8).map (clusterCsm v pl.1) ++
  (List.range 8).map (fun c => (v.charged c).length) ++ [ds.length, ds.foldl (fun m d => m + d.beats) 0, dramBytes ds, grantsCharged v] ++
  (List.range 64).map (coreProgram v) ++ (List.range 64).map (fun k => coreFinish v (timeline v pl.1.order) k)

/-- A view whose request raises some budget above its admitted value. -/
def raises (old new : View) : Bool := (budgetUse old).zip (budgetUse new) |>.any (fun p => decide (p.1 < p.2))

/-- Insert into a list in the order of a measure, after its equals. -/
def insertOn {α : Type} (f : α → Nat) (a : α) : List α → List α
  | [] => [a]
  | b :: t => if f a < f b then a :: b :: t else b :: insertOn f a t

/-- A list in the order of a measure, equals in the order in which they stood. -/
def sortOn {α : Type} (f : α → Nat) : List α → List α
  | [] => []
  | a :: t => (sortOnAcc [a] t)
where
  sortOnAcc (acc : List α) : List α → List α
    | [] => acc
    | b :: t => sortOnAcc (insertOn f b acc) t

/-- The sub-lists of the pending manifests' entries: each may still apply or abort (R281). -/
def subsets {α : Type} : List α → List (List α)
  | [] => [[]]
  | a :: t => let r := subsets t; r.map (fun x => a :: x) ++ r

/-- What a manifest changes: its entries, and the places of record that a restart vacates. -/
def Manifest.changes (m : Manifest) : List MEntry := m.entries ++ m.clears.map (fun n => .slot (n / 16) (n % 16) 0 0 0 0)

/-- What the manifests in STAGED or GIVEN change, in the order in which they passed. -/
def pendingEntries (s : State) : List (List MEntry) :=
  (sortOn (fun e => e.2.order) (s.man.tbl.filter (fun e => e.2.state == .staged || e.2.state == .given))).map (fun e => e.2.changes)

/-- The load as it will stand in each case of the pending manifests. -/
def caseViews (s : State) : List View := (subsets (pendingEntries s)).map (fun p => (viewOf s).entries p.flatten)

/-- Step 8 over every case: tightened limits, the allowance, drain plans (R291). size is what the limits of a migration find (R330). -/
def checkReserve (s : State) (vs : List View) (size : Option Fail := none) : Option Fail :=
  firstFail [worst (vs.filterMap reserveLimits), size, worst ((relayCases vs).filterMap checkAllowance), checkPlans s vs]

/-- The load in each case with a request's changes: first the case in which every pending manifest applies. -/
def requestViews (s : State) (wantReserve : Bool) (es : List MEntry) : List View :=
  (caseViews s).map (fun v => { v.entries es with reserve := wantReserve })

/-- Step 8 (R291, R296). exempt marks the firmware manifests of R296; wantReserve is the reserve as the request leaves it. -/
def checkStep8 (s : State) (exempt wantReserve : Bool) (es : List MEntry) (size : Option Fail := none) : Option Fail :=
  if exempt then size
  else if reserveSpent s then
    firstFail [worst ((caseViews s).filterMap (fun v =>
      if raises v (v.entries es) then some { reason := 7, resource := 23, hit := hitGraph } else none)), size]
  else if wantReserve then checkReserve s (requestViews s wantReserve es) size
  else size

/-- Check a request against the admitted load and every case of the pending manifests (R281, R291). -/
def admission (s : State) (exempt wantReserve : Bool) (es : List MEntry) (batch size : Option Fail := none) : Option Fail :=
  firstFail [checkOff s (requestViews s wantReserve es) batch, checkStep8 s exempt wantReserve es size]

/-! ### The verdict -/

/-- The entry that a failure names. -/
def failEntry (f : Fail) (es : List MEntry) : Nat :=
  match es.findIdx? f.hit with
  | some i => i
  | none => 0xFFFF

/-- Table 8.8. -/
def admissionRecord (lap entry requester : Nat) (f : Fail) : Bytes :=
  leBytes 8 lap ++ leBytes 1 f.reason ++ leBytes 1 f.resource ++ leBytes 2 entry ++ leBytes 1 f.cluster ++ leBytes 1 f.core ++
  leBytes 1 f.lane ++ leBytes 1 requester ++ leBytes 4 f.needed ++ leBytes 4 f.avail

/-- Count a refused request (R293). -/
def admissionRefuse (entry requester : Nat) (f : Fail) (s : State) : State :=
  let a := s.adm
  let a1 : Admission := { a with requests := sat32 a.requests, refusals := Tbl.upd 0 a.refusals f.reason sat32 }
  let a2 : Admission := { a1 with last := admissionRecord s.grid.lap entry requester f }
  fire 284 { s with adm := a2 }

/-- Count an accepted request. -/
def admissionAccept (s : State) : State := { s with adm := { s.adm with requests := sat32 s.adm.requests, accepted := sat32 s.adm.accepted } }

/-- Log a bank that the Relay refused (R305, Table 17.4). -/
def bankRefused (vs : List View) (f : Fail) (s : State) : State :=
  match (if f.reason = 2 ∧ f.resource = 13 then refusedDescriptor vs else none) with
  | some i => logRecord 338 1 0x0A 0xFF 0xFF (leBytes 2 i ++ List.replicate 6 0) s
  | none => s

/-- A timetable goes into the shadow bank: the banks swap at the next edge, or at once where no lap runs (R304). -/
def armBank (bs : Option (List Burst)) (s : State) : State :=
  match bs with
  | none => s
  | some b =>
    if s.grid.running then { s with adm := { s.adm with shadow := some b } }
    else { s with adm := { s.adm with timetable := b, shadow := none } }

/-- The views in which a pending manifest has been applied, in each case of those that passed before it. -/
def bankViews (s : State) (m : Manifest) : List View :=
  let before := (sortOn (fun e => e.2.order) (s.man.tbl.filter (fun e => (e.2.state == .staged || e.2.state == .given) && decide (e.2.order < m.order)))).map
    (fun e => e.2.changes)
  (subsets before).map (fun p => (viewOf s).entries (p.flatten ++ m.changes))

/-- Every manifest that stands has its timetable staged anew. -/
def restageManifests (s : State) : State :=
  { s with man := { s.man with tbl := s.man.tbl.map (fun e =>
      if e.2.state = .staged ∨ e.2.state = .given then (e.1, { e.2 with bank := (stagedBank (bankViews s e.2)).getD e.2.bank }) else e) } }

/-- What the load's timetable rests on has changed, as the reserve or the grid: the load in force and every staged manifest have theirs
anew. -/
def restage (s : State) : State := restageManifests (armBank (stagedBank (caseViews s).reverse) s)

/-- The plans are computed anew, for every case that may come about: at every accepted request (R295). -/
def replan (s : State) : State :=
  { s with adm := { s.adm with plans := if s.adm.reserve = 1 then (drainPlans s (caseViews s)).getD [] else [] } }

/-- Plans of clusters that hold no load in any case any more are dropped. -/
def trimPlans (s : State) : State :=
  { s with adm := { s.adm with plans := s.adm.plans.filter (fun p => slotsOver (caseViews s) p.cluster != []) } }

/-- The reserve is held, with drain plans for every case. -/
def holdReserve (s : State) : State :=
  restage (replan { s with adm := { s.adm with reserve := 1 } })

/-- The views on which a switch of the reserve is checked. -/
def reserveViews (s : State) : List View := (caseViews s).map (fun v => { v with reserve := true })

/-- RESERVE_WRITE (R294) without its reply: whether the write is accepted. -/
def reserveWrite (on : Bool) (requester : Nat) (s : State) : State × Bool :=
  if !on then
    (restage (admissionAccept { s with adm := { s.adm with reserve := 0, plans := [], reserveLate := false } }), true)
  else if s.adm.reserve ≠ 0 then (s, true)
  else if s.adm.out.isSome then (restage (admissionAccept { s with adm := { s.adm with reserve := 2, reserveLate := true } }), true)
  else
    match checkReserve s (reserveViews s) with
    | some f => (admissionRefuse 0xFFFF requester f s, false)
    | none => (holdReserve (admissionAccept s), true)

end Sys2Proof.Machine
end

