-- ==== Sys2Proof/Machine/Ports.lean ====
section
/-! DEFINITION. The control ports' message layer (R484 to R493, R500, R504): building messages, the outbound queue, kept
replies, notifications and the interrupt lines. -/

namespace Sys2Proof.Machine

def portNum : Port → Nat | .a => 0 | .b => 1

def portSt (s : State) : Port → PortSt | .a => s.dict.portA | .b => s.dict.portB

def setPort (s : State) (p : Port) (x : PortSt) : State :=
  match p with
  | .a => { s with dict := { s.dict with portA := x } }
  | .b => { s with dict := { s.dict with portB := x } }

def updPort (s : State) (p : Port) (f : PortSt → PortSt) : State := setPort s p (f (portSt s p))

def portReq : Port → Requester | .a => .portA | .b => .portB

/-- The bit of a requester in RMASK and WMASK (R477); module firmware is bound by neither. -/
def reqBit : Requester → Nat | .portA => 0 | .portB => 1 | .apps => 2 | .firmware => 3

/-- Count at a port's counter (OD 1015, OD 1016). -/
def portCount (p : Port) (i : Nat) (s : State) : State := updPort s p (fun x => { x with cnt := Tbl.upd 0 x.cnt i sat32 })

/-- The port is carried on QSPI now (R496). -/
def onQspi (s : State) (p : Port) : Bool := p == .a || s.dict.carrier == 0

/-- The greatest body length of the carrier (R484). -/
def carrierLen (s : State) (p : Port) : Nat := if p = .b ∧ s.dict.carrier = 1 then 1408 else 4096

/-- The port authenticates (R500). -/
def authOn (s : State) (p : Port) : Bool := p == .b && s.dict.carrier == 1 && odBool s 0x1012 1

/-- TAG of an authentication trailer (R500). -/
def authTag (s : State) (head body : Bytes) (counter : Nat) : Bytes :=
  (Config.hmacSha256 (Tbl.get [] s.dict.keys (od s 0x1012 2))
    (leBytes 4 s.dict.nonce.toNat ++ head ++ body ++ leBytes 4 counter)).take 16

/-- A message of the module (Table 13.7), with its trailer where the carrier asks for one, and its CRC. -/
def buildMsg (p : Port) (plain : Bool) (msg seq flags status token : Nat) (body : Bytes) (s : State) : Bytes × State :=
  let auth := authOn s p && !plain
  let head := [1] ++ leBytes 1 msg ++ leBytes 2 seq ++ leBytes 2 body.length ++ leBytes 1 (flags + b2n auth 4) ++ leBytes 1 status ++
    leBytes 4 token
  if auth then
    let n := (portSt s p).ctrOut + 1
    let m := head ++ body ++ leBytes 4 n ++ authTag s head body n
    (m ++ leBytes 4 (crc32c m), updPort s p (fun x => { x with ctrOut := n }))
  else
    let m := head ++ body
    (m ++ leBytes 4 (crc32c m), s)

def OutMsg.bytes : OutMsg → Bytes | .reply m => m | .result m => m | .value _ m => m

/-- Start the notification hold-off timer: the queue has become empty (R504). -/
def startHold (p : Port) (s : State) : State :=
  updPort s p (fun x => { x with holdEnd := s.now + nsTicks (1000 * od s 0x1014 (portNum p + 1)) + 1 })

def holdRunning (s : State) (p : Port) : Bool := decide (s.now + 1 < (portSt s p).holdEnd)

/-- On the network and USB the queue leaves at once, and with it the timer starts. -/
def sendQueue (p : Port) (s : State) : State :=
  let x := portSt s p
  if x.out = [] then s
  else startHold p { setPort s p { x with out := [] } with sent := s.sent ++ x.out.map (fun m => Emission.bcp m.bytes) }

/-- A message enters a port's outbound queue. -/
def pushOut (p : Port) (m : OutMsg) (s : State) : State :=
  let x := portSt s p
  let q := match m with
    | .value id _ =>
      if x.out.any (fun o => match o with | .value j _ => j == id | _ => false) then
        x.out.map (fun o => match o with | .value j b => if j = id then m else .value j b | o => o)
      else x.out ++ [m]
    | _ => x.out ++ [m]
  let quiet := match m with | .value _ _ => holdRunning s p | _ => false
  let s1 := setPort s p { x with out := q, irq := x.irq || (onQspi s p && !quiet) }
  if onQspi s p || quiet then s1 else sendQueue p s1

/-- Keep the reply of one of the last 16 requests (R488). -/
def keepReply (seq : Nat) (m : Bytes) (x : PortSt) : PortSt :=
  { x with kept := (x.kept ++ [(seq, m)]).drop ((x.kept ++ [(seq, m)]).length - 16) }

/-- Queue the reply to a request and keep it. -/
def sendReply (p : Port) (plain : Bool) (msg seq token : Nat) (st : Status) (body : Bytes) (s : State) : State :=
  let r := buildMsg p plain msg seq 1 st.code token body s
  let s1 := updPort r.2 p (keepReply seq r.1)
  pushOut p (.reply r.1) { s1 with dict := { s1.dict with last := st, lastBody := body } }

/-- A reply that is not kept: to a message that failed a check of R485 before its SEQ was taken. It has no trailer where plain tells so
(R500). -/
def sendPlain (p : Port) (plain : Bool) (msg seq token : Nat) (st : Status) (s : State) : State :=
  let r := buildMsg p plain msg seq 1 st.code token [] s
  pushOut p (.reply r.1) { r.2 with dict := { r.2.dict with last := st, lastBody := [] } }

/-- A NOTIFY with the port's notification count as its SEQ (Tables 13.7, 13.10). -/
def notifyMsg (p : Port) (body : Bytes) (s : State) : Bytes × State :=
  let n := (portSt s p).notes
  buildMsg p false 10 n 2 0 0 body (updPort s p (fun x => { x with notes := (n + 1) % 65536 }))

/-- The manifest result of R319, in the form of Table 13.10. -/
def resultBody (handle code lc tau : Nat) : Bytes :=
  [1, 0xFF, 0, 0] ++ leBytes 8 lc ++ leBytes 1 handle ++ leBytes 1 code ++ [0, 0] ++ leBytes 8 tau

def notifyResult (p : Port) (handle code lc tau : Nat) (s : State) : State :=
  let r := notifyMsg p (resultBody handle code lc tau) s
  pushOut p (.result r.1) r.2

/-- A value notification (Table 13.10). -/
def notifyValue (p : Port) (id ix sub : Nat) (val : Bytes) (s : State) : State :=
  let r := notifyMsg p ([0] ++ leBytes 1 id ++ [0, 0] ++ leBytes 8 s.grid.lap ++ leBytes 2 ix ++ leBytes 1 sub ++ [0] ++ val) s
  pushOut p (.value id r.1) r.2

/-! ### Semaphores (R494) -/

/-- The owner code of a requester (OD 1300). -/
def ownerCode : Requester → Nat | .portA => 1 | .portB => 2 | .apps => 3 | .firmware => 0

def semTake (who : Requester) (i : Nat) (s : State) : Status × State :=
  if i > 31 then (.range, s)
  else
    let o := Tbl.get 0 s.dict.sems i
    if o = 0 ∨ o = ownerCode who then (.ok, { s with dict := { s.dict with sems := Tbl.put 0 s.dict.sems i (ownerCode who) } })
    else (.busy, s)

def semGive (who : Requester) (i : Nat) (s : State) : Status × State :=
  if i > 31 then (.range, s)
  else if Tbl.get 0 s.dict.sems i = ownerCode who then (.ok, { s with dict := { s.dict with sems := Tbl.put 0 s.dict.sems i 0 } })
  else (.semNotHeld, s)

/-- Semaphores of an owner freed without being given; source 228 tells of it. -/
def freeSems (owner : Nat) (s : State) : State :=
  if s.dict.sems.any (fun e => e.2 == owner) then
    fire 228 { s with dict := { s.dict with sems := s.dict.sems.filter (fun e => e.2 != owner) } }
  else s

/-- The guard entries (R495) whose range holds an index: their semaphores. -/
def guardSems (s : State) (ix : Nat) : List Nat :=
  (List.range 64).filterMap (fun i =>
    match lookupNat s.dict.od (odKey 0x1301 (i + 1)) with
    | some b =>
      let w := leNat b
      if fld w 63 63 = 1 ∧ fld w 15 0 ≤ ix ∧ ix ≤ fld w 31 16 then some (fld w 36 32) else none
    | none => none)

/-- The semaphores that guard writes of an object: the fixed one of its definition and those of the guard table. Only
objects that can be written are guarded. -/
def guards (s : State) (ix : Nat) (r : OdRow) : List Nat :=
  if r.acc = .ro then [] else (match r.sem with | some i => [i] | none => []) ++ guardSems s ix

/-- A requester holds every semaphore that guards an object. Module firmware holds none and writes no guarded object. -/
def holdsGuards (s : State) (who : Requester) (ix : Nat) (r : OdRow) : Bool :=
  (guards s ix r).all (fun i => who != .firmware && Tbl.get 0 s.dict.sems i == ownerCode who)

/-- The access code that a description shows (R481, R495). -/
def effectiveAcc (s : State) (ix : Nat) (r : OdRow) : OdAcc :=
  if (guards s ix r) ≠ [] then .rws else r.acc

end Sys2Proof.Machine
end

