-- ==== Sys2Proof/Machine/OdCheck.lean ====
section
/-! DEFINITION. The checks of a value against its object (R474 to R478, R479 steps 1 to 4): existence, access, length and
range, with the layout rules that single objects state. -/

namespace Sys2Proof.Machine

/-- A string of UTF-8: need continuation bytes are missing, the next of them between lo and hi. -/
def utf8From : Nat → Nat → Nat → Bytes → Bool
  | n, _, _, [] => n == 0
  | 0, _, _, b :: bs =>
    let x := b.toNat
    if x < 0x80 then utf8From 0 0 0 bs
    else if x < 0xC2 then false
    else if x < 0xE0 then utf8From 1 0x80 0xBF bs
    else if x < 0xF0 then utf8From 2 (if x = 0xE0 then 0xA0 else 0x80) (if x = 0xED then 0x9F else 0xBF) bs
    else if x < 0xF5 then utf8From 3 (if x = 0xF0 then 0x90 else 0x80) (if x = 0xF4 then 0x8F else 0xBF) bs
    else false
  | n + 1, lo, hi, b :: bs => decide (lo ≤ b.toNat ∧ b.toNat ≤ hi) && utf8From n 0x80 0xBF bs

def utf8Ok (b : Bytes) : Bool := utf8From 0 0 0 b

/-- An object's number in a dictionary that may hold a manifest's values. -/
def odIn (od : List (Nat × Bytes)) (ix sub : Nat) : Nat :=
  leNat (match lookupNat od (odKey ix sub) with | some b => b | none => odDefault ix sub)

/-- Pairs of note and velocity 0 to 65,535 that no zone covers: whether every velocity of a note is covered, walking up
from velocity v. -/
def velCovered (zs : List Zone) (note : Nat) : Nat → Nat → Bool
  | 0, _ => false
  | f + 1, v =>
    match zs.find? (fun z => decide (z.noteLo ≤ note ∧ note ≤ z.noteHi ∧ z.velLo ≤ v ∧ v ≤ z.velHi)) with
    | some z => z.velHi == 65535 || velCovered zs note f (z.velHi + 1)
    | none => false

/-- The layout rules of a keymap (R360, Table 10.8). -/
def keymapOk (b : Bytes) : Bool :=
  let zs := zones b
  b.length % 12 == 0 && zs.all (fun z => decide (z.noteLo ≤ z.noteHi ∧ z.velLo ≤ z.velHi) && decide (z.object < 1048576) && z.res == 0) &&
  (List.range 256).all (fun n => velCovered zs n (zs.length + 1) 0)

/-- The field ranges of an object record (Table 10.6, R368). -/
def recordOk (b : Bytes) : Bool :=
  let r := objRec b
  decide (r.id < 1048576) && decide (1 ≤ r.channels ∧ r.channels ≤ 8) && decide (r.ws ≤ 2) && r.res == 0 &&
  decide (8 ≤ r.head ∧ r.head ≤ 100) && decide (64 ≤ r.rho ∧ r.rho ≤ 256) && decide (1 ≤ r.frames) &&
  (if r.le = 0 then r.ls == 0 else decide (r.ls < r.le ∧ r.le ≤ r.frames))

/-- A guard entry (R495). -/
def guardOk (w : Nat) : Bool :=
  if fld w 63 63 = 1 then fld w 62 37 == 0 && decide (0x2000 ≤ fld w 15 0 ∧ fld w 15 0 ≤ fld w 31 16) else w == 0

/-- The enabled keys and their crosspoints, with one object of a key replaced (R563). -/
def keyOk (od : List (Nat × Bytes)) (ix sub v : Nat) : Bool :=
  let val (k j : Nat) : Nat := if k = ix ∧ j = sub then v else odIn od k j
  let on := val ix 1 != 0
  let a := val ix 2
  let b := val ix 3
  let others := od.filterMap (fun e =>
    let k := e.1 / 256
    if 0x2900 ≤ k ∧ k ≤ 0x2A3F ∧ k ≠ ix ∧ e.1 % 256 = 1 ∧ leNat e.2 = 1 then some k else none)
  !on || (a != 0xFFFF && !(val ix 4 == 1 && b != 0xFFFF) && a != b &&
    others.all (fun k => odIn od k 2 != a && odIn od k 3 != a && (b == 0xFFFF || (odIn od k 2 != b && odIn od k 3 != b))))

/-- The layout and relation rules that single objects add to their type and bounds (R479 step 4). -/
def specialOk (s : State) (od : List (Nat × Bytes)) (ix sub : Nat) (val : Bytes) : Bool :=
  let v := leNat val
  if ix = 0x2001 ∧ sub = 2 then v == 4 || v == 8 || v == 16 || v == 32 || v == 64
  else if ix = 0x1012 ∧ sub = 1 then v == 0 || (Tbl.get [] s.dict.keys (odIn od 0x1012 2) != [])
  else if ix = 0x1013 then v == 0 || decide (10 ≤ v)
  else if ix = 0x1301 then guardOk v
  else if 0x4400 ≤ ix ∧ ix ≤ 0x47FF ∧ sub = 18 then decide (v < 2048) || v == 0xFFFF
  else if 0x4800 ≤ ix ∧ ix ≤ 0x4BFF ∧ (sub = 28 ∨ sub = 29) then decide (v < 64) || v == 0xFF
  else if 0x5000 ≤ ix ∧ ix ≤ 0x57FF ∧ sub = 1 then (val.take 24).all (· == 0)
  else if 0xC400 ≤ ix ∧ ix ≤ 0xCBFF then decide (v < 1024) || v == 0xFFFF
  else if 0xCC00 ≤ ix ∧ ix ≤ 0xCFFF then keymapOk val
  else if 0xC100 ≤ ix ∧ ix ≤ 0xC102 ∧ sub = 1 then recordOk val
  else if (0x2200 = ix ∨ 0x2201 = ix) ∧ sub = 2 then v != 0
  else if 0x2300 ≤ ix ∧ ix ≤ 0x24FF ∧ sub = 3 then v == 0 || v.testBit 40
  else if 0x2300 ≤ ix ∧ ix ≤ 0x24FF ∧ sub = 6 then decide (odIn od ix 7 + v ≤ 512)
  else if 0x2300 ≤ ix ∧ ix ≤ 0x24FF ∧ sub = 7 then decide (v + odIn od ix 6 ≤ 512)
  else if 0x2300 ≤ ix ∧ ix ≤ 0x23FF ∧ sub = 8 then
    decide (aafFrames (odIn od ix 5) s.grid.rate * sampleTicks s.grid.rate + 20000 * tickNs ≤ v * tickNs)
  else if 0x2810 ≤ ix ∧ ix ≤ 0x2813 ∧ sub = 3 then v != 2 || odIn od ix 2 == 3
  else if 0x2900 ≤ ix ∧ ix ≤ 0x2A3F then
    ((sub != 2 && sub != 3) || decide (v < 640) || v == 0xFFFF) && keyOk od ix sub v
  else if 0x2B00 ≤ ix ∧ ix ≤ 0x2B0F ∧ sub = 2 then decide (odIn od ix 3 < v)
  else if 0x2B00 ≤ ix ∧ ix ≤ 0x2B0F ∧ sub = 3 then decide (v < odIn od ix 2)
  else if ix = 0xF000 ∧ sub = 1 then v != 1
  else if ix = 0xF200 ∧ sub = 1 then v == 0 || decide (60 ≤ v)
  else if ix = 0xF300 ∧ sub = 1 then decide (fld v 10 0 < 1536) && decide (fld v 21 11 < (if Config.variant = 0 then 683 else 1366))
  else true

/-- The length of a value fits its type (R475). -/
def lengthOk (r : OdRow) (ix sub n : Nat) : Bool :=
  if r.ty.bytes ≠ 0 then n == r.ty.bytes
  else if r.exact then n == r.len
  else if ix = 0xF300 ∧ sub = 2 then n == 18432 || n == 16384 || decide (n ≤ r.len)
  else decide (n ≤ r.len)

/-- The value lies in the object's range (R475). -/
def rangeOk (s : State) (od : List (Nat × Bytes)) (r : OdRow) (ix sub : Nat) (val : Bytes) : Bool :=
  (if r.ty = .str then utf8Ok val
   else if r.ty.bytes ≠ 0 then
     let v : Int := if r.ty.signed then leInt val else leNat val
     decide (r.vmin ≤ v ∧ v ≤ r.vmax)
   else true) && specialOk s od ix sub val

/-- Existence (R474). -/
def odFind (ix sub : Nat) : Except Status OdRow :=
  match odRow ix sub with
  | some r => .ok r
  | none => .error (if odIndex ix then .noSubindex else .noObject)

/-- A requester's mask bit is set. -/
def maskOk (who : Requester) (m : Nat) : Bool := who == .firmware || m.testBit (reqBit who)

/-- A requester may read an object (R476, R477). -/
def mayRead (who : Requester) (r : OdRow) : Bool := r.acc != .wo && maskOk who r.rm

/-- A requester may write an object. -/
def mayWrite (who : Requester) (r : OdRow) : Bool := r.acc != .ro && maskOk who r.wm

end Sys2Proof.Machine
end

