-- ==== Sys2Proof/Machine/ManCore.lean ====
section
/-! DEFINITION. Manifests before their checks (R310 to R322): handles, the entries of MANIFEST_ADD, ends and aborts, and
the reset of a control port (R502). -/

namespace Sys2Proof.Machine

/-- The first handle and the number of handles of an owner (Table 9.1). -/
def handleBase : Requester → Nat | .portA => 0 | .portB => 8 | .apps => 16 | .firmware => 24

def handleCount : Requester → Nat | .firmware => 4 | _ => 8

def handleOwner (h : Nat) : Requester := if h < 8 then .portA else if h < 16 then .portB else if h < 24 then .apps else .firmware

def manOf (s : State) (h : Nat) : Manifest := Tbl.get {} s.man.tbl h

def setMan (s : State) (h : Nat) (m : Manifest) : State := { s with man := { s.man with tbl := Tbl.put {} s.man.tbl h m } }

/-- The modes in which the dictionary serves every request (Table 13.4). -/
def serving (s : State) : Bool :=
  match s.modes.mode with
  | .perform => true | .maintain => true | .safe => true | .workshop => true | _ => false

/-- The record of OD 1201 (Table 9.13). -/
def resultRecord (code reason entry lc tau : Nat) : Bytes :=
  leBytes 1 code ++ leBytes 1 reason ++ leBytes 2 entry ++ [0, 0, 0, 0] ++ leBytes 8 lc ++ leBytes 8 tau

/-- The gPTP time of the edge of a lap, in ns. -/
def edgeNs (s : State) (l : Nat) : Nat := nsOf (s.grid.tau l 0)

/-- A manifest ends with a code: its result is kept and its handle is free. -/
def endManifest (h code reason entry lc tau : Nat) (s : State) : State :=
  { s with man := { s.man with tbl := Tbl.drop s.man.tbl h, queue := s.man.queue.filter (fun x => x != h),
                               results := Tbl.put [] s.man.results (h + 1) (resultRecord code reason entry lc tau) } }

/-- The answer to the 1722.1 command that a manifest of module firmware carries out (R532). -/
def avAnswer (h code : Nat) (s : State) : State :=
  match Tbl.get none s.net.cmds h with
  | none => s
  | some c =>
    let st : AvStatus := if code = 0 then .success else if c.acmp then .stateUnavailable else if code = 9 then .noResources else .badArguments
    { s with net := { s.net with cmds := Tbl.put none s.net.cmds h none }, sent := s.sent ++ [.avdecc c.port c.acmp c.code st []] }

/-- The NOTIFY of a manifest that ends after its checks, and its EVC source (R319). -/
def notifyEnd (h code lc tau : Nat) (s : State) : State :=
  let s1 := fire (256 + h) s
  match handleOwner h with
  | .portA => notifyResult .a h code lc tau s1
  | .portB => notifyResult .b h code lc tau s1
  | .apps => appResult h (resultBody h code lc tau) s1
  | .firmware => avAnswer h code s1

/-- MANIFEST_OPEN (R310, R311, R322): the status and the handle. -/
def openManifest (who : Requester) (s : State) : Status × Nat × State :=
  if !serving s then (.state, 0xFF, s)
  else
    match ((List.range (handleCount who)).map (· + handleBase who)).find? (fun h => (manOf s h).state == .free) with
    | none => (.full, 0xFF, s)
    | some h => (.ok, h, setMan s h { state := .opened, seqOpen := s.man.seq })

/-! ### Entries (R314, Tables 9.2 to 9.4) -/

/-- The output channels of an interface (Table 15.1). -/
def ifaceOutputs : Nat → Nat | 1 => 8 | 2 => 4 | 3 => 128 | 4 => 32 | 5 => 512 | _ => 0

/-- A GRAPH body. -/
def parseGraph (b : Bytes) : Except Status MEntry :=
  let f (o n : Nat) : Nat := fieldAt b o n
  match f 0 1 with
  | 1 =>
    if f 1 1 ≠ 0 ∨ f 10 6 ≠ 0 then .error .range
    else if f 2 1 > 7 ∨ f 3 1 > 15 ∨ f 4 1 > 7 ∨ f 9 1 > 128 then .error .range
    else if f 9 1 = 0 ∧ (f 4 1 ≠ 0 ∨ f 5 2 ≠ 0 ∨ f 7 2 ≠ 0) then .error .range
    else if f 7 2 > 1023 then .error .range
    else .ok (.slot (f 2 1) (f 3 1) (f 4 1) (f 5 2) (f 7 2) (f 9 1))
  | 2 =>
    if f 1 1 ≠ 0 ∨ f 10 6 ≠ 0 ∨ f 9 1 > 1 ∨ f 2 2 > 1023 then .error .range
    else if f 8 1 = 0 then (if f 4 4 ≠ 0 ∨ f 9 1 ≠ 0 then .error .range else .ok (.edge (f 2 2) 0 0 0 false))
    else if f 4 1 > 7 ∨ f 5 1 > 15 ∨ f 6 1 > 7 ∨ f 7 1 > 15 then .error .range
    else .ok (.edge (f 2 2) (16 * f 4 1 + f 5 1) (16 * f 6 1 + f 7 1) (f 8 1) (f 9 1 == 1))
  | 3 =>
    if f 1 1 ≠ 0 ∨ f 12 4 ≠ 0 ∨ f 2 2 > 255 then .error .range
    else if f 7 1 = 0 then (if f 4 3 ≠ 0 ∨ f 8 4 ≠ 0 then .error .range else .ok (.output (f 2 2) 0 0 0 0 0 0))
    else if f 4 1 > 7 ∨ f 5 1 > 15 then .error .range
    else if !(f 8 1 == 2 || f 8 1 == 3 || f 8 1 == 4 || f 8 1 == 6 || f 8 1 == 8) then .error .range
    else if ifaceOutputs (f 9 1) < f 10 2 + f 7 1 then .error .range
    else .ok (.output (f 2 2) (16 * f 4 1 + f 5 1) (f 6 1) (f 7 1) (f 8 1) (f 9 1) (f 10 2))
  | _ => .error .range

/-- The syllables of a kernel image, 4 bytes each. -/
def kernelWords : Nat → Bytes → List (BitVec 32)
  | 0, _ => []
  | n + 1, b => BitVec.ofNat 32 (leNat (b.take 4)) :: kernelWords n (b.drop 4)

/-- The dictionary as the WRITE entries before an entry would leave it. -/
def overlay (s : State) (es : List MEntry) : List (Nat × Bytes) :=
  es.foldl (fun od e => match e with | .write ix sub v => assocSet od (odKey ix sub) (some v) | _ => od) s.dict.od

/-- The checks of Table 9.4 on a WRITE or COMPARE. -/
def checkObject (s : State) (who : Requester) (od : List (Nat × Bytes)) (write : Bool) (ix sub : Nat) (val : Bytes) : Option Status :=
  match odFind ix sub with
  | .error e => some e
  | .ok r =>
    if (if write then !mayWrite who r else !mayRead who r) then some .access
    else if !lengthOk r ix sub val.length then some .type
    else if !rangeOk s od r ix sub val then some .range
    else none

/-- A KERNEL body. -/
def parseKernel (b : Bytes) : Except Status MEntry :=
  let k := fieldAt b 0 2
  let img := b.drop 4
  let f := fieldAt img 14 1
  let p := fieldAt img 4 2
  let size := 1066 + 8 * f
  if fieldAt b 2 2 ≠ 0 ∨ k = 0 ∨ k > 1023 ∨ img.length ≠ size + 4 * p then .error .range
  else .ok (.kernel k (img.take size) (kernelWords p (img.drop size)))

/-- One entry's body by its KIND. -/
def parseBody (s : State) (who : Requester) (od : List (Nat × Bytes)) (kind : Nat) (b : Bytes) : Except Status MEntry :=
  let ix := fieldAt b 0 2
  let sub := fieldAt b 2 1
  match kind with
  | 1 =>
    if b.length < 4 ∨ fieldAt b 3 1 ≠ 0 then .error .range
    else match checkObject s who od true ix sub (b.drop 4) with | some e => .error e | none => .ok (.write ix sub (b.drop 4))
  | 2 =>
    if b.length < 4 ∨ fieldAt b 3 1 ≠ 0 then .error .range
    else match checkObject s who od false ix sub (b.drop 4) with | some e => .error e | none => .ok (.compare ix sub (b.drop 4))
  | 3 => if b.length ≠ 16 then .error .range else parseGraph b
  | 4 => if b.length < 1070 then .error .range else parseKernel b
  | 5 =>
    if b.length ≠ 8 ∨ fieldAt b 5 3 ≠ 0 then .error .range
    else if fieldAt b 0 1 > 7 ∨ fieldAt b 1 1 > 15 ∨ fieldAt b 2 1 > 7 ∨ fieldAt b 3 1 > 15 ∨ fieldAt b 4 1 > 7 then .error .range
    else .ok (.migrate (16 * fieldAt b 0 1 + fieldAt b 1 1) (16 * fieldAt b 2 1 + fieldAt b 3 1) (fieldAt b 4 1))
  | _ => .error .range

/-- The entries of a MANIFEST_ADD, added in order to those a manifest holds: entries and payload, or the code and the
number of the entry that fails (R312, R315). -/
def addEntries (s : State) (who : Requester) : Nat → Bytes → List MEntry → Nat → Except (Status × Nat) (List MEntry × Nat)
  | 0, _, es, pay => .ok (es, pay)
  | _ + 1, [], es, pay => .ok (es, pay)
  | f + 1, b, es, pay =>
    let len := fieldAt b 2 2
    let size := 4 + 4 * ((len + 3) / 4)
    if b.length < size ∨ fieldAt b 1 1 ≠ 0 ∨ ((b.drop (4 + len)).take (size - 4 - len)).any (· != 0) then .error (.range, es.length)
    else
      match parseBody s who (overlay s es) (fieldAt b 0 1) ((b.drop 4).take len) with
      | .error e => .error (e, es.length)
      | .ok x =>
        if es.length ≥ 4096 ∨ pay + size > 262144 then .error (.full, es.length)
        else addEntries s who f (b.drop size) (es ++ [x]) (pay + size)

/-- Who may act on a handle, and whether it is in a state (R310, R313, R321). -/
def handleCheck (s : State) (who : Requester) (h : Nat) : Option Status :=
  if !serving s then some .state
  else if h ≥ 28 then some .state
  else if handleOwner h ≠ who then some .access
  else none

/-- MANIFEST_ADD (R315): the status, the number of the entry that failed, and the state. -/
def addManifest (who : Requester) (h : Nat) (b : Bytes) (s : State) : Status × Nat × State :=
  match handleCheck s who h with
  | some e => (e, 0xFFFF, s)
  | none =>
    let m := manOf s h
    if m.state ≠ .opened then (.state, 0xFFFF, s)
    else
      match addEntries s who (b.length + 1) b m.entries m.payload with
      | .ok (es, pay) => (.ok, 0xFFFF, setMan s h { m with entries := es, payload := pay })
      | .error (e, i) => (e, i, endManifest h e.code 0 i 0 0 s)

/-- A place among requesters that tie: turn goes first (R323). -/
def tieRank (turn h : Nat) : Nat := (reqBit (handleOwner h) + 4 - turn) % 4

/-- A commit is placed in the queue of checks. Commits of one instant tie: they stand in the order of their requesters, which rotates by
one after each tie (R323). -/
def queueCommit (h : Nat) (s : State) : State :=
  let m := s.man
  if m.group ≠ 0 ∧ m.arrived = s.now then
    let i := m.queue.length - m.group
    let g := m.queue.drop i
    { s with man := { m with queue := m.queue.take i ++ insertOn (tieRank m.turn) h g, group := g.length + 1,
                             tied := m.tied || g.any (fun x => handleOwner x != handleOwner h) } }
  else
    { s with man := { m with queue := m.queue ++ [h], arrived := s.now, group := 1, tied := false,
                             turn := if m.tied then (m.turn + 1) % 4 else m.turn } }

/-- MANIFEST_COMMIT (R321, R323) until its checks: ok means that it waits in the queue. During a hitless activation it is
BUSY (Table 9.11). -/
def commitManifest (who : Requester) (h : Nat) (timed : Option Nat) (reply : Option (Nat × Nat)) (s : State) : Status × State :=
  match handleCheck s who h with
  | some e => (e, s)
  | none =>
    let m := manOf s h
    if m.state ≠ .opened then (.state, s)
    else if s.modes.upd.state = 5 then (.busy, s)
    else
      let s1 := setMan s h { m with state := .checking, timed := timed, reply := reply }
      (.ok, queueCommit h s1)

/-- A write that waits for the edge of L_c lands in the restored shadow page (R336). -/
def landAborted (n lc : Nat) (s : State) : State :=
  let mine := s.held.filter (fun w => w.ctx == n && w.atLap == some lc)
  let s1 := updCtx s n (fun c => { c with shadow := mine.foldl (fun t w => Tbl.put 0 t w.word w.val) c.shadow, dirty := true })
  { s1 with held := s1.held.filter (fun w => !(w.ctx == n && w.atLap == some lc)) }

/-- The words that an aborted manifest wrote into shadow pages are copied back, and their contexts swap one seal later
(R336). -/
def restoreParams (m : Manifest) (s : State) : State :=
  let s1 := m.wrote.foldl (fun s p => updCtx s p.1 (fun c =>
    { c with shadow := Tbl.put 0 c.shadow p.2 (Tbl.get 0 c.act p.2), defer := true })) s
  (m.wrote.map (·.1)).eraseDups.foldl (fun s n => landAborted n m.lc s) s1

/-- A manifest that stood is aborted: where it would have changed the grid, the others have their timetables staged anew. -/
def gridAborted (m : Manifest) (s : State) : State :=
  if m.entries.any (fun e => match e with | .write ix _ _ => ix == 0x2001 | _ => false) then restageManifests s else s

/-- MANIFEST_ABORT (R321). -/
def abortManifest (who : Requester) (h : Nat) (s : State) : Status × State :=
  match handleCheck s who h with
  | some e => (e, s)
  | none =>
    let m := manOf s h
    match m.state with
    | .opened => (.ok, { s with man := { s.man with tbl := Tbl.drop s.man.tbl h } })
    | .staged =>
      let s1 := restoreParams m s
      (.ok, gridAborted m { s1 with man := { s1.man with tbl := Tbl.drop s1.man.tbl h, aborted := sat32 s1.man.aborted } })
    | .checking => (.busy, s)
    | _ => (.state, s)

/-- The size of an entry (R314). -/
def MEntry.size : MEntry → Nat
  | .write _ _ v => 4 + 4 * ((4 + v.length + 3) / 4)
  | .compare _ _ v => 4 + 4 * ((4 + v.length + 3) / 4)
  | .kernel _ t p => 4 + 4 * ((4 + t.length + 4 * p.length + 3) / 4)
  | .migrate _ _ _ => 12
  | _ => 20

/-- A free handle of module firmware. -/
def firmwareHandle (s : State) : Option Nat := ((List.range 4).map (· + 24)).find? (fun h => (manOf s h).state == .free)

/-- Module firmware puts a manifest of its own into the queue on its lowest free handle (R310, R620). -/
def firmwarePut (m : Manifest) (s : State) : State :=
  match firmwareHandle s with
  | none => s
  | some h =>
    let s1 := setMan s h { m with state := .checking, seqOpen := s.man.seq, payload := m.entries.foldl (fun n e => n + e.size) 0 }
    queueCommit h s1

def firmwareManifest (es : List MEntry) (s : State) : State := firmwarePut { entries := es } s

/-! ### Port reset (R502) -/

/-- Abort an owner's manifests in OPEN with STATE, each with its error record (R322). -/
def abortOpen (p : Port) (s : State) : State :=
  ((List.range 8).map (· + handleBase (portReq p))).foldl (fun s h =>
    if (manOf s h).state = .opened then
      logRecord (226 + portNum p) 1 0x0C 0xFF 0xFF (leBytes 1 h ++ List.replicate 7 0) (endManifest h 12 0 0xFFFF 0 0 s)
    else s) s

/-- The requests of a port that are still in service send no reply. -/
def dropReplies (p : Port) (s : State) : State :=
  let f (e : Nat × Manifest) : Nat × Manifest := if handleOwner e.1 = portReq p then (e.1, { e.2 with reply := none }) else e
  let g (x : Requester × Nat × Nat) : Requester × Nat × Nat := if x.1 = portReq p then (.firmware, 0, 0) else x
  let m : Manifests := { s.man with tbl := s.man.tbl.map f }
  let d : Dict := { s.dict with saving := s.dict.saving.map g }
  { s with man := m, dict := d }

/-- A port is reset (R502). -/
def resetPort (p : Port) (s : State) : State :=
  let s1 := abortOpen p (freeSems (ownerCode (portReq p)) s)
  let s2 := updPort s1 p (fun x => { x with
    inbox := [], out := [], kept := [], subs := [], asm := none, peer := none, irq := false, notes := 0 })
  portCount p 5 (fire (226 + portNum p) (dropReplies p { s2 with dict := { s2.dict with turns := s2.dict.turns.filter (· != p) } }))

end Sys2Proof.Machine
end

