-- ==== Sys2Proof/Machine/AppEnd.lean ====
section
/-! DEFINITION. How a Drover application ends (R449). -/

namespace Sys2Proof.Machine

/-- The manifests of an application in OPEN abort with STATE; those in STAGED and GIVEN go on. -/
def appManifests (a : Nat) (s : State) : State :=
  ((List.range 8).map (· + 16)).foldl (fun s h =>
    if Tbl.get 0 s.apps.handles h = a + 1 ∧ (manOf s h).state = .opened then endManifest h 12 0 0xFFFF 0 0 s else s) s

/-- Its semaphores are freed. -/
def appSems (a : Nat) (s : State) : State :=
  let mine := (s.apps.semOwner.filter (fun e => e.2 == a + 1)).map (·.1)
  if mine = [] then s
  else fire 228 { s with dict := { s.dict with sems := s.dict.sems.filter (fun e => !(mine.contains e.1)) },
                         apps := { s.apps with semOwner := s.apps.semOwner.filter (fun e => e.2 != a + 1) } }

/-- A running application ends with a cause (Table 11.25). -/
def endApp (a cause : Nat) (s : State) : State :=
  if (appOf s a).state ≠ 2 then s
  else
    let s1 := appSems a (appManifests a s)
    let s2 := updApp s1 a (fun x => { x with state := cause, block := .none, queue := [] })
    { s2 with apps := { s2.apps with
        subs := s2.apps.subs.filter (fun u => u.app != a), bound := s2.apps.bound.filter (fun b => b.2 != a),
        handles := s2.apps.handles.filter (fun h => h.2 != a + 1 || (manOf s2 h.1).state != .free),
        asm := s2.apps.asm.filter (fun x => x.1 != a), current := s2.apps.current.filter (fun e => e.2 != a + 1) } }

/-- Every running application is stopped. -/
def endAllApps (s : State) : State := (List.range 8).foldl (fun s a => endApp a 5 s) s

/-- An exception in U, other than a TRAP, ends the application that runs on the Drover; its frame is kept (R449). A reserved
call, TRAP #22 to #31, answers RANGE (Table 11.26). -/
def appFault (d priv k : Nat) (frame : Bytes) (s : State) : State :=
  match Tbl.get 0 s.apps.current d with
  | 0 => s
  | a + 1 =>
    if priv = 0 ∧ k < 32 then updApp (endApp a 4 s) a (fun x => { x with lastEx := leBytes 4 k ++ frame.take 20 })
    else if priv = 0 ∧ 86 ≤ k ∧ k ≤ 95 then appRet a .range [] s
    else s

end Sys2Proof.Machine
end

