-- ==== Sys2Proof/Machine/AppRun.lean ====
section
/-! DEFINITION. Application images (R448, Table 11.24) and how applications start and share the Drovers (R449). -/

namespace Sys2Proof.Machine

/-- A field of an image header. -/
def imgFld (b : Bytes) (o n : Nat) : Nat := leNat ((b.drop o).take n)

/-- AUTOSTART of an installed image. -/
def autostart (b : Bytes) : Bool := imgFld b 32 4 % 2 == 1

/-- The bytes that an image's tag signs, and its whole length. -/
def imgSigned (b : Bytes) : Nat := 64 + imgFld b 12 4 + imgFld b 16 4

/-- The layout rules of Table 11.24. -/
def imageOk (provisioned : Nat → Bool) (b : Bytes) : Bool :=
  let f := imgFld b
  let key := f 1 1
  decide (64 ≤ b.length) && f 0 1 == 1 && (decide (key ≤ 3) && provisioned key || key == 255) && f 2 2 == 0 &&
  decide (f 12 4 % 4 = 0 ∧ 4 ≤ f 12 4 ∧ f 12 4 ≤ 33554432) && decide (f 16 4 ≤ 33554432) && decide (f 20 4 ≤ 33554432) &&
  decide (f 24 4 % 4 = 0 ∧ f 24 4 < f 12 4) && decide (f 28 4 % 16 = 0 ∧ 4096 ≤ f 28 4 ∧ f 28 4 ≤ 1048576) && decide (f 32 4 ≤ 1) &&
  (b.drop 36 |>.take 28).all (· == 0) && decide (f 12 4 + f 16 4 + f 20 4 + f 28 4 ≤ 67108864) &&
  b.length == imgSigned b + (if key = 255 then 0 else 32)

/-- Bytes of installed images. -/
def imagesHeld (s : State) (but : Nat) : Nat := s.apps.tbl.foldl (fun n e => if e.1 = but then n else n + e.2.image.length) 0

/-- A write of 1 to .03 (R448): verify and store. -/
def appInstall (a : Nat) (s : State) : Status × State :=
  let x := appOf s a
  let b := x.draft
  let key := imgFld b 1 1
  if x.state = 2 then (.state, s)
  else if !imageOk (fun k => Tbl.get [] s.dict.keys k != []) b then (.range, s)
  else if key = 255 ∧ !odBool s 0xF058 1 then (.auth, s)
  else if key ≠ 255 ∧ Config.hmacSha256 (Tbl.get [] s.dict.keys key) (b.take (imgSigned b)) ≠ b.drop (imgSigned b) then (.auth, s)
  else if imagesHeld s a + b.length > 268435456 then (.full, s)
  else (.ok, setApp s a { x with state := 1, image := b, draft := [] })

/-- A write of 2 to .03: the installed image is removed. -/
def appRemove (a : Nat) (s : State) : Status × State :=
  let x := appOf s a
  if x.state = 2 then (.state, s) else (.ok, setApp s a { x with state := 0, image := [] })

/-! ### Slices (R449) -/

/-- The Drovers that hold role 5 and run. -/
def appDrovers (s : State) : List Nat :=
  (List.range 4).filter (fun d => (s.modes.roles[d]?.getD 0).testBit 5)

/-- An application that waits for a slice. -/
def appReady (s : State) (a : Nat) : Bool :=
  let x := appOf s a
  x.state == 2 && x.block == .none && !s.apps.current.any (fun e => e.2 == a + 1)

/-- The next application in turn. -/
def appNext (s : State) : Option Nat := ((List.range 8).map (fun i => (s.apps.last + i) % 8)).find? (appReady s)

/-- Every Drover of role 5 without a slice takes the next application in turn. -/
def appSchedule (s : State) : State :=
  (appDrovers s).foldl (fun s d =>
    if Tbl.get 0 s.apps.current d ≠ 0 then s
    else
      match appNext s with
      | some a => { s with apps := { s.apps with current := Tbl.put 0 s.apps.current d (a + 1), last := a + 1 } }
      | none => s) s

/-- The slice of an application ends; it returns to its turn. -/
def appYield (a : Nat) (s : State) : State :=
  appSchedule { s with apps := { s.apps with current := s.apps.current.filter (fun e => e.2 != a + 1) } }

/-- An application starts: its code is loaded and W1 = a, every other register that calls pass is 0. -/
def appStart (a : Nat) (s : State) : State :=
  let x := appOf s a
  if x.state = 2 ∨ x.image = [] then s
  else appSchedule (setApp s a { x with state := 2, queue := [], block := .none, regs := [a, 0, 0, 0, 0], buf := [] })

/-- A write of OD (F050 + a).04. -/
def appRun (a v : Nat) (s : State) : Status × State :=
  if v = 1 then
    if (appOf s a).image = [] ∨ !(s.modes.mode == .perform || s.modes.mode == .maintain) then (.state, s) else (.ok, appStart a s)
  else (.ok, appSchedule (endApp a 5 s))

/-- Applications with AUTOSTART start at an entry to PERFORM or MAINTAIN. -/
def appAutostart (s : State) : State :=
  (List.range 8).foldl (fun s a => if autostart (appOf s a).image then appStart a s else s) s

/-- A segment of an application image (R596). -/
def appDraft (a off : Nat) (v : Bytes) (s : State) : Status × State :=
  let x := appOf s a
  if off = 0 then (.ok, setApp s a { x with draft := v })
  else if off ≠ x.draft.length ∨ off + v.length > 67108960 then (.range, s)
  else (.ok, setApp s a { x with draft := x.draft ++ v })

/-- The Table 13.9 code of the last write to .02 to .04 (Table 11.25). -/
def appStatus (a : Nat) (r : Status × State) : Status × State := (r.1, updApp r.2 a (fun x => { x with status := r.1.code }))

end Sys2Proof.Machine
end

