-- ==== Sys2Proof/Machine/BootChain.lean ====
section
/-! DEFINITION. The boot chain (R592 to R595) and the microcode patch image (R272, R273): package headers, slots, the boot
record, and the load of the patch image. -/

namespace Sys2Proof.Machine

def onModes (f : ModeSt → ModeSt) (s : State) : State := { s with modes := f s.modes }

def onBoot (f : BootRec → BootRec) (s : State) : State := onModes (fun m => { m with boot := f m.boot }) s

/-- Every write of the boot record raises its sequence number (R593). -/
def bootWrite (f : BootRec → BootRec) (s : State) : State := onBoot (fun b => { f b with seq := b.seq + 1 }) s

/-! ### Packages (Table 16.10) -/

def pkgFld (b : Bytes) (o n : Nat) : Nat := leNat ((b.drop o).take n)

/-- A member of a package: type, offset, length and hash. -/
structure Member where
  ty  : Nat
  off : Nat
  len : Nat
  sha : Bytes
  deriving DecidableEq, Repr

def pkgMembers (b : Bytes) : List Member :=
  (List.range (pkgFld b 11 1)).map (fun i =>
    let o := 16 + 48 * i
    ⟨pkgFld b o 1, pkgFld b (o + 4) 4, pkgFld b (o + 8) 4, (b.drop (o + 12)).take 32⟩)

def memberData (b : Bytes) (m : Member) : Bytes := (b.drop m.off).take m.len

/-- Two members share a byte. -/
def memberOverlap (a b : Member) : Bool := decide (a.off < b.off + b.len ∧ b.off < a.off + a.len)

/-- The layout rules of R592. -/
def headerOk (b : Bytes) : Bool :=
  let m := pkgFld b 11 1
  let ms := pkgMembers b
  pkgFld b 0 1 == 1 && decide (pkgFld b 1 1 ≤ 3) && decide (pkgFld b 2 2 ≤ 64) && pkgFld b 8 1 == 1 && decide (pkgFld b 10 1 ≤ 1) &&
  decide (1 ≤ m ∧ m ≤ 8) && pkgFld b 12 4 == 0 &&
  (List.range m).all (fun i => pkgFld b (17 + 48 * i) 3 == 0 && pkgFld b (60 + 48 * i) 4 == 0) &&
  ms.all (fun x => decide (1 ≤ x.ty ∧ x.ty ≤ 3) && decide (x.off + x.len ≤ 536870912) && (x.ty != 1 || decide (x.len ≤ 2097152))) &&
  ms.any (fun x => x.ty == 1) && decide ((ms.map (·.ty)).eraseDups.length = ms.length) &&
  (List.range ms.length).all (fun i => (List.range i).all (fun j =>
    match ms[i]?, ms[j]? with | some x, some y => !memberOverlap x y | _, _ => true))

/-- The signature checks against the key that the header names, and that key is good (R594). -/
def headerSigned (b : Bytes) : Bool :=
  let n := 16 + 48 * pkgFld b 11 1
  Config.keyGood (pkgFld b 1 1) && Config.ecdsaOk (pkgFld b 1 1) (Config.sha256 (b.take n)) ((b.drop n).take 64)

def memberOk (b : Bytes) (m : Member) : Bool := m.len == (memberData b m).length && Config.sha256 (memberData b m) == m.sha

/-- A package verifies (R594): header, signature, rollback index and stage-2. -/
def pkgVerifies (rollback : Nat) (b : Bytes) : Bool :=
  headerOk b && headerSigned b && decide (rollback ≤ pkgFld b 2 2) && (pkgMembers b).all (fun m => m.ty != 1 || memberOk b m)

/-- Its other members check too, as R596 asks before an activation. -/
def pkgWhole (rollback : Nat) (b : Bytes) : Bool := pkgVerifies rollback b && (pkgMembers b).all (memberOk b)

/-- The package in a slot. -/
def slotPkg (s : State) (i : Nat) : Bytes :=
  match s.modes.packages.find? (fun e => e.1 == i) with
  | some e => e.2
  | none => Config.shipped i

/-- A member of a type, by its data. -/
def pkgMember (b : Bytes) (ty : Nat) : Option Bytes := ((pkgMembers b).find? (fun m => m.ty == ty)).map (memberData b)

/-- The slot that the boot ROM tries (R593), and the boot record after it has counted the try. -/
def chooseSlot (b : BootRec) : Nat × BootRec :=
  match b.pending with
  | some p => if b.tries > 0 ∧ !b.fail.contains p then (p, { b with tries := b.tries - 1 }) else (b.active, { b with pending := none })
  | none => (b.active, { b with pending := none })

/-- The slot that boots, none for BOOT hold, and the boot record. -/
def bootSlot (s : State) : Option Nat × BootRec :=
  let c := chooseSlot s.modes.boot
  if pkgVerifies s.modes.rollback (slotPkg s c.1) then (some c.1, c.2)
  else
    let o := 1 - c.1
    let b := { c.2 with fail := if c.2.fail.contains c.1 then c.2.fail else c.2.fail ++ [c.1] }
    if pkgVerifies s.modes.rollback (slotPkg s o) && !b.fail.contains o then (some o, b) else (none, b)

/-! ### The patch image (R272, R273) -/

def imgMatch (p : Bytes) (j : Nat) : Nat := pkgFld p (8 + 4 * j) 4

def imgWord (p : Bytes) (m k : Nat) : Nat := pkgFld p (8 + 4 * m + 18 * k) 18

/-- The rules of Table 7.17 on an image itself. -/
def patchImageOk (p : Bytes) : Bool :=
  let m := pkgFld p 3 1
  let w := pkgFld p 4 2
  let n := 4 * m + 18 * w
  pkgFld p 0 1 == 1 && pkgFld p 1 1 == 1 && pkgFld p 2 1 != 0 && decide (m ≤ 32 ∧ w ≤ 512) && p.length == 8 + n &&
  pkgFld p 6 2 == crc16 0xFFFF (p.drop 8) &&
  (List.range m).all (fun j =>
    let e := imgMatch p j
    e / 2 ^ 31 == 1 && decide (e % 8192 ≤ 0x17FF) && decide (e / 65536 % 512 < w) &&
    (List.range j).all (fun i => imgMatch p i % 8192 != e % 8192)) &&
  (List.range w).all (fun k => Config.microEcc (BitVec.ofNat 144 (imgWord p m k)) == 0)

/-- A word goes through PRDATA0 to PRDATA4. -/
def patchLoadWord (k v : Nat) (s : State) : State :=
  let s1 := [0, 1, 2, 3].foldl (fun s i => lcsWrite k (0x1C + 4 * i) (v / 2 ^ (32 * i) % 2 ^ 32) s) s
  lcsWrite k 0x2C (v / 2 ^ 128 % 2 ^ 32) s1

/-- The five steps of R273 for one LVU. -/
def patchLoad (p : Bytes) (k : Nat) (s : State) : State :=
  let m := pkgFld p 3 1
  let poll := b2n (lvuOf s k).poll 1
  let s1 := lcsWrite k 0x14 (pkgFld p 2 1) (lcsWrite k 0 (4 + poll) s)
  let s2 := (List.range m).foldl (fun s j => lcsWrite k (0x40 + 4 * j) (imgMatch p j) s) s1
  let s3 := (List.range (pkgFld p 4 2)).foldl (fun s i => patchLoadWord k (imgWord p m i) s) s2
  lcsWrite k 0 (2 + poll) (lcsWrite k 0 poll s3)

/-- An LVU took the image: no word failed its check, and the CRC is the image's. -/
def patchTaken (p : Bytes) (s : State) (k : Nat) : Bool :=
  !(lvuOf s k).perr && (lvuOf s k).csver.toNat % 65536 == pkgFld p 6 2

/-- A rejected image leaves no match register and no PEN in any LVU. -/
def patchClear (s : State) : State :=
  (List.range 64).foldl (fun s k => updLvu s k (fun l => { l with pmatch := [], pen := false })) s

/-- The patch image of the package that boots. -/
def patchImage (s : State) : Option Bytes := pkgMember (slotPkg s s.modes.slot) 3

/-- OD 3030.41: ROM version, patch set and CRC-16 of the image loaded in BOOT (R276). -/
def expectedCsver (s : State) : Nat :=
  0x01000000 + (match s.modes.up.image with | some p => pkgFld p 2 1 * 65536 + pkgFld p 6 2 | none => 0)

end Sys2Proof.Machine
end

