-- ==== Sys2Proof/Machine/Store.lean ====
section
/-! DEFINITION. The sample store (chapter 10): rings and page reads, keymaps and prefixes, library writes, the streaming
service, and the care of the flash. -/

namespace Sys2Proof.Machine

/-! ### Rings (R366 to R371) -/

/-- A start record resets a ring to a new stream; what is in flight for the former one will be discarded (R367). -/
def streamOpen (ring obj ctx : Nat) (s : State) : State :=
  let g := ringOf s ring
  let r := objRec (objOf s obj).record
  let h := headFrames r s.grid.rate
  setRing s ring { g with
    state := 1, object := obj, ctx := ctx, cursor := 0, consumed := 0, written := if r.le = 0 then min h r.frames else h,
    loopClose := 0xFFFFFFFF, leave := false, left := false, stale := g.stale + g.reads, reads := 0, zeros := [], orphan := false }

/-- Free bytes of a ring by the store engine's own count, reads in flight included (R370). -/
def ringFree (s : State) (g : Ring) : Nat :=
  let r := objRec (objOf s g.object).record
  let held := g.written - max g.consumed (headFrames r s.grid.rate)
  (ringFrames g.grants r.channels - held) * 3 * r.channels - g.reads * 49152 * g.grants

/-- Every frame of the stream has been written or is on its way. -/
def streamWhole (s : State) (g : Ring) : Bool :=
  match playEnd (objRec (objOf s g.object).record) g.loopClose with
  | some e => decide (e ≤ g.written)
  | none => false

/-! ### Planes (R350 to R352) -/

/-- A plane group has at most one busy plane: not where the service is suspended, nor in WORKSHOP (R350, Table 10.15). -/
def oneBusy (s : State) : Bool := !(s.store.service == 2 || s.modes.mode == .workshop)

def planeBusy (s : State) (die plane : Nat) : Bool := (Tbl.get 0 s.store.busy plane).getLsbD die

/-- The engine has programs, erases or relocations to do. -/
def engineWork (s : State) : Bool :=
  s.store.sessions.any (fun e => e.2.state == 3) || s.store.blocks.any (fun e => e.2.moving) || s.store.supers.any (fun e => e.2.moving)

/-- The planes of a group that an operation occupies: none, or one die's. -/
def oneDie (n : Nat) : BitVec 8 := if n % 9 = 8 then 0 else BitVec.ofNat 8 (2 ^ (n % 9))

/-- The engine begins operations where it may: on which dies, and when, is open (log 114). -/
def opsBegin (s : State) : State :=
  if !engineWork s ∨ s.store.service = 3 then s
  else (List.range 4).foldl (fun s p =>
    let f := takeFree s
    let old := Tbl.get 0 s.store.busy p
    let new := if oneBusy s then (if old = 0 then oneDie f.1 else old) else old ||| BitVec.ofNat 8 f.1
    { f.2 with store := { f.2.store with busy := Tbl.put 0 f.2.store.busy p new } }) s

/-- An operation of a plane ends. Where a group has one at a time it is the group's. -/
def opEnds (die plane : Nat) (s : State) : State :=
  let old := Tbl.get 0 s.store.busy plane
  { s with store := { s.store with busy := Tbl.put 0 s.store.busy plane (if oneBusy s then 0 else old &&& ~~~(BitVec.ofNat 8 (2 ^ die))) } }

/-- The planes that a read of a page on a die goes to: the seven other pages of its stripe where the plane is busy (R351). -/
def readPlanes (s : State) (die plane : Nat) : List Nat :=
  if planeBusy s die plane then ((List.range 8).filter (fun d => d != die)).map (fun d => 4 * d + plane) else [4 * die + plane]

/-- A plane's queue has room for a read: it holds at most 6 (R352). -/
def planeRoom (q : List PlaneRead) (p : Nat) : Bool := decide ((q.filter (fun r => r.planes.contains p)).length < 6)

/-- When a ring runs empty with its consumer at full rate, as a number that grows with that time (R370). -/
def runsEmpty (s : State) (ring : Nat) : Nat :=
  let g := ringOf s ring
  let rho := match slotKernel s (g.ctx / 128) with | some x => x.2.rho | none => 64
  (g.written - g.consumed) * 2 ^ 20 / max 1 rho

/-- Waiting reads go to their planes' queues, the most urgent ring's first, each once its planes have room (R352, R370). -/
def sendReads (s : State) : State :=
  let r := (sortOn (fun x => runsEmpty s x.ring) s.store.waiting).foldl (fun (acc : List PlaneRead × List PlaneRead) x =>
    if x.planes.all (planeRoom acc.1) then (acc.1 ++ [x], acc.2) else (acc.1, acc.2 ++ [x])) (s.store.queued, [])
  { s with store := { s.store with queued := r.1, waiting := r.2 } }

/-- The store engine issues a read of a page that a ring needs next; where the page lies is open (log 114). -/
def issueRead (ring : Nat) (s : State) : State :=
  let g := ringOf s ring
  let p := Config.pagePlace g.object (g.written + 1024 * g.reads) % 32
  sendReads { s with store := { s.store with waiting := s.store.waiting ++ [⟨ring, readPlanes s (p / 4) (p % 4)⟩] } }

/-- The store engine issues a ring's next page read when it has room (R370). -/
def ringFill (ring : Nat) (s : State) : State :=
  let g := ringOf s ring
  if g.state ≠ 1 ∨ g.grants = 0 then s
  else if 49152 * g.grants ≤ ringFree s g ∧ !streamWhole s g then setRing (issueRead ring s) ring { g with reads := g.reads + 1 }
  else if g.orphan ∧ g.reads = 0 then setRing s ring { g with state := 2 }
  else s

/-- The fields of a page address (Table 17.20): die, plane, block. -/
def pageDie (p : Nat) : Nat := fld p 26 24
def pagePlane (p : Nat) : Nat := fld p 23 22
def pageBlock (p : Nat) : Nat := fld p 21 11

/-- The die of the parity page of a stripe: page k of block b of plane p (R347). -/
def parityDie (p b k : Nat) : Nat := (b + p + k) % 8

/-- The key of a block and of its superblock. -/
def blockKey (die plane block : Nat) : Nat := 8192 * die + 2048 * plane + block
def superKey (plane block : Nat) : Nat := 2048 * plane + block

def blockOf (s : State) (k : Nat) : Block := Tbl.get {} s.store.blocks k
def setBlock (s : State) (k : Nat) (b : Block) : State := { s with store := { s.store with blocks := Tbl.put {} s.store.blocks k b } }

/-- Spare superblocks at shipment: at least 100 or 300, and what factory bad blocks leave of 146 or 440 (Table 10.2; log 37). -/
def sparesShipped : Nat :=
  if Config.variant = 0 then max 100 (min 146 Config.spareSuperblocks) else max 300 (min 440 Config.spareSuperblocks)

/-- Spare superblocks left: each plane has given up as many as the die that took most of them (R379). -/
def sparesLeft (s : State) : Nat :=
  sparesShipped - (List.range 4).foldl (fun m p =>
    m + (List.range 8).foldl (fun k d => max k (Tbl.get 0 s.store.taken (4 * d + p))) 0) 0

/-- A block is retired; its place is filled from a spare superblock (R379). -/
def retireBlock (die plane block : Nat) (s : State) : State :=
  let k := blockKey die plane block
  let b := blockOf s k
  if b.retired then s
  else
    let before := sparesLeft s
    let s1 := fire 133 (setBlock s k { b with retired := true, moving := false })
    let s2 := { s1 with store := { s1.store with taken := Tbl.upd 0 s1.store.taken (4 * die + plane) (· + 1) } }
    let after := sparesLeft s2
    let s3 := if after < 16 ∧ 16 ≤ before then fire 134 s2 else s2
    if after < 2 ∧ 2 ≤ before then fire 135 s3 else s3

/-- A block's read is counted; at 500,000 its relocation starts (R380). -/
def countRead (page : Nat) (s : State) (die : Nat) : State :=
  let k := blockKey die (pagePlane page) (pageBlock page)
  let b := blockOf s k
  let b1 := { b with reads := b.reads + 1 }
  if b1.reads ≥ 500000 ∧ !b1.moving then fire 132 (setBlock s k { b1 with moving := true }) else setBlock s k b1

/-- A page that soft decoding cannot correct (R353, R379). -/
def uncorrectablePage (page : Nat) (s : State) : State :=
  let d := pageDie page
  let p := pagePlane page
  let k := blockKey d p (pageBlock page)
  let b := blockOf s k
  let s1 := setBlock s k { b with soft := b.soft + 1, moving := true }
  let s2 := { s1 with store := { s1.store with uncorr := sat32 s1.store.uncorr } }
  let s3 := logRecord 128 1 0x10 0xFF 0xFF (leBytes 4 page ++ [0, 0, 0, 0]) s2
  if b.soft + 1 ≥ 2 then retireBlock d p (pageBlock page) s3 else s3

/-- The dies whose pages a read takes: the page's own, the others of its stripe for a rebuild, and the page itself again where a second
page failed (R351, R353). -/
def diesRead (die outcome : Nat) (busy : Bool) : List Nat :=
  (if busy then [] else [die]) ++ (if busy ∨ outcome ≠ 0 then (List.range 8).filter (fun d => d != die) else []) ++
  (if outcome ≥ 2 then [die] else [])

/-- The read of a ring that ends leaves its planes' queues; a read without a ring is the engine's own. -/
def leavesQueue (ring : Option Nat) (s : State) : State :=
  match ring with
  | none => s
  | some r => sendReads { s with store := { s.store with queued := s.store.queued.eraseP (fun x => x.ring == r) } }

/-- A page read completes: outcome 0 as it was sent, 1 rebuilt after its decoding failed, 2 soft, 3 uncorrectable; frames is what it decoded
to (R353, R370). A ring whose reads all wait in the engine has none that could complete. -/
def pageReadDone (ring : Option Nat) (frames outcome page : Nat) (s : State) : State :=
  let sent : Option PlaneRead := match ring with | none => none | some r => s.store.queued.find? (fun x => x.ring == r)
  let held : Bool := match ring with | none => false | some r => sent.isNone && s.store.waiting.any (fun x => x.ring == r)
  let busy := match sent with | some x => decide (1 < x.planes.length) | none => planeBusy s (pageDie page) (pagePlane page)
  if held then s
  else
  let s1 := opsBegin ((diesRead (pageDie page) outcome busy).foldl (countRead page) (leavesQueue ring s))
  let s2 := if outcome = 1 ∨ (outcome = 0 ∧ busy = true) then { s1 with store := { s1.store with rebuilt := sat32 s1.store.rebuilt } }
    else if outcome = 3 then uncorrectablePage page s1 else s1
  match ring with
  | none => s2
  | some r =>
    let g := ringOf s2 r
    if g.stale > 0 then setRing s2 r { g with stale := g.stale - 1 }
    else if g.reads = 0 then s2
    else
      let rec_ := objRec (objOf s2 g.object).record
      let room := ringFrames g.grants rec_.channels - (g.written - max g.consumed (headFrames rec_ s2.grid.rate))
      let n0 := min frames room
      let n := match playEnd rec_ g.loopClose with | some e => min n0 (e - g.written) | none => n0
      let g1 := { g with reads := g.reads - 1, written := g.written + n,
                         zeros := if outcome = 3 then g.zeros ++ [(g.written, n)] else g.zeros }
      setRing s2 r { g1 with state := if g.orphan ∧ n = room then 2 else g1.state }

/-- The play index at which an open loop closes: the first loop end not yet written (R368, R371). -/
def loopCloseAt (r : ObjRec) (written : Nat) : Nat :=
  if written ≤ r.le then r.le else r.le + (written - r.le + (r.le - r.ls) - 1) / (r.le - r.ls) * (r.le - r.ls)

/-- The memory station reports a ring's consumption (R371). -/
def consumption (ring : Nat) (s : State) : State :=
  let g := ringOf s ring
  if g.state = 0 then s
  else
    let r := objRec (objOf s g.object).record
    let close := g.leave && !g.left && decide (r.le > 0) && g.loopClose == 0xFFFFFFFF
    setRing s ring { g with consumed := g.cursor, left := g.left || g.leave,
                            loopClose := if close then loopCloseAt r g.written else g.loopClose }

/-! ### Heads, keymaps and prefixes (R357 to R361) -/

def keymapOf (s : State) (m : Nat) : Keymap := Tbl.get {} s.store.keymaps m

def setKeymap (s : State) (m : Nat) (k : Keymap) : State := { s with store := { s.store with keymaps := Tbl.put {} s.store.keymaps m k } }

/-- The objects that a keymap names, once each. -/
def keymapObjects (s : State) (m : Nat) : List Nat := (keymapZones s m).foldl (fun os z => insertNat z.object os) []

/-- Words of the prefixes of a list of objects. -/
def prefixWordsOf (s : State) (os : List Nat) : Nat := os.foldl (fun n o => n + 16 * (objRec (objOf s o).record).channels) 0

/-- Keymaps that LOADED again with their heads (R361). -/
def reloadKeymaps (s : State) : State :=
  (s.store.keymaps.filter (fun e => e.2.reload && e.2.state == 1)).foldl (fun s e =>
    if (keymapObjects s e.1).all (fun o => (objOf s o).state == 4) then fire 139 (setKeymap s e.1 { e.2 with state := 2, reload := false })
    else s) s

/-- An object's head is resident, and the place of the coding frame that holds frame H is noted (R358). -/
def headResident (id : Nat) (s : State) : State :=
  let o := objOf s id
  if o.state ≠ 3 then s
  else
    let r := objRec o.record
    let s1 := reloadKeymaps (setObj s id { o with state := 4, headOff := (codingAt r.frames o.data (headFrames r s.grid.rate) 0).1 })
    if s1.store.objects.any (fun e => e.2.state == 3) then s1
    else fire 140 { s1 with store := { s1.store with populating := false } }

/-- Heads are populated anew: at entry to PERFORM and after a change of house rate (R358, R361). -/
def populateHeads (s : State) : State :=
  let objs := s.store.objects.map (fun e => if e.2.state = 4 then (e.1, { e.2 with state := 3 }) else e)
  let maps := s.store.keymaps.map (fun e => if e.2.state = 2 then (e.1, { e.2 with state := 1, reload := true }) else e)
  { s with store := { s.store with objects := objs, keymaps := maps, populating := objs.any (fun e => e.2.state == 3) } }

/-- A keymap's zones are written: its state checks (R360), or the state with the keymap LOADING. -/
def keymapWrite (m : Nat) (v : Bytes) (s : State) : Status × State :=
  let named := s.dict.od.any (fun e => decide (0xC400 * 256 ≤ e.1 ∧ e.1 < 0xCC00 * 256) && leNat e.2 == m)
  if named then (.state, s)
  else if (zones v).any (fun z => (objOf s z.object).state != 4) then (.state, s)
  else (.ok, setKeymap (odPut (0xCC00 + m) 1 v s) m { state := 1 })

/-- The copy of a keymap's prefixes ends: LOADED, or FAILED with FULL where they do not fit (R361). -/
def prefixCopyDone (m : Nat) (s : State) : State :=
  let k := keymapOf s m
  if k.state ≠ 1 ∨ k.reload then s
  else
    let others := (s.store.keymaps.filter (fun e => e.2.state == 2)).foldl (fun os e => (keymapObjects s e.1).foldl (fun os o => insertNat o os) os) []
    let all := (keymapObjects s m).foldl (fun os o => insertNat o os) others
    let w := prefixWordsOf s all
    if w > 524288 then fire 139 (setKeymap s m { k with state := 3, status := 8 })
    else
      let s1 := setKeymap s m { k with state := 2, status := 0, words := prefixWordsOf s (keymapObjects s m) }
      fire 139 { s1 with store := { s1.store with prefixWords := w } }

/-! ### Library writes (R384 to R388) -/

/-- User capacity in bytes (Table 10.2). -/
def userCapacity : Nat := if Config.variant = 0 then 400 * 2 ^ 30 else 800 * 2 ^ 30

/-- User bytes held by objects. -/
def userHeld (s : State) : Nat := s.store.objects.foldl (fun n e => if e.2.state = 0 then n else n + (objRec e.2.record).bytes) 0

def sessionOf (s : State) (i : Nat) : Session := Tbl.get {} s.store.sessions i

def setSession (s : State) (i : Nat) (x : Session) : State := { s with store := { s.store with sessions := Tbl.put {} s.store.sessions i x } }

/-- Library writes are served in PERFORM, MAINTAIN and WORKSHOP (Table 10.15). -/
def libraryOpen (s : State) : Bool := s.modes.mode == .perform || s.modes.mode == .maintain || s.modes.mode == .workshop

/-- A write of an object record to .01. -/
def importOpen (i : Nat) (v : Bytes) (s : State) : Status × State :=
  let r := objRec v
  let x := sessionOf s i
  if !libraryOpen s then (.state, s)
  else if x.state = 1 ∨ x.state = 2 ∨ x.state = 3 then (.state, s)
  else if (objOf s r.id).state ≠ 0 then (.state, s)
  else if sparesLeft s < 16 ∨ userHeld s + r.bytes > userCapacity then (.full, s)
  else if headsUsed s s.grid.rate + headBytes r s.grid.rate > headRegion then (.full, s)
  else (.ok, setObj (setSession s i { state := 1, record := v }) r.id { state := 1, record := v })

/-- Bytes in the import staging region (Table 10.5). -/
def staged (s : State) : Nat := s.store.sessions.foldl (fun n e => n + e.2.data.length) 0

/-- A segment to .02, whose offset is the number of bytes received (R384, R487). -/
def importAppend (i off : Nat) (v : Bytes) (s : State) : Status × State :=
  let x := sessionOf s i
  if !libraryOpen s ∨ x.state ≠ 1 then (.state, s)
  else if sparesLeft s < 16 then (.full, s)
  else if off ≠ x.data.length ∨ x.data.length + v.length > (objRec x.record).bytes then (.range, s)
  else if staged s + v.length > 268435456 then (.busy, s)
  else (.ok, setSession s i { x with data := x.data ++ v })

/-- The checks of R385 on a whole object. -/
def importCheck (r : ObjRec) (data : Bytes) : Status :=
  if data.length ≠ r.bytes ∨ crc32c data ≠ r.crc then .crc
  else
    match decodeAll r.channels (data.length + 1) data with
    | none => .range
    | some cs =>
      if cs.foldl (fun n c => n + c.n) 0 ≠ r.frames then .range
      else if cs.foldl (fun n c => max n c.len) 0 ≠ r.peak then .range
      else if r.le ≠ 0 ∧ !(r.ls < r.le ∧ r.le ≤ r.frames ∧ headFrames r 5 < r.le) then .range
      else .ok

/-- A session ends: its source fires (Table 10.19). -/
def endSession (i state : Nat) (st : Status) (s : State) : State :=
  fire (136 + i) (setSession s i { sessionOf s i with state := state, status := st.code, data := [] })

/-- An object's id is FREE again. -/
def freeObject (id : Nat) (s : State) : State := { s with store := { s.store with objects := Tbl.drop s.store.objects id } }

/-- A write of 1 to .03. -/
def importCommit (i : Nat) (s : State) : Status × State :=
  let x := sessionOf s i
  if !libraryOpen s ∨ x.state ≠ 1 then (.state, s)
  else if sparesLeft s < 16 then (.full, s)
  else
    let r := objRec x.record
    match importCheck r x.data with
    | .ok => (.ok, opsBegin (setSession (setObj s r.id { state := 2, record := x.record, data := x.data }) i { x with state := 3 }))
    | e => (e, freeObject r.id (endSession i 5 e s))

/-- A write of 2 to .03. -/
def importAbort (i : Nat) (s : State) : Status × State :=
  let x := sessionOf s i
  if x.state ≠ 1 then (.state, s)
  else (.ok, freeObject (objRec x.record).id (endSession i 0 .ok s))

/-- Programming and journaling of a session's object end. -/
def importProgrammed (i : Nat) (s : State) : State :=
  let x := sessionOf s i
  if x.state ≠ 3 then s
  else
    let id := (objRec x.record).id
    endSession i 4 .ok (setObj s id { objOf s id with state := 3 })

/-- A write of an id to OD C110.01 (R388). -/
def objectDelete (id : Nat) (s : State) : Status × State :=
  let o := objOf s id
  let maps := s.dict.od.filterMap (fun e => if 0xCC00 * 256 ≤ e.1 ∧ e.1 < 0xD000 * 256 ∧ e.1 % 256 = 1 then some (e.1 / 256 - 0xCC00) else none)
  if maps.any (fun m => decide (id ∈ keymapObjects s m)) then (.state, s)
  else if o.state ≠ 3 ∧ o.state ≠ 4 then (.state, s)
  else (.ok, freeDeleted (setObj s id { o with state := 5 }))

/-! ### The streaming service (R387) -/

def setService (v : Nat) (s : State) : State :=
  if s.store.service = v then s else fire 141 { s with store := { s.store with service := v } }

/-- A write of OD C002.01. -/
def streamingWrite (v : Nat) (s : State) : Status × State :=
  if s.modes.mode ≠ .maintain then (.state, s)
  else if v = 1 then
    (.ok, if s.store.service = 0 ∨ s.store.service = 3 then
        odSet 0xC002 1 1 (setService 1 { s with store := { s.store with drainEnd := s.now + nsTicks 10000000000 + 1 } })
      else s)
  else
    (.ok, if s.store.service = 1 ∨ s.store.service = 2 then odSet 0xC002 1 0 (setService 3 s) else s)

/-- Every streaming voice that is active is marked STOLEN. -/
def stealStreams (s : State) : State :=
  { s with ctxs := s.ctxs.map (fun e =>
      if e.2.hdr.sv && e.2.hdr.state.active then (e.1, { e.2 with hdr := { e.2.hdr with stolen := true }, stolenLap := s.grid.lap }) else e) }

/-- Draining ends after 10 s. -/
def drainTimeout (s : State) : State :=
  if s.store.service = 1 then setService 2 (stealStreams (advance (s.store.drainEnd - 1) s)) else s

/-- The service returns once programs and erases in flight have finished. -/
def streamingResumed (s : State) : State :=
  if s.store.service = 3 then setService 0 { s with store := { s.store with busy := [] } } else s

/-! ### The care of the flash (R378 to R382) -/

def superOf (s : State) (k : Nat) : Superblock := Tbl.get {} s.store.supers k

def setSuper (s : State) (k : Nat) (x : Superblock) : State := { s with store := { s.store with supers := Tbl.put {} s.store.supers k x } }

/-- The preparation for storage is done when no superblock that it moves is left. -/
def prepSettle (s : State) : State :=
  if s.store.prep = 1 ∧ !s.store.supers.any (fun e => e.2.moving) then fire 142 { s with store := { s.store with prep := 2 } } else s

/-- What a program of a block that completes or fails leaves; last tells that it was the last of a rewrite of its superblock. -/
def programEnds (die plane block : Nat) (ok last : Bool) (s : State) : State :=
  if !ok then retireBlock die plane block s
  else if last then
    let k := superKey plane block
    let x := superOf s k
    let s1 := setSuper s k { written := true, dose := 0, moving := false }
    prepSettle (if x.moving then { s1 with store := { s1.store with relocated := sat32 s1.store.relocated } } else s1)
  else s

/-- A program of a block completes or fails, and the engine goes on (R350). -/
def programDone (die plane block : Nat) (ok last : Bool) (s : State) : State :=
  opsBegin (programEnds die plane block ok last (opEnds die plane s))

/-- The P/E counts of user blocks: the least and the greatest. -/
def peSpread (s : State) : Nat × Nat :=
  match s.store.blocks.filter (fun e => !e.2.retired) with
  | [] => (0, 0)
  | e :: t => t.foldl (fun m e => (min m.1 e.2.pe, max m.2 e.2.pe)) (e.2.pe, e.2.pe)

/-- What an erase that completes or fails leaves; where the P/E spread passes 200 the coldest written superblock is to move (R378). -/
def eraseEnds (die plane block : Nat) (ok : Bool) (s : State) : State :=
  if !ok then retireBlock die plane block s
  else
    let k := blockKey die plane block
    let b := blockOf s k
    let moved := b.moving
    let s1 := setBlock s k { b with pe := b.pe + 1, reads := 0, soft := 0, moving := false }
    let s2 := if moved then { s1 with store := { s1.store with relocated := sat32 s1.store.relocated } } else s1
    let sp := peSpread s2
    if sp.2 - sp.1 > 200 then
      match (s2.store.blocks.filter (fun e => e.2.pe == sp.1 && (superOf s2 (e.1 % 8192)).written)).head? with
      | some e => setSuper s2 (e.1 % 8192) { superOf s2 (e.1 % 8192) with moving := true }
      | none => s2
    else s2

/-- An erase completes or fails, and the engine goes on (R350). -/
def eraseDone (die plane block : Nat) (ok : Bool) (s : State) : State := opsBegin (eraseEnds die plane block ok (opEnds die plane s))

/-- 10^9 units a day. -/
def doseUnit : Nat := 1000000000

/-- Every second each dose rises; at 850 days the relocation of the superblock starts (R381). -/
def doseTick (temp : Int) (s : State) : State :=
  let step := Config.doseStep temp
  let starts := (s.store.supers.filter (fun e => e.2.written && !e.2.moving && decide (e.2.dose + step ≥ 850 * doseUnit))).length
  let s1 := { s with store := { s.store with supers := s.store.supers.map (fun e =>
    if e.2.written then (e.1, { e.2 with dose := e.2.dose + step, moving := e.2.moving || decide (e.2.dose + step ≥ 850 * doseUnit) }) else e) } }
  opsBegin ((List.range starts).foldl (fun s _ => fire 131 s) s1)

/-- A write of 1 to OD C020.02 (R382). -/
def prepare (s : State) : State :=
  opsBegin (prepSettle { s with store := { s.store with prep := 1, supers := s.store.supers.map (fun e =>
    if e.2.written && decide (e.2.dose > 250 * doseUnit) then (e.1, { e.2 with moving := true }) else e) } })

/-! ### The commands -/

/-- STREAM_OPEN (R367). -/
def execStreamOpen (ring : Fin 4096) (obj : Fin 1048576) (ctx : Fin 16384) (s : State) : Out :=
  .next (streamOpen ring.val obj.val ctx.val s)

/-- RING_FILL_READ (R370). -/
def execRingFillRead (ring : Fin 4096) (s : State) : Out := .next (ringFill ring.val s)

/-- PAGE_READ_DONE (R353). -/
def execPageReadDone (ring : Option (Fin 4096)) (frames : Nat) (outcome : Fin 4) (page : BitVec 27) (s : State) : Out :=
  .next (pageReadDone (ring.map (·.val)) frames outcome.val page.toNat s)

/-- CONSUMPTION_REPORT (R371). -/
def execConsumptionReport (ring : Fin 4096) (s : State) : Out := .next (consumption ring.val s)

/-- NAND_PROGRAM_DONE (R379). -/
def execNandProgramDone (die : Fin 8) (plane : Fin 4) (block : Fin 1366) (ok last : Bool) (s : State) : Out :=
  .next (programDone die.val plane.val block.val ok last s)

/-- NAND_ERASE_DONE (R379). -/
def execNandEraseDone (die : Fin 8) (plane : Fin 4) (block : Fin 1366) (ok : Bool) (s : State) : Out :=
  .next (eraseDone die.val plane.val block.val ok s)

/-- DOSE_TICK (R381): the hottest NAND die in tenths of a degree C. -/
def execDoseTick (temp : Int) (s : State) : Out := .next (doseTick temp s)

/-- IMPORT_PROGRAM_DONE (R385). -/
def execImportProgramDone (i : Fin 3) (s : State) : Out := .next (importProgrammed i.val s)

/-- STREAMING_DRAIN_TIMEOUT (R387). -/
def execStreamingDrainTimeout (s : State) : Out := .next (drainTimeout s)

end Sys2Proof.Machine
end

