-- ==== Sys2Proof/Machine/EvcOps.lean ====
section
/-! DEFINITION. The event concentrator as the Drovers reach it (chapter 12): delivery, claim and completion, hold-off,
timers, the register block, and sleep. -/

namespace Sys2Proof.Machine

/-- The hold-off timer of a source's group runs. -/
def held (e : Evc) (n : Nat) : Bool := Tbl.get 0 e.holdEnd (n / 16) != 0

/-- A source is deliverable to Drover d (R458, Table 12.9): never source 320 + d to d. -/
def deliverable (e : Evc) (d n : Nat) : Bool :=
  let x := evcSrc e n
  evcExists n && n != 320 + d && x.pend && x.en && x.tgt.getLsbD d && !x.act && !held e n

/-- The source that a Drover holds, or 0x3FF. -/
def heldBy (e : Evc) (d : Nat) : Nat :=
  match e.src.find? (fun x => x.2.act && x.2.owner == d) with
  | some x => x.1
  | none => 0x3FF

/-- Sources deliverable to a Drover, lowest first. -/
def deliverables (e : Evc) (d : Nat) : List Nat := (e.src.map (·.1)).filter (deliverable e d)

/-- The external interrupt of a Drover (R459). -/
def xirq (e : Evc) (d : Nat) : Bool := heldBy e d == 0x3FF && deliverables e d != []

/-- Start the hold-off timer of a group (R464). -/
def startHoldoff (now g : Nat) (e : Evc) : Evc :=
  let h := (Tbl.get 0 e.holdoff g).toNat
  if h = 0 then e else { e with holdEnd := Tbl.put 0 e.holdEnd g (now + nsTicks (1000 * h) + 1) }

/-- The claim of a source (R458): its claim word and the EVC after it. -/
def claimSource (now d n : Nat) (e : Evc) : Nat × Evc :=
  let x := evcSrc e n
  (x.count * 65536 + n,
   startHoldoff now (n / 16) (evcPut e n { x with act := true, owner := d, pend := false, count := 0 }))

/-- A read of CLAIM (R459, R461). -/
def evcClaimLow (now d : Nat) (e : Evc) : Nat × Evc :=
  if heldBy e d ≠ 0x3FF then (0x3FF, e)
  else match deliverables e d with
    | n :: _ => claimSource now d n e
    | [] => (0x3FF, e)

/-- A read of CLSPECs (R461). -/
def evcClaimOf (now d n : Nat) (e : Evc) : Nat × Evc :=
  if heldBy e d = 0x3FF ∧ deliverable e d n then claimSource now d n e else (0x3FF, e)

/-- A write to COMPLETE (R463). -/
def evcFinish (d n : Nat) (e : Evc) : Evc :=
  let x := evcSrc e n
  if evcExists n && decide (n ≤ 511) && x.act && x.owner == d then evcPut e n ({ x with act := false }).settle
  else { e with stray := Tbl.upd 0 e.stray d (fun k => min 0xFFFF (k + 1)) }

/-- SETPEND and CLRPEND (R465). -/
def evcSetPend (n : Nat) (e : Evc) : Evc := if evcExists n && decide (n ≤ 511) then evcPut e n (evcSrc e n).fire else e

def evcClrPend (n : Nat) (e : Evc) : Evc :=
  if evcExists n && decide (n ≤ 511) then evcPut e n ({ evcSrc e n with pend := false, count := 0 }).settle else e

/-- A write of a group's HOLDOFF: 0 also stops a running timer. -/
def evcHoldoff (g : Nat) (v : BitVec 16) (e : Evc) : Evc :=
  let e1 := { e with holdoff := Tbl.put 0 e.holdoff g v }
  if v = 0 then { e1 with holdEnd := Tbl.put 0 e1.holdEnd g 0 } else e1

/-- A write of a general timer's period (R466). -/
def evcTimer (now n : Nat) (v : BitVec 32) (e : Evc) : Evc :=
  { e with tmrld := Tbl.put 0 e.tmrld n v, tmrEnd := Tbl.put 0 e.tmrEnd n (if v = 0 then 0 else now + nsTicks (1000 * v.toNat) + 1) }

/-- Whole us left of a timer, rounded up. -/
def usLeft (now end_ : Nat) : Nat := if end_ = 0 then 0 else (end_ - 1 - now + nsTicks 1000 - 1) / nsTicks 1000

/-- SRCCFGs (Table 12.4). -/
def srcCfg (e : Evc) (n : Nat) : Nat :=
  if !evcExists n then 0
  else
    let x := evcSrc e n
    x.count * 65536 + b2n (x.inp && decide (n < 384)) 8192 + (if x.act then x.owner * 2048 + 1024 else 0) + b2n x.pend 256 + b2n x.trig 32 + b2n x.en 16 +
      x.tgt.toNat

/-- A write of SRCCFGs: doorbells keep their TGT and TRIG (R460). -/
def srcCfgWrite (n : Nat) (v : BitVec 32) (e : Evc) : Evc :=
  if !evcExists n then e
  else
    let x := evcSrc e n
    let y := if 384 ≤ n ∧ n < 448 then { x with en := v.getLsbD 4 } else { x with trig := v.getLsbD 5, en := v.getLsbD 4, tgt := v.setWidth 4 }
    evcPut e n (if evcLive e n then y.settle else y)

/-- Bit map of 32 sources. -/
def bitMap (f : Nat → Bool) (w : Nat) : Nat := (List.range 32).foldl (fun m i => m + b2n (f (32 * w + i)) (2 ^ i)) 0

/-- A read of the EVC block by Drover d: the word and the EVC after it (Table 12.7). -/
def evcRead (now d off : Nat) (e : Evc) : Nat × Evc :=
  if off < 0x800 then (srcCfg e (off / 4), e)
  else if off < 0x840 then (bitMap (fun n => evcExists n && (evcSrc e n).pend) ((off - 0x800) / 4), e)
  else if off < 0x880 then (bitMap (fun n => evcExists n && (evcSrc e n).act) ((off - 0x840) / 4), e)
  else if off < 0x980 then (bitMap (deliverable e ((off - 0x880) / 64)) ((off - 0x880) % 64 / 4), e)
  else if 0xA00 ≤ off ∧ off < 0xA80 then ((Tbl.get 0 e.holdoff ((off - 0xA00) / 4)).toNat, e)
  else if 0xA80 ≤ off ∧ off < 0xB00 then
    let t := Tbl.get 0 e.holdEnd ((off - 0xA80) / 4)
    (b2n (t != 0) 65536 + usLeft now t, e)
  else if 0xC00 ≤ off ∧ off < 0xC20 then
    let n := (off - 0xC00) / 8
    (if off % 8 = 0 then (Tbl.get 0 e.tmrld n).toNat else usLeft now (Tbl.get 0 e.tmrEnd n), e)
  else if off = 0xC40 then (e.lapdiv.toNat, e)
  else if off = 0x1000 then evcClaimLow now d e
  else if off = 0x1008 then (heldBy e d, e)
  else if off = 0x100C then (Tbl.get 0 e.stray d, { e with stray := Tbl.put 0 e.stray d 0 })
  else if off = 0x1010 then (b2n (xirq e d) 1, e)
  else if 0x1100 ≤ off ∧ off < 0x1200 then
    let k := (off - 0x1100) / 64
    (match (off - 0x1100) % 64 with | 0 => heldBy e k | 4 => Tbl.get 0 e.stray k | 8 => b2n (xirq e k) 1 | _ => 0, e)
  else if 0x2000 ≤ off ∧ off < 0x3000 then evcClaimOf now d ((off - 0x2000) / 4) e
  else (0, e)

/-- A write of the EVC block by Drover d. -/
def evcWrite (now d off : Nat) (v : BitVec 32) (e : Evc) : Evc :=
  if off < 0x800 then srcCfgWrite (off / 4) v e
  else if 0xA00 ≤ off ∧ off < 0xA80 then evcHoldoff ((off - 0xA00) / 4) (v.setWidth 16) e
  else if 0xC00 ≤ off ∧ off < 0xC20 then (if off % 8 = 0 then evcTimer now ((off - 0xC00) / 8) v e else e)
  else if off = 0xC40 then { e with lapdiv := v.setWidth 16 }
  else if off = 0xC80 then evcSetPend (v.toNat % 1024) e
  else if off = 0xC84 then evcClrPend (v.toNat % 1024) e
  else if off = 0x1004 then evcFinish d (v.toNat % 1024) e
  else e

/-! ### Sleep (R468 to R471) -/

/-- The handover at entry to sleep. -/
def evcSleep (e : Evc) : Evc :=
  { e with asleep := true, tmrEnd := [],
           src := e.src.map (fun x => if x.2.act then (x.1, { x.2 with act := false, owner := 0, pend := true, count := max x.2.count 1 }) else x) }

/-- A group has work for some Drover while the island sleeps. -/
def evcWork (e : Evc) : Bool := e.src.any (fun x => x.2.pend && x.2.en && x.2.tgt != 0 && !held e x.1)

/-- The wake: timers resume, general timers restart, level sources are looked at again. -/
def evcWake (now : Nat) (e : Evc) : Evc :=
  { e with asleep := false,
           holdEnd := e.holdEnd.map (fun t => (t.1, now + nsTicks (1000 * usLeft now t.2) + 1)),
           tmrEnd := e.tmrld.map (fun t => (t.1, now + nsTicks (1000 * t.2.toNat) + 1)),
           src := e.src.map (fun x => (x.1, x.2.settle)) }

/-! ### The commands -/

def onEvc (s : State) (f : Evc → Evc) : State := { s with evc := f s.evc }

/-- EVC_SOURCE_FIRE (R456): the level of a source's input goes high or low. Doorbells and software sources have none. -/
def execEvcSourceFire (n : Fin 512) (high : Bool) (s : State) : Out := .next (if n.val < 384 then level n.val high s else s)

/-- CLAIM (R461). -/
def execEvcClaim (d : Fin 4) (s : State) : Out :=
  let r := evcClaimLow s.now d.val s.evc
  .next (boundClaim r.1 { s with evc := r.2, result := r.1 })

/-- CLSPEC (R461). -/
def execClspec (d : Fin 4) (n : BitVec 10) (s : State) : Out :=
  let r := evcClaimOf s.now d.val n.toNat s.evc
  .next (boundClaim r.1 { s with evc := r.2, result := r.1 })

/-- COMPLETE (R463). -/
def execEvcComplete (d : Fin 4) (v : BitVec 32) (s : State) : Out := .next (onEvc s (evcFinish d.val (v.toNat % 1024)))

/-- SETPEND (R465). -/
def execSetpend (v : BitVec 32) (s : State) : Out := .next (onEvc s (evcSetPend (v.toNat % 1024)))

/-- CLRPEND (R465). -/
def execClrpend (v : BitVec 32) (s : State) : Out := .next (onEvc s (evcClrPend (v.toNat % 1024)))

/-- HOLDOFF_EXPIRY (R464). -/
def execHoldoffExpiry (g : Fin 32) (s : State) : Out :=
  let t := Tbl.get 0 s.evc.holdEnd g.val
  .next (if t = 0 then s else onEvc (advance (t - 1) s) (fun e => { e with holdEnd := Tbl.put 0 e.holdEnd g.val 0 }))

/-- HOLDOFF_WRITE (R464). -/
def execHoldoffWrite (g : Fin 32) (v : BitVec 16) (s : State) : Out := .next (onEvc s (evcHoldoff g.val v))

/-- GENERAL_TIMER_EXPIRY (R466). -/
def execGeneralTimerExpiry (n : Fin 4) (s : State) : Out :=
  let t := Tbl.get 0 s.evc.tmrEnd n.val
  let p := (Tbl.get 0 s.evc.tmrld n.val).toNat
  .next (if t = 0 then s
    else fire (288 + n.val) (onEvc (advance (t - 1) s) (fun e => { e with tmrEnd := Tbl.put 0 e.tmrEnd n.val (t + nsTicks (1000 * p)) })))

/-- TMRLD_WRITE (R466). -/
def execTmrldWrite (n : Fin 4) (v : BitVec 32) (s : State) : Out := .next (onEvc s (evcTimer s.now n.val v))

/-- STRAY_READ (R467). -/
def execStrayRead (d : Fin 4) (s : State) : Out :=
  let r := evcRead s.now d.val 0x100C s.evc
  .next { s with evc := r.2, result := r.1 }

end Sys2Proof.Machine
end

