-- ==== Sys2Proof/Machine/DrvCtl.lean ====
section
/-! DEFINITION. A Drover's control block, its CHECKSTOP, watchdog and reset (R443 to R446), and the devices that the
Drovers reach through registers (Tables 11.5, 11.6, 11.19, 13.11). -/

namespace Sys2Proof.Machine

def drvOf (s : State) (d : Nat) : Drover := Tbl.get {} s.drv d

def setDrv (s : State) (d : Nat) (x : Drover) : State := { s with drv := Tbl.put {} s.drv d x }

def updDrv (s : State) (d : Nat) (f : Drover → Drover) : State := setDrv s d (f (drvOf s d))

/-- PSW (Table 11.2). -/
def Drover.psw (x : Drover) : BitVec 32 :=
  BitVec.ofNat 32 (b2n x.df 16 + b2n x.precise 8 + b2n x.xie 4 + x.priv)

/-- The registers of a core at their reset values, both caches and the store buffer dropped (R446). What the always-on
island holds of the core stays. -/
def Drover.cleared (x : Drover) : Drover :=
  { run := x.run, hold := x.hold, snapPc := x.snapPc, snapPsw := x.snapPsw, snapEsr := x.snapEsr, snapEfa := x.snapEfa,
    wdper := x.wdper, wfis := x.wfis, resets := x.resets }

/-- 33 ticks of 32.768 kHz (R443). -/
def checkstopTicks : Nat := 227390625000

/-- The core enters CHECKSTOP (R443): desc and efa are those of the exception that caused it. -/
def checkstop (d desc : Nat) (efa : BitVec 32) (s : State) : State :=
  let x := drvOf s d
  logRecord (320 + d) 1 0x15 0xFF d (leBytes 1 desc ++ leBytes 4 x.pc.toNat ++ [0, 0, 0])
    (setDrv s d { x with run := .checkstop, wfi := false, wdDue := false, resv := none, read := none, queue := [], snapPc := x.pc,
                         snapPsw := x.psw, snapEsr := desc, snapEfa := efa, ckEnd := s.now + checkstopTicks + 1 })

/-- Claims that a core holds are completed (R463) as it is reset. -/
def evcRelease (d : Nat) (e : Evc) : Evc :=
  let src := e.src.map (fun x => if x.2.act && x.2.owner == d then (x.1, ({ x.2 with act := false }).settle) else x)
  { e with src := src.filter (fun x => x.2 != {}) }

/-- Drover 0 is reset alone: the next-lowest running Drover takes the supervisor-kernel role (R591). -/
def supervisorMoves (d : Nat) (s : State) : State :=
  if d ≠ 0 then s
  else
    match [1, 2, 3].find? (fun e => (drvOf s e).run == .running && !(drvOf s e).hold) with
    | some e => { s with modes := { s.modes with roles := (List.range 4).map (fun i =>
        let m := s.modes.roles[i]?.getD 0
        if i = 0 then m &&& 0x3E else if i = e then m ||| 1 else m) } }
    | none => s

/-- The reset of one core begins (R446): why is 0 for its watchdog, 1 for the CHECKSTOP timer, 2 for another Drover. -/
def drvReset (d why : Nat) (s : State) : State :=
  let x := drvOf s d
  let s1 := setDrv (supervisorMoves d { s with evc := evcRelease d s.evc }) d
    { x.cleared with run := .reset, resets := if why < 2 then min 255 (x.resets + 1) else x.resets }
  logRecord (324 + d) 1 0x16 0xFF d (leBytes 1 why ++ List.replicate 7 0) s1

/-- A write of DRVCTL of Drover d by another Drover in M (Table 11.20). -/
def drvCtlWrite (d : Nat) (hold rst : Bool) (s : State) : State :=
  let x := drvOf s d
  let x1 := { x with hold := hold, wfi := false }
  if rst then (if x.run = .reset then setDrv s d x1 else drvReset d 2 (setDrv s d x1))
  else if x.run = .checkstop then
    setDrv s d { x1 with ckEnd := if hold then 0 else if x.hold then s.now + checkstopTicks + 1 else x.ckEnd }
  else setDrv s d x1

/-- A kick of the watchdog (R445). -/
def drvKick (d : Nat) (v : Nat) (s : State) : State :=
  if v = 0xA5 then updDrv s d (fun x => { x with first := false }) else s

/-- DRVSTAT of Drover d (Table 11.21). STATE 5, not yet released by Drover 0, is never that of Drover 0, whose register
resets to 0. -/
def Drover.stat (d : Nat) (x : Drover) : Nat :=
  (match x.run with
   | .reset => 4
   | .unreleased => if d = 0 then 0 else 5
   | .checkstop => if x.hold then 3 else 2
   | .running => if x.hold && x.read.isNone then 3 else if x.wfi then 1 else 0) + b2n x.df 8

/-- A read of the control block of Drover d. -/
def drvBlockRead (d : Nat) (x : Drover) (off : Nat) : Nat :=
  match off with
  | 0x00 => b2n (x.run == .reset) 2 + b2n x.hold 1
  | 0x04 => x.stat d
  | 0x08 => x.snapPc.toNat
  | 0x0C => x.snapPsw.toNat
  | 0x10 => x.snapEsr
  | 0x14 => x.snapEfa.toNat
  | 0x18 => x.wdper
  | 0x20 => x.resets * 256 + b2n x.wfis 2 + b2n x.first 1
  | _ => 0

/-- A write of a Drover control block by Drover e at privilege p. -/
def drvBlockWrite (e p d off v : Nat) (s : State) : State :=
  match off with
  | 0x00 => if e ≠ d ∧ p = 2 then drvCtlWrite d (v % 2 == 1) (v / 2 % 2 == 1) s else s
  | 0x18 =>
    let ms := v % 65536
    if ms = 0 ∧ s.modes.mode ≠ .workshop then s else updDrv s d (fun x => { x with wdper := ms })
  | 0x1C => drvKick d v s
  | 0x20 => updDrv s d (fun x => { x with wfis := v / 2 % 2 == 1 })
  | _ => s

/-! ### The cluster control blocks (R405, R406) -/

/-- The life-cycle states that permit debug access (Table 16.9). -/
def debugLife (s : State) : Bool := s.modes.life == 0 || s.modes.life == 3 || s.modes.life == 4

def clusterRead (k off : Nat) (s : State) : Nat × State :=
  let c := coreOf s k
  if off ≤ 0xBC then lcsRead k off s
  else
    (if off = 0x200 then c.bpm0.toNat
     else if off = 0x204 then c.bpm1.toNat
     else if off = 0x208 then c.bpm2.toNat
     else if off = 0x20C then c.bpm3.toNat
     else if off = 0x210 then c.aemask.toNat
     else if off = 0x214 then c.fmode.toNat
     else if off = 0x218 then b2n c.debug 1
     else if off = 0x21C then c.arith.toNat
     else if off = 0x220 then c.frec.toNat
     else if 0x300 ≤ off ∧ off ≤ 0x3FC then (Tbl.get 0 c.win ((off - 0x300) / 4)).toNat
     else 0, s)

def clusterWrite (k off : Nat) (v : BitVec 32) (s : State) : State :=
  let w : BitVec 24 := v.setWidth 24
  let free := bootOrWorkshop s || drained s (k / 8)
  let upd (f : SigCore → SigCore) : State := if free then updCore s k f else s
  if off ≤ 0xBC then lcsWrite k off v.toNat s
  else if off = 0x200 then upd (fun c => { c with bpm0 := w &&& 0x7FFFFF })
  else if off = 0x204 then upd (fun c => { c with bpm1 := w })
  else if off = 0x208 then upd (fun c => { c with bpm2 := w })
  else if off = 0x20C then upd (fun c => { c with bpm3 := w &&& 0x00FFFF })
  else if off = 0x210 then updCore s k (fun c => { c with aemask := w &&& 0x000700 })
  else if off = 0x214 then upd (fun c => { c with fmode := w &&& 0x00000F })
  else if off = 0x218 then (if s.modes.mode = .workshop ∧ drained s (k / 8) ∧ debugLife s then updCore s k (fun c => { c.release with debug := w.getLsbD 0 }) else s)
  else if 0x300 ≤ off ∧ off ≤ 0x3FC then upd (fun c => { c with win := Tbl.put 0 c.win ((off - 0x300) / 4) (w &&& 0xC0FFFF) })
  else s

/-! ### The device bus -/

/-- The semaphore set (Table 13.11). -/
def semBlockRead (s : State) (off : Nat) : Nat :=
  if off < 0x80 then Tbl.get 0 s.dict.sems (off / 4) else if off = 0x84 then s.dict.semres else 0

/-- A write of SEMREQ acts for Drover applications (R495). -/
def semReq (v : Nat) (s : State) : State :=
  let r := if v / 256 % 2 = 1 then semTake .apps (v % 32) s else semGive .apps (v % 32) s
  { r.2 with dict := { r.2.dict with semres := r.1.code } }

/-- A word read by Drover d at a device address. An offset that no table gives reads 0. -/
def devRead (d a : Nat) (s : State) : Nat × State :=
  if 0x20000000 ≤ a ∧ a < 0x20010000 then
    let o := a - 0x20000000
    let r := evcRead s.now d o s.evc
    let t := { s with evc := r.2 }
    (r.1, if o = 0x1000 ∨ 0x2000 ≤ o ∧ o < 0x3000 then boundClaim r.1 t else t)
  else if 0x20010000 ≤ a ∧ a < 0x20020000 then (semBlockRead s (a - 0x20010000), s)
  else if 0x20040000 ≤ a ∧ a < 0x20040100 then (drvBlockRead ((a - 0x20040000) / 64) (drvOf s ((a - 0x20040000) / 64)) (a % 64), s)
  else if 0x21000000 ≤ a ∧ a < 0x21080000 then
    let c := (a - 0x21000000) / 65536
    let o := a % 65536
    if o < 0x8000 then clusterRead (8 * c + o / 4096) (o % 4096) s else (0, s)
  else (0, s)

/-- A word written by Drover d at privilege p at a device address. -/
def devWrite (d p a : Nat) (v : BitVec 32) (s : State) : State :=
  if 0x20000000 ≤ a ∧ a < 0x20010000 then { s with evc := evcWrite s.now d (a - 0x20000000) v s.evc }
  else if a = 0x20010080 then semReq v.toNat s
  else if 0x20040000 ≤ a ∧ a < 0x20040100 then drvBlockWrite d p ((a - 0x20040000) / 64) (a % 64) v.toNat s
  else if 0x21000000 ≤ a ∧ a < 0x21080000 then
    let c := (a - 0x21000000) / 65536
    let o := a % 65536
    if o < 0x8000 then clusterWrite (8 * c + o / 4096) (o % 4096) v s else s
  else s

/-! ### The commands -/

/-- A core counts its watchdog period (R445). -/
def Drover.counts (x : Drover) : Bool :=
  x.run == .running && !x.hold && !(x.wfi && x.wfis) && x.wdper != 0

/-- WDKICK (R445): a write of v to WDKICK of Drover d. -/
def execWdkick (d : Fin 4) (v : BitVec 32) (s : State) : Out := .next (drvKick d.val v.toNat s)

/-- DRVCTL_HOLD (R443): Drover e in M writes HOLD of Drover d; a core's own write is ignored. -/
def execDrvctlHold (e d : Fin 4) (on : Bool) (s : State) : Out :=
  .next (if e ≠ d ∧ (drvOf s e.val).priv = 2 then drvCtlWrite d.val on false s else s)

/-- DRVCTL_RESET (R446): Drover e in M writes RESET of Drover d, and HOLD with it. -/
def execDrvctlReset (e d : Fin 4) (hold : Bool) (s : State) : Out :=
  .next (if e ≠ d ∧ (drvOf s e.val).priv = 2 then drvCtlWrite d.val hold true s else s)

/-- CHECKSTOP_TIMER_EXPIRY (R443). -/
def execCheckstopTimerExpiry (d : Fin 4) (s : State) : Out :=
  let x := drvOf s d.val
  .next (if x.run = .checkstop ∧ x.ckEnd ≠ 0 ∧ !x.hold then drvReset d.val 1 (advance (x.ckEnd - 1) s) else s)

/-- SEMREQ_TAKE (R495). -/
def execSemreqTake (i : Fin 32) (s : State) : Out := .next (semReq (256 + i.val) s)

/-- SEMREQ_GIVE (R495). -/
def execSemreqGive (i : Fin 32) (s : State) : Out := .next (semReq i.val s)

/-- REGISTER_WRITE (R10, R405, R406): Drover d, at its present privilege, writes a register at a device address. -/
def execRegisterWrite (d : Fin 4) (a v : BitVec 32) (s : State) : Out :=
  .next (devWrite d.val (drvOf s d.val).priv (a.toNat / 4 * 4) v s)

end Sys2Proof.Machine
end

