-- ==== Sys2Proof/Machine/Net.lean ====
section
/-! DEFINITION. The network island (chapter 14): gPTP, link, reservation, AAF and CRF streams, redundancy, note messages,
IEEE 1722.1, MAAP and IP. -/

namespace Sys2Proof.Machine

def netPort (s : State) (p : Nat) : NetPort := if p = 0 then s.net.p0 else s.net.p1

def setNetPort (s : State) (p : Nat) (x : NetPort) : State :=
  { s with net := if p = 0 then { s.net with p0 := x } else { s.net with p1 := x } }

def updNetPort (s : State) (p : Nat) (f : NetPort → NetPort) : State := setNetPort s p (f (netPort s p))

def emitFrame (p : Nat) (k : FrameKind) (fs : List Nat) (s : State) : State := { s with sent := s.sent ++ [.frame p k fs] }

/-- A frame is received on a port whose link is up (OD 2200.04, OD 2201.04). -/
def rxFrame (p : Nat) (s : State) : State :=
  if (netPort s p).up then updNetPort s p (fun x => { x with frames := sat32 x.frames }) else s

/-- Time in ns as a command carries it. -/
def atNs (t : Nat) (s : State) : State := advance (nsTicks t) s

/-! ### Talker and listener streams -/

def talkIx (i : Nat) : Nat := 0x2300 + i

def listenIx (i : Nat) : Nat := 0x2400 + i

/-- The enabled streams of a range of indices, lowest first. -/
def streamsOn (s : State) (base : Nat) : List Nat :=
  s.dict.od.filterMap (fun e =>
    if base ≤ e.1 / 256 ∧ e.1 / 256 < base + 256 ∧ e.1 % 256 = 1 ∧ leNat e.2 = 1 then some (e.1 / 256 - base) else none)

/-- The destination of a talker on a port: that of its object, or base + s of the MAAP block (R526); 256 is the CRF. -/
def talkDest (s : State) (p i : Nat) : Option Nat :=
  let v := if i = 256 then 0 else od s (talkIx i) 3
  if v ≠ 0 then some v else (netPort s p).maap.map (· + i)

/-- The port bits of a talker. -/
def talkPorts (s : State) (i : Nat) : Nat := if i = 256 then od s 0x2120 4 else od s (talkIx i) 9

def talkId (s : State) (i : Nat) : Nat := if i = 256 then Config.macAddress 0 * 65536 + 0xFFFF else od s (talkIx i) 2

/-- Bytes of a talker's frame on the wire, preamble and gap included (R517, the example of chapter 14; an R-TAG is 6 more). -/
def talkBytes (s : State) (i : Nat) : Nat :=
  aafFrames (od s (talkIx i) 5) s.grid.rate * od s (talkIx i) 6 * 3 + 66 + (if talkPorts s i = 3 then 6 else 0)

/-- Idle slope of a talker in bit/s. -/
def talkSlope (s : State) (i : Nat) : Nat := talkBytes s i * 8 * (if od s (talkIx i) 5 = 0 then 8000 else 4000)

def linkRate (speed : Nat) : Nat := match speed with | 1 => 100000000 | 2 => 1000000000 | 3 => 2500000000 | _ => 0

/-- Idle slope of the CRF stream, in class A (R517, R527): its PDU of 68 bytes takes 110 on the wire, and 116 with an R-TAG (log 115). -/
def crfSlope (s : State) (p : Nat) : Nat :=
  if odBool s 0x2120 1 && (od s 0x2120 4).testBit p then (if od s 0x2120 4 = 3 then 116 else 110) * 8 * 8000 else 0

/-- The talkers that the 75 % limit lets a port send beside the CRF stream, lowest first (R517). -/
def shaped (s : State) (p : Nat) : List Nat :=
  ((streamsOn s 0x2300).foldl (fun (a : List Nat × Nat) i =>
    if !(talkPorts s i).testBit p then a
    else if 4 * (a.2 + talkSlope s i) ≤ 3 * linkRate (netPort s p).speed then (a.1 ++ [i], a.2 + talkSlope s i) else a) ([], crfSlope s p)).1

/-- A talker is enabled; 256 is the CRF. -/
def talkOn (s : State) (i : Nat) : Bool := if i = 256 then odBool s 0x2120 1 else odBool s (talkIx i) 1

/-- A talker is sent on a port (R517, R518). -/
def talkRuns (s : State) (p i : Nat) : Bool :=
  let x := netPort s p
  talkOn s i && x.up && (talkPorts s i).testBit p && x.regL.contains i && (talkDest s p i).isSome && (i == 256 || (shaped s p).contains i)

/-- What a talker declares on a port: stream ID, destination, VLAN and class; none without a destination. -/
def talkDecl (s : State) (p i : Nat) : Option (List Nat) :=
  (talkDest s p i).map (fun dest =>
    [talkId s i, dest, if i = 256 then 2 else od s (talkIx i) 4, if i = 256 then 0 else od s (talkIx i) 5])

/-- The declarations of a talker on a port (R518): 1 made, 0 withdrawn. -/
def declareTalker (p i : Nat) (on : Bool) (s : State) : State :=
  match talkDecl s p i with
  | none => s
  | some d => emitFrame p .msrpTalker (b2n on 1 :: d) (emitFrame p .mvrp [d[2]?.getD 2] s)

/-- What a listener declares: stream ID and VLAN. -/
def listenDecl (s : State) (i : Nat) : List Nat := [od s (listenIx i) 2, od s (listenIx i) 4]

/-- The declaration of a listener on a port. -/
def declareListener (p i : Nat) (on : Bool) (s : State) : State :=
  emitFrame p .msrpListener [b2n on 1, od s (listenIx i) 2] (emitFrame p .mvrp [od s (listenIx i) 4] s)

/-- Every talker that a port carries, the CRF last. -/
def portTalkers (s : State) (p : Nat) : List Nat :=
  ((streamsOn s 0x2300) ++ (if odBool s 0x2120 1 then [256] else [])).filter (fun i => (talkPorts s i).testBit p)

def portListeners (s : State) (p : Nat) : List Nat :=
  (streamsOn s 0x2400).filter (fun i => (od s (listenIx i) 9).testBit p)

/-- A MAAP claim is needed on a port (R526). -/
def maapNeeded (s : State) (p : Nat) : Bool :=
  (portTalkers s p).any (fun i => i == 256 || od s (talkIx i) 3 == 0)

def startClaim (p : Nat) (s : State) : State :=
  let x := netPort s p
  if x.up && maapNeeded s p && x.maap.isNone && !x.claiming then
    emitFrame p .maapProbe [257] (setNetPort s p { x with claiming := true })
  else s

/-- All declarations of a port (R518). -/
def declareAll (p : Nat) (s : State) : State :=
  let s1 := (portTalkers s p).foldl (fun s i => declareTalker p i true s) s
  (portListeners s p).foldl (fun s i => if (netPort s p).regT.contains i then declareListener p i true s else s) s1

/-- The streams changed at a commit lap or by a write: claims and declarations follow (R518, R525). -/
def streamsChanged (s : State) : State :=
  [0, 1].foldl (fun s p => if (netPort s p).up then declareAll p (startClaim p s) else s) s

/-- Streams that were enabled and are no longer, or that now declare something else, withdraw their declarations. -/
def withdrawOld (old s : State) : State :=
  [0, 1].foldl (fun s p =>
    if !(netPort s p).up then s
    else
      let gone (i : Nat) : Bool := !(portTalkers s p).contains i || talkDecl s p i != talkDecl old p i
      let left (i : Nat) : Bool := (netPort s p).regT.contains i && (!(portListeners s p).contains i || listenDecl s i != listenDecl old i)
      let s1 := ((portTalkers old p).filter gone).foldl (fun s i =>
        match talkDecl old p i with | some d => emitFrame p .msrpTalker (0 :: d) s | none => s) s
      ((portListeners old p).filter left).foldl (fun s i => emitFrame p .msrpListener [0, od old (listenIx i) 2] s) s1) s

/-- OD (2300 + s).0A and OD (2400 + s).0A (Table 14.7). -/
def talkState (s : State) (i : Nat) : Nat :=
  if !talkOn s i then 0
  else
    let runs := b2n (talkRuns s 0 i) 1 + b2n (talkRuns s 1 i) 1
    let limited := [0, 1].any (fun p => (talkPorts s i).testBit p && (netPort s p).up && !(shaped s p).contains i)
    if runs = 2 then 3 else if limited then 4 else if runs = 1 then 2 else 1

def listenState (s : State) (i : Nat) : Nat :=
  if !odBool s (listenIx i) 1 then 0
  else if (Tbl.get {} s.net.listen i).bad then 5
  else
    let n := ([0, 1].filter (fun p => (od s (listenIx i) 9).testBit p && (netPort s p).up && (netPort s p).regT.contains i)).length
    1 + n

/-! ### gPTP (R512 to R514) -/

/-- clockIdentity (R512). -/
def clockIdentity : Nat :=
  let m := Config.macAddress 0
  m / 2 ^ 24 * 2 ^ 40 + 0xFFFE * 2 ^ 24 + m % 2 ^ 24

def sendSync (p : Nat) (s : State) : State :=
  let x := netPort s p
  if !(x.up && x.asCap) then s
  else
    let phase := if x.phaseLeft > 0 then (s.net.phase % (2 ^ 96 : Int)).toNat else 0
    let s1 := emitFrame p .followUp [x.syncSeq, nsOf s.now, s.net.timeBase, phase, 0] (emitFrame p .sync [x.syncSeq, 0] s)
    setNetPort s1 p { x with syncSeq := (x.syncSeq + 1) % 65536, phaseLeft := x.phaseLeft - 1 }

def sendAnnounce (p : Nat) (s : State) : State :=
  let x := netPort s p
  if !x.up then s
  else
    setNetPort (emitFrame p .announce
      [x.annSeq, od s 0x2100 4, 248, 0xFE, 0x436A, od s 0x2100 5, clockIdentity, 0, 0xA0, od s 0x2100 6, od s 0x2100 7] s) p
      { x with annSeq := (x.annSeq + 1) % 65536 }

/-- A Pdelay_Req leaves; one that no answer came to ends asCapable. -/
def sendPdelay (p : Nat) (s : State) : State :=
  let x := netPort s p
  if !x.up then s
  else
    setNetPort (emitFrame p .pdelayReq [x.pdSeq, 0] s) p
      { x with pdSeq := (x.pdSeq + 1) % 65536, asCap := x.asCap && !x.pdWait, pdWait := true }

/-- GPTP_SYNC_TIMER (R512): t is the gPTP time in ns. -/
def execGptpSyncTimer (t : Nat) (s : State) : Out := .next (sendSync 1 (sendSync 0 (atNs t s)))

/-- GPTP_ANNOUNCE_TIMER (R512). -/
def execGptpAnnounceTimer (t : Nat) (s : State) : Out := .next (sendAnnounce 1 (sendAnnounce 0 (atNs t s)))

/-- PDELAY_REQ_TIMER (R513). -/
def execPdelayReqTimer (t : Nat) (s : State) : Out := .next (sendPdelay 1 (sendPdelay 0 (atNs t s)))

/-- PDELAY_REQ_RECEIVE (R513): answered in two steps, with its receipt and the answer's departure. -/
def execPdelayReqReceive (p : Fin 2) (seq : BitVec 16) (t : Nat) (s : State) : Out :=
  let s1 := rxFrame p.val (atNs t s)
  .next (if (netPort s1 p.val).up then
      emitFrame p.val .pdelayRespFollowUp [seq.toNat, nsOf s1.now] (emitFrame p.val .pdelayResp [seq.toNat, t] s1)
    else s1)

/-- PDELAY_RESP_RECEIVE (R513): delay is the mean link delay that the exchange gives, in ns. -/
def execPdelayRespReceive (p : Fin 2) (delay : Nat) (s : State) : Out :=
  let s1 := rxFrame p.val s
  let x := netPort s1 p.val
  .next (if x.up && x.pdWait then setNetPort s1 p.val { x with pdWait := false, delay := delay, asCap := decide (delay ≤ 800) } else s1)

/-- FOREIGN_ANNOUNCE (R513): ignored and counted; the first since link up raises source 162. -/
def execForeignAnnounce (p : Fin 2) (s : State) : Out :=
  let x := netPort s p.val
  .next (if !x.up then s
    else
      let s0 := setNetPort s p.val { x with foreign := true, frames := sat32 x.frames }
      let s1 := { s0 with net := { s0.net with announces := sat32 s0.net.announces } }
      if x.foreign then s1 else fire 162 s1)

/-- FOREIGN_SYNC (R513). -/
def execForeignSync (p : Fin 2) (s : State) : Out :=
  let s1 := rxFrame p.val s
  .next (if (netPort s p.val).up then { s1 with net := { s1.net with syncs := sat32 s1.net.syncs } } else s)

/-! ### IP (R533, R534) -/

def setAddr (p addr mask gw origin : Nat) (s : State) : State :=
  let x := netPort s p
  let s1 := setNetPort s p { x with addr := addr, mask := mask, gw := gw, origin := origin }
  if x.addr ≠ addr ∨ x.origin ≠ origin then fire 167 s1 else s1

/-- An IPv4 link-local address, 169.254.1.0 to 169.254.254.255: which one is free (log 42). -/
def linkLocal (p : Nat) (s : State) : State :=
  let r := takeFree s
  setAddr p (0xA9FE0100 + r.1 % 65024) 0xFFFF0000 0 2 r.2

def ipIx (p : Nat) : Nat := 0x2500 + p

/-- The IP interface of a port takes up the mode of its object (R533). -/
def ipStart (p : Nat) (s : State) : State :=
  let x := netPort s p
  match od s (ipIx p) 1 with
  | 0 =>
    let s1 := if x.origin = 1 then s else setAddr p 0 0 0 0 s
    if x.up then emitFrame p .dhcp [1] s1 else s1
  | 1 => if x.up then (if x.origin = 2 then s else linkLocal p s) else setAddr p 0 0 0 0 s
  | _ => setAddr p (od s (ipIx p) 2) (od s (ipIx p) 3) (od s (ipIx p) 4) 3 s

/-- DHCP_LEASE (R533): the frame that grants it is received. -/
def execDhcpLease (p : Fin 2) (addr mask gw : BitVec 32) (s : State) : Out :=
  .next (if (netPort s p.val).up ∧ od s (ipIx p.val) 1 = 0 then setAddr p.val addr.toNat mask.toNat gw.toNat 1 (rxFrame p.val s) else s)

/-- DHCP_FALLBACK_TIMER (R533): 10 s after link up. -/
def execDhcpFallbackTimer (p : Fin 2) (s : State) : Out :=
  let x := netPort s p.val
  .next (if x.up ∧ od s (ipIx p.val) 1 = 0 ∧ x.origin = 0 then linkLocal p.val (advance (x.upAt - 1 + nsTicks 10000000000) s) else s)

/-- DHCP_RETRY_TIMER (R533). -/
def execDhcpRetryTimer (p : Fin 2) (s : State) : Out :=
  .next (if (netPort s p.val).up ∧ od s (ipIx p.val) 1 = 0 ∧ (netPort s p.val).origin = 2 then emitFrame p.val .dhcp [1] s else s)

/-- DHCP_LEASE_EXPIRY (R533): the address is lost. -/
def execDhcpLeaseExpiry (p : Fin 2) (s : State) : Out :=
  .next (if (netPort s p.val).origin = 1 then setAddr p.val 0 0 0 0 s else s)

/-- ARP_REQUEST (R534). -/
def execArpRequest (p : Fin 2) (target : BitVec 32) (s : State) : Out :=
  let x := netPort s p.val
  let s1 := rxFrame p.val s
  .next (if x.up ∧ x.origin ≠ 0 ∧ x.addr = target.toNat then emitFrame p.val .arp [Config.macAddress p.val, x.addr] s1 else s1)

/-- ICMP_ECHO_REQUEST (R534): an unfragmented request for the port's address is answered; a fragment is discarded. -/
def execIcmpEchoRequest (p : Fin 2) (target : BitVec 32) (fragment : Bool) (data : List (BitVec 8)) (s : State) : Out :=
  let x := netPort s p.val
  let s1 := rxFrame p.val s
  .next (if x.up && fragment then updNetPort s1 p.val (fun x => { x with discards := sat32 x.discards })
    else if x.up ∧ x.origin ≠ 0 ∧ x.addr = target.toNat then emitFrame p.val .icmpEcho (data.map (·.toNat)) s1 else s1)

/-- PAUSE_FRAME_RECEIVE (R515). -/
def execPauseFrameReceive (p : Fin 2) (s : State) : Out :=
  let x := netPort s p.val
  .next (if x.up then setNetPort s p.val { x with frames := sat32 x.frames, pauses := sat32 x.pauses } else s)

/-! ### Link up and down (R535, R536) -/

/-- The network island runs, and links may come up: not in BOOT before its step 6, and never in BOOT hold (R582, R587). -/
def netRuns (s : State) : Bool :=
  !(s.modes.mode == .standby || s.modes.mode == .noMode) && (s.modes.mode != .boot || (s.modes.up.done.contains .stage2 && !s.modes.up.hold))

def linkUp (p speed : Nat) (s : State) : State :=
  let x := netPort s p
  let s1 := setNetPort s p { x with up := true, speed := speed, asCap := false, foreign := false, pdWait := false, upAt := s.now + 1 }
  let s2 := sendPdelay p (sendAnnounce p (fire 162 (fire (160 + p) s1)))
  ipStart p (declareAll p (startClaim p s2))

def linkDown (p : Nat) (s : State) : State :=
  let x := netPort s p
  if !x.up then s
  else fire 162 (fire (160 + p) (setNetPort s p
    { x with up := false, downAt := s.now + 1, speed := 0, asCap := false, pdWait := false, regT := [], regL := [], maap := none, claiming := false }))

/-- LINK_UP (R535): speed 1 to 3 of Table 14.11. -/
def execLinkUp (p : Fin 2) (speed : Fin 3) (t : Nat) (s : State) : Out :=
  let s1 := atNs t s
  .next (if netRuns s1 ∧ !(netPort s1 p.val).up ∧ (od s1 (0x2200 + p.val) 2).testBit speed.val then linkUp p.val (speed.val + 1) s1 else s1)

/-- LINK_DOWN (R536). -/
def execLinkDown (p : Fin 2) (t : Nat) (s : State) : Out := .next (linkDown p.val (atNs t s))

/-- MSRP_REGISTRATION (R518): a Talker Advertise for listener stream i, or a Listener Ready or Ready Failed for talker
stream i (256: the CRF), is registered or withdrawn. -/
def execMsrpRegistration (p : Fin 2) (talker : Bool) (i : Fin 257) (on : Bool) (s0 : State) : Out :=
  let s := rxFrame p.val s0
  let x := netPort s p.val
  let set (l : List Nat) : List Nat := if on then (if l.contains i.val then l else l ++ [i.val]) else l.filter (· != i.val)
  .next (if !x.up then s
    else if talker then
      let s1 := fire 165 (setNetPort s p.val { x with regT := set x.regT })
      if on && decide (i.val < 256) && (portListeners s p.val).contains i.val then declareListener p.val i.val true s1 else s1
    else fire 165 (setNetPort s p.val { x with regL := set x.regL }))

/-- MAAP_CLAIM_DONE (R526, R535). -/
def execMaapClaimDone (p : Fin 2) (base : BitVec 48) (s : State) : Out :=
  let x := netPort s p.val
  .next (if x.up && x.claiming then
      let s1 := emitFrame p.val .maapAnnounce [base.toNat, 257] (setNetPort s p.val { x with claiming := false, maap := some base.toNat })
      ((portTalkers s1 p.val).filter (fun i => i == 256 || od s1 (talkIx i) 3 == 0)).foldl (fun s i => declareTalker p.val i true s) s1
    else s)

/-- MAAP_CONFLICT (R526): the block is lost, declarations are withdrawn and a new claim begins. -/
def execMaapConflict (p : Fin 2) (s : State) : Out :=
  let x := netPort s p.val
  .next (if x.maap.isNone then s
    else
      let own := (portTalkers s p.val).filter (fun i => i == 256 || od s (talkIx i) 3 == 0)
      let s1 := own.foldl (fun s i => declareTalker p.val i false s) s
      let y := netPort s1 p.val
      fire 165 (startClaim p.val (setNetPort s1 p.val { y with maap := none, regL := y.regL.filter (fun i => !own.contains i) })))

/-- MAAP_PROBE_RECEIVE (R526): a probe or announce of count addresses from addr on; the module defends its block. -/
def execMaapProbeReceive (p : Fin 2) (addr : BitVec 48) (count : BitVec 16) (s0 : State) : Out :=
  let s := rxFrame p.val s0
  .next (match (netPort s p.val).maap with
    | some b => if addr.toNat < b + 257 ∧ b < addr.toNat + count.toNat then emitFrame p.val .maapDefend [b, 257] s else s
    | none => s)

/-! ### Streams (R519 to R523, R527 to R529) -/

/-- The samples of a talker's packet, frame by frame. -/
def aafPayload (s : State) (i first frames : Nat) : List Nat :=
  let base := od s (talkIx i) 7
  (List.range frames).flatMap (fun j =>
    (List.range (od s (talkIx i) 6)).map (fun c => (Tbl.get 0 s.audio.talk (64 * (2560 + base + c) + (first + j) % 64)).toNat))

/-- The instant of sample number n since the epoch. -/
def instantOf (s : State) (n : Nat) : Nat := (s.grid.epoch + (n * sampleTicks s.grid.rate : Nat)).toNat

/-- AAF_TALKER_PACKET (R519, R520, R528): the packet of talker i whose last frame has passed. -/
def execAafTalkerPacket (i : Fin 256) (s : State) : Out :=
  let f := aafFrames (od s (talkIx i.val) 5) s.grid.rate
  let x := Tbl.get {} s.net.talk i.val
  let k := s.audio.count / f
  .next (if !(odBool s (talkIx i.val) 1 && s.grid.running) || k = 0 || x.next ≥ k then s
    else
      let first := (k - 1) * f
      let ps := [0, 1].filter (fun p => talkRuns s p i.val)
      let both := talkPorts s i.val == 3
      let stamp := nsOf (instantOf s first + nsTicks (od s (talkIx i.val) 8)) % 2 ^ 32
      let body (p : Nat) : List Nat :=
        [talkId s i.val, (talkDest s p i.val).getD 0, od s (talkIx i.val) 4, if both then x.seq + 1 else 0, s.grid.rate,
         od s (talkIx i.val) 6, stamp] ++ aafPayload s i.val first f
      let y : StreamSt := { x with next := k, seq := if ps = [] ∨ !both then x.seq else (x.seq + 1) % 65536,
                                   packets := if ps = [] then x.packets else sat32 x.packets }
      let s1 := { s with net := { s.net with talk := Tbl.put {} s.net.talk i.val y } }
      ps.foldl (fun s p => emitFrame p .aaf (body p) s) s1)

/-- The AVTP time of a packet in 64 bits (R522): the value congruent to it within 2^31 ns of its arrival. -/
def extendStamp (arrival stamp : Nat) : Int :=
  let d : Int := ((stamp : Int) - (arrival : Int)) % 4294967296
  (arrival : Int) + (if d < 2147483648 then d else d - 4294967296)

/-- The number since the epoch of the smallest sample instant not earlier than a time in ns. -/
def tagOf (s : State) (t : Int) : Nat :=
  let x : Int := t * (tickNs : Int) - s.grid.epoch
  if x ≤ 0 then 0 else ceilDiv x.toNat (sampleTicks s.grid.rate)

/-- The sample that a slot of an AAF packet carries (R521): 0 INT_24, 1 INT_32, 2 INT_16. -/
def aafSample (fmt : Nat) (v : BitVec 32) : BitVec 24 :=
  if fmt = 0 then v.setWidth 24 else if fmt = 1 then v.extractLsb' 8 24 else (v.setWidth 16 : BitVec 16).setWidth 24 <<< 8

/-- Sequence recovery (R529): whether the packet passes, and the stream's state with its losses and duplicates. -/
def recover (x : StreamSt) (seq : Nat) : Bool × StreamSt × Nat :=
  if x.take then (true, { x with take := false, seq := seq, hist := 0xFFFFFFFF }, 0)
  else
    let d : Nat := (seq + 65536 - x.seq) % 65536
    if d = 0 then (false, { x with dups := sat32 x.dups }, 0)
    else if d < 32 then
      let lost := ((List.range d).filter (fun j => !x.hist.getLsbD (31 - j))).length
      (true, { x with seq := seq, hist := (x.hist <<< d) ||| 1, losses := min 0xFFFFFFFF (x.losses + lost) }, lost)
    else if d > 65536 - 32 then
      let b := 65536 - d
      if x.hist.getLsbD b then (false, { x with dups := sat32 x.dups }, 0)
      else (true, { x with hist := x.hist ||| (1 <<< b) }, 0)
    else (false, x, 0)

/-- Hold the frames of a packet for their tags; those of instants already past are late (R523). -/
def holdFrames (s : State) (i tag ch : Nat) (fmt : Nat) (samples : List (BitVec 32)) : Tbl Nat :=
  let base := od s (listenIx i) 7
  (samples.zipIdx).foldl (fun t e =>
    let n := tag + e.2 / ch
    if n < s.audio.count then t
    else Tbl.put 0 t (512 * n + base + e.2 % ch) ((aafSample fmt e.1).toNat + 1)) s.net.inbuf

def setListen (s : State) (i : Nat) (x : StreamSt) : State := { s with net := { s.net with listen := Tbl.put {} s.net.listen i x } }

/-- AAF_RECEIVE (R521 to R523, R529): a packet that matches listener i arrives at port p at gPTP time t, with its format,
rate code, channels, AVTP time, R-TAG and samples. -/
def execAafReceive (p : Fin 2) (i : Fin 256) (fmt rate ch : Nat) (stamp : BitVec 32) (rtag : Option (BitVec 16)) (t : Nat)
    (samples : List (BitVec 32)) (s0 : State) : Out :=
  let s := rxFrame p.val (atNs t s0)
  let ports := od s (listenIx i.val) 9
  let x := Tbl.get {} s.net.listen i.val
  .next (if !((netPort s p.val).up && odBool s (listenIx i.val) 1 && ports.testBit p.val && s.grid.running) then s
    else
      let r : Bool × StreamSt × Nat :=
        if ports = 3 then (match rtag with | some q => recover x q.toNat | none => (p.val == 0, x, 0)) else (true, x, 0)
      let s1 := setListen s i.val { r.2.1 with lastAt := some (s.now : Int) }
      let s2 := if r.2.2 > 0 then fire 164 s1 else s1
      let y := Tbl.get {} s2.net.listen i.val
      if !r.1 then s2
      else if fmt > 2 ∨ rate ≠ s.grid.rate ∨ ch ≠ od s (listenIx i.val) 6 then
        setListen s2 i.val { y with mismatch := sat32 y.mismatch, bad := true }
      else
        let present := extendStamp t stamp.toNat
        if present > (t : Int) + 64000000 then setListen s2 i.val { y with early := sat32 y.early, bad := false }
        else
          let s3 := setListen s2 i.val { y with packets := sat32 y.packets, bad := false }
          { s3 with net := { s3.net with inbuf := holdFrames s3 i.val (tagOf s3 present) ch fmt samples } })

/-- FRER_RESET_TIMER (R529): 100 ms without a packet. -/
def execFrerResetTimer (i : Fin 256) (s : State) : Out :=
  let x := Tbl.get {} s.net.listen i.val
  .next (match x.lastAt with
    | none => s
    | some l => if x.take then s else setListen (advance (l + nsTicks 100000000).toNat s) i.val { x with take := true })

/-- CRF_PDU (R527): 6 timestamps of instants whose number is a multiple of the interval. -/
def execCrfPdu (s : State) : Out :=
  let step := rateHz s.grid.rate / 300
  let first := s.net.crfNext
  let ps := [0, 1].filter (fun p => talkRuns s p 256)
  .next (if !(s.grid.running && odBool s 0x2120 1 && s.modes.mode != .standby) then s
    else
      let ts := (List.range 6).map (fun j => nsOf (instantOf s (first + j * step + od s 0x2120 3)))
      let s1 := { s with net := { s.net with crfNext := first + 6 * step, crfSeq := (s.net.crfSeq + 1) % 65536 } }
      ps.foldl (fun u p => emitFrame p .crf ([talkId s 256, (talkDest s p 256).getD 0, s.net.crfSeq, s.grid.rate, step] ++ ts) u) s1)

/-! ### Note messages (R530) -/

def beNat (b : Bytes) : Nat := leNat b.reverse

/-- A record of Table 14.8, valid or not: type, channel, note, velocity and requested time. -/
def noteRecord (b : Bytes) : Option (Nat × Nat × Nat × Nat × Option Nat) :=
  let f (o n : Nat) : Nat := beNat ((b.drop o).take n)
  if b.length ≠ 16 ∨ f 0 1 < 1 ∨ f 0 1 > 6 ∨ f 1 1 > 15 ∨ f 3 1 > 1 ∨ f 6 2 ≠ 0 then none
  else some (f 0 1, f 1 1, f 2 1, f 4 2, if f 3 1 = 1 then some (f 8 8) else none)

/-- A note record acts as an event of a source class that arrives at t ns. -/
def noteEvent (scls t : Nat) (r : Nat × Nat × Nat × Nat × Option Nat) (s : State) : State :=
  starterEvent ⟨BitVec.ofNat 4 scls, BitVec.ofNat 4 r.2.1, BitVec.ofNat 8 r.2.2.1, BitVec.ofNat 16 r.2.2.2.1, r.1, nsTicks t,
    t / 1000 * 1000⟩ r.2.2.2.2 s

/-- NOTE_FRAME_RECEIVE (R530): the GPC payloads of an NTSCF frame with a stream id, arriving at t ns. -/
def execNoteFrameReceive (p : Fin 2) (id : BitVec 64) (msgs : List (List (BitVec 8))) (t : Nat) (s : State) : Out :=
  let s1 := rxFrame p.val (atNs t s)
  .next (if !((netPort s1 p.val).up && odBool s1 0x2700 1) ∨ id.toNat ≠ od s1 0x2700 2 then s1
    else msgs.foldl (fun s b => match noteRecord b with
      | some r => noteEvent 3 t r s
      | none => { s with net := { s.net with noteBad := sat32 s.net.noteBad } }) s1)

/-! ### IEEE 1722.1 (R531, R532) -/

def avReply (p : Nat) (acmp : Bool) (code : Nat) (st : AvStatus) (fs : List Nat) (s : State) : State :=
  { s with sent := s.sent ++ [.avdecc p acmp code st fs] }

/-- A message reaches the Drovers: source 166, and what is answered while its port is up. -/
def avMsg (p : Nat) (f : State → State) (s : State) : State := if (netPort s p).up then f (fire 166 (rxFrame p s)) else s

/-- A command that changes the module: a manifest of module firmware writes the objects (R532). -/
def avChange (p : Nat) (acmp : Bool) (code : Nat) (ws : List (Nat × Nat × Bytes)) (s : State) : State :=
  if !odBool s 0x2600 2 then avReply p acmp code (if acmp then .notAuthorized else .notSupported) [] s
  else if ws.any (fun w => match odRow w.1 w.2.1 with | some r => !(lengthOk r w.1 w.2.1 w.2.2.length && rangeOk s s.dict.od r w.1 w.2.1 w.2.2) | none => true) then
    avReply p acmp code (if acmp then .stateUnavailable else .badArguments) [] s
  else
    match ((List.range 4).map (· + 24)).find? (fun h => (manOf s h).state == .free) with
    | none => avReply p acmp code (if acmp then .stateUnavailable else .noResources) [] s
    | some h =>
      let s1 := firmwareManifest (ws.map (fun w => .write w.1 w.2.1 w.2.2)) s
      { s1 with net := { s1.net with cmds := Tbl.put none s1.net.cmds h (some ⟨p, acmp, code⟩) } }

def adpAvailable (p : Nat) (s : State) : State :=
  if (netPort s p).up then emitFrame p .adpAvailable [clockIdentity, 10, s.net.availIx] s else s

/-- ADP_AVAILABLE_TIMER (R531). -/
def execAdpAvailableTimer (t : Nat) (s : State) : Out :=
  let s1 := adpAvailable 1 (adpAvailable 0 (atNs t s))
  .next { s1 with net := { s1.net with availIx := (s1.net.availIx + 1) % 2 ^ 32 } }

/-- ENTITY_DISCOVER (R531). -/
def execEntityDiscover (p : Fin 2) (s : State) : Out := .next (avMsg p.val (adpAvailable p.val) s)

/-- CONNECT_RX (R532): listener i takes a stream. -/
def execConnectRx (p : Fin 2) (i : Fin 256) (id dest : BitVec 64) (vlan : BitVec 16) (s : State) : Out :=
  .next (avMsg p.val (avChange p.val true 0 [(listenIx i.val, 2, leBytes 8 id.toNat), (listenIx i.val, 3, leBytes 8 dest.toNat),
    (listenIx i.val, 4, leBytes 2 vlan.toNat), (listenIx i.val, 1, [1])]) s)

/-- DISCONNECT_RX (R532). -/
def execDisconnectRx (p : Fin 2) (i : Fin 256) (s : State) : Out :=
  .next (avMsg p.val (avChange p.val true 1 [(listenIx i.val, 1, [0])]) s)

/-- CONNECT_TX (R532). -/
def execConnectTx (p : Fin 2) (i : Fin 256) (s : State) : Out :=
  .next (avMsg p.val (avChange p.val true 2 [(talkIx i.val, 1, [1])]) s)

/-- DISCONNECT_TX (R532). -/
def execDisconnectTx (p : Fin 2) (i : Fin 256) (s : State) : Out :=
  .next (avMsg p.val (avChange p.val true 3 [(talkIx i.val, 1, [0])]) s)

/-- GET_RX_STATE (R531). -/
def execGetRxState (p : Fin 2) (i : Fin 256) (s : State) : Out :=
  .next (avMsg p.val (fun s => avReply p.val true 4 .success
    [i.val, od s (listenIx i.val) 2, od s (listenIx i.val) 3, od s (listenIx i.val) 4, od s (listenIx i.val) 1] s) s)

/-- GET_TX_STATE (R531): 256 is the CRF output. -/
def execGetTxState (p : Fin 2) (i : Fin 257) (s : State) : Out :=
  .next (avMsg p.val (fun s => avReply p.val true 5 .success
    [i.val, talkId s i.val, (talkDest s p.val i.val).getD 0, b2n (talkOn s i.val) 1, b2n (talkRuns s p.val i.val) 1] s) s)

/-- GET_TX_CONNECTION (R531). -/
def execGetTxConnection (p : Fin 2) (i : Fin 257) (s : State) : Out :=
  .next (avMsg p.val (fun s => avReply p.val true 6 .success
    [i.val, talkId s i.val, (talkDest s p.val i.val).getD 0, b2n (talkRuns s p.val i.val) 1] s) s)

/-- ACQUIRE_ENTITY (R531). -/
def execAcquireEntity (p : Fin 2) (s : State) : Out := .next (avMsg p.val (avReply p.val false 0 .success []) s)

/-- LOCK_ENTITY (R531). -/
def execLockEntity (p : Fin 2) (s : State) : Out := .next (avMsg p.val (avReply p.val false 1 .success []) s)

/-- ENTITY_AVAILABLE (R531). -/
def execEntityAvailable (p : Fin 2) (s : State) : Out := .next (avMsg p.val (avReply p.val false 2 .success []) s)

/-- The number of descriptors of each type of Table 14.9, in its order. -/
def descriptorCount : Nat → Nat
  | 3 => 256 | 4 => 257 | 5 => 2 | _ => 1

/-- READ_DESCRIPTOR (R531): type by its place in Table 14.9, and index. -/
def execReadDescriptor (p : Fin 2) (kind : Fin 10) (ix : BitVec 16) (s : State) : Out :=
  .next (avMsg p.val (fun s =>
    if ix.toNat < descriptorCount kind.val then
      avReply p.val false 3 .success ([kind.val, ix.toNat] ++
        (match kind.val with
         | 0 => [clockIdentity] ++ (odBytes s 0x2600 3).map (·.toNat)
         | 3 => [od s (listenIx ix.toNat) 2, od s (listenIx ix.toNat) 6]
         | 4 => [talkId s ix.toNat, if ix.toNat = 256 then 0 else od s (talkIx ix.toNat) 6]
         | 5 => [Config.macAddress ix.toNat]
         | _ => [])) s
    else avReply p.val false 3 .noSuchDescriptor [kind.val, ix.toNat] s) s)

/-- A stream's format: house rate, channels. -/
def streamFormat (s : State) (out : Bool) (i : Nat) : List Nat := [s.grid.rate, od s (if out then talkIx i else listenIx i) 6]

/-- GET_STREAM_FORMAT (R531). -/
def execGetStreamFormat (p : Fin 2) (out : Bool) (i : Fin 256) (s : State) : Out :=
  .next (avMsg p.val (fun s => avReply p.val false 4 .success (streamFormat s out i.val) s) s)

/-- SET_STREAM_FORMAT (R532): AAF of the house rate with a number of channels. -/
def execSetStreamFormat (p : Fin 2) (out : Bool) (i : Fin 256) (rate : Fin 6) (ch : BitVec 8) (s : State) : Out :=
  .next (avMsg p.val (fun s =>
    if odBool s 0x2600 2 ∧ rate.val ≠ s.grid.rate then avReply p.val false 5 .badArguments [] s
    else avChange p.val false 5 [(if out then talkIx i.val else listenIx i.val, 6, leBytes 1 ch.toNat)] s) s)

/-- GET_STREAM_INFO (R531). -/
def execGetStreamInfo (p : Fin 2) (out : Bool) (i : Fin 256) (s : State) : Out :=
  .next (avMsg p.val (fun s => avReply p.val false 6 .success
    (if out then [talkId s i.val, (talkDest s p.val i.val).getD 0, od s (talkIx i.val) 4, od s (talkIx i.val) 8, talkState s i.val]
     else [od s (listenIx i.val) 2, od s (listenIx i.val) 3, od s (listenIx i.val) 4, listenState s i.val]) s) s)

/-- GET_SAMPLING_RATE (R531): the house rate. -/
def execGetSamplingRate (p : Fin 2) (s : State) : Out :=
  .next (avMsg p.val (fun s => avReply p.val false 7 .success [rateHz s.grid.rate] s) s)

/-- GET_CLOCK_SOURCE (R531): always the internal one. -/
def execGetClockSource (p : Fin 2) (s : State) : Out := .next (avMsg p.val (avReply p.val false 8 .success [0]) s)

/-- GET_AVB_INFO (R531). -/
def execGetAvbInfo (p : Fin 2) (i : Fin 2) (s : State) : Out :=
  .next (avMsg p.val (fun s => avReply p.val false 9 .success
    [clockIdentity, (netPort s i.val).delay, b2n (netPort s i.val).asCap 1] s) s)

/-- GET_COUNTERS (R531) of a stream input or output. -/
def execGetCounters (p : Fin 2) (out : Bool) (i : Fin 256) (s : State) : Out :=
  let x := Tbl.get {} (if out then s.net.talk else s.net.listen) i.val
  .next (avMsg p.val (avReply p.val false 10 .success [x.packets, x.late, x.early, x.mismatch, x.losses, x.dups]) s)

/-- REGISTER_UNSOLICITED_NOTIFICATION (R531): a controller by its entity id. -/
def execRegisterUnsolicitedNotification (p : Fin 2) (ctl : BitVec 64) (s : State) : Out :=
  .next (avMsg p.val (fun s => avReply p.val false 11 .success []
    { s with net := { s.net with unsol := if s.net.unsol.contains ctl.toNat then s.net.unsol else s.net.unsol ++ [ctl.toNat] } }) s)

/-- DEREGISTER_UNSOLICITED_NOTIFICATION (R531). -/
def execDeregisterUnsolicitedNotification (p : Fin 2) (ctl : BitVec 64) (s : State) : Out :=
  .next (avMsg p.val (fun s => avReply p.val false 12 .success []
    { s with net := { s.net with unsol := s.net.unsol.filter (· != ctl.toNat) } }) s)

/-- GET_NAME (R531): the entity's name. -/
def execGetName (p : Fin 2) (s : State) : Out :=
  .next (avMsg p.val (fun s => avReply p.val false 13 .success ((odBytes s 0x2600 3).map (·.toNat)) s) s)

/-- SET_NAME (R532). -/
def execSetName (p : Fin 2) (name : List (BitVec 8)) (s : State) : Out :=
  .next (avMsg p.val (avChange p.val false 14 [(0x2600, 3, name)]) s)

/-- SET_SAMPLING_RATE (R531): not implemented. -/
def execSetSamplingRate (p : Fin 2) (s : State) : Out := .next (avMsg p.val (avReply p.val false 15 .notImplemented []) s)

/-- SET_CLOCK_SOURCE (R531): not implemented. -/
def execSetClockSource (p : Fin 2) (s : State) : Out := .next (avMsg p.val (avReply p.val false 16 .notImplemented []) s)

/-- AECP_UNSUPPORTED_COMMAND (R531): any other command. -/
def execAecpUnsupportedCommand (p : Fin 2) (code : BitVec 16) (s : State) : Out :=
  .next (avMsg p.val (avReply p.val false (17 + code.toNat) .notImplemented []) s)

/-! ### Effects of dictionary writes -/

/-- A change of allowed speeds starts a new negotiation: the link falls until it comes up again (R516). -/
def speedsWrite (p : Nat) (s : State) : State := linkDown p s

/-- Instants kept in ticks plus one, as the time base is stepped. -/
def stepEnd (old new t : Nat) : Nat := if t = 0 then 0 else t + new - old

/-- A whole second of gPTP time: source 293 and PPS_OUT mark it (R510, R511). -/
def ppsTick (s : State) : State :=
  let sec := nsOf s.now / 1000000000
  if sec ≤ s.net.pps then s else fire 293 { s with net := { s.net with pps := sec, ppsOn := odBool s 0x2110 3 } }

/-- PPS_OUT is high: for 100 ms from a whole second on. -/
def ppsHigh (s : State) : Bool := s.net.ppsOn && decide (nsOf s.now < s.net.pps * 1000000000 + 100000000)

/-- gPTP time is set (R509): timers run on, and the first lap edge after it starts a new grid. -/
def setTime (t : Nat) (s : State) : State :=
  let old := s.now
  let new := nsTicks t
  let e := stepEnd old new
  let sh (x : Nat) : Nat := x + new - old
  let shi (x : Int) : Int := x + new - old
  let port (x : NetPort) : NetPort := { x with phaseLeft := 10, upAt := e x.upAt, downAt := e x.downAt }
  let bcp (x : PortSt) : PortSt := { x with linkEnd := e x.linkEnd, holdEnd := e x.holdEnd }
  { s with
    now := new
    grid := { s.grid with epoch := shi s.grid.epoch, regrid := true }
    net := { s.net with p0 := port s.net.p0, p1 := port s.net.p1, timeBase := (s.net.timeBase + 1) % 65536,
                        pps := (t + 999999999) / 1000000000 - 1, ppsOn := false,
                        phase := ((new : Int) - (old : Int)) / (tickNs : Int),
                        listen := s.net.listen.map (fun x => (x.1, { x.2 with lastAt := x.2.lastAt.map shi })) }
    evc := { s.evc with holdEnd := s.evc.holdEnd.map (fun x => (x.1, e x.2)), tmrEnd := s.evc.tmrEnd.map (fun x => (x.1, e x.2)) }
    dict := { s.dict with portA := bcp s.dict.portA, portB := bcp s.dict.portB }
    log := { s.log with ep := s.log.ep.map (fun x => { x with start := shi x.start, last := shi x.last }),
                        corrAt := s.log.corrAt.map (fun x => (x.1, x.2.map shi)) }
    modes := { s.modes with fatalDue := e s.modes.fatalDue, guardDue := e s.modes.guardDue, clock := s.modes.clock + (old : Int) - (new : Int),
                            up := { s.modes.up with pllAt := sh s.modes.up.pllAt } }
    store := { s.store with drainEnd := e s.store.drainEnd }
    starter := { s.starter with copyEnd := s.starter.copyEnd.map (fun x => (x.1, sh x.2)), issueFree := sh s.starter.issueFree }
    drv := s.drv.map (fun x => (x.1, { x.2 with ckEnd := e x.2.ckEnd }))
    apps := { s.apps with tbl := s.apps.tbl.map (fun x => (x.1, { x.2 with block := match x.2.block with
      | .wait n k => .wait n (e k)
      | b => b })) } }

end Sys2Proof.Machine
end

