-- ==== Sys2Proof/Machine/Inputs.lean ====
section
/-! DEFINITION. The audio island's samples, analog settings, TDM and USB audio (R540 to R554), MIDI (R555 to R559), the key
scan (R560 to R567), controller inputs (R568 to R570), GPIO (R571) and quarantine (R572 to R574). -/

namespace Sys2Proof.Machine

def onAudio (f : Audio → Audio) (s : State) : State := { s with audio := f s.audio }

def onUsb (f : Usb → Usb) (s : State) : State := onAudio (fun a => { a with usb := f a.usb }) s

/-- The key of an interface's channel. -/
def chKey (iface ch : Nat) : Nat := 512 * iface + ch

/-- The line and headphone outputs ramp to 0 across the block being emitted: the mode entered with this lap mutes them (R548). -/
def fading (s : State) : Bool := s.audio.muteLap == s.grid.lap + 1

/-- Outputs are muted outside PERFORM and MAINTAIN (Table 1.7) and in the first laps of service (Table 2.10). -/
def outputsMuted (s : State) : Bool :=
  !(s.modes.mode == .perform || s.modes.mode == .maintain) || decide (s.grid.silent > 0) || decide (s.modes.entering ≥ 2)

/-! ### Output samples (R43, R541, R542) -/

def sat24 (v : Int) : BitVec 24 := BitVec.ofInt 24 (max (-8388608) (min 8388607 v))

/-- Slots of a TDM port (Table 15.4). -/
def tdmSlots (rate setting : Nat) : Nat :=
  let full := if rate < 2 then 32 else if rate < 4 then 16 else 8
  match setting with | 0 => full | 1 => full / 2 | 2 => full / 4 | _ => 2

def usbChannels (s : State) : Nat := if s.grid.rate ≥ 4 then 16 else 32

/-- A channel that its interface carries now (R542). -/
def carried (s : State) (iface ch : Nat) : Bool :=
  if iface = 3 then Tbl.get false s.audio.tdmOn (ch / 32) && decide (ch % 32 < tdmSlots s.grid.rate (od s (0x2810 + ch / 32) 2))
  else if iface = 4 then decide (ch < usbChannels s)
  else true

/-- The sample of channel c of an output's block at sample k: the sum of the contributions of the elements in its mask, which the bus
mixer formed at the seal of the lap that processed it (R62, R90); zero where its drain burst was lost. -/
def outSample (s : State) (b : OutBlock) (c k : Nat) : Int :=
  if s.audio.lost.contains (b.num, b.emit) then 0
  else (b.elems.map (fun e => (Config.busSample b.out.src e (b.out.base + c) b.lap k).toInt)).sum

/-- The blocks that leave in the lap in progress (R43, R58). -/
def blocksDue (s : State) : List OutBlock := s.audio.mix.outs.filter (fun b => b.emit == s.grid.lap)

/-- Integer sums per interface channel. -/
def addChannel (t : List (Nat × Int)) (key : Nat) (v : Int) : List (Nat × Int) :=
  assocSet t key (some ((lookupNat t key).getD 0 + v))

/-- What every interface channel carries at sample k (R541). As a mode mutes the outputs, the line and headphone outputs still carry
the block being emitted, which their gain ramps to 0. -/
def emitOutputs (s : State) (k : Nat) : Tbl (BitVec 24) :=
  if outputsMuted s && !fading s then []
  else
    let blocks := (blocksDue s).filter (fun b => !outputsMuted s || b.out.iface == 1 || b.out.iface == 2)
    let sums := blocks.foldl (fun t b =>
      (List.range b.out.channels).foldl (fun t c =>
        if carried s b.out.iface (b.out.ibase + c) then addChannel t (chKey b.out.iface (b.out.ibase + c)) (outSample s b c k) else t) t) []
    sums.foldl (fun t e => Tbl.put 0 t e.1 (sat24 e.2)) []

/-! ### Input samples (R40, R52, R523, R544, R545, R553, R569) -/

/-- Where input channel key's sample k of a lap is kept. -/
def inKey (key k : Nat) : Nat := 64 * key + k

/-- A line input's sample: full scale limits it, and a change of range zeroes two laps. -/
def lineSample (s : State) (i : Nat) (v : Int) : BitVec 24 :=
  let z := Tbl.get 0 s.audio.zeroed i
  if z ≠ 0 ∧ z ≤ s.grid.lap + 1 ∧ s.grid.lap ≤ z then 0 else sat24 v

def overScale (v : Int) : Bool := decide (v > 8388607 ∨ v < -8388608)

/-- The word of a controller input (R569): of the latest conversion 20 us old or more. -/
def cvSample (s : State) (i : Nat) : BitVec 24 :=
  let x := Tbl.get {} s.audio.cv i
  let c := if nsTicks (x.time + 20000) ≤ s.now then x.code else x.old
  BitVec.ofNat 24 (c * 2048)

/-- The listener channels due at an instant: for each, the stream and the channel. -/
def listenerChannels (s : State) : List (Nat × Nat) :=
  (streamsOn s 0x2400).flatMap (fun i => (List.range (od s (listenIx i) 6)).map (fun c => (i, od s (listenIx i) 7 + c)))

/-- Listener samples at instant n: present ones are taken, others are 0, counted, and raise source 163. -/
def takeListeners (n k : Nat) (s : State) : State :=
  let s1 := (listenerChannels s).foldl (fun s c =>
    match Tbl.get 0 s.net.inbuf (512 * n + c.2) with
    | v + 1 => onAudio (fun a => { a with block := Tbl.put 0 a.block (inKey (chKey 5 c.2) k) (BitVec.ofNat 24 v) }) s
    | 0 =>
      let x := Tbl.get {} s.net.listen c.1
      fire 163 (setListen s c.1 { x with late := sat32 x.late })) s
  { s1 with net := { s1.net with inbuf := s1.net.inbuf.filter (fun e => decide (512 * (n + 1) ≤ e.1)) } }

/-- USB audio runs in both directions. -/
def usbAudioOn (s : State) : Bool := s.audio.usb.attached && s.audio.usb.audio == 1 && !s.audio.usb.suspended

/-- USB samples at instant n (R553). -/
def takeUsb (n k : Nat) (s : State) : State :=
  if !usbAudioOn s then s
  else
    let s1 := (List.range (usbChannels s)).foldl (fun s c =>
      match Tbl.get 0 s.audio.usb.inbuf (512 * n + c) with
      | v + 1 => onAudio (fun a => { a with block := Tbl.put 0 a.block (inKey (chKey 4 c) k) (BitVec.ofNat 24 v) }) s
      | 0 => fire 197 (onUsb (fun u => { u with late := sat32 u.late }) s)) s
    onUsb (fun u => { u with inbuf := u.inbuf.filter (fun e => decide (512 * (n + 1) ≤ e.1)) }) s1

/-- The ports' enables act at a frame boundary (R549). -/
def tdmBoundary (s : State) : State :=
  onAudio (fun a => { a with tdmOn := (List.range 4).foldl (fun t p =>
    Tbl.put false t p (odBool s (0x2810 + p) 1 && s.modes.mode != .standby)) a.tdmOn }) s

/-! ### Clock outputs (R510, R511, R36) -/

/-- The audio island's clocks stand still from the last edge of an old grid to the first of the new one where the rate family changes. -/
def clockGap (s : State) : Bool := decide ((s.now : Int) < s.grid.epoch)

/-- The frequency of MCLK_OUT in Hz, a quarter of the audio clock (R16); 0: driven low. A write of its enable acts at the next rising
edge, 41 ns away at most. -/
def mclkHz (s : State) : Nat :=
  if !s.grid.running || clockGap s || !odBool s 0x2110 1 then 0 else if s.grid.rate % 2 = 0 then 22579200 else 24576000

/-- The level of MCLK_OUT: a rising edge falls on every sample instant. -/
def mclkHigh (s : State) : Bool :=
  mclkHz s != 0 && decide (((s.now : Int) - s.grid.epoch).toNat % (4 * audioCycle s.grid.rate) < 2 * audioCycle s.grid.rate)

/-- WCLK_OUT rises at a sample instant if it is enabled. -/
def wclkEdge (s : State) : State := onAudio (fun a => { a with wclkOn := odBool s 0x2110 2 }) s

/-- The level of WCLK_OUT: high for half the sample period after a sample instant. -/
def wclkHigh (s : State) : Bool :=
  s.grid.running && !clockGap s && s.audio.wclkOn && decide (s.now < instantOf s (s.audio.count - 1) + sampleTicks s.grid.rate / 2)

/-! ### TDM frames (R550, R551) -/

/-- A TDM port drives BCLK and FS. -/
def tdmClocked (s : State) (p : Nat) : Bool := s.grid.running && !clockGap s && Tbl.get false s.audio.tdmOn p

/-- BCLK of a TDM port in Hz; 0: driven low. -/
def tdmBclkHz (s : State) (p : Nat) : Nat :=
  if tdmClocked s p then tdmSlots s.grid.rate (od s (0x2810 + p) 2) * 32 * rateHz s.grid.rate else 0

/-- TDMp_SDO in BCLK period j of a frame: the sample of slot j / 32 in the first 24 periods of the slot, most significant bit first, and
low in the last 8. -/
def tdmSdo (s : State) (p j : Nat) : Bool :=
  tdmClocked s p && decide (j % 32 < 24) && (Tbl.get 0 s.audio.out (chKey 3 (32 * p + j / 32))).getLsbD (23 - j % 32)

/-- TDMp_FS in BCLK period j of a frame, by the port's frame format. -/
def tdmFs (s : State) (p j : Nat) : Bool :=
  tdmClocked s p &&
  (match od s (0x2810 + p) 3 with
   | 0 => j + 1 == 32 * tdmSlots s.grid.rate (od s (0x2810 + p) 2)
   | 1 => j == 0
   | _ => decide (31 ≤ j ∧ j < 63))

/-- The sample that a slot receives: the first 24 of the 32 levels sampled on TDMp_SDI, most significant bit first. -/
def tdmSlotWord (sdi : List Bool) : BitVec 24 := (sdi.take 24).foldl (fun w b => (w <<< 1) ||| (if b then 1 else 0)) 0

/-- Put the samples of one instant into the block of the lap. -/
def putInputs (k : Nat) (line : List Int) (tdm : List (BitVec 24)) (s : State) : State :=
  let put (t : Tbl (BitVec 24)) (key : Nat) (v : BitVec 24) : Tbl (BitVec 24) := Tbl.put 0 t (inKey key k) v
  let a := s.audio
  let b1 := ((line.take 4).zipIdx).foldl (fun t e => put t (chKey 1 e.2) (lineSample s e.2 e.1)) a.block
  let b2 := ((tdm.take 128).zipIdx).foldl (fun t e => if carried s 3 e.2 then put t (chKey 3 e.2) e.1 else t) b1
  let b3 := (List.range 16).foldl (fun t i => put t (chKey 6 i) (cvSample s i)) b2
  let clips := ((line.take 4).zipIdx).foldl (fun t e => if overScale e.1 then Tbl.upd 0 t e.2 sat32 else t) a.clips
  onAudio (fun a => { a with block := b3, clips := clips }) s

/-- SAMPLE_INSTANT (R42): the next sample instant of the lap in progress, with the line inputs' converted values and the
TDM words that are whole at it. -/
def execSampleInstant (line : List Int) (tdm : List (BitVec 24)) (s : State) : Out :=
  let n := s.audio.count
  let k := n % s.grid.nLap
  .next (if !s.grid.running ∨ s.grid.epochLap + n / s.grid.nLap ≠ s.grid.lap then s
    else
      let s2 := wclkEdge (ppsTick (tdmBoundary (advance (instantOf s n) s)))
      let out := emitOutputs s2 k
      let talk := (s2.adm.load.outputs.flatMap (fun o =>
        if o.2.iface = 4 ∨ o.2.iface = 5 then (List.range o.2.channels).map (fun c => chKey o.2.iface (o.2.ibase + c)) else [])).foldl
          (fun t key => Tbl.put 0 t (64 * key + n % 64) (Tbl.get 0 out key)) s2.audio.talk
      let s3 := onAudio (fun a => { a with out := out, talk := talk }) s2
      let s4 := takeUsb n k (takeListeners n k (putInputs k line tdm s3))
      onAudio (fun a => { a with count := n + 1 }) s4)

/-! ### Analog settings (R545 to R547) -/

/-- A setting ramps across the first block emitted at or after the next lap edge. -/
def rampTo (lap : Nat) (v : Int) (r : Ramp) : Ramp :=
  if r.lap = lap + 1 then { r with stop := v } else { start := r.stop, stop := v, lap := lap + 1 }

def lineGain (s : State) (i : Nat) : Ramp := Tbl.get ⟨0, 0, 0⟩ s.audio.lineGain i

def hpGain (s : State) (i : Nat) : Ramp := Tbl.get ⟨-40, -40, 0⟩ s.audio.hpGain i

/-- Effect of a write of an input range: laps M and M + 1 are zeroed, M the next lap. -/
def rangeWrite (i : Nat) (s : State) : State := onAudio (fun a => { a with zeroed := Tbl.put 0 a.zeroed i (s.grid.lap + 2) }) s

def muteWrite (i v : Nat) (s : State) : State :=
  onAudio (fun a => { a with lineGain := Tbl.put ⟨0, 0, 0⟩ a.lineGain i (rampTo s.grid.lap v (lineGain s i)) }) s

def volumeWrite (i : Nat) (v : Int) (s : State) : State :=
  onAudio (fun a => { a with hpGain := Tbl.put ⟨-40, -40, 0⟩ a.hpGain i (rampTo s.grid.lap v (hpGain s i)) }) s

/-- The gain of a ramp at sample k of a block of n emitted in a lap: linear in amplitude across the block of the ramp's lap. -/
def Ramp.gain (r : Ramp) (amp : Int → Rat) (lap k n : Nat) : Rat :=
  if lap < r.lap then amp r.start
  else if r.lap < lap then amp r.stop
  else amp r.start + (amp r.stop - amp r.start) * ((k + 1 : Nat) : Rat) / (n : Rat)

/-- A line output's gain: 0 while it is muted (R546). -/
def muteAmp (v : Int) : Rat := if v = 0 then 1 else 0

/-- A headphone pair's gain (R547). -/
def volumeAmp (v : Int) : Rat := if v = -161 then 0 else if v = 0 then 1 else Config.halfDecibels v

/-- What the mode leaves of the analog outputs at sample k of a block of n (R548). -/
def modeGain (s : State) (k n : Nat) : Rat :=
  if !outputsMuted s then 1 else if fading s then 1 - ((k + 1 : Nat) : Rat) / (n : Rat) else 0

/-- The level at an analog channel since the last sample instant, in codes: interface 1 the line outputs, 2 the headphones. -/
def analogOut (s : State) (iface ch : Nat) : Rat :=
  let n := s.grid.nLap
  let k := (s.audio.count - 1) % n
  let v : Int := (Tbl.get 0 s.audio.out (chKey iface ch)).toInt
  let g := if iface = 1 then (lineGain s ch).gain muteAmp s.grid.lap k n else (hpGain s (ch / 2)).gain volumeAmp s.grid.lap k n
  (v : Rat) * g * modeGain s k n

/-! ### Events to the Starter -/

/-- An event of a source class at t ns that enters the Starter at an instant in ticks; the Starter takes it in PERFORM and MAINTAIN
only. -/
def eventAt (entry scls chan note vel etype t : Nat) (s : State) : State :=
  if etype = 0 then s
  else starterEvent ⟨BitVec.ofNat 4 scls, BitVec.ofNat 4 chan, BitVec.ofNat 8 note, BitVec.ofNat 16 vel, etype, entry,
    t / 1000 * 1000⟩ none s

/-- An event that enters the Starter at t ns. -/
def inputEvent (scls chan note vel etype t : Nat) (s : State) : State := eventAt (nsTicks t) scls chan note vel etype t s

/-! ### Quarantine (R572, R573) -/

/-- The transition of a source at t ns: counted, and whether it is the one that quarantines it. -/
def countMove (src t : Nat) (s : State) : Bool × State :=
  let b := t / 10000000
  let ms := (Tbl.get [] s.audio.moves src).filter (fun x => decide (b < x + 100))
  if ms.length ≥ 250 then
    (true, fire 196 (onAudio (fun a => { a with quar := a.quar ++ [src], quars := sat32 a.quars, moves := Tbl.put [] a.moves src ms }) s))
  else (false, onAudio (fun a => { a with moves := Tbl.put [] a.moves src (ms ++ [b]) }) s)

def quarantined (s : State) (src : Nat) : Bool := s.audio.quar.contains src

/-! ### The key scan -/

/-- A key object as it is in force: a write waits for the next lap edge (R563, R567). -/
def keyBytes (s : State) (ix sub : Nat) : Bytes :=
  match lookupNat s.audio.oldKeys (odKey ix sub) with
  | some b => b
  | none => odBytes s ix sub

def keyVal (s : State) (ix sub : Nat) : Nat := leNat (keyBytes s ix sub)

/-- The enabled keys. -/
def keysOn (s : State) : List Nat :=
  (((s.dict.od.map (·.1) ++ s.audio.oldKeys.map (·.1)).filterMap (fun e =>
    let k := e / 256
    if 0x2900 ≤ k ∧ k ≤ 0x2A3F ∧ e % 256 = 1 then some k else none)).eraseDups).filter (fun k => keyVal s k 1 != 0)

/-- The keys that use a crosspoint, with the contact's role: 0 first, 1 second. -/
def keysOf (s : State) (x : Nat) : List (Nat × Nat) :=
  (keysOn s).flatMap (fun k => (if keyVal s k 2 = x then [(k, 0)] else []) ++ (if keyVal s k 3 = x then [(k, 1)] else []))

def keySt (s : State) (k : Nat) : KeySt := Tbl.get {} s.audio.keys k

def setKeySt (s : State) (k : Nat) (x : KeySt) : State := onAudio (fun a => { a with keys := Tbl.put {} a.keys k x }) s

def contact (s : State) (x : Nat) : Contact := Tbl.get {} s.audio.contacts x

def setContact (s : State) (x : Nat) (c : Contact) : State := onAudio (fun a => { a with contacts := Tbl.put {} a.contacts x c }) s

/-- The module scans (R560). -/
def scanRuns (s : State) : Bool :=
  odBool s 0x2840 1 && (match s.modes.mode with | .perform => true | .maintain => true | .safe => true | .workshop => true | _ => false)

/-- When scan k samples a crosspoint, in ns. -/
def sampleTime (k x : Nat) : Nat := 10000 * k + 500 * (x / 32) + 450

/-- One sample of a contact (R562). -/
def Contact.sample (c : Contact) (t : Nat) (v : Bool) : Contact :=
  { c with raw := v, t0 := if v = c.acc then 0 else if c.t0 = 0 then t + 1 else c.t0, moved := if v = c.raw then c.moved else t }

/-- KEY_SCAN_SAMPLE (R560, R562): scan k finds these crosspoints closed. -/
def execKeyScanSample (k : Nat) (closed : List (Fin 640)) (s : State) : Out :=
  let xs := (closed.map (·.val) ++ s.audio.contacts.map (·.1)).eraseDups
  .next (if !scanRuns s then s
    else
      let s1 := xs.foldl (fun s x => setContact s x ((contact s x).sample (sampleTime k x) (closed.any (fun c => c.val == x)))) (atNs (10000 * k) s)
      onAudio (fun a => { a with scan := k + 1 }) s1)

/-- The fourth audio-island cycle that begins after an instant (R100). -/
def fourthCycle (s : State) (t : Nat) : Nat :=
  let cyc := audioCycle s.grid.rate
  (s.grid.epoch + (((((t : Int) - s.grid.epoch).toNat / cyc + 4) * cyc : Nat) : Int)).toNat

/-- The entry of a key event accepted by the sample at t ns: the first of the sample in the fourth cycle, each later one a cycle after
the one before it (R100). -/
def scanEntry (s : State) (t : Nat) : Nat :=
  if s.audio.keyScan = t + 1 then s.audio.keyEntry + audioCycle s.grid.rate else fourthCycle s (nsTicks t)

/-- A note or hold of a key, accepted by the sample at t ns. -/
def keyEvent (k etype vel t : Nat) (s : State) : State :=
  if etype = 0 then s
  else
    let entry := scanEntry s t
    eventAt entry 0 (keyVal s k 7) (keyVal s k 6) vel etype t (onAudio (fun a => { a with keyScan := t + 1, keyEntry := entry }) s)

/-- A note or hold that the module ends at a lap edge (R563). -/
def keyEnd (k etype t : Nat) (s : State) : State := inputEvent 0 (keyVal s k 7) (keyVal s k 6) 0 etype t s

/-- VEL of a contact difference in scans (R564). -/
def curveVel (s : State) (k diff : Nat) : Nat :=
  let c := 0x2A80 + keyVal s k 8
  leNat (((keyBytes s c 1).drop (2 * min 255 (diff / max 1 (keyVal s c 2)))).take 2)

/-- An accepted closing or opening of a key's contact, first seen in a scan (R564, R565). -/
def keyContact (k role : Nat) (closed : Bool) (seen t : Nat) (s : State) : State :=
  let x := keySt s k
  if keyVal s k 4 = 1 then
    keyEvent k (if closed then 3 else 4) (keyVal s k 11) t (setKeySt s k { x with on := closed })
  else if keyVal s k 3 = 0xFFFF then
    keyEvent k (if closed then 1 else 2) (keyVal s k 11) t (setKeySt s k { x with on := closed })
  else
    let x1 := if role = 0 ∧ closed then { x with k1 := seen + 1 } else if role = 1 ∧ !closed then { x with k2o := seen + 1, fresh := true } else x
    let s1 := setKeySt s k x1
    if role = 1 ∧ closed then
      let first := (contact s (keyVal s k 2)).acc
      let diff := if first then seen + 1 - (if x.k2o > x.k1 then x.k2o else x.k1) else 0
      keyEvent k 1 (curveVel s k diff) t (setKeySt s k { x with on := true, fresh := false })
    else if !closed ∧ x.on ∧ keyVal s k 5 = role then
      let vel := if role = 1 then keyVal s k 11 else curveVel s k (if x.fresh then seen + 1 - x.k2o else 0)
      keyEvent k 2 vel t (setKeySt s1 k { x1 with on := false })
    else s1

/-- A contact of a key is quarantined: the key emits nothing until it is released (R575). -/
def keyBarred (s : State) (k : Nat) : Bool := quarantined s (keyVal s k 2) || quarantined s (keyVal s k 3)

/-- An accepted closing or opening of a key's contact, with its event unless a contact of the key is quarantined. -/
def keyMove (k role : Nat) (closed : Bool) (seen t : Nat) (s : State) : State :=
  let u := keyContact k role closed seen t s
  if keyBarred s k then setKeySt s k { keySt u k with on := false } else u

/-- The inactive event of a quarantined contact's keys, VEL 0 (R573). -/
def keySilence (x t : Nat) (s : State) : State :=
  (keysOf s x).foldl (fun s k =>
    let y := keySt s k.1
    if y.on then keyEvent k.1 (if keyVal s k.1 4 = 1 then 4 else 2) 0 t (setKeySt s k.1 { y with on := false }) else s) s

/-- The debounce of a crosspoint, in units of 10 us. -/
def debounceOf (s : State) (x : Nat) : Nat :=
  match keysOf s x with
  | (k, role) :: _ => keyVal s k (9 + role)
  | [] => 0

/-- CONTACT_ACCEPTED (R562 to R566): the scan just made accepts the contact's new state. -/
def execContactAccepted (x : Fin 640) (s : State) : Out :=
  let c := contact s x.val
  let k := s.audio.scan - 1
  let t := sampleTime k x.val
  .next (if !scanRuns s ∨ c.t0 = 0 ∨ s.audio.scan = 0 ∨ t < c.t0 - 1 + 10000 * debounceOf s x.val then s
    else
      let s1 := atNs t s
      let seen := (c.t0 - 1) / 10000
      if quarantined s x.val then s
      else if keysOf s x.val = [] then setContact s1 x.val { c with acc := c.raw, t0 := 0 }
      else
        let q := countMove x.val t s1
        if q.1 then (if c.acc then keySilence x.val t q.2 else q.2)
        else (keysOf s x.val).foldl (fun s k => keyMove k.1 k.2 c.raw seen t s) (setContact q.2 x.val { c with acc := c.raw, t0 := 0 }))

/-- A write of a key object or of a curve waits for the next lap edge: the value in force is kept (R563, R567). -/
def keepKey (ix sub : Nat) (s : State) : State :=
  match lookupNat s.audio.oldKeys (odKey ix sub) with
  | some _ => s
  | none => onAudio (fun a => { a with oldKeys := assocSet a.oldKeys (odKey ix sub) (some (odBytes s ix sub)) }) s

/-- At the lap edge the writes of key objects act: notes and holds that are on end, and the contacts restart (R563). -/
def keysAtEdge (s : State) : State :=
  let ks := ((s.audio.oldKeys.map (fun e => e.1 / 256)).eraseDups).filter (fun k => decide (k ≤ 0x2A3F))
  let t := nsOf s.now
  let s1 := ks.foldl (fun s k =>
    let y := keySt s k
    let s2 := if y.on then keyEnd k (if keyVal s k 4 = 1 then 4 else 2) t s else s
    let xs := [keyVal s k 2, keyVal s k 3] ++ [od s k 2, od s k 3]
    let s3 := xs.foldl (fun s x => if x < 640 then setContact s x { contact s x with acc := false, t0 := 0 } else s) s2
    setKeySt s3 k {}) s
  onAudio (fun a => { a with oldKeys := [] }) s1

/-- On entry to PERFORM or MAINTAIN every accepted state is open (R566). -/
def contactsOpen (s : State) : State :=
  onAudio (fun a => { a with contacts := a.contacts.map (fun c => (c.1, { c.2 with acc := false, t0 := 0 })), keys := [] }) s

/-! ### GPIO (R571) -/

def gpioIx (n : Nat) : Nat := 0x2B20 + n

def gpioSt (s : State) (n : Nat) : Contact := Tbl.get {} s.audio.gpio n

def setGpio (s : State) (n : Nat) (c : Contact) : State := onAudio (fun a => { a with gpio := Tbl.put {} a.gpio n c }) s

/-- GPIO_SAMPLE (R571): the levels at a whole us. -/
def execGpioSample (us : Nat) (levels : BitVec 16) (s : State) : Out :=
  let s1 := (List.range 16).foldl (fun s n =>
    if od s (gpioIx n) 1 = 2 then s
    else setGpio s n ((gpioSt s n).sample (1000 * us) (levels.getLsbD n != odBool s (gpioIx n) 3))) (atNs (1000 * us) s)
  .next (if s.modes.mode = .standby ∨ s.modes.mode = .noMode then s else onAudio (fun a => { a with gpioAt := 1000 * us }) s1)

/-- GPIO_EDGE_ACCEPTED (R571). -/
def execGpioEdgeAccepted (n : Fin 16) (s : State) : Out :=
  let c := gpioSt s n.val
  let t := s.audio.gpioAt
  let ix := gpioIx n.val
  .next (if c.t0 = 0 ∨ od s ix 1 = 2 ∨ t < c.t0 - 1 + 1000 * od s ix 4 then s
    else if od s ix 1 = 0 then setGpio s n.val { c with acc := c.raw, t0 := 0 }
    else if quarantined s (0x400 + n.val) then s
    else
      let q := countMove (0x400 + n.val) t s
      if q.1 then (if c.acc then inputEvent 5 (od s ix 9) n.val 0 (od s ix 6) t q.2 else q.2)
      else
        inputEvent 5 (od s ix 9) n.val (od s ix 7) (od s ix (if c.raw then 5 else 6)) t
          (level (200 + n.val) c.raw (setGpio q.2 n.val { c with acc := c.raw, t0 := 0 })))

/-! ### Controller inputs (R568 to R570) -/

def cvIx (i : Nat) : Nat := 0x2B00 + i

def cvSt (s : State) (i : Nat) : CvSt := Tbl.get {} s.audio.cv i

def setCv (s : State) (i : Nat) (x : CvSt) : State := onAudio (fun a => { a with cv := Tbl.put {} a.cv i x }) s

/-- One conversion of one input. -/
def cvConvert (t i code : Nat) (s : State) : State :=
  let x := cvSt s i
  let up := !x.high && decide (od s (cvIx i) 2 ≤ code)
  let down := x.high && decide (code ≤ od s (cvIx i) 3)
  let y : CvSt := { x with old := x.code, code := code, time := t, high := if up then true else if down then false else x.high,
                           moved := if up || down then t else x.moved }
  let s1 := setCv s i y
  let typed := od s (cvIx i) 4 ≠ 0 ∨ od s (cvIx i) 5 ≠ 0
  if !(up || down) ∨ !typed ∨ quarantined s (0x500 + i) then s1
  else
    let q := countMove (0x500 + i) t s1
    if q.1 then (if x.high then inputEvent 4 (od s (cvIx i) 6) i 0 (od s (cvIx i) 5) t q.2 else q.2)
    else inputEvent 4 (od s (cvIx i) 6) i (16 * code) (od s (cvIx i) (if up then 4 else 5)) t q.2

/-- CV_CONVERSION (R568 to R570): conversion number k, at 250,000 k ns. -/
def execCvConversion (k : Nat) (codes : List (BitVec 12)) (s : State) : Out :=
  .next (((codes.take 16).zipIdx).foldl (fun s e => cvConvert (250000 * k) e.2 e.1.toNat s) (atNs (250000 * k) s))

/-- A write of an input's objects configures it anew: its threshold state starts low. -/
def cvReset (i : Nat) (s : State) : State := setCv s i { cvSt s i with high := false }

/-- QUARANTINE_RELEASE (R574) of a source at t ns, still for 2,000 ms. -/
def execQuarantineRelease (src : Fin 1296) (t : Nat) (s0 : State) : Out :=
  let s := atNs t s0
  let n := src.val
  let moved := if n < 0x400 then (contact s n).moved else if n < 0x500 then (gpioSt s (n - 0x400)).moved else (cvSt s (n - 0x500)).moved
  .next (if !quarantined s n ∨ t < moved + 2000000000 then s
    else
      let s1 := onAudio (fun a => { a with quar := a.quar.filter (· != n), moves := Tbl.put [] a.moves n [] }) s
      let s2 :=
        if n < 0x400 then setContact s1 n { contact s1 n with acc := (contact s1 n).raw, t0 := 0 }
        else if n < 0x500 then
          let c := gpioSt s1 (n - 0x400)
          let e := evcSrc s1.evc (200 + (n - 0x400))
          { setGpio s1 (n - 0x400) { c with acc := c.raw, t0 := 0 } with evc := evcPut s1.evc (200 + (n - 0x400)) { e with inp := c.raw } }
        else s1
      fire 196 s2)

/-! ### MIDI (R555 to R559) -/

def rep7 (v : Nat) : Nat := v * 512 ||| v * 4 ||| v / 32

/-- A MIDI input: 0 DIN, 1 USB. -/
def midiIn (s : State) (u : Nat) : MidiIn := if u = 0 then s.audio.din else s.audio.usbMidi

def setMidiIn (s : State) (u : Nat) (x : MidiIn) : State :=
  onAudio (fun a => if u = 0 then { a with din := x } else { a with usbMidi := x }) s

/-- One message enters a Drover queue of 256 (R557). -/
def midiQueue (u : Nat) (m : Bytes) (s : State) : State :=
  let x := midiIn s u
  let src := if u = 0 then 194 else 230
  if x.queue.length ≥ 256 then
    let s1 := setMidiIn s u { x with overruns := sat32 x.overruns }
    if u = 0 then fire 195 s1 else s1
  else fire src (setMidiIn s u { x with queue := x.queue ++ [m] })

/-- A byte string in chunks of up to 16 bytes. -/
def chunks : Nat → Bytes → List Bytes
  | 0, _ => []
  | f + 1, b => if b.length ≤ 16 then [b] else b.take 16 :: chunks f (b.drop 16)

/-- A message for the Drover queue; a system-exclusive message goes in chunks. -/
def midiToQueue (u : Nat) (m : Bytes) (s : State) : State :=
  if m.head? = some 0xF0 then (chunks m.length m).foldl (fun s c => midiQueue u c s) s else midiQueue u m s

/-- What a routed message does (Table 15.5): event type, or none, note, velocity and the channel's new hold state. -/
def midiRoute (hold : Bool) (m : Bytes) : Option (Option (Nat × Nat × Nat) × Bool) :=
  match m with
  | [st, a, b] =>
    let k := st.toNat / 16
    let v := b.toNat
    if k = 9 then some (some (if v = 0 then (2, a.toNat, 0) else (1, a.toNat, rep7 v)), hold)
    else if k = 8 then some (some (2, a.toNat, rep7 v), hold)
    else if k = 11 ∧ a = 64 then
      (if v ≥ 64 ∧ !hold then some (some (3, 0, rep7 v), true)
       else if v < 64 ∧ hold then some (some (4, 0, rep7 v), false)
       else some (none, hold))
    else none
  | _ => none

/-- A MIDI 2.0 channel voice message (8 bytes, first byte first). -/
def midi2Route (hold : Bool) (m : Bytes) : Option (Option (Nat × Nat × Nat) × Bool) :=
  match m with
  | [_, st, a, _, d0, d1, d2, d3] =>
    let k := st.toNat / 16
    let v := d0.toNat * 256 + d1.toNat
    if k = 9 then some (some (1, a.toNat, v), hold)
    else if k = 8 then some (some (2, a.toNat, v), hold)
    else if k = 11 ∧ a = 64 then
      let up := decide (v * 65536 + d2.toNat * 256 + d3.toNat ≥ 2 ^ 31)
      (if up && !hold then some (some (3, 0, v), true) else if !up && hold then some (some (4, 0, v), false) else some (none, hold))
    else none
  | _ => none

/-- A message of an input on a channel: to the Starter, to the Drover queue, or both (R556). -/
def midiTake (u chan t : Nat) (r : Option (Option (Nat × Nat × Nat) × Bool)) (m : Bytes) (s : State) : State :=
  let routing := odBool s (0x2830 + u) 1
  match (if routing then r else none) with
  | none => midiToQueue u m s
  | some (e, hold) =>
    let x := midiIn s u
    let s1 := setMidiIn s u { x with hold := Tbl.put false x.hold chan hold }
    let s2 := match e with
      | some (ty, note, vel) => inputEvent (1 + u) chan note vel ty t s1
      | none => s1
    if odBool s (0x2830 + u) 2 then midiToQueue u m s2 else s2

/-! The DIN output (R558). -/

/-- The first byte of the messages of a source, with what is left and the status in force: a message in running status gets
its status byte where the last one to leave was another, or another source's. -/
def dinPop (src : Nat) (run : Nat × Nat) : List (Nat × Bytes) → Option Byte × List (Nat × Bytes) × (Nat × Nat)
  | [] => (none, [], run)
  | (_, []) :: rest => (none, rest, run)
  | (st, b :: bs) :: rest =>
    if b.toNat < 0x80 ∧ st ≠ 0 ∧ run ≠ (src, st) then (some (BitVec.ofNat 8 st), (st, b :: bs) :: rest, (src, st))
    else (some b, if bs = [] then rest else (st, bs) :: rest,
          if 0x80 ≤ b.toNat ∧ b.toNat < 0xF0 then (src, b.toNat) else if 0x80 ≤ b.toNat ∧ b.toNat < 0xF8 then (0, 0) else run)

/-- The next byte of the DIN output, and the output after it. -/
def dinNext (x : DinOut) : Option Byte × DinOut :=
  match x.thru.find? (fun m => match m.2 with | [b] => decide (0xF8 ≤ b.toNat) | _ => false) with
  | some m => (m.2.head?, { x with thru := x.thru.erase m })
  | none =>
    if !x.inMsg && x.thru != [] then
      let r := dinPop 1 x.run x.thru
      (r.1, { x with thru := r.2.1, run := r.2.2 })
    else
      let r := dinPop 2 x.run x.queue
      (r.1, { x with queue := r.2.1, run := r.2.2, inMsg := decide (r.2.1.length = x.queue.length ∧ x.queue ≠ []) })

/-- Start the next byte if none is leaving. -/
def dinGo (s : State) : State :=
  let x := s.audio.dinOut
  if x.busy.isSome then s
  else
    match dinNext x with
    | (some b, y) => { onAudio (fun a => { a with dinOut := { y with busy := some b } }) s with sent := s.sent ++ [.din b] }
    | (none, y) => onAudio (fun a => { a with dinOut := y }) s

def dinThru (st : Nat) (m : Bytes) (s : State) : State :=
  if odBool s 0x2830 3 then dinGo (onAudio (fun a => { a with dinOut := { a.dinOut with thru := a.dinOut.thru ++ [(st, m)] } }) s)
  else s

/-- The running status after a status byte (R555). -/
def runAfter (st old : Nat) : Nat := if 0x80 ≤ st ∧ st < 0xF0 then st else if st < 0xF8 then 0 else old

/-- DIN_MIDI_MESSAGE (R555 to R558): the bytes of a whole message, whose last byte's stop bit is sampled at t ns; in running
status it has no status byte. -/
def execDinMidiMessage (m : List (BitVec 8)) (t : Nat) (s : State) : Out :=
  match m with
  | [] => .next s
  | b :: _ =>
    let s1 := atNs t s
    let old := s1.audio.din.running
    if b.toNat < 0x80 ∧ old = 0 then .next s1
    else
      let full := if b.toNat < 0x80 then BitVec.ofNat 8 old :: m else m
      let st := if b.toNat < 0x80 then old else b.toNat
      let chan := st % 16
      let s2 := dinThru (if b.toNat < 0x80 then old else 0) m (setMidiIn s1 0 { s1.audio.din with running := runAfter st old })
      .next (midiTake 0 chan t (midiRoute (Tbl.get false s1.audio.din.hold chan) full) full s2)

/-- MIDI_FRAMING_ERROR (R555). -/
def execMidiFramingError (s : State) : Out :=
  .next (setMidiIn s 0 { s.audio.din with framing := sat32 s.audio.din.framing, running := 0 })

/-- MIDI_OUT_BYTE_DONE (R558). -/
def execMidiOutByteDone (s : State) : Out :=
  .next (if s.audio.dinOut.busy.isNone then s else dinGo (onAudio (fun a => { a with dinOut := { a.dinOut with busy := none } }) s))

/-- The length of a MIDI 1.0 message by its status byte; 0: system exclusive. -/
def midiLength (st : Nat) : Nat :=
  if st < 0xC0 then 3 else if st < 0xE0 then 2 else if st < 0xF0 then 3 else if st = 0xF0 then 0
  else if st = 0xF1 ∨ st = 0xF3 then 2 else if st = 0xF2 then 3 else 1

/-- Bytes up to and with an F7, and the rest. -/
def sysexEnd : Bytes → Option (Bytes × Bytes)
  | [] => none
  | b :: bs => if b = 0xF7 then some ([b], bs) else (sysexEnd bs).map (fun r => (b :: r.1, r.2))

/-- Complete messages; one without a status byte runs on the channel status before it. -/
def splitMidi : Nat → Nat → Bytes → Option (List (Nat × Bytes))
  | _, _, [] => some []
  | 0, _, _ => none
  | f + 1, run, b :: bs =>
    if b = 0xF0 then
      match sysexEnd bs with
      | some r => if (r.1.dropLast).all (fun b => decide (b.toNat < 0x80)) then (splitMidi f 0 r.2).map ((0, b :: r.1) :: ·) else none
      | none => none
    else if b.toNat < 0x80 ∧ run = 0 then none
    else
      let n := if b.toNat < 0x80 then midiLength run - 2 else midiLength b.toNat - 1
      let next := if b.toNat < 0x80 then run else runAfter b.toNat run
      if bs.length < n ∨ (bs.take n).any (fun b => decide (0x80 ≤ b.toNat)) then none
      else (splitMidi f next (bs.drop n)).map ((if b.toNat < 0x80 then run else 0, b :: bs.take n) :: ·)

/-- Effect of a write of OD 2830.06 (R558): 1 to 256 bytes. -/
def midiSend (b : Bytes) (s : State) : Status × State :=
  if b = [] then (.type, s)
  else match splitMidi b.length 0 b with
    | none => (.range, s)
    | some ms =>
      let x := s.audio.dinOut
      if (x.queue.map (·.2.length)).sum + b.length > 1024 then (.busy, s)
      else (.ok, dinGo (onAudio (fun a => { a with dinOut := { a.dinOut with queue := a.dinOut.queue ++ ms } }) s))

/-- The bytes of a USB MIDI 1.0 packet by its code index number. -/
def cinBytes (cin : Nat) (b : Bytes) : Bytes :=
  b.take (match cin with | 2 => 2 | 3 => 3 | 4 => 3 | 5 => 1 | 6 => 2 | 7 => 3 | 0xC => 2 | 0xD => 2 | 0xF => 1 | _ => 3)

/-- USB_MIDI_PACKET (R559): a USB MIDI 1.0 packet of 4 bytes, or a Universal MIDI Packet with its first byte first, which
the device controller completes at t ns. -/
def execUsbMidiPacket (pkt : List (BitVec 8)) (t : Nat) (s : State) : Out :=
  let s1 := atNs t s
  match pkt with
  | [] => .next s
  | h :: rest =>
    let hold (c : Nat) : Bool := Tbl.get false s1.audio.usbMidi.hold c
    let chan := (rest.headD 0).toNat % 16
    .next (if !(s1.audio.usb.attached && !s1.audio.usb.suspended) then s1
      else if s1.audio.usb.midiAlt = 0 then
        let m := cinBytes (h.toNat % 16) rest
        if h.toNat / 16 = 0 then midiTake 1 chan t (midiRoute (hold chan) m) m s1 else midiQueue 1 m s1
      else if h.toNat % 16 ≠ 0 then midiQueue 1 pkt s1
      else if h.toNat / 16 = 2 then midiTake 1 chan t (midiRoute (hold chan) rest) rest s1
      else if h.toNat / 16 = 4 then midiTake 1 chan t (midi2Route (hold chan) pkt) pkt s1
      else midiQueue 1 pkt s1)

/-! ### USB (R552 to R554) -/

/-- Port B is on USB. -/
def usbPort (s : State) : Bool := s.dict.carrier == 2

def usbPortReset (s : State) : State := if usbPort s then resetPort .b s else s

/-- The device may be attached (R554). -/
def usbModes (s : State) : Bool :=
  match s.modes.mode with | .perform => true | .maintain => true | .safe => true | .workshop => true | _ => false

/-- Attach or detach by USB_VBUS and the mode. A detached device has lost its settings. -/
def usbSettle (s : State) : State :=
  let u := s.audio.usb
  if u.vbus && usbModes s then onUsb (fun u => { u with attached := true }) s
  else onUsb (fun u => { u with attached := false, suspended := false, audio := 0, midiAlt := 0, inbuf := [] }) s

/-- USB_VBUS_CHANGE (R554). -/
def execUsbVbusChange (on : Bool) (s : State) : Out := .next (usbSettle (onUsb (fun u => { u with vbus := on }) s))

/-- USB_BUS_RESET (R502, R553). -/
def execUsbBusReset (s : State) : Out :=
  .next (if s.audio.usb.attached then
      usbPortReset (fire 229 (onUsb (fun u => { u with suspended := false, audio := 0, midiAlt := 0, inbuf := [] }) s))
    else s)

/-- USB_SUSPEND (R502, R553). -/
def execUsbSuspend (s : State) : Out :=
  .next (if s.audio.usb.attached && !s.audio.usb.suspended then usbPortReset (fire 229 (onUsb (fun u => { u with suspended := true, inbuf := [] }) s)) else s)

/-- USB_RESUME (R553). -/
def execUsbResume (s : State) : Out :=
  .next (if s.audio.usb.attached && s.audio.usb.suspended then fire 229 (onUsb (fun u => { u with suspended := false }) s) else s)

/-- USB_SET_INTERFACE (R552, R559): an alternate setting of audio or of MIDI. -/
def execUsbSetInterface (midi : Bool) (alt : Fin 2) (s : State) : Out :=
  .next (if s.audio.usb.attached then
      onUsb (fun u => if midi then { u with midiAlt := alt.val } else { u with audio := alt.val, inbuf := [] }) s
    else s)

/-- USB_SET_CUR (R552): result 1 tells that the request is stalled, any frequency but the house rate's. -/
def execUsbSetCur (freq : Nat) (s : State) : Out := .next { s with result := if freq = rateHz s.grid.rate then 0 else 1 }

/-- Device-to-host samples whose time has come: instants from a to b - 1. -/
def usbFrames (s : State) (a b : Nat) : Bytes :=
  (List.range (b - a)).flatMap (fun j => (List.range (usbChannels s)).flatMap (fun c =>
    leBytes 3 (Tbl.get 0 s.audio.talk (64 * chKey 4 c + (a + j) % 64)).toNat))

/-- USB_AUDIO_TRANSACTION (R552, R553): kind 0 OUT with its samples channel by channel, 1 IN, 2 feedback, at t ns. -/
def execUsbAudioTransaction (kind : Fin 3) (samples : List (BitVec 24)) (t : Nat) (s0 : State) : Out :=
  let s := atNs t s0
  let ch := usbChannels s
  .next (if !(usbAudioOn s && s.grid.running) then s
    else match kind.val with
    | 0 =>
      let tag := tagOf s (t + 250000)
      let buf := (samples.zipIdx).foldl (fun b e =>
        let n := tag + e.2 / ch
        if n < s.audio.count then b else Tbl.put 0 b (512 * n + e.2 % ch) (e.1.toNat + 1)) s.audio.usb.inbuf
      onUsb (fun u => { u with inbuf := buf }) s
    | 1 =>
      let x := s.audio.usb.sentTo
      let since : Int := (nsTicks t : Int) - nsTicks 250000 - s.grid.epoch
      let due := min s.audio.count (if since < 0 then 0 else since.toNat / sampleTicks s.grid.rate + 1)
      let a := max x (due - 63)
      { onUsb (fun u => { u with sentTo := max x due }) s with sent := s.sent ++ [.usb (usbFrames s a due)] }
    | _ => { s with sent := s.sent ++ [.usb (leBytes 4 (rateHz s.grid.rate * 65536 / 8000))] })

/-- A change of house rate detaches the device and attaches it again (R552). -/
def usbReattach (s : State) : State :=
  if s.audio.usb.attached then onUsb (fun u => { u with suspended := false, audio := 0, midiAlt := 0, inbuf := [], sentTo := 0 }) s else s

end Sys2Proof.Machine
end

