-- ==== Sys2Proof/Machine/LoadOps.lean ====
section
/-! DEFINITION. What follows from the admitted load: rings of streaming pools (R366), programs of the cores (R124), and
contexts of convoys. -/

namespace Sys2Proof.Machine

/-- The rings that pool p is to have (R366). -/
def ringsWanted (s : State) (p : Nat) : Nat :=
  if od s (0x4400 + p) 12 = 0 ∨ od s (0x4400 + p) 1 = 0 then 0 else poolSize (viewOf s) p

/-- The rings of a pool. -/
def poolRings (s : State) (p : Nat) : List Nat := (s.store.rings.filter (fun e => e.2.grants != 0 && e.2.pool == p)).map (·.1)

/-- Rings that a pool has too many of, the highest idle ones, leave it; the others take its grants. -/
def trimRings (p : Nat) (s : State) : State :=
  let rs := poolRings s p
  let idle := rs.reverse.filter (ringIdle s)
  let gone := idle.take (rs.length - ringsWanted s p)
  { s with store := { s.store with rings := (s.store.rings.filter (fun e => !gone.contains e.1)).map (fun e =>
      if e.2.grants ≠ 0 ∧ e.2.pool = p then (e.1, { e.2 with grants := if od s (0x4400 + p) 12 = 0 then e.2.grants else od s (0x4400 + p) 12 })
      else e) } }

/-- The lowest ring numbers that no pool has. -/
def freeRings (s : State) (n : Nat) : List Nat :=
  ((List.range 4096).filter (fun r => (ringOf s r).grants == 0)).take n

/-- Rings that a pool lacks are added. -/
def growRings (p : Nat) (s : State) : State :=
  (freeRings s (ringsWanted s p - (poolRings s p).length)).foldl (fun s r =>
    setRing s r { pool := p, grants := od s (0x4400 + p) 12 }) s

/-- Rings follow the pools; a ring keeps its number while its pool keeps it (R366). -/
def assignRings (s : State) : State :=
  let old := (s.store.rings.map (fun e => e.2.pool)).eraseDups
  let s1 := old.foldl (fun s p => trimRings p s) s
  (viewOf s1).pools.foldl (fun s p => growRings p s) s1

/-- The distinct kernels of a core. -/
def coreKernels (s : State) (k : Nat) : List Nat :=
  kernelsIn (s.adm.load.slots.filter (fun e => slotCoreIn e.1 e.2 == k))

/-- A program bank that holds a core's kernels, each at its entry point, below the default handler (R124). -/
def programBank (s : State) (k : Nat) : Tbl (BitVec 32) :=
  (coreKernels s k).foldl (fun t i =>
    match s.adm.load.kernel i with
    | some x => Tbl.putAll 0 t (kernelBase s k i) x.program
    | none => t) []

/-- The bank permit mask of a core: what the kernels of its running order are permitted (R125, R406). -/
def setPermits (k : Nat) (s : State) : State :=
  let bpm (i : Nat) : BitVec 24 := (coreKernels s k).foldl (fun m id =>
    match s.adm.load.kernel id with | some x => m ||| BitVec.ofNat 24 (x.permit i) | none => m) 0
  updCore s k (fun c => { c with bpm0 := bpm 0, bpm1 := bpm 1, bpm2 := bpm 2, bpm3 := bpm 3 })

/-- The other program bank of a core takes the programs of the load, and the core runs from it; the cluster's loader tells
of it by its source. -/
def loadPrograms (k : Nat) (s : State) : State :=
  let p := programBank s k
  fire (16 * (k / 8) + 11)
    (updCore s k (fun c => if c.pmb then { c with prog0 := p, pmb := false } else { c with prog1 := p, pmb := true }))

/-- A context that ends at a lap edge: it becomes FREE and leaves what it held (R103, R111, R580). -/
def freeContext (n : Nat) (s : State) : State :=
  let c := ctxOf s n
  if c.hdr.state = .free then s
  else released n (setCtx s n { c with hdr := { c.hdr with state := .free }, marked := false, dirty := false, copying := false })

/-- Every context of a convoy slot ends. -/
def freeSlot (slot : Nat) (s : State) : State := (slotCtxs s slot).foldl (fun s n => freeContext n s) s

end Sys2Proof.Machine
end

