-- ==== Sys2Proof/Machine/Modes.lean ====
section
/-! DEFINITION. Operating modes (R577 to R581), resets (R589, R590), STANDBY (R599 to R602), FAULT_N (R603), and the supply
events of chapter 18. -/

namespace Sys2Proof.Machine

/-- STATE[2:0] (Table 1.7). -/
def Mode.code : Mode → Nat
  | .standby => 0 | .boot => 1 | .perform => 2 | .maintain => 3 | .safe => 4 | .workshop => 5 | .noMode => 7

/-- The STATE balls; none: high-impedance, as before VIN first rises and after the hold-up of a lockout (R25, R647). -/
def stateBalls (s : State) : Option Nat := if s.modes.vin || s.modes.holdUp then some s.modes.mode.code else none

/-- The modes of service. -/
def Mode.serves : Mode → Bool | .perform => true | .maintain => true | _ => false

/-- Module time: it runs on where gPTP time steps or starts again. -/
def absTime (s : State) : Int := s.modes.clock + (s.now : Int)

/-! ### Start-up times (OD F000.06) -/

/-- us since the start of the start-up, from PLL lock on. -/
def startUs (s : State) : Nat := s.modes.up.pllUs + (nsOf s.now - nsOf s.modes.up.pllAt) / 1000

/-- Note the time of a step of OD F000.06, once. -/
def stampAt (i us : Nat) (s : State) : State :=
  onModes (fun m => if Tbl.get 0 m.up.times i ≠ 0 then m
    else { m with up := { m.up with times := Tbl.put 0 m.up.times i (min us 0xFFFFFFFE + 1) } }) s

def stamp (i : Nat) (s : State) : State := stampAt i (startUs s) s

/-- Once PERFORM has been entered: every keymap LOADED, and every head resident. -/
def stampHeads (s : State) : State :=
  if Tbl.get 0 s.modes.up.times 5 = 0 then s
  else
    let s1 := if s.store.keymaps.any (fun e => e.2.state == 1) then s else stamp 6 s
    if s1.store.objects.any (fun e => e.2.state == 3) then s1 else stamp 7 s1

/-- PERFORM has been entered. -/
def stampPerform (s : State) : State := if s.modes.mode = .perform then stampHeads (stamp 5 s) else s

/-! ### Roles (Table 16.7) -/

def defaultRoles : List Nat := [0x11, 0x02, 0x04, 0x28]

/-- The role map of a mode: in SAFE Drover 0 takes every role (R580). -/
def modeRoles (m : Mode) : List Nat := if m = .safe then [0x3F, 0, 0, 0] else defaultRoles

/-- Hold or let go Drovers 1 to 3, with the roles of the mode. -/
def holdDrovers (on : Bool) (m : Mode) (s : State) : State :=
  onModes (fun x => { x with roles := modeRoles m })
    ([1, 2, 3].foldl (fun s d => updDrv s d (fun x => { x with hold := on, wfi := if on then x.wfi else false })) s)

/-! ### Entering a mode (R579 to R581) -/

/-- Every LVU is set to polling mode or to trap mode (R265). -/
def setPolling (on : Nat → Bool) (s : State) : State :=
  (List.range 64).foldl (fun s k => updLvu s k (fun l => if l.busy.isSome then { l with pollNext := some (on k) } else { l with poll := on k })) s

/-- Trap mode but on the cores of clusters that are out: the module leaves BOOT or WORKSHOP. -/
def trapMode (s : State) : State := setPolling (fun k => (clusterOf s (k / 8)).state != 0) s

/-- Every context that is not FREE or POISONED becomes FREE, and its stream closes (R580). -/
def freeAll (s : State) : State :=
  let s1 := (s.ctxs.filter (fun e => e.2.hdr.state.active)).foldl (fun s e => freeContext e.1 s) s
  { s1 with starter := { s1.starter with waiting := [], flight := [], copies := [], notes := [], cands := [] },
            cores := s1.cores.map (fun c => (c.1, { c.2 with starts := [], resident := none })) }

/-- The sample store as SAFE is entered: a service that is not in service resumes (R387). -/
def safeStreaming (s : State) : State :=
  if s.store.service = 1 ∨ s.store.service = 2 then odSet 0xC002 1 0 (setService 3 s) else s

/-- An outage begins (R633). -/
def outageBegins (s : State) : State :=
  match s.avail.began with
  | some _ => s
  | none => { s with avail := { s.avail with began := some (absTime s, s.grid.lapTicks) } }

def enterSafe (cause : Nat) (s : State) : State :=
  let s1 := safeStreaming (endAllApps (freeAll s))
  let s2 := onAudio (fun a => { a with muteLap := s1.grid.lap + 1 }) (holdDrovers true .safe s1)
  let s3 := { s2 with log := { s2.log with ep := s2.log.ep.map (fun e => { e with pendingAct := false }) } }
  if cause = 6 then outageBegins s3 else s3

/-- Service begins: from a mode in which the outputs were muted they are silent for two laps (Table 2.10, log 45). -/
def enterService (old : Mode) (s : State) : State :=
  if old.serves then appAutostart (stampPerform s)
  else
    let s1 := trapMode (holdDrovers false .perform s)
    let s2 := contactsOpen { s1 with grid := { s1.grid with silent := 2 }, avail := { s1.avail with skip := 2 } }
    let s3 := if old = .boot then populateHeads s2
      else { s2 with store := { s2.store with populating := s2.store.objects.any (fun e => e.2.state == 3) } }
    appAutostart (stampPerform s3)

def enterWorkshop (s : State) : State := setPolling (fun _ => true) (holdDrovers false .workshop s)

/-- A start-up ends: its slot is committed where R593 says so, and OD F000.03 has done its work. -/
def startUpEnds (m : Mode) (cause : Nat) (s : State) : State :=
  let s1 := onModes (fun x => { x with up := { x.up with active := false }, guardTrip := false }) s
  let s2 := if s1.modes.boot.toSafe then bootWrite (fun b => { b with toSafe := false }) s1 else s1
  if m = .perform ∨ (m = .safe ∧ cause = 8) then
    bootWrite (fun b => { b with active := s2.modes.slot, pending := none, tries := 0 }) s2
  else s2

/-- FAULT_N in a mode that is entered with a cause (R603): true is high. -/
def faultLevel (m : Mode) (cause : Nat) : Bool := !(m == .safe && cause != 0 && cause != 8)

/-- When the boot-loop guard's count clears (R590): 60 s after PERFORM or MAINTAIN was entered. -/
def guardAfter (old m : Mode) (s : State) : Nat :=
  if !m.serves then 0 else if old.serves then s.modes.guardDue else s.now + nsTicks 60000000000 + 1

/-- The new mode takes effect. -/
def enterMode (m : Mode) (cause : Nat) (s : State) : State :=
  let old := s.modes.mode
  let s1 := onModes (fun x => { x with
    mode := m, next := none, dueLap := 0, cause := cause, guardDue := guardAfter old m s,
    faultN := if m = .standby then x.faultN else some (faultLevel m cause && x.life != 5) }) s
  let s2 := if old = .boot then startUpEnds m cause s1 else s1
  let s3 := match m with
    | .safe => if old.serves then enterSafe cause s2 else trapMode (enterSafe cause s2)
    | .perform => enterService old s2
    | .maintain => enterService old s2
    | .workshop => enterWorkshop s2
    | _ => s2
  usbSettle s3

/-! ### Requests (R577 to R579) -/

/-- The first lap edge at least 2 laps after now. -/
def edgeAfter2 (s : State) : Nat :=
  let g := s.grid
  g.epochLap + ceilDiv ((s.now + 2 * g.lapTicks : Nat) - g.epoch).toNat g.lapTicks

/-- A transition is accepted. -/
def setNext (m : Mode) (cause due : Nat) (s : State) : State := onModes (fun x => { x with next := some (m, cause), dueLap := due }) s

/-- The admitted load passes admission at the house rate in force. -/
def loadPasses (s : State) : Bool :=
  let v := viewOf s
  (checkOff s [v]).isNone && (!v.reserve || (checkReserve s [v]).isNone)

/-- No cluster is out and the streaming service is in service. -/
def nothingOut (s : State) : Bool := (List.range 8).all (fun c => (clusterOf s c).state == 0) && s.store.service == 0

/-- The conditions of Table 16.2 on a request. -/
def transitionOk (s : State) (m : Mode) : Bool :=
  match s.modes.mode, m with
  | .perform, .maintain => true
  | .maintain, .perform => nothingOut s
  | .perform, .safe => true
  | .maintain, .safe => s.store.service == 0
  | .safe, .perform => loadPasses s
  | .safe, .workshop => s.modes.life == 0 || s.modes.life == 1 || s.modes.life == 3 || s.modes.life == 4
  | .workshop, .safe => true
  | .perform, .standby => true
  | .maintain, .standby => true
  | .safe, .standby => true
  | .workshop, .standby => true
  | _, _ => false

/-! ### STANDBY (R599 to R602) -/

/-- Talker streams and declarations are withdrawn, and ADP tells of the departure. -/
def departNetwork (s : State) : State :=
  [0, 1].foldl (fun s p =>
    if (netPort s p).up then
      let s1 := (portTalkers s p).foldl (fun s i => declareTalker p i false s) (emitFrame p .adpDeparting [clockIdentity] s)
      (portListeners s p).foldl (fun s i => declareListener p i false s) s1
    else s) s

/-- Open import sessions end and their ids become FREE. -/
def endImports (s : State) : State :=
  (List.range 3).foldl (fun s i =>
    let x := sessionOf s i
    if x.state = 1 ∨ x.state = 2 ∨ x.state = 3 then freeObject (objRec x.record).id (setSession s i {}) else s) s

/-- Steps 2 to 4 of the entry, in one with what follows until its end. -/
def standbyGo (s : State) : State :=
  let s1 := onModes (fun m => { m with entering := 2 }) s
  let s2 := onAudio (fun a => { a with muteLap := s1.grid.lap + 1 }) (endAllApps (departNetwork s1))
  let s3 := resetPort .b (resetPort .a s2)
  endImports { s3 with man := { s3.man with tbl := [], queue := [], group := 0, tied := false }, held := s3.held.filter (fun w => w.atLap.isNone) }

/-- Entry to STANDBY begins. -/
def standbyBegin (cause : Nat) (s : State) : State :=
  let s1 := onModes (fun m => { m with standbyCause := cause, next := none, entering := if m.upd.state = 5 then 3 else 1 }) s
  if s1.modes.upd.state = 5 then s1
  else if s1.store.service = 0 then standbyGo s1
  else if s1.store.service = 3 then s1
  else odSet 0xC002 1 0 (setService 3 s1)

/-- The mode that a value of OD F000.01 asks for (R578). -/
def requestedMode (v : Nat) : Option Mode :=
  match v with | 0 => some .standby | 2 => some .perform | 3 => some .maintain | 4 => some .safe | 5 => some .workshop | _ => none

/-- A request at OD F000.01 (R578). -/
def modeRequest (v : Nat) (s : State) : Status × State :=
  match requestedMode v with
  | none => (.range, s)
  | some m =>
    if s.modes.next.isSome ∨ s.modes.entering ≠ 0 then (.busy, s)
    else if s.modes.mode = m then (.ok, s)
    else if !transitionOk s m then (.state, s)
    else
      let s1 := onModes (fun x => { x with faultN := some (x.life != 5) }) (odSet 0xF000 1 v s)
      (.ok, if m = .standby then standbyBegin 0 s1 else setNext m 0 (edgeAfter2 s1) s1)

/-- The module enters MAINTAIN by itself at the next lap edge (R618, Table 16.2). -/
def autoMaintain (s : State) : State :=
  match s.modes.mode, s.modes.next with
  | .perform, some (.safe, _) => s
  | .perform, _ => if s.modes.entering = 0 then setNext .maintain 2 0 s else s
  | _, _ => s

/-- The last cluster that was out has returned: MAINTAIN that was entered automatically ends (Table 16.2). -/
def autoPerform (s : State) : State :=
  if s.modes.mode = .maintain ∧ (s.modes.cause = 2 ∨ s.modes.cause = 7) ∧ nothingOut s ∧ s.modes.next = none ∧ s.modes.entering = 0 then
    setNext .perform 2 0 s
  else s

/-- Persistent objects as they stand (R482). -/
def persistSet (s : State) : Tbl Bytes :=
  s.dict.od.filter (fun e => match odRow (e.1 / 256) (e.1 % 256) with | some r => r.fl.testBit 0 | none => false)

/-! ### Resets -/

/-- A cluster as the always-on island keeps it: quarantined, or retired (R617). -/
def keepCluster (x : ClusterSt) : ClusterSt :=
  { quars := x.quars, state := if x.state = 4 ∨ x.state = 5 then 4 else if x.state = 6 then 6 else 0 }

/-- An object of the store as a start-up finds it: the head is not kept, and an import that had not ended leaves none. -/
def keepObject (o : SObj) : Option SObj :=
  match o.state with
  | 3 => some { o with headOff := 0 }
  | 4 => some { o with state := 3, headOff := 0 }
  | _ => none

def keepStore (x : Store) : Store :=
  { objects := x.objects.filterMap (fun e => (keepObject e.2).map (fun o => (e.1, o))),
    blocks := x.blocks.map (fun e => (e.1, { e.2 with moving := false })), supers := x.supers.map (fun e => (e.1, { e.2 with moving := false })),
    taken := x.taken, flash := x.flash }

/-- Applications as the system area holds them. -/
def keepApps (x : Apps) : Apps :=
  { tbl := x.tbl.filterMap (fun e => if e.2.image = [] then none else some (e.1, ({ state := 1, image := e.2.image } : App))) }

/-- Every island but the always-on island is reset (R589). The ring of error records and control RAM stay. -/
def islandsReset (s : State) : State :=
  { s with
    grid := { s.grid with running := false, change := none, sealed := false, silent := 0, regrid := false }
    ctxs := [], held := [], starter := {}, adm := {}, relay := {}, man := {}, cores := [], csm := [], csmUpset := []
    dram := [], dramUpset := [], evc := Evc.start
    log := { s.log with ep := none, corrAt := [], corrSince := [] }
    clus := (s.clus.map (fun e => (e.1, keepCluster e.2))).filter (fun e => e.2 != {})
    dict := { saved := s.dict.saved, savedLoad := s.dict.savedLoad, savedOk := s.dict.savedOk, loadDefaults := s.dict.loadDefaults,
              keys := s.dict.keys, nonce := s.dict.nonce, portB := { ctrIn := s.dict.portB.ctrIn },
              last := s.dict.last, lastBody := s.dict.lastBody }
    modes := { s.modes with next := none, dueLap := 0, cause := s.modes.cause, fatalDue := 0, guardDue := 0, roles := defaultRoles, entering := 0,
                            upd := {}, words := [] }
    store := keepStore s.store
    drv := State.reset.drv, apps := keepApps s.apps, net := {}
    audio := { usb := { vbus := s.audio.usb.vbus } }
    overruns := [], overLaps := 0, microFaults := 0, corrMicro := 0
    test := { fuses := s.test.fuses, rows := s.test.rows } }

/-- Control RAM loses its contents, and with them the records not yet archived (R614). -/
def cramLost (s : State) : State :=
  { s with cram := [], cramUpset := []
           log := { s.log with ring := [], newest := match s.log.archive.getLast? with | some r => r.seq | none => 0 } }

/-- The always-on island loses its state: all but fuses and the boot record (R589). -/
def alwaysOnCleared (s : State) : State :=
  { s with
    grid := { s.grid with fresh := true }
    clus := []
    avail := { service := s.avail.saved.1, impaired := s.avail.saved.2.1, outage := s.avail.saved.2.2.1, offLaps := s.avail.saved.2.2.2,
               saved := s.avail.saved }
    modes := { s.modes with warm := 0, warmAt := [], guardTrip := false, token := none, kept := none, alarm := 0, alarmOn := false,
                            trip := false, cooled := false } }

/-- Every rail has gone down. -/
def powerLost (s : State) : State :=
  let s1 := cramLost (alwaysOnCleared (islandsReset s))
  { s1 with modes := { s1.modes with mode := .noMode, rails := false, holdUp := false, faultN := none, up := {} }
            log := { s1.log with dropped := 0, episodes := 0, lastEp := 0, corrected := [] }
            supply := {} }

/-- Both nonces are drawn anew (OD 1012.04, OD F001.03). -/
def drawNonces (s : State) : State :=
  let a := takeFree s
  let b := takeFree a.2
  { b.2 with dict := { b.2.dict with nonce := BitVec.ofNat 32 a.1, portB := { b.2.dict.portB with ctrIn := 0, ctrOut := 0 } },
             modes := { b.2.modes with nonce := BitVec.ofNat 32 b.1 } }

/-- A start-up begins, from step 2 of Table 16.4 or from step 4: its cause in the codes of OD F030.08. -/
def startUp (rails wake : Bool) (cause : Nat) (s : State) : State :=
  onModes (fun m => { m with mode := .noMode, next := none, faultN := some (m.life != 5), lastStart := cause, trip := false, cooled := false, holdUp := false,
                             up := { active := true, wake := wake, done := if rails then [.power] else [] } }) s

/-- A warm reset (R589, R590). -/
def warmReset (error : Bool) (s : State) : State :=
  let t := absTime s
  let recent := s.modes.warmAt.filter (fun x => decide (t - x ≤ (nsTicks 60000000000 : Nat))) ++ [t]
  let s1 := if error then outageBegins s else s
  let s2 := islandsReset { s1 with grid := { s1.grid with fresh := true } }
  drawNonces (startUp true false 3
    (onModes (fun m => { m with warm := min 65535 (m.warm + 1), warmAt := recent, guardTrip := decide (recent.length ≥ 3), kept := none }) s2))

/-! ### The commands -/

/-- POWER_UP (R582): VIN valid with PWR_EN high, after a time without supply. While RESET_N is low, start-up waits for its
release (R589). -/
def execPowerUp (s : State) : Out :=
  .next (if s.modes.mode ≠ .noMode ∨ s.modes.vin then s
    else if !s.modes.resetN then onModes (fun m => { m with vin := true, pwrEn := true }) (alwaysOnCleared s)
    else drawNonces (startUp false false 0 (onModes (fun m => { m with vin := true, pwrEn := true }) (alwaysOnCleared s))))

/-- The always-on island wakes the module (R471, R601, R602). Without retention the EVC comes up at its reset values. -/
def wakeModule (s : State) : State :=
  if s.modes.mode = .standby ∧ s.modes.pwrEn ∧ s.modes.resetN ∧ s.evc.asleep ∧ evcWork s.evc then
    startUp s.modes.rails s.modes.kept.isSome 4 { s with evc := if s.modes.retained then evcWake s.now s.evc else Evc.start }
  else s

/-- ALWAYS_ON_WAKE (R471, R601). -/
def execAlwaysOnWake (s : State) : Out := .next (wakeModule s)

/-- PWR_EN_RISE (R601, R645): source 296 fires, which wakes the module from STANDBY; a thermal trip that has cooled ends. -/
def execPwrEnRise (s : State) : Out :=
  .next (
    if s.modes.pwrEn then s
    else
      let s1 := level 296 true (onModes (fun m => { m with pwrEn := true }) s)
      if s1.modes.trip && s1.modes.cooled then startUp false false 1 s1 else s1)

/-- PWR_EN_FALL (R599): entry to STANDBY, from BOOT only once it holds. -/
def execPwrEnFall (s : State) : Out :=
  .next (
    let s1 := level 296 false (onModes (fun m => { m with pwrEn := false }) s)
    if s1.modes.entering ≠ 0 then s1
    else
      match s1.modes.mode with
      | .perform => standbyBegin 9 s1
      | .maintain => standbyBegin 9 s1
      | .safe => standbyBegin 9 s1
      | .workshop => standbyBegin 9 s1
      | .boot => if s1.modes.up.hold then standbyBegin 9 s1 else s1
      | _ => s1)

/-- The EVC as STANDBY is entered (R468, R601). -/
def standbyEvc (wakes : Bool) (e : Evc) : Evc :=
  let on (n : Nat) (e : Evc) : Evc := evcPut e n { evcSrc e n with en := true, tgt := 1 }
  let e1 := on 296 e
  evcSleep (if wakes then on 295 e1 else e1)

/-- The saved set is complete in both copies (R482). -/
def saveCommit (s : State) : State :=
  match s.dict.saveSet with
  | none => s
  | some t =>
    let d : Dict := { s.dict with saved := t.1, savedLoad := t.2.1, savedOk := true, saveSet := none, saving := none, saveState := 2 }
    bootWrite (fun b => { b with rate := t.2.2.1, nLap := t.2.2.2 }) { s with dict := d }

/-- What the entry to STANDBY keeps and what it loses. -/
def standbyState (retain : Bool) (cause : Nat) (s : State) : State :=
  let kept := if retain && !s.modes.up.hold then some (persistSet s, s.adm.load) else none
  let evc := standbyEvc (odBool s 0xF020 3) (if retain then s.evc else Evc.start)
  let av := { s.avail with saved := (s.avail.service, s.avail.impaired, s.avail.outage, s.avail.offLaps) }
  let s1 := islandsReset (saveCommit s)
  let s2 := if retain then s1 else cramLost s1
  { s2 with evc := evc, avail := av, supply := { s2.supply with vout := 2, hot := odInt s 0xF030 6, low := od s 0xF030 7 }
            grid := { s2.grid with fresh := s.grid.fresh }
            modes := { s2.modes with mode := .standby, cause := cause, kept := kept, retained := retain, rails := false, up := { hold := s.modes.up.hold } } }

/-- STANDBY_ENTRY_DONE (R599). -/
def execStandbyEntryDone (s : State) : Out :=
  .next (if s.modes.entering = 2 then standbyState (odBool s 0xF020 1) s.modes.standbyCause s else s)

/-- STREAMING_RESUMED (R387, R599). -/
def execStreamingResumed (s : State) : Out :=
  .next (
    let s1 := streamingResumed s
    if s1.modes.entering = 1 ∧ s1.store.service = 0 then standbyGo s1 else autoPerform s1)

/-- RESET_N_ASSERT (R589): RESET_N has been low for 10 us. -/
def execResetNAssert (s : State) : Out :=
  .next (
    let s1 := alwaysOnCleared (islandsReset s)
    if !s.modes.vin then onModes (fun m => { m with resetN := false }) s
    else { s1 with now := 0, modes := { s1.modes with resetN := false, mode := .noMode, up := {}, faultN := some (s.modes.life != 5) } })

/-- RESET_N_RELEASE (R589, R655). -/
def execResetNRelease (s : State) : Out :=
  .next (
    let s1 := onModes (fun m => { m with resetN := true }) s
    if !s.modes.vin ∨ s.modes.resetN then s1
    else if s.modes.pwrEn then drawNonces (startUp s.modes.rails false 2 s1)
    else { s1 with evc := standbyEvc true s1.evc, modes := { s1.modes with mode := .standby, rails := false } })

/-- WARM_RESET_REQUEST's effect (R589). -/
def warmResetWrite (s : State) : Status × State := (.ok, warmReset false s)

/-- FATAL_RESET_TIMER (R616). -/
def execFatalResetTimer (s : State) : Out :=
  .next (if s.modes.fatalDue = 0 then s else warmReset true (advance (s.modes.fatalDue - 1) s))

/-- BOOT_LOOP_GUARD_CLEAR (R590): the module has been in PERFORM or MAINTAIN for 60 s. -/
def execBootLoopGuardClear (s : State) : Out :=
  .next (if s.modes.guardDue = 0 then s
    else onModes (fun m => { m with warmAt := [], guardDue := 0 }) (advance (s.modes.guardDue - 1) s))

/-- ALARM_EXPIRY (R600): gPTP time reaches the alarm. -/
def execAlarmExpiry (s : State) : Out :=
  .next (if s.modes.alarmOn then fire 295 (onModes (fun m => { m with alarmOn := false }) (advance (nsTicks s.modes.alarm) s)) else s)

/-- THERMAL_TRIP (R645). -/
def execThermalTrip (s : State) : Out :=
  .next (if !s.modes.rails ∨ s.modes.holdUp ∨ s.modes.trip then s
    else
      let evc := evcSleep s.evc
      let s1 := cramLost (islandsReset s)
      { s1 with evc := evc, supply := { s1.supply with vout := 2 }
                modes := { s1.modes with mode := .noMode, trip := true, cooled := false, rails := false, up := {}, faultN := some false } })

/-- THERMAL_TRIP_END (R645). -/
def execThermalTripEnd (s : State) : Out :=
  .next (if !s.modes.trip then s
    else if s.modes.pwrEn then startUp false false 1 s
    else onModes (fun m => { m with cooled := true }) s)

/-- VIN_LOCKOUT (R642): in STANDBY the supply is simply removed. -/
def execVinLockout (s : State) : Out :=
  .next (if !s.modes.vin then s
    else
      let s1 := onModes (fun m => { m with vin := false }) s
      if s.modes.mode = .standby then powerLost s1
      else { s1 with grid := { s1.grid with running := false }, supply := { s1.supply with vout := 2 }
                     modes := { s1.modes with mode := .noMode, next := none, guardDue := 0, entering := 0, holdUp := true, trip := false, up := {}, faultN := some false } })

/-- HOLD_UP_END (R642): the store has completed or abandoned its programs, and every rail goes down. -/
def execHoldUpEnd (s : State) : Out := .next (if s.modes.holdUp then powerLost s else s)

/-- SUPPLY_MONITOR_TICK (R644): mV, tenths of a degree C, mW, and the state of VOUT33. -/
def execSupplyMonitorTick (vin : Nat) (temp junction : Int) (power : Nat) (vout : Fin 3) (s : State) : Out :=
  let s1 := { s with supply := { s.supply with vin := vin, case_ := temp, junction := junction, power := power, vout := vout.val } }
  let asleep := s.modes.mode == .standby || s.modes.mode == .noMode
  let hot := if asleep then s.supply.hot else odInt s1 0xF030 6
  let low := if asleep then s.supply.low else od s1 0xF030 7
  let s2 := if temp ≥ hot then level 339 true s1 else if temp < hot - 19 then level 339 false s1 else s1
  .next (if vin ≤ low then level 340 true s2 else if vin ≥ low + 100 then level 340 false s2 else s2)

end Sys2Proof.Machine
end

