-- ==== Sys2Proof/Machine/Boot.lean ====
section
/-! DEFINITION. Start-up step by step (R582 to R588), the reset of one Drover (R591), firmware updates (R595 to R598) and the
life cycle (R604 to R606). -/

namespace Sys2Proof.Machine

/-! ### Steps of Table 16.4 -/

def upDone (s : State) (x : StartStep) : Bool := s.modes.up.done.contains x

/-- A start-up goes on: every step that a step depends on is complete, and it has not ended itself. -/
def upReady (s : State) (need : List StartStep) (x : StartStep) : Bool :=
  s.modes.up.active && !s.modes.up.hold && s.modes.resetN && need.all (upDone s) && !upDone s x

def upEnds (x : StartStep) (s : State) : State := onModes (fun m => { m with up := { m.up with done := m.up.done ++ [x] } }) s

/-- A failure of Table 16.5 that is logged with code 0x19 (log 46). -/
def upFails (row cls cluster : Nat) (s : State) : State :=
  logRecord 0 cls 0x19 cluster 0xFF (leBytes 1 row ++ List.replicate 7 0)
    (onModes (fun m => { m with up := { m.up with rows := m.up.rows ++ [row] } }) s)

/-- BOOT hold (R587): network links stay down. A module whose PWR_EN fell meanwhile enters STANDBY from there. -/
def bootHold (s : State) : State :=
  let s1 := onModes (fun m => { m with faultN := some false, up := { m.up with hold := true } }) (linkDown 1 (linkDown 0 s))
  if s1.modes.pwrEn then s1 else standbyBegin 9 s1

/-- A cluster is quarantined at start-up (R586): the third quarantine retires it (R617). -/
def quarantineAtStart (row c : Nat) (s : State) : State :=
  let x := clusterOf s c
  let s1 := if x.state = 4 ∨ x.state = 6 then s else setCluster s c (quarantineCount x)
  upFails row 1 c (level (16 * c + 12) true s1)

/-- POWER_SEQUENCING_DONE (step 2): us since the start. Control RAM is cleared unless it was retained. -/
def execPowerSequencingDone (us : Nat) (s : State) : Out :=
  .next (if upReady s [] .power then
      let s1 := if s.modes.up.wake then s else { s with cram := [], cramUpset := [] }
      let s2 := if s1.evc.asleep then { s1 with evc := evcWake s1.now s1.evc } else s1
      stampAt 0 us (upEnds .power { s2 with supply := { s2.supply with vout := 0 }, modes := { s2.modes with rails := true } })
    else s)

/-- The audio island starts the lap grid (R37, R38, R508). -/
def startGrid (s : State) : State :=
  let lap := if s.grid.fresh then 0 else s.grid.lap + 1
  let b := s.modes.boot
  fire 294 { s with grid := { running := true, rate := b.rate, nLap := b.nLap, lap := lap, epoch := s.now, epochLap := lap, fresh := false } }

/-- PLL_LOCK (steps 3 to 5): us since the start; ticks of 32.768 kHz that the always-on island has counted in STANDBY or
after a trip. -/
def execPllLock (us ticks : Nat) (s : State) : Out :=
  .next (if upReady s [.power] .pll then
      let now := if s.grid.fresh then 0 else nsTicks (nsOf s.now + ticks * 1000000000 / 32768)
      let s0 := onModes (fun m => { m with clock := m.clock + (s.now : Int) - (if s.grid.fresh then 0 else (s.now : Int)) }) s
      let dark (x : NetPort) : NetPort := { x with downAt := now + 1 }
      let s1 := startGrid { s0 with now := now, net := { s0.net with p0 := dark s0.net.p0, p1 := dark s0.net.p1 } }
      let s2 := stampAt 1 us (upEnds .pll s1)
      updDrv (onModes (fun m => { m with mode := .boot, up := { m.up with pllUs := us, pllAt := now } }) s2) 0 (fun _ => {})
    else s)

/-- STAGE2_LOAD_DONE (steps 6 and 7a), at gPTP time t: the boot record is read and a slot chosen (R593); on a wake with
retention the stage-2 in control RAM is checked instead (R602). -/
def execStage2LoadDone (t : Nat) (s0 : State) : Out :=
  let s := atNs t s0
  .next (if upReady s [.pll] .stage2 then
      let release (s : State) : State := [1, 2, 3].foldl (fun s d => setDrv s d {}) (stamp 2 (upEnds .stage2 s))
      if s.modes.life = 5 then bootHold s
      else if s.modes.up.wake then release s
      else
        match bootSlot s with
        | (some i, b) => release (onModes (fun m => { m with slot := i }) (if b = s.modes.boot then s else bootWrite (fun _ => b) s))
        | (none, b) => upFails 1 2 0xFF (bootHold (if b = s.modes.boot then s else bootWrite (fun _ => b) s))
    else s)

/-! ### The roll call (R584) -/

/-- The word that OD F002 shows for a station: all ones until it has answered. -/
def rollWord (s : State) (st : Nat) : BitVec 32 := ~~~(Tbl.get 0 s.modes.words st)

/-- A station has answered, and its self-check passed. -/
def stationOk (s : State) (st : Nat) : Bool := Tbl.get 0 s.modes.words st != 0 && (rollWord s st).getLsbD 14

/-- The roll call ends: stations that are missing or failed count (Table 16.5). -/
def rollCallEnds (s : State) : State :=
  let bad := (List.range 13).filter (fun i => !stationOk s i)
  let s1 := upEnds .rollCall s
  if bad.any (fun i => decide (8 ≤ i)) then upFails 3 2 0xFF (bootHold s1)
  else bad.foldl (fun s c => quarantineAtStart 4 c s) s1

/-- ROLL_CALL_ANSWER (R584): the identity word of a station; a later word of the station stands until step 7d ends. -/
def execRollCallAnswer (st : Fin 13) (w : BitVec 32) (s : State) : Out :=
  .next (if s.modes.up.active && !s.modes.up.hold && upDone s .stage2 && !upDone s .sram then
      let s1 := onModes (fun m => { m with words := Tbl.put 0 m.words st.val (~~~w) }) s
      if !upDone s1 .rollCall && (List.range 13).all (fun i => Tbl.get 0 s1.modes.words i != 0) then rollCallEnds s1 else s1
    else s)

/-- ROLL_CALL_TIMEOUT (R584). -/
def execRollCallTimeout (s : State) : Out := .next (if upReady s [.stage2] .rollCall then rollCallEnds s else s)

/-- DRAM_TRAINING_DONE (step 7c), at gPTP time t. -/
def execDramTrainingDone (t : Nat) (ok : Bool) (s0 : State) : Out :=
  let s := atNs t s0
  .next (if upReady s [.stage2] .dram then (if ok then stamp 3 (upEnds .dram s) else upFails 2 2 0xFF (bootHold s)) else s)

/-- SRAM_INIT_DONE (step 7d): clusters in whose memories an uncorrectable error was met. Stations whose word lacks INIT have
failed (R584). -/
def execSramInitDone (bad : BitVec 8) (s : State) : Out :=
  .next (if upReady s [.stage2] .sram then
      let noInit := (List.range 13).filter (fun i => stationOk s i && !(rollWord s i).getLsbD 15)
      let s1 := upEnds .sram s
      if upDone s .rollCall && noInit.any (fun i => decide (8 ≤ i)) then upFails 3 2 0xFF (bootHold s1)
      else
        (List.range 8).foldl (fun s c =>
          if bad.getLsbD c then quarantineAtStart 5 c s
          else if upDone s .rollCall && noInit.contains c then quarantineAtStart 4 c s else s) s1
    else s)

/-- A member whose hash fails after step 6 marks its slot failed, and a warm reset follows (Table 16.5). -/
def memberFails (ty : Nat) (s : State) : State :=
  warmReset true (bootWrite (fun b => { b with fail := if b.fail.contains s.modes.slot then b.fail else b.fail ++ [s.modes.slot] })
    (logRecord 0 2 0x1A 0xFF 0xFF (leBytes 1 ty ++ List.replicate 7 0) s))

/-- The member of a type checks, or there is none. -/
def memberGood (s : State) (ty : Nat) : Bool :=
  let b := slotPkg s s.modes.slot
  (pkgMembers b).all (fun m => m.ty != ty || memberOk b m)

/-- PATCH_LOAD_DONE (step 7e, R273). -/
def execPatchLoadDone (s : State) : Out :=
  .next (if upReady s [.sram] .patch then
      if !memberGood s 3 then memberFails 3 s
      else
        match patchImage s with
        | none => upEnds .patch s
        | some p =>
          let s1 := (List.range 64).foldl (fun s k => patchLoad p k s) s
          let bad := (List.range 64).find? (fun k => !patchTaken p s1 k)
          if patchImageOk p && bad.isNone then onModes (fun m => { m with up := { m.up with image := some p } }) (upEnds .patch s1)
          else
            let core := if patchImageOk p then bad.getD 0xFF else 0xFF
            logRecord 0 2 0x13 0xFF 0xFF (leBytes 1 core ++ List.replicate 7 0)
              (onModes (fun m => { m with up := { m.up with rows := m.up.rows ++ [6] } }) (upEnds .patch (patchClear s1)))
    else s)

/-- The unpowered time is charged to every superblock (R382): OD C020.01 as it was saved. -/
def addDose (s : State) : State :=
  let d := leNat (Tbl.get (odDefault 0xC020 1) s.dict.saved (odKey 0xC020 1)) * 1000000000
  { s with store := { s.store with supers := s.store.supers.map (fun e => (e.1, if e.2.written then { e.2 with dose := e.2.dose + d } else e.2)) } }

/-- STORE_MOUNT_DONE (step 7f), at gPTP time t: outcome 0 sound, 1 a damaged journal entry, 2 both copies of the store tables
damaged. -/
def execStoreMountDone (t : Nat) (outcome : Fin 3) (s0 : State) : Out :=
  let s := atNs t s0
  .next (if upReady s [.stage2] .store then
      let s1 := if s.modes.lastStart = 0 then addDose s else s
      let s2 := stamp 4 (upEnds .store { s1 with store := { s1.store with mounted := outcome.val ≠ 2 } })
      match outcome.val with
      | 0 => s2
      | 1 => logRecord 144 1 0x1C 0xFF 0xFF (List.replicate 8 0) (onModes (fun m => { m with up := { m.up with rows := m.up.rows ++ [8] } }) s2)
      | _ => logRecord 0 2 0x1D 0xFF 0xFF (List.replicate 8 0) (onModes (fun m => { m with up := { m.up with rows := m.up.rows ++ [7] } }) s2)
    else s)

/-! ### Step 8: the saved load (R585) -/

/-- The dictionary store is loaded: the saved set, what a retained STANDBY kept, or defaults (R482, R602). -/
def loadDictionary (s : State) : Load × State :=
  let set : Tbl Bytes × Load := match s.modes.kept with
    | some k => k
    | none => if s.dict.loadDefaults then ([], {}) else (s.dict.saved, s.dict.savedLoad)
  let s1 := { s with dict := { s.dict with od := set.1, loadDefaults := false } }
  let s2 := { s1 with dict := { s1.dict with carrier := od s1 0x1010 1 }, modes := { s1.modes with kept := none } }
  let maps := s2.dict.od.filterMap (fun e => if 0xCC00 * 256 ≤ e.1 ∧ e.1 < 0xD000 * 256 ∧ e.1 % 256 = 1 then some (e.1 / 256 - 0xCC00) else none)
  (set.2, maps.foldl (fun s m => setKeymap s m { state := 1, reload := true, words := prefixWordsOf s (keymapObjects s m) }) s2)

/-- Clusters that are out at start-up. -/
def outClusters (s : State) : List Nat := (List.range 8).filter (fun c => (clusterOf s c).state != 0)

/-- The saved load as it is placed: the convoys of each cluster that is out go where the drain plan that admission computes
puts them; none where there is no plan. -/
def placeSaved (s : State) : List Nat → View → List (Nat × Nat × Slot) → Option (View × List (Nat × Nat × Slot))
  | [], v, rec_ => some (v, rec_)
  | c :: cs, v, rec_ =>
    if v.inCluster c = [] then placeSaved s cs v rec_
    else
      match drainPlan s [{ v with reserve := false }] c with
      | none => none
      | some p =>
        let moved := p.moves.filterMap (fun m => (v.load.slot m.1).map (fun x => (m.1, m.2.1, x)))
        placeSaved s cs (p.moves.foldl (fun w m => w.entry (.migrate m.1 m.2.1 m.2.2)) v) (rec_ ++ moved)

/-- The view of the saved load on the clusters that are in service, with its records, or the failure. -/
def savedView (l : Load) (s : State) : Except Fail (View × List (Nat × Nat × Slot)) :=
  let outs := outClusters s
  let v := { viewOf s with load := l }
  if outs = [] then
    match checkOff s [v] with
    | some f => .error f
    | none => if v.reserve then (match checkReserve s [v] with | some f => .error f | none => .ok (v, [])) else .ok (v, [])
  else
    match placeSaved s outs { v with reserve := false } [] with
    | none => .error { reason := 7, resource := 17, hit := noEntry }
    | some r => match checkOff s [r.1] with | some f => .error f | none => .ok r

/-- A cluster that is out at start-up spends the reserve (R585). -/
def spendAtStart (s : State) : State :=
  let out := (outClusters s).head?
  { s with adm := { s.adm with out := out, reserve := if out.isSome ∧ s.adm.reserve ≠ 0 then 2 else s.adm.reserve } }

/-- The load is admitted. -/
def installLoad (v : View) (rec_ : List (Nat × Nat × Slot)) (s : State) : State :=
  let s1 := { s with adm := { s.adm with load := v.load, plan := (planOf v).1, record := rec_ } }
  let bank := (stagedBank [{ v with allow := s1.adm.reserve != 0 || s1.adm.out.isSome }]).getD []
  let s2 := replan { s1 with adm := { s1.adm with timetable := bank, shadow := none } }
  (List.range 64).foldl (fun s k => if coreKernels s k = [] then s else loadPrograms k s) (assignRings s2)

/-- The mode in which a start-up ends, with its cause (Tables 16.2 and 16.5; log 46). -/
def startUpOutcome (s : State) : Mode × Nat :=
  let row (n : Nat) : Bool := s.modes.up.rows.contains n
  if s.modes.guardTrip then (.safe, 5)
  else if row 6 then (.safe, 3)
  else if row 7 then (.safe, 10)
  else if row 10 then (.safe, 4)
  else if s.modes.boot.toSafe then (.safe, 8)
  else if outClusters s ≠ [] then (.maintain, 7)
  else (.perform, 1)

/-- SAVED_LOAD_COMMIT (step 8): the supervisor services' hash is checked, and the saved load admitted and staged. -/
def execSavedLoadCommit (s : State) : Out :=
  .next (if s.modes.up.active && !s.modes.up.hold && s.modes.resetN && s.modes.next.isNone &&
      [StartStep.stage2, .rollCall, .dram, .sram, .patch, .store].all (upDone s) then
      if !memberGood s 2 then memberFails 2 s
      else
        let d := loadDictionary s
        let s1 := match savedView d.1 d.2 with
          | .ok r => installLoad r.1 r.2 (spendAtStart d.2)
          | .error f => upFails 10 1 0xFF (admissionRefuse 0xFFFF 3 f (spendAtStart d.2))
        let o := startUpOutcome s1
        setNext o.1 o.2 (edgeAfter2 s1) s1
    else s)

/-! ### The reset of one Drover (R446, R591) -/

/-- DROVER_RESET_DONE: the boot ROM has run and checked the stage-2 in control RAM. -/
def execDroverResetDone (d : Fin 4) (ok : Bool) (s : State) : Out :=
  .next (
    let x := drvOf s d.val
    if x.run ≠ .reset then s
    else if ok then
      let f := takeFree s
      setDrv f.2 d.val { x with run := .running, wfi := true, pc := BitVec.ofNat 32 (f.1 * 4) }
    else
      logRecord 0 2 0x18 0xFF d.val (List.replicate 8 0) (setDrv s d.val { x with run := .running, hold := true }))

/-! ### Firmware update (R595 to R598) -/

/-- The slot that does not run. -/
def targetSlot (s : State) : Nat := 1 - s.modes.slot

def onUpd (f : Update → Update) (s : State) : State := onModes (fun m => { m with upd := f m.upd }) s

/-- A write while the update verifies or activates is BUSY. -/
def updBusy (s : State) : Bool := s.modes.upd.state == 2 || s.modes.upd.state == 5

/-- A package image in a slot. -/
def putPkg (i : Nat) (b : Bytes) (s : State) : State := onModes (fun m => { m with packages := Tbl.put [0] m.packages i b }) s

/-- A segment of OD F010.02, at an offset equal to the bytes received. -/
def fwSegment (off : Nat) (v : Bytes) (s : State) : Status × State :=
  if updBusy s then (.busy, s)
  else
    let have_ := if s.modes.upd.state = 0 then [] else slotPkg s (targetSlot s)
    if off = 0 then (.ok, onUpd (fun u => { u with state := 1 }) (putPkg (targetSlot s) v s))
    else if off ≠ have_.length ∨ off + v.length > 536870912 then (.range, s)
    else (.ok, onUpd (fun u => { u with state := 1 }) (putPkg (targetSlot s) (have_ ++ v) s))

/-- FW_VERIFY's effect: a write of 1 to .03. -/
def fwVerify (s : State) : Status × State :=
  if updBusy s then (.busy, s)
  else if s.modes.upd.state = 0 then (.state, s)
  else (.ok, onUpd (fun u => { u with state := 2 }) s)

/-- FW_VERIFY_DONE (R594, R596). -/
def execFwVerifyDone (s : State) : Out :=
  .next (if s.modes.upd.state = 2 then
      onUpd (fun u => { u with state := if pkgWhole s.modes.rollback (slotPkg s (targetSlot s)) then 3 else 4 }) s
    else s)

/-- A write of 2 to .05. -/
def fwPending (s : State) : Status × State :=
  if updBusy s then (.busy, s)
  else if s.modes.upd.state ≠ 3 then (.state, s)
  else
    let t := targetSlot s
    (.ok, onUpd (fun u => { u with state := 7 }) (bootWrite (fun b => { b with pending := some t, tries := 3, fail := b.fail.filter (fun x => x != t) }) s))

/-- The roles of a Drover move to the lowest other running Drover (log 47). -/
def moveRoles (d : Nat) (s : State) : State :=
  match (List.range 4).find? (fun e => e != d && (drvOf s e).run == .running && !(drvOf s e).hold) with
  | none => s
  | some e => onModes (fun m => { m with roles := (List.range 4).map (fun i =>
      let r := m.roles[i]?.getD 0
      if i = d then 0 else if i = e then r ||| (m.roles[d]?.getD 0) else r) }) s

/-- A Drover is held and restarts: its roles move, it completes its claims, and it starts on the other stage-2. In SAFE Drover
1 is released while Drover 0 restarts. -/
def restartDrover (d : Nat) (s : State) : State :=
  let s1 := if s.modes.mode = .safe ∧ d = 0 then updDrv s 1 (fun x => { x with hold := false }) else s
  let s2 := moveRoles d { s1 with evc := evcRelease d s1.evc }
  updDrv s2 d (fun x => { x.cleared with run := .reset })

/-- A restarted Drover runs on its stage-2, where the manual does not say. -/
def droverBack (d : Nat) (s : State) : State :=
  let f := takeFree s
  updDrv f.2 d (fun x => { x with run := .running, hold := f.2.modes.mode == .safe && d != 0, pc := BitVec.ofNat 32 (f.1 * 4) })

/-- An activation ends: every role is back, and an entry to STANDBY that waited goes on. -/
def activationEnds (s : State) : State :=
  let s1 := onModes (fun m => { m with roles := modeRoles m.mode, upd := { m.upd with left := [] } }) s
  let s2 := if s1.modes.mode = .safe then updDrv s1 1 (fun x => { x with hold := true }) else s1
  if s2.modes.entering = 3 then standbyBegin s2.modes.standbyCause s2 else s2

/-- A write of 1 to .05 (R597). -/
def fwHitless (s : State) : Status × State :=
  if updBusy s then (.busy, s)
  else
    let b := slotPkg s (targetSlot s)
    if s.modes.upd.state ≠ 3 ∨ pkgFld b 10 1 % 2 ≠ 1 ∨ pkgFld b 8 1 ≠ expectedCsver s / 2 ^ 24 ∨ pkgFld b 9 1 ≠ expectedCsver s / 65536 % 256 then
      (.state, s)
    else (.ok, restartDrover 3 (onUpd (fun u => { u with state := 5, left := [3, 2, 1, 0] }) s))

/-- DROVER_RESTART_READY (R597): the Drover in hand reports ready, its roles return, and the next one restarts. -/
def execDroverRestartReady (d : Fin 4) (s : State) : Out :=
  .next (
    match s.modes.upd.left with
    | [] => s
    | e :: rest =>
      if s.modes.upd.state ≠ 5 ∨ e ≠ d.val then s
      else
        let s1 := onModes (fun m => { m with roles := modeRoles m.mode, upd := { m.upd with left := rest } }) (droverBack d.val s)
        match rest with
        | f :: _ => restartDrover f s1
        | [] =>
          let t := targetSlot s1
          activationEnds (onModes (fun m => { m with slot := t, upd := { m.upd with state := 6 } })
            (bootWrite (fun b => { b with active := t }) s1)))

/-- ACTIVATION_READY_TIMEOUT (R598): every Drover already on the new stage-2 goes back, and a FATAL error is logged. -/
def execActivationReadyTimeout (s : State) : Out :=
  .next (
    match s.modes.upd.left with
    | [] => s
    | e :: rest =>
      let back := (List.range 4).filter (fun d => !rest.contains d)
      let s1 := back.foldl (fun s d => droverBack d (updDrv s d Drover.cleared)) s
      logRecord 0 2 0x1B 0xFF e (List.replicate 8 0) (activationEnds (onUpd (fun u => { u with state := 4 }) s1)))

/-- A write of 1 to .06 (R595). -/
def rollbackConfirm (s : State) : Status × State :=
  let i := pkgFld (slotPkg s s.modes.slot) 2 2
  if s.modes.boot.active = s.modes.slot ∧ s.modes.rollback < i then (.ok, onModes (fun m => { m with rollback := i }) s) else (.state, s)

/-- The Table 13.9 code of the last write to .02 to .06. -/
def updStatus (r : Status × State) : Status × State := (r.1, onUpd (fun u => { u with status := r.1.code }) r.2)

/-! ### Life cycle (R604 to R606) -/

/-- Whether a move is allowed, and whether it needs a token (R605). -/
def lifeMove : Nat → Nat → Option Bool
  | 0, 1 => some false | 1, 2 => some false | 2, 3 => some true | 2, 4 => some true | 3, 4 => some true
  | 0, 5 => some false | 1, 5 => some false | 4, 5 => some false | 2, 5 => some true | 3, 5 => some true
  | _, _ => none

/-- A new service nonce. -/
def drawNonce (s : State) : State :=
  let f := takeFree s
  onModes (fun m => { m with nonce := BitVec.ofNat 32 f.1 }) f.2

/-- A write of OD F001.02 (R605, Table 16.13). -/
def tokenWrite (b : Bytes) (s : State) : Status × State :=
  let serial := Config.serial.take 16 ++ List.replicate (16 - (Config.serial.take 16).length) 0
  let good := b.length == 88 && pkgFld b 0 1 == 1 && pkgFld b 2 2 == 0 && pkgFld b 4 4 == s.modes.nonce.toNat && (b.drop 8).take 16 == serial &&
    Config.ecdsaOk 4 (Config.sha256 (b.take 24)) (b.drop 24)
  (if good then .ok else .range, drawNonce (onModes (fun m => { m with token := if good then some b else none }) s))

/-- A write of OD F001.01. -/
def lifeRequest (v : Nat) (s : State) : Status × State :=
  if !(s.modes.mode == .safe || s.modes.mode == .workshop) then (.state, s)
  else
    match lifeMove s.modes.life v with
    | none => (.range, s)
    | some needs =>
      let tok := match s.modes.token with | some b => pkgFld b 1 1 == v | none => false
      if needs && !tok then (.range, onModes (fun m => { m with token := none }) s)
      else
        let low := if v = 5 then some false else s.modes.faultN
        (.ok, onModes (fun m => { m with life := v, token := if needs then none else m.token, erasing := decide (v ≥ 4), faultN := low }) s)

/-- LIFE_CYCLE_ERASE_DONE (R605): what entry to RETURN or END destroys is gone, and a warm reset starts. -/
def execLifeCycleEraseDone (s : State) : Out :=
  .next (if !s.modes.erasing then s
    else
      let s1 := { s with dict := { s.dict with keys := [] }, modes := { s.modes with erasing := false } }
      let supers := s1.store.supers.map (fun e => (e.1, ({ } : Superblock)))
      let s2 := if s.modes.life = 4 then { s1 with
          store := { s1.store with objects := [], sessions := [], keymaps := [], supers := supers },
          dict := { s1.dict with saved := [], savedLoad := {}, savedOk := false } } else s1
      warmReset false s2)

/-- A write of a customer key slot (R606). -/
def customerKeyWrite (k : Nat) (b : Bytes) (s : State) : Status × State :=
  if s.modes.life = 1 ∧ Tbl.get [] s.dict.keys k = [] then (.ok, { s with dict := { s.dict with keys := Tbl.put [] s.dict.keys k b } })
  else (.state, s)

end Sys2Proof.Machine
end

