-- ==== Sys2Proof/Machine/Service.lean ====
section
/-! DEFINITION. Test passes, drains and returns (R294 to R297, R627, R629), self-test slices (R622 to R628), and quarantine
and restart (R298, R618 to R621). -/

namespace Sys2Proof.Machine

def onTest (f : TestSt → TestSt) (s : State) : State := { s with test := f s.test }

def updCluster (s : State) (c : Nat) (f : ClusterSt → ClusterSt) : State := setCluster s c (f (clusterOf s c))

/-- The cores of a cluster. -/
def clusterCores (c : Nat) : List Nat := (List.range 8).map (· + 8 * c)

/-- Polling mode or trap mode for a cluster's LVUs (R265). -/
def pollCluster (c : Nat) (on : Bool) (s : State) : State :=
  (clusterCores c).foldl (fun s k => updLvu s k (fun l => if l.busy.isSome then { l with pollNext := some on } else { l with poll := on })) s

/-! ### Moves in batches (R296, R297) -/

/-- The convoys of the first batch of a list of moves: at most 256 contexts. -/
def firstBatch (l : Load) : Nat → List (Nat × Nat × Nat) → List (Nat × Nat × Nat)
  | _, [] => []
  | used, m :: t =>
    let n := match l.slot m.1 with | some x => x.n | none => 0
    if used + n ≤ 256 then m :: firstBatch l (used + n) t else []

/-- Manifests of module firmware that serve a cluster. -/
def servingCluster (s : State) (c : Nat) : List Nat := (s.man.tbl.filter (fun e => e.2.ofCluster == c + 1)).map (·.1)

/-- A reserve that is held is spent (R296). -/
def spendReserve (s : State) : State :=
  if s.adm.reserve = 1 then { s with adm := { s.adm with reserve := 2, plans := [] } } else s

/-- Batches of a cluster's moves are committed while module firmware has a handle. -/
def commitMoves (c : Nat) : Nat → State → State
  | 0, s => s
  | f + 1, s =>
    match firstBatch s.adm.load 0 (clusterOf s c).moves with
    | [] => s
    | b =>
      if (firmwareHandle s).isNone then s
      else
        let s1 := firmwarePut { entries := b.map (fun m => .migrate m.1 m.2.1 m.2.2), exempt := true, ofCluster := c + 1 } s
        commitMoves c f (updCluster s1 c (fun x => { x with moves := x.moves.drop b.length }))

/-- A cluster that is out. -/
def anyOut (s : State) : Option Nat := (List.range 8).find? (fun c => (clusterOf s c).state != 0)

/-- What the return of a cluster leaves of the reserve (R294, R297). -/
def reserveBack (s : State) : State :=
  match anyOut s with
  | some c => { s with adm := { s.adm with out := some c } }
  | none =>
    let s1 := { s with adm := { s.adm with out := none, reserveLate := false } }
    if s.adm.reserve ≠ 2 then s1
    else
      if s.adm.reserveLate then
        match checkReserve s1 (reserveViews s1) with
        | none => holdReserve s1
        | some f => admissionRefuse 0xFFFF 3 f { s1 with adm := { s1.adm with reserve := 0 } }
      else holdReserve s1

/-! ### Patch RAM and the place of record -/

/-- The patch RAM of a core is loaded from the image of BOOT (R275); a mismatch is logged, and the answer is false. -/
def reloadPatch (k : Nat) (s : State) : Bool × State :=
  let s1 := match s.modes.up.image with | some p => patchLoad p k s | none => s
  let v := (lvuOf s1 k).csver.toNat
  if v = expectedCsver s then (true, s1)
  else (false, logRecord 0 1 0x12 (k / 8) (k % 8) (leBytes 4 v ++ [0, 0, 0, 0]) s1)

/-- The patch RAM of every core of a cluster. -/
def reloadPatches (c : Nat) (s : State) : Bool × State :=
  (clusterCores c).foldl (fun a k => let b := reloadPatch k a.2; (a.1 && b.1, b.2)) (true, s)

/-- CSM words of a cluster. -/
def clusterCsmWords (c : Nat) (t : Tbl (BitVec 24)) : Tbl (BitVec 24) := t.filter (fun e => e.1 / 1048576 == c)

/-- Program banks, CSM tables and patch RAM of a cluster whose memories slices have cleared (R627, log 49); the answer tells
that the patch RAM took its image. -/
def restoreCluster (c : Nat) (s : State) : Bool × State :=
  match (clusterOf s c).csm with
  | none => (true, s)
  | some kept =>
    let s1 := { s with csm := kept.foldl (fun t e => Tbl.put 0 t e.1 e.2) s.csm }
    let r := reloadPatches c ((clusterCores c).foldl (fun s k => loadPrograms k s) s1)
    (r.1, updCluster r.2 c (fun x => { x with csm := none }))

/-! ### The return (R297) -/

/-- The moves that bring a cluster's convoys back to their places of record. -/
def returnMoves (s : State) (c : Nat) : List (Nat × Nat × Nat) :=
  s.adm.record.filterMap (fun r =>
    if r.1 / 16 = c ∧ r.1 ≠ r.2.1 then (s.adm.load.slot r.2.1).map (fun _ => (r.2.1, r.1, r.2.2.core)) else none)

/-- A cluster is back in service. -/
def clusterBack (c : Nat) (s : State) : State :=
  let s1 := updCluster s c (fun x => { quars := x.quars })
  let s2 := { s1 with adm := { s1.adm with record := s1.adm.record.filter (fun r => r.1 / 16 != c) } }
  let s3 := if s2.test.pass = c + 1 then onTest (fun t => { t with pass := 0, passes := sat32 t.passes }) s2 else s2
  autoPerform (reserveBack (fire (16 * c + 9) (level (16 * c + 12) false (pollCluster c false s3))))

/-- A returning cluster goes on: the next batches, or back in service. One whose patch RAM did not take its image stays drained (R275). -/
def returnStep (c : Nat) (s : State) : State :=
  let r := restoreCluster c s
  let s1 := r.2
  if (clusterOf s1 c).state ≠ 3 then s1
  else if !r.1 then updCluster (passEnds c s1) c (fun x => { x with state := 2, moves := [] })
  else if servingCluster s1 c ≠ [] then commitMoves c 4 s1
  else
    match returnMoves s1 c with
    | [] => clusterBack c s1
    | ms => commitMoves c 4 (updCluster s1 c (fun x => { x with moves := ms }))

def returnBegin (c : Nat) (s : State) : State := returnStep c (updCluster s c (fun x => { x with state := 3, moves := [] }))

/-! ### Slices (R622 to R628) -/

/-- A slice of a cluster begins its first run. -/
def sliceBegin (c i : Nat) (s : State) : State :=
  onTest (fun t => { t with slice := Tbl.put 0 t.slice c (i + 1), runs := Tbl.put 0 t.runs c 1, rep := Tbl.put 0 t.rep c 0 }) s

/-- The slices of a cluster begin. -/
def slicesBegin (c : Nat) (s : State) : State :=
  sliceBegin c 0 (pollCluster c true (updCluster s c (fun x => { x with
    csm := match x.csm with | some t => some t | none => some (clusterCsmWords c s.csm) })))

/-- A full self-test item begins: the loopback of the Ethernet PHYs drops the links (Table 17.11). -/
def itemBegins (s : State) : State := if s.test.items.head? = some 4 then linkDown 1 (linkDown 0 s) else s

/-- A full self-test item ends with a result, and the next one begins (R631). -/
def itemEnds (result : Nat) (s : State) : State :=
  match s.test.items with
  | [] => s
  | i :: rest =>
    let s1 := itemBegins (onTest (fun t => { t with item := Tbl.put 0 t.item i result, items := rest, full := if rest = [] then 2 else t.full }) s)
    if i = 2 ∧ (result = 1 ∨ result = 2) then populateHeads { s1 with dram := [], dramUpset := [] }
    else if i = 7 ∧ (result = 1 ∨ result = 2) then
      { s1 with store := { s1.store with objects := [], keymaps := s1.store.keymaps.map (fun e => (e.1, { e.2 with state := 0, words := 0 })) } }
    else s1

/-- The result words of a cluster's slices all report PASS. -/
def slicesPass (s : State) (c : Nat) : Bool :=
  (List.range 24).all (fun i => (Tbl.get 0 s.test.results (24 * c + i)).toNat / 2 ^ 30 == 1)

/-- Item 0 of a full self-test is running. -/
def fullSlices (s : State) : Bool := s.test.full == 1 && s.test.items.head? == some 0

/-- Every slice of a cluster has ended. -/
def slicesEnd (c : Nat) (s : State) : State :=
  if fullSlices s then
    let s1 := (reloadPatches c s).2
    if (List.range 8).all (fun d => Tbl.get 0 s1.test.slice d == 0) then itemEnds (if (List.range 8).all (slicesPass s1) then 1 else 2) s1
    else s1
  else
    let x := clusterOf s c
    if x.state = 2 then returnBegin c s
    else if x.state = 5 then
      if slicesPass s c && odBool s 0xF200 4 then returnBegin c s else setCluster s c { x with state := 4 }
    else s

/-- Repair begins (R629): the patch RAM is reloaded, then every slice runs. -/
def repairBegin (c : Nat) (s : State) : State :=
  let r := reloadPatches c (updCluster s c (fun x => { x with state := 5, repairDue := false }))
  if (clusterOf r.2 c).state ≠ 5 then r.2
  else if r.1 then slicesBegin c r.2
  else updCluster r.2 c (fun x => { x with state := 4 })

/-- After a slice that ended for good. -/
def sliceNext (c i : Nat) (failed : Bool) (s : State) : State :=
  let s1 := onTest (fun t => { t with slice := Tbl.put 0 t.slice c 0, runs := Tbl.put 0 t.runs c 0, rep := Tbl.put 0 t.rep c 0 }) s
  let x := clusterOf s1 c
  if fullSlices s1 then (if i < 23 then sliceBegin c (i + 1) s1 else slicesEnd c s1)
  else if x.state = 2 ∧ failed then repairBegin c (passEnds c s1)
  else if x.state = 2 ∨ x.state = 5 then (if i < 23 then sliceBegin c (i + 1) s1 else slicesEnd c s1)
  else s1

/-- The result word of a slice (Table 17.8). -/
def sliceWord (result runs rep : Nat) (done cnt sig : Bool) : BitVec 32 :=
  BitVec.ofNat 32 (result * 2 ^ 30 + b2n done (2 ^ 29) + b2n cnt (2 ^ 28) + b2n sig (2 ^ 27) + (if rep = 0 then 0 else 2 ^ 26) + runs * 2 ^ 24)

/-- A slice reports FAIL (R625), and the slices go on as its cluster's state asks. -/
def sliceFails (c i : Nat) (w : BitVec 32) (s : State) : State :=
  let s1 := onTest (fun t => { t with slice := Tbl.put 0 t.slice c 0 }) s
  sliceNext c i true (logRecord (16 * c + 10) 1 0x14 c 0xFF (leBytes 1 i ++ leBytes 4 w.toNat ++ [0, 0, 0]) s1)

def putResult (c i : Nat) (w : BitVec 32) (s : State) : State := onTest (fun t => { t with results := Tbl.put 0 t.results (24 * c + i) w }) s

/-- The memories that a slice tests are left cleared (R622). -/
def sliceClears (c i : Nat) (s : State) : State :=
  if i < 8 then
    updCore s (8 * c + i) (fun k => { k with
      x := [], y := [], prog0 := [], prog1 := [], upset := [], lvu := { k.lvu with v := [], va := [], patch := [], patchUpset := [] } })
  else if 16 ≤ i ∧ i ≤ 19 then
    let lo := 1048576 * c + 262144 * (i - 16)
    { s with csm := Tbl.clear s.csm lo (lo + 262143), csmUpset := Tbl.clear s.csmUpset lo (lo + 262143) }
  else if i = 20 ∨ i = 21 then
    let lo := 2048 * c + 1024 * (i - 20)
    { s with ctxs := Tbl.clear s.ctxs lo (lo + 1023) }
  else s

/-- A slice that tests memories. -/
def memorySlice (i : Nat) : Bool := decide (i < 8) || (decide (16 ≤ i) && decide (i ≤ 21))

/-- Whether every failing row of a run can be mapped: a spare row of its array is left, and a fuse. -/
def canMap (s : State) (c : Nat) (bad : List Nat) : Bool :=
  decide (Tbl.get 0 s.test.fuses c + Tbl.get 0 s.test.rep c + bad.length ≤ 32) &&
  bad.all (fun a => decide (Tbl.get 0 s.test.rows (256 * c + a) + bad.count a ≤ 4))

/-- A completed run of a slice is judged (R624, R628). bad names the array of each failing row. -/
def sliceJudged (c : Nat) (applied expected sig expSig : BitVec 32) (us : Nat) (bad : List Nat) (s : State) : State :=
  match Tbl.get 0 s.test.slice c with
  | 0 => s
  | i + 1 =>
    let runs := Tbl.get 0 s.test.runs c
    let body := leBytes 1 c ++ leBytes 1 i ++ leBytes 1 runs ++ [0] ++ leBytes 4 applied.toNat ++ leBytes 4 expected.toNat ++
      leBytes 4 sig.toNat ++ leBytes 4 expSig.toNat ++ leBytes 4 us
    let s1 := onTest (fun t => { t with last := body }) (sliceClears c i s)
    let rep := Tbl.get 0 s1.test.rep c
    let cnt := applied == expected
    let ok := sig == expSig
    if memorySlice i && bad != [] && canMap s1 c bad && decide (runs < 3) then
      onTest (fun t => { t with
        rows := bad.foldl (fun r a => Tbl.upd 0 r (256 * c + a) (· + 1)) t.rows, rep := Tbl.put 0 t.rep c (rep + bad.length),
        runs := Tbl.put 0 t.runs c (runs + 1) }) (putResult c i (sliceWord 0 runs 1 true cnt ok) s1)
    else
      let pass := cnt && ok && !(memorySlice i && bad != [])
      let w := sliceWord (if pass then 1 else 2) runs rep true cnt ok
      let s2 := putResult c i w s1
      if pass then
        sliceNext c i false (fire (16 * c + 10) (onTest (fun t => { t with fuses := Tbl.put 0 t.fuses c (min 32 (Tbl.get 0 t.fuses c + rep)) }) s2))
      else sliceFails c i w s2

/-- The budget of a slice expires (R623, R625): INCOMPLETE, and the third run's counts as FAIL. -/
def sliceExpires (c : Nat) (s0 : State) : State :=
  let s := onTest (fun t => { t with cut := t.cut.filter (· != c) }) s0
  match Tbl.get 0 s.test.slice c with
  | 0 => s
  | i + 1 =>
    let runs := Tbl.get 0 s.test.runs c
    let rep := Tbl.get 0 s.test.rep c
    let s1 := (clusterCores c).foldl (fun s k => updLvu s k (fun l => { l with stopRq := l.stopRq || l.busy.isSome })) s
    if runs < 3 then
      onTest (fun t => { t with runs := Tbl.put 0 t.runs c (runs + 1) }) (putResult c i (sliceWord 3 runs rep false false false) s1)
    else
      let w := sliceWord 2 runs rep false false false
      sliceFails c i w (putResult c i w s1)

/-- A run of a slice ends: one that a micro-fault cut reports INCOMPLETE (R278), any other is judged. -/
def sliceDone (c : Nat) (applied expected sig expSig : BitVec 32) (us : Nat) (bad : List Nat) (s : State) : State :=
  if s.test.cut.contains c then sliceExpires c s else sliceJudged c applied expected sig expSig us bad s

/-! ### Test passes (R627) -/

/-- A drain goes on, or its cluster is empty and its slices begin; the reserve is spent then at the latest (log 59). -/
def drainStep (c : Nat) (s : State) : State :=
  let s1 := commitMoves c 4 s
  let x := clusterOf s1 c
  if x.state = 1 ∧ x.moves = [] ∧ servingCluster s1 c = [] then
    slicesBegin c (onTest (fun t => { t with turn := if t.turn = c then (c + 1) % 8 else t.turn }) (setCluster (spendReserve s1) c { x with state := 2 }))
  else s1

/-- A pass may start on a cluster. -/
def passOk (s : State) (c : Nat) : Bool :=
  s.modes.mode == .perform && s.adm.reserve == 1 && s.adm.out.isNone && s.modes.life != 5 && (clusterOf s c).state == 0 &&
  ((viewOf s).inCluster c == [] || s.adm.plans.any (fun p => p.cluster == c))

/-- A pass starts: the cluster's drain plan is carried out. The reserve is spent from its first batch (R296). -/
def passBegin (c : Nat) (s : State) : State :=
  let moves := match s.adm.plans.find? (fun p => p.cluster == c) with | some p => p.moves.filter (fun m => (s.adm.load.slot m.1).isSome) | none => []
  let s1 := updCluster s c (fun x => { x with state := 1, moves := moves })
  drainStep c (autoMaintain (onTest (fun t => { t with pass := c + 1 }) { s1 with adm := { s1.adm with out := some c } }))

/-- A write of OD F200.03. -/
def testNow (c : Nat) (s : State) : Status × State := if passOk s c then (.ok, passBegin c s) else (.state, s)

/-- A write of OD F200.05: the repair of a quarantined cluster is repeated. -/
def repairAgain (c : Nat) (s : State) : Status × State :=
  if (clusterOf s c).state = 4 then (.ok, updCluster s c (fun x => { x with repairDue := true })) else (.state, s)

/-! ### Quarantine (R618) -/

/-- The start record that restarts a context from its pool's restart template, if it has one (R620). -/
def restartRec (s : State) (n : Nat) : Option StartRec :=
  let c := ctxOf s n
  let h := c.hdr
  let p := match s.adm.load.slot (n / 128) with | some x => x.pool | none => 0
  let t := if (s.adm.load.slot (n / 128)).isSome then od s (0x4400 + p) 18 else 0xFFFF
  let good := match c.upset with | some w => decide (8 ≤ w) | none => true
  if t ≥ 2048 then none
  else some { ctx := n, lap := 0, tmpl := t, velw := 255, notew := 255, vel := if good then h.vel else 0, note := if good then h.note else 0,
              chan := if good then h.chan else 0, scls := if good then h.scls else 0, onset := 0, pool := p, kernel := od s (0x4400 + p) 1,
              copied := true }

/-- The contexts of a cluster that hold a voice. -/
def clusterVoices (s : State) (c : Nat) : List Nat :=
  (s.ctxs.filter (fun e => e.1 / 2048 == c && e.2.hdr.state.active)).map (·.1)

/-- Another cluster's pass ends: its slice reports INCOMPLETE, and it is in service again, empty (Table 17.14). -/
def passCut (d : Nat) (s : State) : State :=
  let s1 := (restoreCluster d (passEnds d (sliceStop d s))).2
  let s2 := updCluster s1 d (fun x => { quars := x.quars })
  pollCluster d false { s2 with adm := { s2.adm with record := s2.adm.record.filter (fun r => r.1 / 16 != d) } }

/-- Quarantine of a cluster at its seal. -/
def quarantineNow (c : Nat) (s : State) : State :=
  let voices := clusterVoices s c
  let recs := voices.filterMap (restartRec s)
  let plan := if s.adm.reserve = 1 then (s.adm.plans.find? (fun p => p.cluster == c)).map (·.moves) else none
  let s1 := voices.foldl (fun s n => freeContext n s) s
  let st := s1.starter
  let s2 := { s1 with
    starter := { st with flight := st.flight.filter (fun r => r.ctx / 2048 != c), copies := Tbl.drop st.copies c },
    ctxs := s1.ctxs.map (fun e => if e.1 / 2048 = c then (e.1, { e.2 with hdr := { e.2.hdr with state := .free } }) else e) }
  let s3 := (clusterCores c).foldl (fun s k => updCore s k (fun x => { x with
    phase := .done, order := [], conv := none, resident := none, starts := [], cur := none, fault := none })) s2
  let x := quarantineCount (clusterOf s3 c)
  let empty := (viewOf s3).inCluster c == []
  let s4 := setCluster s3 c { quars := x.quars, state := x.state, csm := x.csm, restartDue := !empty, plan := plan, restarts := recs,
                              repairDue := empty && decide (x.state = 4) }
  let s5 := passEnds c { s4 with adm := { s4.adm with reserve := if s4.adm.reserve = 0 then 0 else 2, out := some c, plans := [] } }
  let cut := (List.range 8).filter (fun d => d != c && (clusterOf s5 d).state == 2)
  let s6 := autoMaintain (level (16 * c + 12) true (cut.foldl (fun s d => passCut d s) s5))
  if empty then { s6 with log := { s6.log with ep := s6.log.ep.map (fun e => { e with pendingAct := false }) } } else s6

/-- The clusters whose escalating record waits for the seal. -/
def quarantineSeal (s : State) : State :=
  (List.range 8).foldl (fun s c => if (clusterOf s c).quarDue then quarantineNow c s else s) s

/-! ### Restarts elsewhere (R298, R620) -/

/-- The entries that place a convoy elsewhere: its slot, its edges and its outputs. moved gives where other convoys of the
cluster go. -/
def placeEntries (l : Load) (moved : List (Nat × Nat × Nat)) : List MEntry :=
  let dest (n : Nat) : Nat := match moved.find? (fun m => m.1 == n) with | some m => m.2.1 | none => n
  let hit (n : Nat) : Bool := moved.any (fun m => m.1 == n)
  moved.filterMap (fun m => (l.slot m.1).map (fun x => .slot (m.2.1 / 16) (m.2.1 % 16) m.2.2 x.kernel x.pool x.n)) ++
  (l.edges.filter (fun e => hit e.2.src || hit e.2.dst)).map (fun e => .edge e.1 (dest e.2.src) (dest e.2.dst) e.2.channels e.2.feedback) ++
  (l.outputs.filter (fun o => hit o.2.src)).map (fun o => .output o.1 (dest o.2.src) o.2.base o.2.channels o.2.cls o.2.iface o.2.ibase)

/-- What a restart of some convoys changes. -/
def restartChanges (s : State) (moved : List (Nat × Nat × Nat)) : List MEntry :=
  ({ entries := placeEntries s.adm.load moved, clears := moved.map (·.1) } : Manifest).changes

/-- Where the convoys of a quarantined cluster restart: by its drain plan, or each in slot order at the place that the
procedure of R662 finds, if admission takes it. -/
def restartPlaces (c : Nat) (s : State) : List (Nat × Nat × Nat) :=
  match (clusterOf s c).plan with
  | some ms => ms.filter (fun m => (s.adm.load.slot m.1).isSome)
  | none =>
    let v := viewOf s
    (v.inCluster c).foldl (fun acc e =>
      match Config.placeConvoy (loadRows v) e.1 with
      | some (d, k) =>
        let m := (e.1, d, k % 8)
        if d < 128 ∧ (clusterOf s (d / 16)).state = 0 ∧ (v.load.slot d).isNone ∧ !acc.any (fun a => a.2.1 == d) ∧
            (admission s true v.reserve (restartChanges s (acc ++ [m]))).isNone then acc ++ [m] else acc
      | none => acc) []

/-- A restart is over: the episode waits for it no longer, and the repair may begin. -/
def restartOver (c : Nat) (s : State) : State :=
  let s1 := updCluster s c (fun x => { x with restartDue := false, plan := none, restarts := [], repairDue := decide (x.state = 4) })
  if (List.range 8).any (fun d => (clusterOf s1 d).restartDue || (clusterOf s1 d).quarDue) then s1
  else { s1 with log := { s1.log with ep := s1.log.ep.map (fun e => { e with pendingAct := match s1.modes.next with | some (.safe, _) => e.pendingAct | _ => false }) } }

/-- Module firmware commits the manifest that places a quarantined cluster's convoys (R620). -/
def restartCommit (c : Nat) (s : State) : State :=
  let x := clusterOf s c
  if !x.restartDue ∨ servingCluster s c ≠ [] ∨ (firmwareHandle s).isNone then s
  else
    match restartPlaces c s with
    | [] => restartOver c s
    | ms =>
      let recs := x.restarts.filterMap (fun r =>
        (ms.find? (fun m => m.1 == r.ctx / 128)).map (fun m => { r with ctx := 128 * m.2.1 + r.ctx % 128 }))
      firmwarePut { entries := placeEntries s.adm.load ms, clears := ms.map (·.1), restarts := recs, exempt := true, ofCluster := c + 1 } s

/-- The first lap, from l on, whose start phase on a core has a hot-start slot left. -/
def restartLap (s : State) (core : Nat) : Nat → Nat → Nat
  | 0, l => l
  | f + 1, l => if Tbl.get 0 s.starter.slots (64 * (l - 1) + core) < od s 0x3002 1 then l else restartLap s core f (l + 1)

/-- A context starts from its restart template, in the start phase of the lap that begins or of a later one (R620, R621). -/
def restartCtx (r0 : StartRec) (s : State) : State :=
  let core := slotCore s (slotOfCtx r0.ctx)
  let l := restartLap s core 4096 s.grid.lap
  let r := { r0 with lap := l - 1 }
  let s1 := { s with starter := { s.starter with slots := Tbl.upd 0 s.starter.slots (64 * (l - 1) + core) (· + 1) } }
  let img := odBytes s1 (0x5000 + r.tmpl) 1
  let s2 := updCtx s1 r.ctx (fun c => applyTemplate img r { c with hdr := armedHeader c.hdr { r with lap := s.grid.lap }, relLap := 0, stolenLap := 0 })
  updCore s2 core (fun c => { c with starts := c.starts ++ [r] })

/-- The contexts that leave POISONED at a lap edge: FREE, and restarted in place where their pool has a restart template
(R74, R621). -/
def poisonedLeave (s : State) : State :=
  let ns := (s.ctxs.filter (fun e => e.2.hdr.state == .poisoned && decide (e.2.poisonLap < s.grid.lap))).map (·.1)
  ns.foldl (fun s n =>
    let r := if clusterOpen s (n / 2048) then restartRec s n else none
    let s1 := freeContext n s
    match r with | some r => restartCtx r s1 | none => s1) s

/-! ### What manifests of module firmware bring about -/

/-- A manifest that serves a cluster has been applied: its migrations or its restart. moved lists the convoys that it moved,
with their slots. -/
def firmwareApplied (m : Manifest) (moved : List (Nat × Nat × Slot)) (s : State) : State :=
  match m.ofCluster with
  | 0 => s
  | c + 1 =>
    let x := clusterOf s c
    if m.clears ≠ [] then
      restartOver c (m.restarts.foldl (fun s r => restartCtx r s)
        { s with adm := { s.adm with record := s.adm.record ++ moved } })
    else if x.state = 1 then
      let s1 := { s with adm := { s.adm with record := s.adm.record ++ moved } }
      drainStep c (if x.moves = [] ∧ servingCluster s1 c = [] then fire (16 * c + 9) s1 else s1)
    else if x.state = 3 then
      returnStep c { s with adm := { s.adm with record := s.adm.record.filter (fun r => !moved.any (fun v => v.1 == r.2.1)) } }
    else { s with adm := { s.adm with record := s.adm.record ++ moved } }

/-- A manifest that serves a cluster has been aborted: a drain goes back, a return is committed again, and a restart is placed
again (Table 17.14). -/
def firmwareAborted (m : Manifest) (s : State) : State :=
  match m.ofCluster with
  | 0 => s
  | c + 1 =>
    let x := clusterOf s c
    if x.state = 1 then
      let s1 := passEnds c (setCluster s c { x with moves := [], state := 3 })
      if servingCluster s1 c = [] then returnStep c s1 else s1
    else if x.state = 3 ∧ servingCluster s c = [] then returnStep c s
    else s

/-- Returns and repairs that wait go on at a lap edge. -/
def serviceEdge (s : State) : State :=
  (List.range 8).foldl (fun s c =>
    let x := clusterOf s c
    if x.state = 3 then returnStep c s
    else if x.state = 1 then drainStep c s
    else if x.state = 4 ∧ x.repairDue ∧ s.modes.mode = .maintain then repairBegin c s
    else s) s

/-- Clusters that came up quarantined are repaired once the start-up has ended in MAINTAIN (R617). -/
def repairsAfterStart (s : State) : State :=
  (List.range 8).foldl (fun s c => updCluster s c (fun x => { x with repairDue := x.repairDue || decide (x.state = 4) })) s

/-! ### The commands -/

/-- TEST_PASS_TIMER (R627): the pass interval has elapsed. -/
def execTestPassTimer (s : State) : Out :=
  .next (if od s 0xF200 1 ≠ 0 ∧ passOk s s.test.turn then passBegin s.test.turn s else s)

/-- SLICE_DONE (R624): patterns applied and expected, signatures, us taken, and the array of each failing row. -/
def execSliceDone (c : Fin 8) (applied expected sig expSig : BitVec 32) (us : Nat) (bad : List (Fin 256)) (s : State) : Out :=
  .next (sliceDone c.val applied expected sig expSig us (bad.map (·.val)) s)

/-- SLICE_BUDGET_EXPIRY (R623). -/
def execSliceBudgetExpiry (c : Fin 8) (s : State) : Out := .next (sliceExpires c.val s)

/-- QUARANTINE_RESTART_COMMIT (R620). -/
def execQuarantineRestartCommit (c : Fin 8) (s : State) : Out := .next (restartCommit c.val s)

end Sys2Proof.Machine
end

