-- ==== Sys2Proof/Machine/Care.lean ====
section
/-! DEFINITION. The error log (R613, R614), scrubbing (R608, R609), the full self-test and the low-level store objects (R631,
R632), and availability (R633, R634). -/

namespace Sys2Proof.Machine

/-! ### The archive (R613, R614) -/

/-- A record is due: CORRECTED when it is written, others when their episode has closed. -/
def recordDue (l : ErrLog) (r : Record) : Bool :=
  r.cls == 0 || (match l.ep with | some e => e.num != r.episode | none => true)

/-- The records that the archive keeps. -/
def archiveSize : Nat := 1677721

/-- The due records at the front of the ring go to the archive. -/
def archiveDue (l : ErrLog) : ErrLog :=
  let due := l.ring.takeWhile (recordDue l)
  let all := l.archive ++ due
  { l with ring := l.ring.drop due.length, archive := all.drop (all.length - archiveSize),
           archived := match due.getLast? with | some r => r.seq | none => l.archived }

/-- RECORD_ARCHIVE (R613): supervisor firmware archives what is due. -/
def execRecordArchive (s : State) : Out := .next { s with log := archiveDue s.log }

/-- Writes that WORKSHOP takes in TEST, SERVICE and RETURN. -/
def workshopService (s : State) : Bool := s.modes.mode == .workshop && debugLife s

/-- A write of 1 to OD F100.07. -/
def logClear (s : State) : Status × State :=
  if workshopService s then (.ok, { s with log := { lastEp := s.log.lastEp } }) else (.state, s)

/-! ### Scrubbing (R608, R609) -/

/-- A DRAM read that fails after its retries (Table 17.2). -/
def dramFails (a : Nat) (s : State) : State :=
  let s1 := dramRecord a { s with dramUpset := Tbl.put false s.dramUpset (a / 8) true }
  match Config.dramStaging a with
  | none => s1
  | some i =>
    let x := sessionOf s1 (i % 3)
    if Config.dramVital a ∨ !(x.state = 1 ∨ x.state = 2) then s1 else freeObject (objRec x.record).id (endSession (i % 3) 5 .crc s1)

/-- The bank and P at which a window shows a word of a context. -/
def caravanAddr (i w : Nat) : Nat × Nat :=
  if w < 128 then (32 + i / 512, i % 512 * 128 + w) else (36 + i / 1024, i % 1024 * 64 + (w - 128))

/-- Record 0x03 for a memory of a cluster. -/
def scrubRecord (id bank p cluster unit : Nat) (s : State) : State :=
  logRecord (if cluster < 8 then 16 * cluster + 7 else 0) 1 0x03 cluster unit (leBytes 1 id ++ leBytes 1 bank ++ leBytes 2 p ++ [0, 0, 0, 0]) s

/-- A scrubber finds a word that it cannot correct. unit is a core, a cluster, or a Relay station, by the memory. -/
def scrubBad (id unit bank addr : Nat) (s : State) : State :=
  let k := unit % 64
  let c := unit % 8
  match id with
  | 1 =>
    let m := if bank = 0 then 0 else if bank = 1 then 1 else 4
    scrubRecord 1 bank addr (k / 8) (k % 8) (updCore s k (fun x => { x with upset := Tbl.put false x.upset (0x10000 * m + addr % 65536) true }))
  | 2 =>
    scrubRecord 2 (bank % 2) addr (k / 8) (k % 8)
      (updCore s k (fun x => { x with upset := Tbl.put false x.upset (0x10000 * (2 + bank % 2) + addr % 65536) true }))
  | 3 =>
    let b := (bank - 1) % 16 + 1
    scrubRecord 3 b addr c 0xFF { s with csmUpset := Tbl.put false s.csmUpset (csmKey c b (addr % 65536)) true }
  | 4 =>
    let i := addr / 256 % 2048
    let w := addr % 256 % 192
    let a := caravanAddr i w
    scrubRecord 4 a.1 a.2 c 0xFF (updCtx s (2048 * c + i) (fun x => { x with upset := some w }))
  | 5 => scrubRecord 5 0 (addr % 512) (k / 8) (k % 8) (updLvu s k (fun l => { l with patchUpset := Tbl.put 0 l.patchUpset (addr % 512) 2 }))
  | 6 =>
    match s.adm.timetable[addr]? with
    | some b => logRecord 337 1 0x09 0xFF 0xFF (leBytes 1 b.kind ++ leBytes 1 b.src ++ leBytes 1 b.dst ++ [0, 0, 0, 0, 0])
        { s with relay := { s.relay with bad := insertNat addr s.relay.bad } }
    | none => s
  | 8 => cramRecord addr { s with cramUpset := Tbl.put false s.cramUpset (addr / 4) true }
  | 10 => logRecord 0 1 0x1E 0xFF 0xFF (leBytes 1 unit ++ List.replicate 7 0) s
  | 11 => logRecord 0 1 0x1E 0xFF 0xFF (leBytes 1 unit ++ List.replicate 7 0) { s with avail := { s.avail with mark := true } }
  | 12 => dramFails addr s
  | _ => s

/-- A scrubber corrects a word. -/
def scrubGood (id unit addr : Nat) (s : State) : State :=
  match id with
  | 1 => logCorrected 1 (unit % 64 / 8) 1 s
  | 2 => logCorrected 2 (unit % 64 / 8) 1 s
  | 3 => logCorrected 3 (unit % 8) 1 s
  | 4 => logCorrected 4 (unit % 8) 1 s
  | 5 => lcsCorrected (unit % 64) 1 (updLvu s (unit % 64) (fun l => { l with patchUpset := Tbl.put 0 l.patchUpset (addr % 512) 0 }))
  | 6 => logCorrectedAt 6 16 255 1 s
  | 8 => logCorrectedAt 8 16 255 1 s
  | 10 => logCorrectedAt 10 16 255 1 s
  | 11 => logCorrectedAt 11 (16 + unit % 16) 255 1 s
  | 12 => logCorrectedAt 12 16 255 1 s
  | _ => s

/-- MEMORY_SCRUB (R608): a visit to a word of a memory of Table 17.1 that finds 0, 1 or 2 upset bits. -/
def execMemoryScrub (id : Fin 14) (unit bank addr : Nat) (bits : Fin 3) (s : State) : Out :=
  .next (if bits.val = 0 then s else if bits.val = 1 then scrubGood id.val unit addr s else scrubBad id.val unit bank addr s)

/-! ### The full self-test (R631) -/

/-- The items that a life-cycle state permits (Table 17.11). -/
def itemPermitted (life i : Nat) : Bool :=
  if i = 5 then life == 0 || life == 1 || life == 3 || life == 4
  else if i = 7 then life == 0 || life == 4
  else life == 0 || life == 3 || life == 4

/-- A write of OD F230.01. -/
def selftestRun (mask : Nat) (s : State) : Status × State :=
  if s.modes.mode ≠ .workshop then (.state, s)
  else if s.test.full = 1 then (.busy, s)
  else
    let asked := (List.range 8).filter (fun i => mask.testBit i)
    let run := asked.filter (itemPermitted s.modes.life)
    let res := asked.foldl (fun t i => if itemPermitted s.modes.life i then t else Tbl.put 0 t i 4) ([] : Tbl Nat)
    let s1 := itemBegins (onTest (fun t => { t with items := run, item := res, full := if run = [] then 2 else 1 }) (odSet 0xF230 1 mask s))
    (.ok, if run.head? = some 0 then (List.range 8).foldl (fun s c => sliceBegin c 0 (pollCluster c true s)) s1 else s1)

/-- SELFTEST_ITEM_DONE (R631): the item in progress ends with PASS, FAIL or INCOMPLETE. Item 0 ends with its slices; it ends
here only where they were stopped. -/
def execSelftestItemDone (i : Fin 8) (result : Fin 3) (s : State) : Out :=
  .next (if s.test.full ≠ 1 ∨ s.test.items.head? ≠ some i.val then s
    else if i.val = 0 then (if (List.range 8).all (fun c => Tbl.get 0 s.test.slice c == 0) then itemEnds 3 s else s)
    else itemEnds (result.val + 1) s)

/-- A write of 1 to OD F230.04. -/
def selftestAbort (s : State) : Status × State :=
  if s.test.full ≠ 1 then (.ok, s)
  else
    let s1 := (List.range 8).foldl (fun s c => sliceStop c s) s
    (.ok, onTest (fun t => { t with
      item := match t.items with | i :: _ => Tbl.put 0 t.item i 3 | [] => t.item, items := [], full := 3 }) s1)

/-! ### Low-level store objects (R632) -/

/-- Bytes of a page: an erased one reads as ones. -/
def fitPage (n : Nat) (b : Bytes) : Bytes := (b ++ List.replicate (n - b.length) 0xFF).take n

/-- The raw bytes of a page. -/
def rawPage (s : State) (p : Nat) : Bytes :=
  fitPage 18432 (match s.store.flash.find? (fun e => e.1 == p) with | some e => e.2 | none => Config.nandPage p)

/-- Actions 3 to 5 are accepted on a block. -/
def blockOpen (s : State) (k : Nat) : Bool :=
  s.modes.life == 0 || s.modes.life == 4 || (s.modes.life == 3 && Config.spareBlock k)

/-- A write of OD F300.03. -/
def storeAction (a : Nat) (s : State) : Status × State :=
  let p := od s 0xF300 1
  let d := pageDie p
  let pl := pagePlane p
  let b := pageBlock p
  if s.modes.mode ≠ .workshop then (.state, s)
  else if 3 ≤ a ∧ !blockOpen s (blockKey d pl b) then (.state, s)
  else if a = 1 then (.ok, onTest (fun t => { t with page := rawPage s p, result := 0 }) s)
  else if a = 2 then
    match Config.nandDecode (rawPage s p) with
    | some (v, n) => (.ok, onTest (fun t => { t with page := fitPage 16384 v, result := 0, bits := min 65535 n }) s)
    | none => (.ok, onTest (fun t => { t with result := Status.crc.code }) s)
  else if a = 3 then
    let s1 := eraseEnds d pl b true s
    let base := p / 2048 * 2048
    (.ok, onTest (fun t => { t with result := 0 }) { s1 with store := { s1.store with
      flash := (List.range 1536).foldl (fun t i => Tbl.put [] t (base + i) [0xFF]) s1.store.flash } })
  else if a = 4 then
    (.ok, onTest (fun t => { t with result := 0 }) { s with store := { s.store with flash := Tbl.put [] s.store.flash p (fitPage 18432 s.test.page) } })
  else (.ok, onTest (fun t => { t with result := 0 }) (retireBlock d pl b s))

/-! ### Availability (R633, R634) -/

/-- AVAILABILITY_ARCHIVE_TIMER (R634). -/
def execAvailabilityArchiveTimer (s : State) : Out :=
  .next { s with avail := { s.avail with saved := (s.avail.service, s.avail.impaired, s.avail.outage, s.avail.offLaps) } }

/-- A write of 1 to OD F400.06. -/
def availabilityClear (s : State) : Status × State :=
  if workshopService s then (.ok, { s with avail := { s.avail with service := 0, impaired := 0, outage := 0, offLaps := 0 } }) else (.state, s)

/-- OD F400.04: floor(10^9 x A). -/
def availabilityPpb (a : Avail) : Nat :=
  let n := a.service + a.outage
  if n = 0 then 1000000000 else (n - (a.impaired + a.outage)) * 1000000000 / n

end Sys2Proof.Machine
end

