-- ==== Sys2Proof/Machine/DictRead.lean ====
section
/-! DEFINITION. What a read of an object shows (R474 to R483): the values that the module computes from its state, and
object descriptions. -/

namespace Sys2Proof.Machine

/-- A requester's number in the per-requester values of PERREQ objects (R478). -/
def reqNum (who : Requester) : Nat := reqBit who

/-- The value of a PERREQ object for a requester. -/
def perreqVal (s : State) (who : Requester) (ix sub : Nat) : Nat :=
  match lookupNat s.dict.perreq (2 ^ 24 * reqNum who + odKey ix sub) with
  | some b => leNat b
  | none => 0

/-! ### Object descriptions (R481, Table 13.5) -/

/-- The objects whose value depends on a per-requester selection (R491). -/
def selected (ix sub : Nat) : Bool :=
  (ix == 0x0200 && sub == 2) || (ix == 0x3400 && sub == 2) || (ix == 0xC200 && (sub == 2 || sub == 3))

/-- The greatest length of a value. -/
def OdRow.size_ (r : OdRow) : Nat := if r.ty.bytes ≠ 0 then r.ty.bytes else r.len

/-- SUBOK (R491). -/
def subOk (ix sub : Nat) (r : OdRow) : Bool :=
  r.acc != .wo && decide (r.size_ ≤ 1024) && !r.fl.testBit 3 && !selected ix sub

/-- The lowest number of a list, or 0xFF. -/
def lowest (l : List Nat) : Nat := l.foldl min 0xFF

/-- The description of an object. -/
def describe (s : State) (ix sub : Nat) (r : OdRow) : Bytes :=
  let wide (v : Int) : Bytes := intBytes r.ty.bytes v ++ List.replicate (8 - r.ty.bytes) 0
  let zero : Bytes := List.replicate 8 0
  let num := r.ty.bytes ≠ 0
  let df := odDefault ix sub
  let name := r.nm.toUTF8.toList.map (fun b => BitVec.ofNat 8 b.toNat)
  leBytes 1 r.ty.code ++ leBytes 1 (effectiveAcc s ix r).code ++ leBytes 1 r.rm ++ leBytes 1 r.wm ++
  leBytes 1 (r.fl + b2n (subOk ix sub r) 16) ++ leBytes 1 (lowest (guards s ix r)) ++ [0, 0] ++ leBytes 4 r.size_ ++
  (if num then wide r.vmin else zero) ++ (if num then wide r.vmax else zero) ++
  (if df.length ≤ 8 then df ++ List.replicate (8 - df.length) 0 else zero) ++
  (name ++ List.replicate (32 - name.length) 0).take 32

/-! ### Computed values -/

/-- A bit map of a list of conditions. -/
def bitsOf_ (n : Nat) (f : Nat → Bool) : Nat := (List.range n).foldl (fun m i => m + b2n (f i) (2 ^ i)) 0

/-- Identity, ports, persistence, manifests and semaphores. -/
def readControl (s : State) (who : Requester) (ix sub : Nat) : Option Nat :=
  let port (p : PortSt) : Nat := Tbl.get 0 p.cnt sub
  if 1 ≤ ix ∧ ix ≤ 15 then
    some ([OdType.bool, .u8, .u16, .u24, .u32, .u64, .s8, .s16, .s24, .s32, .q23, .f32, .time64, .str, .blob][ix - 1]?.map (·.bytes) |>.getD 0)
  else match ix, sub with
  | 0x0200, 1 => some (perreqVal s who ix sub)
  | 0x0300, 1 => some s.dict.portA.subs.length
  | 0x0300, 2 => some s.dict.portB.subs.length
  | 0x1000, 3 => some (min 1 Config.variant)
  | 0x1000, 5 => some (2 ^ 24 + pkgFld (slotPkg s s.modes.slot) 4 3)
  | 0x1000, 6 => some s.modes.slot
  | 0x1000, 7 => some (Config.hardwareRevision % 256)
  | 0x1001, 1 => some s.modes.mode.code
  | 0x1001, 2 => some s.modes.life
  | 0x1010, 2 => some s.dict.carrier
  | 0x1012, 3 => some (bitsOf_ 4 (fun k => Tbl.get [] s.dict.keys k != []))
  | 0x1012, 4 => some s.dict.nonce.toNat
  | 0x1012, 5 => some s.dict.authFail
  | 0x1015, _ => some (port s.dict.portA)
  | 0x1016, _ => some (port s.dict.portB)
  | 0x1030, 3 => some s.dict.saveState
  | 0x1200, _ =>
    some (match (manOf s (sub - 1)).state with | .free => 0 | .opened => 1 | .checking => 2 | .staged => 3 | .given => 4)
  | 0x1202, 1 => some s.man.seq
  | 0x1202, 2 => some s.man.applied
  | 0x1202, 3 => some s.man.aborted
  | 0x1202, 5 => some s.man.dropped
  | 0x1300, _ => some (Tbl.get 0 s.dict.sems (sub - 1))
  | _, _ => none

/-- The lap grid, admission, counters and the Starter. -/
def readLoad (s : State) (who : Requester) (ix sub : Nat) : Option Nat :=
  let v := viewNow s
  let on := s.adm.reserve != 0
  let tt := s.adm.timetable
  if 0x4400 ≤ ix ∧ ix ≤ 0x47FF then
    let p := ix - 0x4400
    match sub with
    | 13 => some ((List.range 8).foldl (fun n c => n + activeIn s p c) 0)
    | 14 => some (Tbl.get 0 s.starter.starts p)
    | 15 => some (Tbl.get 0 s.starter.refusals p)
    | 16 => some (Tbl.get 0 s.starter.steals p)
    | 17 => some (b2n (Tbl.get false s.starter.hold p) 1)
    | _ => none
  else if 0x4800 ≤ ix ∧ ix ≤ 0x4BFF then (if sub = 30 then some (Tbl.get 0 s.starter.matches_ (ix - 0x4800)) else none)
  else match ix, sub with
  | 0x2001, 1 => some (match s.grid.change with | some c => c.1 | none => s.grid.rate)
  | 0x2001, 2 => some (match s.grid.change with | some c => c.2 | none => s.grid.nLap)
  | 0x2001, 3 => some s.grid.lap
  | 0x2001, 4 => some (nsOf s.grid.epoch.toNat)
  | 0x2001, 5 => some s.grid.epochLap
  | 0x2001, 6 => some (s.grid.lapTicks * 1000 / tickNs)
  | 0x3001, 1 => some (b2n (s.adm.reserve != 0) 1)
  | 0x3001, 2 => some s.adm.reserve
  | 0x3001, 3 => some (s.adm.out.getD 0xFF)
  | 0x3001, 4 => some (bitsOf_ 8 (fun c => s.adm.plans.any (fun p => p.cluster == c)))
  | 0x3003, 1 => some v.usable
  | 0x3003, 2 => some ((if on then 7 else 8) * v.usable)
  | 0x3003, 3 => some (if on then 1792 else 2048)
  | 0x3004, _ => some (coreFinish v (timeline v s.adm.plan.order) (sub - 1))
  | 0x3005, 9 => some ((List.range 8).foldl (fun n c => n + clusterContexts v c) 0)
  | 0x3005, _ => some (clusterContexts v (sub - 1))
  | 0x3006, 5 => some tt.length
  | 0x3006, 6 => some (laneLimit v.tCyc)
  | 0x3006, 7 => some (if on then 9216 else 0)
  | 0x3006, _ => some ((tt.filter (fun b => b.lane == sub - 1)).foldl (fun n b => n + b.len + 1) 0)
  | 0x3007, 1 => some (dramBytes (demands v s.adm.plan))
  | 0x3007, 2 => some (dramLimit v)
  | 0x3008, 1 => some (grantsCharged v)
  | 0x3008, 2 => some 4096
  | 0x3009, _ => some (clusterCsm v s.adm.plan (sub - 1))
  | 0x3010, 65 => some s.overLaps
  | 0x3010, _ => some (Tbl.get 0 s.overruns (sub - 1))
  | 0x3020, 1 => some s.adm.requests
  | 0x3020, 2 => some s.adm.accepted
  | 0x3020, _ => if sub = 10 then none else some (Tbl.get 0 s.adm.refusals (sub - 2))
  | 0x3030, 65 => some (expectedCsver s)
  | 0x3030, 66 => some s.microFaults
  | 0x3030, 67 => some s.corrMicro
  | 0x3030, _ => some (lvuOf s (sub - 1)).csver.toNat
  | 0x3400, 1 => some (perreqVal s who ix sub)
  | 0x4C00, 1 => some s.starter.taken
  | 0x4C00, 2 => some s.starter.unmatched
  | 0x4C00, 3 => some s.starter.refContext
  | 0x4C00, 4 => some s.starter.refCore
  | 0x4C00, 5 => some s.starter.refGrant
  | 0x4C00, 6 => some s.starter.refLatency
  | 0x4C00, 7 => some s.starter.late
  | 0x4C00, 8 => some s.starter.relNoVoice
  | _, _ => none

/-- A parameter word: a write that waits, or the shadow page; until the page copy has ended, the new active page (R80, R81). -/
def paramRead (s : State) (n w : Nat) : BitVec 24 :=
  match (s.held.filter (fun h => h.ctx == n && h.word == w)).getLast? with
  | some h => h.val
  | none => Tbl.get 0 (if (ctxOf s n).copying then (ctxOf s n).act else (ctxOf s n).shadow) w

/-- The P/E counts of the user area: sum and number of blocks. -/
def peMean (s : State) : Nat :=
  let bs := s.store.blocks.filter (fun e => !e.2.retired)
  if bs = [] then 0 else (bs.foldl (fun n e => n + e.2.pe) 0) / (if Config.variant = 0 then 32 * 683 else 32 * 1366)

/-- The sample store. -/
def readStore (s : State) (who : Requester) (ix sub : Nat) : Option Nat :=
  if 0x8000 ≤ ix ∧ ix < 0xC000 then some (paramRead s (ix - 0x8000) sub).toNat
  else if 0xCC00 ≤ ix ∧ ix < 0xD000 then
    let m := ix - 0xCC00
    match sub with
    | 2 => some (keymapOf s m).state
    | 3 => some (keymapZones s m).length
    | 4 => some (keymapOf s m).words
    | 5 => some (keymapOf s m).status
    | _ => none
  else match ix, sub with
  | 0xC000, 1 => some userCapacity
  | 0xC000, 2 => some (userCapacity - userHeld s)
  | 0xC000, 3 => some (s.store.objects.filter (fun e => e.2.state != 0)).length
  | 0xC000, 4 => some (headsUsed s s.grid.rate)
  | 0xC000, 5 => some s.store.prefixWords
  | 0xC001, 1 => some (sparesLeft s)
  | 0xC001, 2 => some (peMean s)
  | 0xC001, 3 => some (peSpread s).2
  | 0xC001, 4 => some (s.store.supers.foldl (fun m e => max m e.2.dose) 0 / doseUnit)
  | 0xC001, 5 => some (if sparesLeft s < 2 then 2 else if sparesLeft s < 16 then 1 else 0)
  | 0xC002, 2 => some s.store.service
  | 0xC010, 1 => some s.store.uncorr
  | 0xC010, 2 => some s.store.rebuilt
  | 0xC010, 3 => some s.store.clamped
  | 0xC010, 4 => some s.store.substituted
  | 0xC010, 5 => some s.store.relocated
  | 0xC020, 3 => some s.store.prep
  | 0xC200, 1 => some (perreqVal s who ix sub)
  | 0xC200, 3 => some (objOf s (perreqVal s who 0xC200 1)).state
  | _, _ =>
    if 0xC100 ≤ ix ∧ ix ≤ 0xC102 then
      (if sub = 4 then some (sessionOf s (ix - 0xC100)).state else if sub = 5 then some (sessionOf s (ix - 0xC100)).status else none)
    else none

/-- Time and the network. -/
def readNetwork (s : State) (ix sub : Nat) : Option Nat :=
  let st (x : StreamSt) : Option Nat :=
    match sub with
    | 11 => some x.packets | 12 => some x.late | 13 => some x.early | 14 => some x.mismatch | 15 => some x.losses | 16 => some x.dups
    | _ => none
  if 0x2300 ≤ ix ∧ ix < 0x2400 then
    (if sub = 10 then some (talkState s (ix - 0x2300)) else st (Tbl.get {} s.net.talk (ix - 0x2300)))
  else if 0x2400 ≤ ix ∧ ix < 0x2500 then
    (if sub = 10 then some (listenState s (ix - 0x2400)) else st (Tbl.get {} s.net.listen (ix - 0x2400)))
  else match ix, sub with
  | 0x2100, 1 => some (nsOf s.now)
  | 0x2100, 3 => some clockIdentity
  | 0x2100, 8 => some s.net.timeBase
  | 0x2100, 9 => some s.net.announces
  | 0x2100, 10 => some s.net.syncs
  | 0x2120, 2 => some (talkId s 256)
  | 0x2600, 1 => some clockIdentity
  | 0x2700, 3 => some s.net.noteBad
  | _, _ =>
    if ix = 0x2101 ∨ ix = 0x2102 then
      let p := netPort s (ix - 0x2101)
      match sub with | 1 => some (b2n p.up 1) | 2 => some (b2n p.asCap 1) | _ => some p.delay
    else if ix = 0x2200 ∨ ix = 0x2201 then
      let p := netPort s (ix - 0x2200)
      match sub with
      | 1 => some (if p.up then p.speed else 0)
      | 3 => some (Config.macAddress (ix - 0x2200) % 2 ^ 48)
      | 4 => some p.frames
      | 5 => some p.discards
      | 6 => some p.pauses
      | _ => none
    else if ix = 0x2500 ∨ ix = 0x2501 then
      let p := netPort s (ix - 0x2500)
      match sub with
      | 5 => some p.addr
      | 6 => some p.mask
      | 7 => some p.gw
      | 8 => some p.origin
      | _ => none
    else none

/-- Audio and performance inputs and outputs. -/
def readInputs (s : State) (ix sub : Nat) : Option Nat :=
  match ix, sub with
  | 0x2800, _ => if 5 ≤ sub then some (Tbl.get 0 s.audio.clips (sub - 5)) else none
  | 0x2820, 1 => some s.audio.usb.late
  | 0x2820, 2 => some (usbChannels s)
  | 0x2830, 4 => some s.audio.din.framing
  | 0x2830, 5 => some s.audio.din.overruns
  | 0x2831, 3 => some s.audio.usbMidi.overruns
  | 0x2841, 2 => some s.audio.quars
  | _, _ =>
    if 0x2B00 ≤ ix ∧ ix < 0x2B10 ∧ sub = 1 then some (cvSt s (ix - 0x2B00)).code
    else if 0x2B20 ≤ ix ∧ ix < 0x2B30 ∧ sub = 8 ∧ od s ix 1 ≠ 2 then some (b2n (gpioSt s (ix - 0x2B20)).acc 1)
    else none

/-- Modes, updates, applications, errors, self-test, availability and supply; signed values as two's complement. -/
def readService (s : State) (ix sub : Nat) : Option Nat :=
  let two (v : Int) : Nat := (v % 65536).toNat
  let m := s.modes
  if 0xF050 ≤ ix ∧ ix ≤ 0xF057 then
    match sub with
    | 1 => some (appOf s (ix - 0xF050)).state
    | 7 => some (appOf s (ix - 0xF050)).status
    | _ => none
  else match ix, sub with
  | 0xF000, 2 => some (b2n (m.next.isSome || m.entering != 0) 1)
  | 0xF000, 3 => some (b2n m.boot.toSafe 1)
  | 0xF000, 4 => some m.cause
  | 0xF000, 5 => some m.warm
  | 0xF001, 3 => some m.nonce.toNat
  | 0xF002, _ => some (rollWord s (sub - 1)).toNat
  | 0xF010, 1 => some (targetSlot s)
  | 0xF010, 4 => some m.upd.state
  | 0xF010, 7 => some m.rollback
  | 0xF010, 8 => some m.upd.status
  | 0xF020, 2 => some (if m.alarmOn then m.alarm else 0)
  | 0xF030, 1 => some s.supply.vin
  | 0xF030, 2 => some (two s.supply.case_)
  | 0xF030, 3 => some (two s.supply.junction)
  | 0xF030, 4 => some s.supply.power
  | 0xF030, 5 => some s.supply.vout
  | 0xF030, 8 => some m.lastStart
  | 0xF058, 2 => some (s.apps.tbl.filter (fun e => e.2.state == 2)).length
  | 0xF100, 1 => some s.log.newest
  | 0xF100, 2 => some (match s.log.ring with | r :: _ => r.seq | [] => 0)
  | 0xF100, 3 => some s.log.dropped
  | 0xF100, 4 => some s.log.archived
  | 0xF100, 5 => some (match s.log.ep with | some e => e.num | none => 0)
  | 0xF100, 6 => some s.log.episodes
  | 0xF110, _ => some (Tbl.get 0 s.log.corrected sub)
  | 0xF200, 2 => some s.test.passes
  | 0xF201, _ => some (Tbl.get 0 s.test.results (sub - 1)).toNat
  | 0xF210, _ => if sub ≤ 8 then some (clusterOf s (sub - 1)).state else some (clusterOf s (sub - 9)).quars
  | 0xF220, _ => some (Tbl.get 0 s.test.fuses (sub - 1))
  | 0xF230, 2 => some s.test.full
  | 0xF300, 4 => some s.test.result
  | 0xF300, 5 => some s.test.bits
  | 0xF400, 1 => some s.avail.service
  | 0xF400, 2 => some s.avail.impaired
  | 0xF400, 3 => some s.avail.outage
  | 0xF400, 4 => some (availabilityPpb s.avail)
  | 0xF400, 5 => some s.avail.offLaps
  | _, _ => none

/-- A computed number. -/
def readNumber (s : State) (who : Requester) (ix sub : Nat) : Option Nat :=
  if ix < 0x2000 then readControl s who ix sub
  else if ix = 0x2001 ∨ 0x3000 ≤ ix ∧ ix < 0x8000 then readLoad s who ix sub
  else if ix < 0x2800 then readNetwork s ix sub
  else if ix < 0x3000 then readInputs s ix sub
  else if ix < 0xF000 then readStore s who ix sub
  else readService s ix sub

/-- A burst descriptor as a number (Table 8.11). -/
def Burst.word (b : Burst) : Nat :=
  b.tag * 2 ^ 44 + b.kind * 2 ^ 40 + b.len * 2 ^ 32 + b.dst * 2 ^ 28 + b.src * 2 ^ 24 + b.lane * 2 ^ 21 + b.start

/-- An error record as bytes (Table 17.3). -/
def Record.bytes (r : Record) : Bytes :=
  leBytes 4 r.seq ++ leBytes 2 r.source ++ leBytes 1 r.cls ++ leBytes 1 r.code ++ leBytes 1 r.cluster ++ leBytes 1 r.unit ++
  leBytes 2 r.episode ++ leBytes 2 r.follow ++ [0, 0] ++ leBytes 8 r.lap ++ leBytes 8 r.time ++ (r.detail ++ List.replicate 8 0).take 8

/-- The stream record of a ring (Table 10.18). -/
def ringRecord (g : Ring) : Bytes :=
  leBytes 2 g.pool ++ leBytes 1 g.grants ++ leBytes 1 g.state ++ leBytes 4 g.object ++ leBytes 4 g.consumed ++ leBytes 4 g.written ++
  leBytes 4 g.loopClose ++ leBytes 2 (min 65535 g.subst) ++ [0, 0]

/-- Bytes padded with zeros to a length. -/
def padTo (n : Nat) (b : Bytes) : Bytes := (b ++ List.replicate (n - b.length) 0).take n

/-- A computed string of bytes. -/
def readBytes (s : State) (who : Requester) (ix sub : Nat) : Option Bytes :=
  match ix, sub with
  | 0x1000, 4 => some (Config.serial.take 16)
  | 0x1011, 2 =>
    some (match s.dict.portB.peer with | some p => leBytes 4 p.1.toNat ++ leBytes 2 p.2.toNat | none => List.replicate 6 0)
  | 0x1201, _ => some (padTo 24 (Tbl.get [] s.man.results sub))
  | 0x1202, 4 => some (s.man.moved.flatten)
  | 0x2840, 2 =>
    some ((List.range 80).map (fun b => BitVec.ofNat 8 (bitsOf_ 8 (fun i => (contact s (8 * b + i)).raw))))
  | 0x2841, 1 => some ((s.audio.quar.foldl (fun l x => insertNat x l) []).flatMap (leBytes 2))
  | 0x3020, 10 => some (padTo 24 s.adm.last)
  | 0x3040, 1 => some (leBytes 2 s.adm.timetable.length ++ s.adm.timetable.flatMap (fun b => leBytes 8 b.word))
  | 0x3400, 2 => some ((List.range 8).flatMap (fun w => leBytes 3 ((ctxOf s (perreqVal s who 0x3400 1)).hdr.word w).toNat))
  | 0x4C00, 9 => some (padTo 16 s.starter.lastRefused)
  | 0xC200, 2 => some (padTo 32 (objOf s (perreqVal s who 0xC200 1)).record)
  | 0xF000, 6 => some ((List.range 8).flatMap (fun i => leBytes 4 (match Tbl.get 0 s.modes.up.times i with | 0 => 0xFFFFFFFF | n + 1 => n)))
  | 0xF001, 2 => some (s.modes.token.getD (List.replicate 88 0))
  | 0xF010, 2 => some []
  | 0xF010, 9 => some (s.modes.roles.map (BitVec.ofNat 8))
  | 0xF102, 1 => some (s.log.archive.flatMap Record.bytes)
  | 0xF101, _ =>
    some (match s.log.ring.find? (fun r => r.seq % 256 == sub) with | some r => r.bytes | none => List.replicate 40 0)
  | 0xF202, 1 => some s.test.last
  | 0xF230, 3 => some ((List.range 8).map (fun i => BitVec.ofNat 8 (Tbl.get 0 s.test.item i)))
  | 0xF300, 2 => some s.test.page
  | _, _ =>
    if 0x4001 ≤ ix ∧ ix ≤ 0x43FF then some (match s.adm.load.kernel (ix - 0x4000) with | some k => k.table | none => [])
    else if 0xE000 ≤ ix ∧ ix < 0xF000 then some (ringRecord (ringOf s (ix - 0xE000)))
    else if 0xF050 ≤ ix ∧ ix ≤ 0xF057 then
      match sub with
      | 2 => some []
      | 5 => some ((appOf s (ix - 0xF050)).image.take 64)
      | 6 => some (padTo 24 (appOf s (ix - 0xF050)).lastEx)
      | _ => none
    else none

/-- The value of an object as a requester reads it. -/
def odValue (s : State) (who : Requester) (ix sub : Nat) : Except Status Bytes :=
  match odFind ix sub with
  | .error e => .error e
  | .ok r =>
    if ix = 0x0200 ∧ sub = 2 then
      let sel := perreqVal s who 0x0200 1
      match odFind (sel / 256) (sel % 256) with
      | .error e => .error e
      | .ok q => .ok (describe s (sel / 256) (sel % 256) q)
    else match readBytes s who ix sub with
      | some b => .ok b
      | none =>
        match readNumber s who ix sub with
        | some n => .ok (leBytes r.ty.bytes n)
        | none => .ok (odBytes s ix sub)

/-- The objects that are read in BOOT (Table 13.4), and those that serve only in WORKSHOP (R632). -/
def readableNow (s : State) (ix : Nat) (r : OdRow) : Bool :=
  (serving s || (s.modes.mode == .boot && r.fl.testBit 2)) && (ix != 0xF300 || s.modes.mode == .workshop)

/-- A direct read (R476, R477, R480). -/
def odRead (s : State) (who : Requester) (ix sub : Nat) : Except Status Bytes :=
  match odFind ix sub with
  | .error e => .error e
  | .ok r =>
    if !mayRead who r then .error .access
    else if !readableNow s ix r then .error .state
    else odValue s who ix sub

end Sys2Proof.Machine
end

