-- ==== Sys2Proof/Machine/Dict.lean ====
section
/-! DEFINITION. Writes of objects (R474 to R487): the effect of each object's write, the order of the checks, runs and
segments, and the commands that are writes of a named object. -/

namespace Sys2Proof.Machine

/-! ### Effects of single objects -/

/-- A manifest in STAGED or GIVEN for the next lap writes a parameter word (R335): its commit lap. -/
def manifestWord (s : State) (n w : Nat) : Option Nat :=
  (s.man.tbl.find? (fun e => (e.2.state == .staged || e.2.state == .given) && e.2.lc == s.grid.lap + 1 &&
    e.2.entries.any (fun x => match x with | .write ix sub _ => ix == 0x8000 + n && sub == w | _ => false))).map (fun e => e.2.lc)

/-- A direct write of parameter word w of context n (R80 to R83, R335, R342). The template copy of an ARMED context goes ahead of it. -/
def paramWrite (n w : Nat) (v : BitVec 24) (s0 : State) : Status × State :=
  let s := if (ctxOf s0 n).hdr.state = .armed then copiedFirst n s0 else s0
  let c := ctxOf s n
  let hold (l : Option Nat) : Status × State := (.ok, { s with held := s.held ++ [⟨n, w, v, l⟩] })
  match c.hdr.state with
  | .free => (.state, s)
  | .poisoned => (.state, s)
  | .migrating => (.busy, s)
  | _ =>
    match manifestWord s n w with
    | some lc => hold (some lc)
    | none =>
      if c.copying || (s.grid.sealed && c.marked) then hold none
      else (.ok, setCtx s n { c with shadow := Tbl.put 0 c.shadow w v, dirty := true })

/-- A write of the house rate or the lap length (R34 to R36). -/
def gridWrite (who : Requester) (sub v : Nat) (s : State) : Status × State :=
  if !(s.modes.mode == .safe || s.modes.mode == .workshop) then (.state, s)
  else
    let old := match s.grid.change with | some c => c | none => (s.grid.rate, s.grid.nLap)
    let new := if sub = 1 then (v, old.2) else (old.1, v)
    let es : List MEntry := [.write 0x2001 1 (leBytes 1 new.1), .write 0x2001 2 (leBytes 1 new.2)]
    match admission s false (s.adm.reserve == 1) es with
    | some f => (.refused, bankRefused (requestViews s (s.adm.reserve == 1) es) f (admissionRefuse 0xFFFF (reqNum who) f s))
    | none =>
      let s1 := admissionAccept s
      (.ok, restage (replan { s1 with grid := { s1.grid with change := if new = (s.grid.rate, s.grid.nLap) then none else some new } }))

/-- A write of a rule's enable (R106): it acts on events of the laps after this one. -/
def enableWrite (r : Nat) (val : Bytes) (s : State) : State :=
  let old := odBool s (0x4800 + r) 1
  let s1 := odPut (0x4800 + r) 1 val s
  { s1 with starter := { s1.starter with enables := s1.starter.enables ++ [⟨r, old, s.grid.lap⟩] } }

/-- A save begins (R482); where a reply waits for its end, who asked notes it. -/
def saveBegin (s : State) : Status × State :=
  if s.dict.saving.isSome then (.busy, s)
  else (.ok, { s with dict := { s.dict with saving := some (.firmware, 0, 0), saveSet := none, saveState := 1 } })

/-- The binding of port B takes effect (R496): port B is reset and carried on the new carrier. -/
def settleBinding (s : State) : State :=
  if od s 0x1010 1 = s.dict.carrier then s
  else
    let s1 := resetPort .b s
    usbSettle { s1 with dict := { s1.dict with carrier := od s 0x1010 1 } }

/-- Objects of the control range and of the grid. -/
def effectControl (who : Requester) (ix sub : Nat) (val : Bytes) (s : State) : Option (Status × State) :=
  let v := leNat val
  let quiet := s.modes.mode == .safe || s.modes.mode == .workshop
  let put := odPut ix sub val s
  let per (s : State) : State := { s with dict := { s.dict with perreq := Tbl.put [] s.dict.perreq (2 ^ 24 * reqNum who + odKey ix sub) val } }
  if 0x8000 ≤ ix ∧ ix < 0xC000 then some (paramWrite (ix - 0x8000) sub (BitVec.ofNat 24 v) s)
  else if 0x4800 ≤ ix ∧ ix < 0x4C00 ∧ sub = 1 then some (.ok, enableWrite (ix - 0x4800) val s)
  else match ix, sub with
  | 0x0200, 1 => some (.ok, per s)
  | 0x3400, 1 => some (.ok, per s)
  | 0xC200, 1 => some (.ok, per s)
  | 0x1010, 1 => some (if quiet then (.ok, put) else (.state, s))
  | 0x1030, 1 => some (saveBegin s)
  | 0x1030, 2 => some (if quiet then (.ok, { s with dict := { s.dict with loadDefaults := true } }) else (.state, s))
  | 0x2001, 1 => some (gridWrite who 1 v s)
  | 0x2001, 2 => some (gridWrite who 2 v s)
  | 0x2100, 2 => some (if quiet then (.ok, setTime v s) else (.state, s))
  | 0x3001, 1 =>
    let r := reserveWrite (v == 1) (reqNum who) s
    some (if r.2 then .ok else .refused, r.1)
  | _, _ => none

/-- Objects of the sample store; off is the place of a segment of import data (R384). -/
def effectStore (ix sub off : Nat) (val : Bytes) (s : State) : Option (Status × State) :=
  let v := leNat val
  if 0xCC00 ≤ ix ∧ ix < 0xD000 then some (keymapWrite (ix - 0xCC00) val s)
  else if 0xC100 ≤ ix ∧ ix ≤ 0xC102 then
    let i := ix - 0xC100
    match sub with
    | 1 => some (importOpen i val s)
    | 2 => some (importAppend i off val s)
    | 3 => some (if v = 1 then importCommit i s else importAbort i s)
    | _ => none
  else match ix, sub with
  | 0xC110, 1 => some (objectDelete v s)
  | 0xC002, 1 => some (streamingWrite v s)
  | 0xC020, 2 => some (.ok, prepare s)
  | _, _ => none

/-- Objects of the network and of the inputs and outputs. -/
def effectIo (ix sub : Nat) (val : Bytes) (s : State) : Option (Status × State) :=
  let put := odPut ix sub val s
  let v := leNat val
  if (ix = 0x2200 ∨ ix = 0x2201) ∧ sub = 2 then some (.ok, if val = odBytes s ix sub then s else speedsWrite (ix - 0x2200) put)
  else if (ix = 0x2500 ∨ ix = 0x2501) ∧ sub ≤ 4 then some (.ok, ipStart (ix - 0x2500) put)
  else if ix = 0x2800 ∧ sub ≤ 4 then some (.ok, rangeWrite (sub - 1) put)
  else if ix = 0x2801 then some (.ok, muteWrite (sub - 1) v put)
  else if ix = 0x2802 then some (.ok, volumeWrite (sub - 1) (leInt val) put)
  else if 0x2810 ≤ ix ∧ ix ≤ 0x2813 ∧ (sub = 2 ∨ sub = 3) then
    some (if s.modes.mode == .safe || s.modes.mode == .workshop then (.ok, put) else (.state, s))
  else if ix = 0x2830 ∧ sub = 6 then some (midiSend val s)
  else if 0x2900 ≤ ix ∧ ix ≤ 0x2A87 then some (.ok, odPut ix sub val (keepKey ix sub s))
  else if 0x2B00 ≤ ix ∧ ix ≤ 0x2B0F then some (.ok, cvReset (ix - 0x2B00) put)
  else if 0x2B20 ≤ ix ∧ ix ≤ 0x2B2F ∧ sub = 8 then some (if od s ix 1 = 2 then (.ok, put) else (.state, s))
  else none

/-- Effects in the objects of supply, log, tests and availability. -/
def effectUpkeep (ix sub : Nat) (val : Bytes) (s : State) : Option (Status × State) :=
  let v := leNat val
  match ix, sub with
  | 0xF020, 2 => some (.ok, onModes (fun m => { m with alarm := v, alarmOn := v != 0 }) s)
  | 0xF100, 7 => some (logClear s)
  | 0xF200, 3 => some (testNow v s)
  | 0xF200, 5 => some (repairAgain v s)
  | 0xF230, 1 => some (selftestRun v s)
  | 0xF230, 4 => some (selftestAbort s)
  | 0xF300, 1 => some (if s.modes.mode = .workshop then (.ok, odPut ix sub val s) else (.state, s))
  | 0xF300, 2 => some (if s.modes.mode = .workshop then (.ok, onTest (fun t => { t with page := val }) s) else (.state, s))
  | 0xF300, 3 => some (storeAction v s)
  | 0xF400, 6 => some (availabilityClear s)
  | _, _ => none

/-- Objects of modes, updates, applications and service; off is the place of a segment of an image (R596). -/
def effectService (ix sub off : Nat) (val : Bytes) (s : State) : Option (Status × State) :=
  let v := leNat val
  if 0xF050 ≤ ix ∧ ix ≤ 0xF057 then
    let a := ix - 0xF050
    match sub with
    | 2 => some (appDraft a off val s)
    | 3 => some (if v = 1 then appInstall a s else appRemove a s)
    | 4 => some (appRun a v s)
    | _ => none
  else match ix, sub with
  | 0xF000, 1 => some (modeRequest v s)
  | 0xF000, 3 => some (.ok, bootWrite (fun b => { b with toSafe := v == 1 }) s)
  | 0xF000, 7 => some (warmResetWrite s)
  | 0xF001, 1 => some (lifeRequest v s)
  | 0xF001, 2 => some (tokenWrite val s)
  | 0xF001, k => some (customerKeyWrite (k - 4) val s)
  | 0xF010, 2 => some (fwSegment off val s)
  | 0xF010, 3 => some (fwVerify s)
  | 0xF010, 5 => some (if v = 1 then fwHitless s else fwPending s)
  | 0xF010, 6 => some (rollbackConfirm s)
  | _, _ => effectUpkeep ix sub val s

/-- The effect of a value that has passed the checks of type and range: what the object's rule gives, and for every other
object that its value is stored. -/
def odEffect (who : Requester) (ix sub off : Nat) (val : Bytes) (s : State) : Status × State :=
  match effectControl who ix sub val s with
  | some r => r
  | none =>
    match effectStore ix sub off val s with
    | some r => r
    | none =>
      match effectIo ix sub val s with
      | some r => r
      | none => (effectService ix sub off val s).getD (.ok, odPut ix sub val s)

/-! ### Writes (R479) -/

/-- A status that a step of R479 before the semaphores gives. -/
def Status.early (e : Status) : Bool := e == .state || e == .range || e == .type

/-- The streams' declarations follow their objects (R517, R518). -/
def afterStreams (ix : Nat) (old new : State) : State :=
  if ix = 0x2120 ∨ 0x2300 ≤ ix ∧ ix < 0x2500 then streamsChanged (withdrawOld old new) else new

/-- A write changes an object: its subscriptions note it (R492). -/
def noteSubs (ix sub : Nat) (s : State) : State :=
  let hit (l : List Subscr) : List Subscr := l.map (fun u => if u.idx = ix ∧ u.sub = sub then { u with changed := true } else u)
  let d : Dict := { s.dict with portA := { s.dict.portA with subs := hit s.dict.portA.subs },
                                portB := { s.dict.portB with subs := hit s.dict.portB.subs } }
  let a : Apps := { s.apps with subs := s.apps.subs.map (fun u => if u.idx = ix ∧ u.sub = sub then { u with changed := true } else u) }
  { s with dict := d, apps := a }

/-- The value that an object shows. -/
def shown (s : State) (ix sub : Nat) : Option Bytes := match odValue s .firmware ix sub with | .ok b => some b | .error _ => none

/-- The subscriptions of an object that shows another value now than before. -/
def noteChange (ix sub : Nat) (old new : State) : State :=
  if shown old ix sub = shown new ix sub then new else noteSubs ix sub new

/-- The checks of R479 in their order, and the effect. A write that fails changes nothing but what the object's rule says of
a failure. -/
def odChecked (who : Requester) (ix sub off : Nat) (val : Bytes) (s : State) : Status × State :=
  match odFind ix sub with
  | .error e => (e, s)
  | .ok r =>
    if !mayWrite who r then (.access, s)
    else if !lengthOk r ix sub val.length then (.type, s)
    else if !rangeOk s s.dict.od r ix sub val then (.range, s)
    else if !serving s ∨ r.fl.testBit 1 = true then (.state, s)
    else
      let x := odEffect who ix sub off val s
      if x.1.early then (if holdsGuards s who ix r then x else (x.1, s))
      else if !holdsGuards s who ix r then (.semNotHeld, s)
      else if x.1 = .ok then (.ok, noteChange ix sub s (afterStreams ix s x.2))
      else x

/-- The status objects of updates and applications keep the code of the last write (Tables 11.25 and 16.11). -/
def noteStatus (ix sub : Nat) (r : Status × State) : Status × State :=
  if ix = 0xF010 ∧ 2 ≤ sub ∧ sub ≤ 6 ∧ sub ≠ 4 then updStatus r
  else if 0xF050 ≤ ix ∧ ix ≤ 0xF057 ∧ 2 ≤ sub ∧ sub ≤ 4 then appStatus (ix - 0xF050) r
  else r

/-- A write of a whole value, or of a segment at an offset. -/
def odWriteAt (who : Requester) (ix sub off : Nat) (val : Bytes) (s : State) : Status × State :=
  noteStatus ix sub (odChecked who ix sub off val s)

/-- A write of a whole value. -/
def odWrite (who : Requester) (ix sub : Nat) (val : Bytes) (s : State) : Status × State := odWriteAt who ix sub 0 val s

/-! ### Runs and segments (R487) -/

/-- The bytes of the next value of a run: a fixed length, or what is left for an object of varying length. -/
def runTake (r : OdRow) (d : Bytes) : Option (Bytes × Bytes) :=
  let n := if r.ty.bytes ≠ 0 then r.ty.bytes else if r.exact then r.len else d.length
  if d.length < n ∨ (r.ty.bytes = 0 ∧ d = []) then none else some (d.take n, d.drop n)

/-- A run of n values from a subindex on, each checked against what the values before it leave: the state, or the status,
the failing subindex and what a refused admission counts. -/
def runWrite (who : Requester) (ix : Nat) : Nat → Nat → Bytes → State → Except (Status × Nat × State) State
  | 0, sub, d, s => if d = [] then .ok s else .error (.type, sub - 1, s)
  | n + 1, sub, d, s =>
    match odFind ix sub with
    | .error e => .error (e, sub, s)
    | .ok r =>
      if !mayWrite who r then .error (.access, sub, s)
      else
        match runTake r d with
        | none => .error (.type, sub, s)
        | some x =>
          match odWrite who ix sub x.1 s with
          | (.ok, t) => runWrite who ix n (sub + 1) x.2 t
          | (e, t) => .error (e, sub, t)

/-- What a request that fails keeps of the state that it had reached: the counts of admission, and their event. -/
def runFails (s t : State) : State :=
  { s with adm := { s.adm with requests := t.adm.requests, accepted := t.adm.accepted, refusals := t.adm.refusals, last := t.adm.last }
           evc := if t.adm.refusals = s.adm.refusals then s.evc else (fire 284 s).evc }

/-- A run: the status, the failing subindex and the state. -/
def odRun (who : Requester) (ix sub word : Nat) (d : Bytes) (s : State) : Status × Nat × State :=
  if word = 0 ∨ word > 255 ∨ sub + word > 256 then (.range, sub, s)
  else
    match runWrite who ix word sub d s with
    | .ok t => (.ok, 0, t)
    | .error e => (e.1, e.2.1, runFails s e.2.2)

/-- The objects that take segments as they arrive (R384, R448, R596). -/
def streamed (ix sub : Nat) : Bool :=
  sub == 2 && ((0xC100 ≤ ix && ix ≤ 0xC102) || ix == 0xF010 || (0xF050 ≤ ix && ix ≤ 0xF057))

/-- A segment, the last one when final, with the assembly that it adds to: the status, the assembly then and the state. -/
def odSegment (who : Requester) (ix sub : Nat) (final : Bool) (off : Nat) (d : Bytes) (asm : Option (Nat × Nat × Bytes)) (s : State) :
    Status × Option (Nat × Nat × Bytes) × State :=
  match odFind ix sub with
  | .error e => (e, asm, s)
  | .ok r =>
    if !mayWrite who r then (.access, asm, s)
    else if r.ty.bytes ≠ 0 then (.type, asm, s)
    else if streamed ix sub then
      let w := odWriteAt who ix sub off d s
      (w.1, asm, w.2)
    else
      let have_ : Option Bytes :=
        if off = 0 then some []
        else match asm with
          | some a => if a.1 = ix ∧ a.2.1 = sub ∧ a.2.2.length = off then some a.2.2 else none
          | none => none
      match have_ with
      | none => (.range, none, s)
      | some h =>
        let whole := h ++ d
        if whole.length > r.len then (.type, none, s)
        else if whole.length > 262144 then (.full, none, s)
        else if !final then (.ok, some (ix, sub, whole), s)
        else
          let w := odWrite who ix sub whole s
          (w.1, none, w.2)

/-! ### The commands that write a named object -/

/-- The result of a request is noted. -/
def answered (st : Status) (body : Bytes) (s : State) : State := { s with dict := { s.dict with last := st, lastBody := body } }

/-- A write of an object by a requester, without a message. -/
def named (who : Requester) (ix sub : Nat) (val : Bytes) (s : State) : Out :=
  let r := odWrite who ix sub val s
  .next (answered r.1 [] r.2)

/-- The requester to which an import session belongs (R478). -/
def sessionOwner (i : Nat) : Requester := if i = 0 then .portA else if i = 1 then .portB else .apps

/-- HOUSE_RATE_WRITE (R34 to R36). -/
def execHouseRateWrite (who : Requester) (v : BitVec 8) (s : State) : Out := named who 0x2001 1 [v] s

/-- LAP_LENGTH_WRITE (R34 to R36). -/
def execLapLengthWrite (who : Requester) (v : BitVec 8) (s : State) : Out := named who 0x2001 2 [v] s

/-- RESERVE_WRITE (R294). -/
def execReserveWrite (who : Requester) (v : BitVec 8) (s : State) : Out := named who 0x3001 1 [v] s

/-- KEYMAP_WRITE (R360). -/
def execKeymapWrite (who : Requester) (m : Fin 1024) (zs : List (BitVec 8)) (s : State) : Out := named who (0xCC00 + m.val) 1 zs s

/-- IMPORT_OPEN (R384). -/
def execImportOpen (i : Fin 3) (rec_ : List (BitVec 8)) (s : State) : Out := named (sessionOwner i.val) (0xC100 + i.val) 1 rec_ s

/-- IMPORT_APPEND (R384). -/
def execImportAppend (i : Fin 3) (off : BitVec 32) (d : List (BitVec 8)) (s : State) : Out :=
  let r := odWriteAt (sessionOwner i.val) (0xC100 + i.val) 2 off.toNat d s
  .next (answered r.1 [] r.2)

/-- IMPORT_COMMIT (R385). -/
def execImportCommit (i : Fin 3) (s : State) : Out := named (sessionOwner i.val) (0xC100 + i.val) 3 [1] s

/-- IMPORT_ABORT (R384). -/
def execImportAbort (i : Fin 3) (s : State) : Out := named (sessionOwner i.val) (0xC100 + i.val) 3 [2] s

/-- OBJECT_DELETE (R388). -/
def execObjectDelete (who : Requester) (id : BitVec 32) (s : State) : Out := named who 0xC110 1 (leBytes 4 id.toNat) s

/-- STREAMING_DRAIN (R387). -/
def execStreamingDrain (who : Requester) (s : State) : Out := named who 0xC002 1 [1] s

/-- STREAMING_RESUME (R387). -/
def execStreamingResume (who : Requester) (s : State) : Out := named who 0xC002 1 [0] s

/-- PREPARE_FOR_STORAGE (R382). -/
def execPrepareForStorage (who : Requester) (s : State) : Out := named who 0xC020 2 [1] s

/-- APP_INSTALL (R448). -/
def execAppInstall (who : Requester) (a : Fin 8) (s : State) : Out := named who (0xF050 + a.val) 3 [1] s

/-- APP_REMOVE (R448). -/
def execAppRemove (who : Requester) (a : Fin 8) (s : State) : Out := named who (0xF050 + a.val) 3 [2] s

/-- APP_START (R449). -/
def execAppStart (who : Requester) (a : Fin 8) (s : State) : Out := named who (0xF050 + a.val) 4 [1] s

/-- APP_STOP (R449). -/
def execAppStop (who : Requester) (a : Fin 8) (s : State) : Out := named who (0xF050 + a.val) 4 [0] s

/-- SAVE (R482): the reply waits for SAVE_DONE. -/
def execOdSave (who : Requester) (s : State) : Out := named who 0x1030 1 [1] s

/-- RESTORE_DEFAULTS (R482). -/
def execRestoreDefaults (who : Requester) (s : State) : Out := named who 0x1030 2 [1] s

/-- PORT_B_BINDING (R496): the write is answered, then port B is reset onto the new carrier. -/
def execPortBBinding (who : Requester) (v : BitVec 8) (s : State) : Out :=
  let r := odWrite who 0x1010 1 [v] s
  .next (settleBinding (answered r.1 [] r.2))

/-- SET_TIME (R509). -/
def execSetTime (who : Requester) (t : BitVec 64) (s : State) : Out := named who 0x2100 2 (leBytes 8 t.toNat) s

/-- SPEEDS_ALLOWED_WRITE (R516). -/
def execSpeedsAllowedWrite (who : Requester) (p : Fin 2) (v : BitVec 8) (s : State) : Out := named who (0x2200 + p.val) 2 [v] s

/-- IP_MODE_WRITE (R533): the IP mode, or one of the three words of the static address. -/
def execIpModeWrite (who : Requester) (p : Fin 2) (word : Fin 4) (v : BitVec 32) (s : State) : Out :=
  named who (0x2500 + p.val) (word.val + 1) (leBytes (if word.val = 0 then 1 else 4) v.toNat) s

/-- MIDI_SEND (R558). -/
def execMidiSend (who : Requester) (b : List (BitVec 8)) (s : State) : Out := named who 0x2830 6 b s

/-- INPUT_RANGE_WRITE (R545). -/
def execInputRangeWrite (who : Requester) (i : Fin 4) (v : BitVec 8) (s : State) : Out := named who 0x2800 (i.val + 1) [v] s

/-- LINE_MUTE_WRITE (R546). -/
def execLineMuteWrite (who : Requester) (i : Fin 8) (v : BitVec 8) (s : State) : Out := named who 0x2801 (i.val + 1) [v] s

/-- HEADPHONE_VOLUME_WRITE (R547). -/
def execHeadphoneVolumeWrite (who : Requester) (i : Fin 2) (v : BitVec 16) (s : State) : Out :=
  named who 0x2802 (i.val + 1) (leBytes 2 v.toNat) s

/-- TDM_ENABLE_WRITE (R549). -/
def execTdmEnableWrite (who : Requester) (p : Fin 4) (v : BitVec 8) (s : State) : Out := named who (0x2810 + p.val) 1 [v] s

/-- KEY_OBJECT_WRITE (R563): object sub + 1 of a key. -/
def execKeyObjectWrite (who : Requester) (k : Fin 320) (sub : Fin 11) (v : BitVec 16) (s : State) : Out :=
  let n := match odRow (0x2900 + k.val) (sub.val + 1) with | some r => r.ty.bytes | none => 1
  named who (0x2900 + k.val) (sub.val + 1) (leBytes n v.toNat) s

/-- MODE_REQUEST_STANDBY (R578). -/
def execModeRequestStandby (who : Requester) (s : State) : Out := named who 0xF000 1 [0] s

/-- MODE_REQUEST_PERFORM (R578). -/
def execModeRequestPerform (who : Requester) (s : State) : Out := named who 0xF000 1 [2] s

/-- MODE_REQUEST_MAINTAIN (R578). -/
def execModeRequestMaintain (who : Requester) (s : State) : Out := named who 0xF000 1 [3] s

/-- MODE_REQUEST_SAFE (R578). -/
def execModeRequestSafe (who : Requester) (s : State) : Out := named who 0xF000 1 [4] s

/-- MODE_REQUEST_WORKSHOP (R578). -/
def execModeRequestWorkshop (who : Requester) (s : State) : Out := named who 0xF000 1 [5] s

/-- WARM_RESET_REQUEST (R589). -/
def execWarmResetRequest (who : Requester) (s : State) : Out := named who 0xF000 7 [0xA5] s

/-- FW_VERIFY (R596). -/
def execFwVerify (who : Requester) (s : State) : Out := named who 0xF010 3 [1] s

/-- FW_ACTIVATE_HITLESS (R597). -/
def execFwActivateHitless (who : Requester) (s : State) : Out := named who 0xF010 5 [1] s

/-- FW_ACTIVATE_AT_START (R596). -/
def execFwActivateAtStart (who : Requester) (s : State) : Out := named who 0xF010 5 [2] s

/-- ROLLBACK_CONFIRM (R595). -/
def execRollbackConfirm (who : Requester) (s : State) : Out := named who 0xF010 6 [1] s

/-- LIFECYCLE_REQUEST (R605). -/
def execLifecycleRequest (who : Requester) (v : BitVec 8) (s : State) : Out := named who 0xF001 1 [v] s

/-- LIFECYCLE_TOKEN_WRITE (R605). -/
def execLifecycleTokenWrite (who : Requester) (b : List (BitVec 8)) (s : State) : Out := named who 0xF001 2 b s

/-- CUSTOMER_KEY_WRITE (R606). -/
def execCustomerKeyWrite (who : Requester) (k : Fin 4) (b : List (BitVec 8)) (s : State) : Out := named who 0xF001 (k.val + 4) b s

/-- TEST_NOW (R627). -/
def execTestNow (who : Requester) (c : BitVec 8) (s : State) : Out := named who 0xF200 3 [c] s

/-- REPAIR_AGAIN (R629). -/
def execRepairAgain (who : Requester) (c : BitVec 8) (s : State) : Out := named who 0xF200 5 [c] s

/-- SELFTEST_RUN (R631). -/
def execSelftestRun (who : Requester) (mask : BitVec 16) (s : State) : Out := named who 0xF230 1 (leBytes 2 mask.toNat) s

/-- SELFTEST_ABORT (R631). -/
def execSelftestAbort (who : Requester) (s : State) : Out := named who 0xF230 4 [1] s

/-- STORE_RAW_READ (R632). -/
def execStoreRawRead (who : Requester) (s : State) : Out := named who 0xF300 3 [1] s

/-- STORE_DECODED_READ (R632). -/
def execStoreDecodedRead (who : Requester) (s : State) : Out := named who 0xF300 3 [2] s

/-- STORE_BLOCK_ERASE (R632). -/
def execStoreBlockErase (who : Requester) (s : State) : Out := named who 0xF300 3 [3] s

/-- STORE_PAGE_PROGRAM (R632). -/
def execStorePageProgram (who : Requester) (s : State) : Out := named who 0xF300 3 [4] s

/-- STORE_BLOCK_RETIRE (R632). -/
def execStoreBlockRetire (who : Requester) (s : State) : Out := named who 0xF300 3 [5] s

/-- LOG_CLEAR (R614). -/
def execLogClear (who : Requester) (s : State) : Out := named who 0xF100 7 [1] s

/-- AVAILABILITY_CLEAR (R634). -/
def execAvailabilityClear (who : Requester) (s : State) : Out := named who 0xF400 6 [1] s

end Sys2Proof.Machine
end

