-- ==== Sys2Proof/Machine/Apps.lean ====
section
/-! DEFINITION. The calls of Drover applications (R449 to R451, Table 11.26), and the subscriptions that they share with the
ports' rules (R491). A call acts while its application holds a slice; an argument that is a buffer is none where it does not
lie wholly in the application's memory. -/

namespace Sys2Proof.Machine

/-! ### Subscriptions (R491) -/

/-- The checks of a SUBSCRIBE. -/
def subscribeCheck (s : State) (who : Requester) (ix sub mode period : Nat) : Option Status :=
  if !serving s then some .state
  else if mode > 2 ∨ (mode ≠ 2 ∧ period ≠ 0) ∨ (mode = 2 ∧ (period = 0 ∨ period > 65535)) then some .range
  else if mode = 0 then none
  else match odFind ix sub with
    | .error e => some e
    | .ok r => if subOk ix sub r && mayRead who r then none else some .access

/-- The lowest id that no subscription has. -/
def freeId (used : List Nat) : Option Nat := (List.range 64).find? (fun i => !used.contains i)

/-! ### Calls -/

/-- An application runs in a slice and is not blocked. -/
def appCalls (s : State) (a : Nat) : Bool :=
  (appOf s a).state == 2 && (appOf s a).block == .none && s.apps.current.any (fun e => e.2 == a + 1)

/-- A call: nothing happens where the application does not run. -/
def call (a : Nat) (f : State → State) (s : State) : Out := .next (if appCalls s a then f s else s)

/-- A call returns with bytes in its buffer. -/
def appRetBuf (a : Nat) (out : List Nat) (b : Bytes) (s : State) : State :=
  appRet a .ok out (updApp s a (fun x => { x with buf := b }))

/-- A call blocks: the rest of the slice is given up. -/
def appBlocks (a : Nat) (b : AppBlock) (s : State) : State := appYield a (updApp s a (fun x => { x with block := b }))

/-- A blocked call goes on: its application takes its turn again. -/
def appWakes (a : Nat) (s : State) : State := appSchedule (updApp s a (fun x => { x with block := .none }))

/-- Low and high words of a 64-bit number. -/
def words64 (v : Nat) : List Nat := [v % 2 ^ 32, v / 2 ^ 32 % 2 ^ 32]

/-- APP_SLICE_END (R449) on a Drover. -/
def execAppSliceEnd (d : Fin 4) (s : State) : Out :=
  .next (match Tbl.get 0 s.apps.current d.val with | 0 => s | a + 1 => appYield a s)

/-- APP_EXIT. -/
def execAppExit (a : Fin 8) (s : State) : Out := call a.val (fun s => appSchedule (endApp a.val 3 s)) s

/-- APP_YIELD. -/
def execAppYield (a : Fin 8) (s : State) : Out := call a.val (fun s => appYield a.val (appRet a.val .ok [] s)) s

/-- APP_OD_READ: obj is index × 256 + subindex; inMem tells that the buffer of len bytes lies in the application's memory. -/
def execAppOdRead (a : Fin 8) (obj : BitVec 32) (inMem : Bool) (len : BitVec 32) (s : State) : Out :=
  call a.val (fun s =>
    if !inMem then appRet a.val .access [] s
    else match odRead s .apps (obj.toNat / 256) (obj.toNat % 256) with
      | .error e => appRet a.val e [] s
      | .ok b => if b.length > len.toNat then appRet a.val .range [] s else appRetBuf a.val [b.length] b s) s

/-- What a write by an application leaves to do: the answer to a save waits for its end, and a new binding of port B takes
effect. -/
def appWrote (a : Nat) (old : State) (r : Status × List Nat × State) : State :=
  let t := r.2.2
  if old.dict.saving.isNone && t.dict.saving.isSome then
    appBlocks a .save { t with dict := { t.dict with saving := some (.apps, a, 0) } }
  else settleBinding (appRet a r.1 r.2.1 t)

/-- APP_OD_WRITE. -/
def execAppOdWrite (a : Fin 8) (obj : BitVec 32) (buf : Option (List (BitVec 8))) (s : State) : Out :=
  call a.val (fun s =>
    match buf with
    | none => appRet a.val .access [] s
    | some b =>
      let r := odWrite .apps (obj.toNat / 256) (obj.toNat % 256) b s
      appWrote a.val s (r.1, [], r.2)) s

/-- APP_OD_WRITE_RUN. -/
def execAppOdWriteRun (a : Fin 8) (obj : BitVec 32) (buf : Option (List (BitVec 8))) (count : BitVec 32) (s : State) : Out :=
  call a.val (fun s =>
    match buf with
    | none => appRet a.val .access [] s
    | some b =>
      let r := odRun .apps (obj.toNat / 256) (obj.toNat % 256) count.toNat b s
      appWrote a.val s (r.1, if r.1 = .ok then [] else [r.2.1], r.2.2)) s

/-- APP_OD_READ_BLOCK. -/
def execAppOdReadBlock (a : Fin 8) (obj : BitVec 32) (inMem : Bool) (off count : BitVec 32) (s : State) : Out :=
  call a.val (fun s =>
    if !inMem then appRet a.val .access [] s
    else match odRead s .apps (obj.toNat / 256) (obj.toNat % 256) with
      | .error e => appRet a.val e [] s
      | .ok b =>
        if off.toNat > b.length then appRet a.val .range [] s
        else
          let p := (b.drop off.toNat).take count.toNat
          appRetBuf a.val [p.length] p s) s

/-- The assembly of an application. -/
def appAsm (s : State) (a : Nat) : Option (Nat × Nat × Bytes) := (s.apps.asm.find? (fun x => x.1 == a)).map (·.2)

def setAppAsm (a : Nat) (x : Option (Nat × Nat × Bytes)) (s : State) : State :=
  let rest := s.apps.asm.filter (fun y => y.1 != a)
  { s with apps := { s.apps with asm := match x with | some v => rest ++ [(a, v)] | none => rest } }

/-- APP_OD_WRITE_SEG. -/
def execAppOdWriteSeg (a : Fin 8) (obj : BitVec 32) (buf : Option (List (BitVec 8))) (off final : BitVec 32) (s : State) : Out :=
  call a.val (fun s =>
    match buf with
    | none => appRet a.val .access [] s
    | some b =>
      if final.toNat > 1 then appRet a.val .range [] s
      else
        let r := odSegment .apps (obj.toNat / 256) (obj.toNat % 256) (final == 1) off.toNat b (appAsm s a.val) s
        appRet a.val r.1 [] (setAppAsm a.val r.2.1 r.2.2)) s

/-! ### Manifests -/

/-- A handle that another application holds. -/
def otherHandle (s : State) (a h : Nat) : Bool :=
  let o := Tbl.get 0 s.apps.handles h
  o != 0 && o != a + 1

/-- The application of a handle that has become free holds it no more. -/
def dropHandle (h : Nat) (s : State) : State :=
  if (manOf s h).state = .free then { s with apps := { s.apps with handles := Tbl.put 0 s.apps.handles h 0 } } else s

/-- APP_MANIFEST_OPEN. -/
def execAppManifestOpen (a : Fin 8) (s : State) : Out :=
  call a.val (fun s =>
    match openManifest .apps s with
    | (.ok, h, t) => appRet a.val .ok [h] { t with apps := { t.apps with handles := Tbl.put 0 t.apps.handles h (a.val + 1) } }
    | (e, _, t) => appRet a.val e [] t) s

/-- APP_MANIFEST_ADD. -/
def execAppManifestAdd (a : Fin 8) (h : BitVec 32) (buf : Option (List (BitVec 8))) (s : State) : Out :=
  call a.val (fun s =>
    match buf with
    | none => appRet a.val .access [] s
    | some b =>
      if otherHandle s a.val h.toNat then appRet a.val .access [0xFFFF] s
      else
        let r := addManifest .apps h.toNat b s
        appRet a.val r.1 [r.2.1] (dropHandle h.toNat r.2.2)) s

/-- APP_MANIFEST_COMMIT: the call returns when the checks end (R319). -/
def execAppManifestCommit (a : Fin 8) (h flags : BitVec 32) (time : BitVec 64) (s : State) : Out :=
  call a.val (fun s =>
    if otherHandle s a.val h.toNat then appRet a.val .access [] s
    else if flags.toNat > 1 then appRet a.val .range [] s
    else
      let r := commitManifest .apps h.toNat (if flags = 1 then some time.toNat else none) (some (0, 0)) s
      if r.1 = .ok then appBlocks a.val (.commit h.toNat) r.2 else appRet a.val r.1 [] r.2) s

/-- APP_MANIFEST_ABORT. -/
def execAppManifestAbort (a : Fin 8) (h : BitVec 32) (s : State) : Out :=
  call a.val (fun s =>
    if otherHandle s a.val h.toNat then appRet a.val .access [] s
    else
      let r := abortManifest .apps h.toNat s
      appRet a.val r.1 [] (if r.1 = .ok then dropHandle h.toNat r.2 else r.2)) s

/-! ### Semaphores and subscriptions -/

/-- A semaphore that another application holds. -/
def otherSem (s : State) (a i : Nat) : Bool :=
  let o := Tbl.get 0 s.apps.semOwner i
  o != 0 && o != a + 1

def setSemOwner (i v : Nat) (s : State) : State := { s with apps := { s.apps with semOwner := Tbl.put 0 s.apps.semOwner i v } }

/-- APP_SEM_TAKE. -/
def execAppSemTake (a : Fin 8) (i : BitVec 32) (s : State) : Out :=
  call a.val (fun s =>
    if otherSem s a.val i.toNat then appRet a.val .access [] s
    else
      let r := semTake .apps i.toNat s
      appRet a.val r.1 [] (if r.1 = .ok then setSemOwner i.toNat (a.val + 1) r.2 else r.2)) s

/-- APP_SEM_GIVE. -/
def execAppSemGive (a : Fin 8) (i : BitVec 32) (s : State) : Out :=
  call a.val (fun s =>
    if otherSem s a.val i.toNat then appRet a.val .access [] s
    else
      let r := semGive .apps i.toNat s
      appRet a.val r.1 [] (if r.1 = .ok then setSemOwner i.toNat 0 r.2 else r.2)) s

/-- The subscription of an object among those of the applications. -/
def appSubOf (s : State) (ix sub : Nat) : Option AppSub := s.apps.subs.find? (fun u => u.idx == ix && u.sub == sub)

def setAppSubs (l : List AppSub) (s : State) : State := { s with apps := { s.apps with subs := l } }

/-- APP_SUBSCRIBE. -/
def execAppSubscribe (a : Fin 8) (obj mode period : BitVec 32) (s : State) : Out :=
  call a.val (fun s =>
    let ix := obj.toNat / 256
    let sub := obj.toNat % 256
    match subscribeCheck s .apps ix sub mode.toNat period.toNat with
    | some e => appRet a.val e [] s
    | none =>
      let old := appSubOf s ix sub
      let rest := s.apps.subs.filter (fun u => !(u.idx == ix && u.sub == sub))
      if old.any (fun u => u.app != a.val) then appRet a.val .access [] s
      else if mode = 0 then appRet a.val .ok [match old with | some u => u.id | none => 0xFF] (setAppSubs rest s)
      else
        let id := match old with | some u => some u.id | none => freeId (s.apps.subs.map (·.id))
        match id with
        | none => appRet a.val .full [] s
        | some i =>
          let u : AppSub := { id := i, app := a.val, idx := ix, sub := sub, mode := mode.toNat, period := period.toNat,
                              last := (shown s ix sub).getD [] }
          appRet a.val .ok [i] (setAppSubs (rest ++ [u]) s)) s

/-! ### Waiting -/

/-- The oldest message of an application's queue goes into a buffer of len bytes; none where the queue is empty. -/
def appTake (a len : Nat) (s : State) : Option State :=
  match (appOf s a).queue with
  | [] => none
  | m :: q =>
    if m.bytes.length > len then some (appRet a .range [] s)
    else some (appRetBuf a [m.bytes.length] m.bytes (updApp s a (fun x => { x with queue := q })))

/-- APP_WAIT: timeout in us, 0 for none. -/
def execAppWait (a : Fin 8) (inMem : Bool) (len timeout : BitVec 32) (s : State) : Out :=
  call a.val (fun s =>
    if !inMem then appRet a.val .access [] s
    else match appTake a.val len.toNat s with
      | some t => t
      | none => appBlocks a.val (.wait len.toNat (if timeout = 0 then 0 else s.now + nsTicks (1000 * timeout.toNat) + 1)) s) s

/-- APP_WAIT_RETURN: a message has come, or the timeout ends. -/
def execAppWaitReturn (a : Fin 8) (s : State) : Out :=
  .next (match (appOf s a.val).block with
    | .wait len stop =>
      match appTake a.val len s with
      | some t => appWakes a.val t
      | none => if stop = 0 then s else appWakes a.val (appRet a.val .busy [] (advance (stop - 1) s))
    | _ => s)

/-- APP_SLEEP until a gPTP time in ns. -/
def execAppSleep (a : Fin 8) (time : BitVec 64) (s : State) : Out :=
  call a.val (fun s => if nsTicks time.toNat < s.now then appRet a.val .ok [] s else appBlocks a.val (.sleep time.toNat) s) s

/-- APP_SLEEP_RETURN. -/
def execAppSleepReturn (a : Fin 8) (s : State) : Out :=
  .next (match (appOf s a.val).block with
    | .sleep t => appWakes a.val (appRet a.val .ok [] (advance (nsTicks t) s))
    | _ => s)

/-! ### Sources, notes, MIDI and time -/

/-- The sources that an application may bind. -/
def bindable (n : Nat) : Bool :=
  [194, 195, 196, 229, 230].contains n || (200 ≤ n && n ≤ 215) || (448 ≤ n && n ≤ 511)

/-- APP_BIND. -/
def execAppBind (a : Fin 8) (n on : BitVec 32) (s : State) : Out :=
  call a.val (fun s =>
    let other := s.apps.bound.any (fun b => b.1 == n.toNat && b.2 != a.val)
    let rest := s.apps.bound.filter (fun b => b.1 != n.toNat)
    if !bindable n.toNat ∨ on.toNat > 1 then appRet a.val .range [] s
    else if other then appRet a.val (if on = 1 then .busy else .access) [] s
    else appRet a.val .ok [] { s with apps := { s.apps with bound := if on = 1 then rest ++ [(n.toNat, a.val)] else rest } }) s

/-- APP_POST of a record of Table 14.8. -/
def execAppPost (a : Fin 8) (rec_ : Option (List (BitVec 8))) (s : State) : Out :=
  call a.val (fun s =>
    match rec_ with
    | none => appRet a.val .access [] s
    | some b =>
      match noteRecord b with
      | none => appRet a.val .range [] s
      | some r => appRet a.val .ok [] (noteEvent 6 (nsOf s.now) r s)) s

/-- The first n bytes of a queue of messages. -/
def takeQueue : Nat → List Bytes → Bytes × List Bytes
  | _, [] => ([], [])
  | n, m :: q =>
    if n = 0 then ([], m :: q)
    else if m.length ≤ n then
      let r := takeQueue (n - m.length) q
      (m ++ r.1, r.2)
    else (m.take n, m.drop n :: q)

/-- APP_MIDI_READ. -/
def execAppMidiRead (a : Fin 8) (input : BitVec 32) (inMem : Bool) (len : BitVec 32) (s : State) : Out :=
  call a.val (fun s =>
    if !inMem then appRet a.val .access [] s
    else if input.toNat > 1 then appRet a.val .range [] s
    else
      let x := midiIn s input.toNat
      let r := takeQueue len.toNat x.queue
      appRetBuf a.val [r.1.length] r.1 (setMidiIn s input.toNat { x with queue := r.2 })) s

/-- APP_MIDI_SEND. -/
def execAppMidiSend (a : Fin 8) (buf : Option (List (BitVec 8))) (s : State) : Out :=
  call a.val (fun s =>
    match buf with
    | none => appRet a.val .access [] s
    | some b =>
      let r := odWrite .apps 0x2830 6 b s
      appRet a.val r.1 [] r.2) s

/-- APP_TIME. -/
def execAppTime (a : Fin 8) (s : State) : Out :=
  call a.val (fun s => appRet a.val .ok (words64 (nsOf s.now) ++ words64 s.grid.lap) s) s

/-- APP_SETPEND. -/
def execAppSetpend (a : Fin 8) (n : BitVec 32) (s : State) : Out :=
  call a.val (fun s =>
    if n.toNat < 448 ∨ n.toNat > 511 then appRet a.val .range [] s
    else appRet a.val .ok [] { s with evc := evcSetPend n.toNat s.evc }) s

end Sys2Proof.Machine
end

