-- ==== Sys2Proof/Machine/Manifests.lean ====
section
/-! DEFINITION. Manifests from their checks to their commit lap (R323 to R345, R661): the commit engine, staging, the
decision point, parameter values, migration and apply. -/

namespace Sys2Proof.Machine

/-! ### Footprints (R325) -/

/-- Items of a footprint, as numbers. -/
def itemSlot (n : Nat) : Nat := 2 ^ 24 + n

def itemCore (k : Nat) : Nat := 2 ^ 24 + 1000 + k

def itemEdge (n : Nat) : Nat := 2 ^ 24 + 2000 + n

def itemOutput (n : Nat) : Nat := 2 ^ 24 + 4000 + n

def itemKernel (k : Nat) : Nat := 2 ^ 24 + 5000 + k

def itemBank (k : Nat) : Nat := 2 ^ 24 + 7000 + k

def itemCtx (n : Nat) : Nat := 2 ^ 24 + 10000 + n

/-- The convoys of the load now, and of the load as a manifest and those that stand will leave it. -/
def slotsAround (s : State) (m : Manifest) : List (Nat × Slot) :=
  s.adm.load.slots ++ ((viewOf s).entries ((pendingEntries s).flatten ++ m.changes)).load.slots

/-- The cores that run a kernel among some convoys. -/
def kernelCores (slots : List (Nat × Slot)) (k : Nat) : List Nat :=
  ((slots.filter (fun e => e.2.kernel == k)).map (fun e => slotCoreIn e.1 e.2)).eraseDups

/-- What an entry writes (Table 9.8); slots tells where kernels run. -/
def entryWrites (slots : List (Nat × Slot)) : MEntry → List Nat
  | .write ix sub _ => [odKey ix sub]
  | .compare _ _ _ => []
  | .slot c i core _ _ _ => [itemSlot (16 * c + i), itemCore (8 * c + core)]
  | .edge n _ _ _ _ => [itemEdge n]
  | .output n _ _ _ _ _ _ => [itemOutput n]
  | .kernel k _ _ => itemKernel k :: (kernelCores slots k).map itemBank
  | .migrate a b _ => [itemSlot a, itemSlot b] ++ (List.range 128).flatMap (fun e => [itemCtx (128 * a + e), itemCtx (128 * b + e)])

/-- What an entry reads. -/
def entryReads : MEntry → List Nat
  | .compare ix sub _ => [odKey ix sub]
  | _ => []

def writesOf (s : State) (m : Manifest) : List Nat := m.changes.flatMap (entryWrites (slotsAround s m))

def readsOf (m : Manifest) : List Nat := m.entries.flatMap entryReads

/-- Two footprints overlap: they share an item that one of them writes. -/
def clash (w r w' r' : List Nat) : Bool := w.any (fun i => w'.contains i || r'.contains i) || r.any (fun i => w'.contains i)

/-- A manifest stands between its checks and its edge. -/
def Manifest.stands (m : Manifest) : Bool := m.state == .staged || m.state == .given

/-- The manifests that stand, in the order in which they passed. -/
def standing (s : State) : List (Nat × Manifest) := sortOn (fun e => e.2.order) (s.man.tbl.filter (fun e => e.2.stands))

/-- A pass came after a manifest was opened: commit sequence numbers wrap (R326). -/
def passedAfter (opened seq : Nat) : Bool :=
  let d := (seq + 2 ^ 32 - opened) % 2 ^ 32
  decide (0 < d ∧ d < 2 ^ 31)

/-- Step 3. -/
def footprintClash (s : State) (m : Manifest) : Bool :=
  let w := writesOf s m
  let r := readsOf m
  s.man.passed.any (fun p => passedAfter m.seqOpen p.1 && clash w r p.2.1 p.2.2) ||
  (standing s).any (fun e => clash w r (writesOf s e.2) (readsOf e.2))

/-! ### The checks (R324) -/

/-- The mode permits a write: objects with narrower mode rules of their own state them (R480). -/
def modePermits (s : State) (ix sub v : Nat) : Bool :=
  let runs := s.modes.mode == .perform || s.modes.mode == .maintain
  let quiet := s.modes.mode == .safe || s.modes.mode == .workshop
  match ix, sub with
  | 0x2001, _ => quiet
  | 0x1010, 1 => quiet
  | 0x1030, 2 => quiet
  | 0x2100, 2 => quiet
  | 0xF001, 1 => quiet
  | 0xC002, 1 => s.modes.mode == .maintain
  | 0xF230, 1 => s.modes.mode == .workshop
  | 0xF100, 7 => workshopService s
  | 0xF400, 6 => workshopService s
  | 0xF300, _ => s.modes.mode == .workshop
  | 0xF200, 3 => s.modes.mode == .perform
  | 0xF000, 1 => (match requestedMode v with | some m => s.modes.mode == m || transitionOk s m | none => true)
  | _, _ =>
    if 0xC100 ≤ ix ∧ ix ≤ 0xC102 then libraryOpen s
    else if 0x2810 ≤ ix ∧ ix ≤ 0x2813 ∧ (sub = 2 ∨ sub = 3) then quiet
    else if 0xF050 ≤ ix ∧ ix ≤ 0xF057 ∧ sub = 4 then v != 1 || runs
    else true

/-- A convoy slot that a standing manifest clears or migrates. -/
def slotLeaves (s : State) (slot : Nat) : Bool :=
  (standing s).any (fun e => e.2.changes.any (fun x => match x with
    | .slot c i _ _ _ n => 16 * c + i == slot && n == 0
    | .migrate a _ _ => a == slot
    | _ => false))

/-- Step 1 on one entry. -/
def entryState (s : State) : MEntry → Bool
  | .write ix sub v => modePermits s ix sub (leNat v) && ctxNamed ix
  | .compare ix _ _ => ctxNamed ix
  | _ => true
where
  ctxNamed (ix : Nat) : Bool :=
    if 0x8000 ≤ ix ∧ ix < 0xC000 then
      let n := ix - 0x8000
      let c := ctxOf s n
      c.hdr.state != .free && c.hdr.state != .poisoned && !slotLeaves s (slotOfCtx n)
    else true

/-- Step 2 on one entry. -/
def entrySems (s : State) (who : Requester) : MEntry → Bool
  | .write ix sub _ => match odRow ix sub with | some r => holdsGuards s who ix r | none => true
  | _ => true

/-- Step 4 on one entry (R316). -/
def entryCompares (s : State) (who : Requester) : MEntry → Bool
  | .compare ix sub v => match odValue s who ix sub with | .ok b => b == v | .error _ => false
  | _ => true

/-- A manifest is two-lap (R327). A restart of module firmware clears slots whose contexts are gone, in one lap. -/
def needsTwo (s : State) (m : Manifest) : Bool :=
  m.entries.any (fun x => match x with
    | .migrate _ _ _ => true
    | .slot c i _ _ _ n => match s.adm.load.slot (16 * c + i) with | some y => decide (n < y.n) | none => false
    | _ => false)

/-- The MIGRATE entries: source, destination, core and slot. -/
def migrations (s : State) (m : Manifest) : List (Nat × Nat × Nat × Slot) :=
  m.entries.filterMap (fun x => match x with
    | .migrate a b core => (s.adm.load.slot a).map (fun y => (a, b, core, y))
    | _ => none)

/-! ### The commit lap (R328, R329) -/

/-- The instant of the decision point of a lap: Relay cycle T_cyc − 1,280, counted from 8 ns after the edge. -/
def decisionAt (g : Grid) (l : Nat) : Nat := g.tau l 0 + nsTicks (8 + g.tCyc - 1280)

/-- The staging bound of a payload, in ns. -/
def stagingNs (bytes : Nat) : Nat := 24000 + 500 * ((bytes + 1023) / 1024)

/-- The smallest lap, from l on, that meets R328. -/
def earliest (s : State) (two migrates : Bool) (ready : Nat) : Nat → Nat → Nat
  | 0, l => l
  | f + 1, l =>
    let back := if two then 2 else 1
    let batch := migrates && (standing s).any (fun e => e.2.lc == l && (migrations s e.2) != [])
    if ready ≤ decisionAt s.grid (l - back) ∧ !batch then l else earliest s two migrates ready f (l + 1)

/-- L_e of a manifest whose checks end now. -/
def earliestLap (s : State) (m : Manifest) : Nat :=
  let two := needsTwo s m
  let l0 := max (s.grid.lapOf s.now + if two then 3 else 2) ((standing s).foldl (fun l e => max l e.2.lc) 0)
  earliest s two (migrations s m != []) (s.now + nsTicks (stagingNs m.payload)) 4096 l0

/-- L_c, or the code. -/
def commitLap (s : State) (m : Manifest) : Except Status Nat :=
  let le := earliestLap s m
  match m.timed with
  | none => .ok le
  | some t =>
    if nsTicks t > s.now + nsTicks 10000000000 then .error .range
    else if s.grid.lapOf (nsTicks t) < le then .error .late
    else .ok (s.grid.lapOf (nsTicks t))

/-! ### Migration batches (R339) -/

/-- The beats of a batch that have yet to find a burst between two clusters: the first cycle in which each convoy's may begin, the last
cycle in which they may end, and their number. -/
abbrev BatchLeft := List (Nat × Nat × Nat)

/-- What stays of a batch once a burst with room for cap beats has taken what it may carry. -/
def loadBurst (b : Burst) : Nat → BatchLeft → BatchLeft
  | _, [] => []
  | cap, (lo, hi, n) :: t =>
    if lo ≤ b.start ∧ b.start + b.len + 1 ≤ hi then (lo, hi, n - min cap n) :: loadBurst b (cap - min cap n) t
    else (lo, hi, n) :: loadBurst b cap t

/-- The idle kind-8 bursts that carry a batch from one cluster to another beside the bursts that run; taken lists those that batches
have. A station sends and receives on at most 2 lanes (R302). -/
def routePair (busy : List Burst) (src dst : Nat) : BatchLeft → List Burst → List Burst → Option (List Burst)
  | left, taken, [] => if left.all (fun x => x.2.2 == 0) then some taken else none
  | left, taken, b :: rest =>
    let b1 := { b with kind := 5, src := src, dst := dst }
    let now := busy ++ taken ++ [b1]
    let left1 := loadBurst b (b.len + 1) left
    if left1 ≠ left ∧ now.all (stationsOk now) = true then routePair busy src dst left1 (taken ++ [b1]) rest
    else routePair busy src dst left taken rest

/-- The cycle, counted from the edge, up to which the beats of a convoy must have arrived that runs at a place from the next lap on: 64
cycles before its mover begins to load its state rows, which it does 1,024 cycles before the edge for the first convoy of a core and
with the dispatch of the one before for any other (R87, R339). -/
def batchDue (v : View) (dst : Nat) : Nat :=
  let core (n : Nat) : Option Nat := (v.load.slot n).map (slotCoreIn n)
  let mine := (dispatchOrder v).filter (fun n => core n == core dst)
  match (mine.takeWhile (fun n => n != dst)).getLast? with
  | none => v.tCyc - 1024 - 64
  | some p => v.tCyc + (match lookupNat (timeline v (dispatchOrder v)) p with | some t => v.base + t.1 | none => 0) - 64

/-- The bursts of a bank that carry the moves of a batch, routed (R339): now is the load of the copy lap, next that of the lap after. Beats of one pair of clusters share bursts. -/
def routeMoves (bank : List Burst) (now next : View) (ms : List (Nat × Nat × Nat × Slot)) (busy : List Burst) : Option (List Burst) :=
  let tl := timeline now (dispatchOrder now)
  let left (p : Nat × Nat) : BatchLeft := (ms.filter (fun x => x.1 / 16 == p.1 && x.2.1 / 16 == p.2)).map (fun x =>
    (max 10240 (match lookupNat tl x.1 with | some t => now.base + t.2 | none => 0), batchDue next x.2.1, 36 * x.2.2.2.n))
  ((ms.map (fun x => (x.1 / 16, x.2.1 / 16))).eraseDups).foldl (fun acc p =>
    match acc with
    | none => none
    | some taken =>
      let free := (sortOn (fun b => b.start) (bank.filter (fun b => b.kind == 8))).filter (fun b => !taken.any (fun t => t.lane == b.lane && t.start == b.start))
      routePair busy p.1 p.2 (left p) taken free) (some [])

/-- The bank in force in a lap that has not begun: that of the last manifest to apply by then. -/
def bankAt (s : State) (l : Nat) : List Burst :=
  match ((standing s).filter (fun e => decide (e.2.lc ≤ l))).getLast? with
  | some e => e.2.bank
  | none => s.adm.shadow.getD s.adm.timetable

/-- The Relay's step for the batch of a manifest: its bursts meet R339 in the lap before its commit lap, or the resource that fails. -/
def batchFail (s : State) (m : Manifest) (lc : Nat) : Option Fail :=
  let moves : MEntry → Bool := fun x => match x with | .migrate _ _ _ => true | _ => false
  let ms := migrations s m
  let bank := bankAt s (lc - 1)
  let now := (viewOf s).entries (pendingEntries s).flatten
  let next := now.entries m.changes
  if (routeMoves bank now next ms (bank.filter (fun b => b.kind != 8))).isSome then none
  else if (routeMoves bank now next ms []).isSome then some { reason := 2, resource := 12, needed := 3, avail := 2, hit := moves }
  else some { reason := 2, resource := 13, hit := moves }

/-- The batches that travel in the lap that begins take the routes that they were given; every other kind-8 descriptor is idle (R305,
R339). -/
def routeBatches (s : State) : State :=
  let bank := s.adm.timetable
  let due := (standing s).filter (fun e => e.2.state == .given && e.2.lc == s.grid.lap + 1)
  let routes := due.flatMap (fun e =>
    (routeMoves bank (viewOf s) ((viewOf s).entries e.2.changes) (migrations s e.2) (bank.filter (fun b => b.kind != 8))).getD [])
  { s with adm := { s.adm with timetable := bank.map (fun b =>
      if b.kind = 8 then
        (match routes.find? (fun r => r.lane == b.lane && r.start == b.start) with
         | some r => { b with src := r.src, dst := r.dst }
         | none => { b with src := 12, dst := 12 })
      else b) } }

/-- Step 5: the batch of a migration in the Relay's step, its size among the reserve's (R330, R339), and admission. -/
def checkAdmission (s : State) (m : Manifest) : Option Fail :=
  let ms := migrations s m
  let n := ms.foldl (fun k x => k + x.2.2.2.n) 0
  let moves : MEntry → Bool := fun x => match x with | .migrate _ _ _ => true | _ => false
  let off := s.adm.reserve = 0 && !m.exempt
  let size : Option Fail := if ms ≠ [] ∧ (n > 256 ∨ off = true) then
      some { reason := 7, resource := 18, needed := 36 * n, avail := if off then 0 else 9216, hit := moves } else none
  let lc := match commitLap s m with | .ok l => l | .error _ => earliestLap s m
  let batch := if ms = [] ∨ size.isSome = true then none else batchFail s m lc
  admission s m.exempt (s.adm.reserve == 1) m.changes batch size

/-! ### Staging (R331, Table 9.9) -/

/-- Quarantined clusters, those under repair and retired ones raise no READY (Table 17.14). -/
def goneCluster (s : State) (i : Nat) : Bool := decide (i < 8) && decide (4 ≤ (clusterOf s i).state)

/-- The island stations that hold a share of an entry: 0 to 7 clusters, 8 ST, 9 DM, 10 NW, 11 AU, 12 CT, 13 the Relay. -/
def entryIslands (slots : List (Nat × Slot)) : MEntry → List Nat
  | .write ix sub _ =>
    if 0x8000 ≤ ix ∧ ix < 0xC000 then [(ix - 0x8000) / 2048]
    else if 0x4400 ≤ ix ∧ ix < 0x4800 then
      (if 2 ≤ sub ∧ sub ≤ 9 then [sub - 2, 11] else if sub = 12 ∨ sub = 1 then [8, 9, 11, 13] else [11])
    else if 0x4800 ≤ ix ∧ ix < 0x5800 ∨ 0xC400 ≤ ix ∧ ix < 0xCC00 then [11]
    else if 0x2300 ≤ ix ∧ ix < 0x2500 then [10, 13]
    else [12]
  | .compare _ _ _ => []
  | .slot c _ _ _ _ _ => [c, 8, 9, 11, 13]
  | .edge _ src dst _ _ => [src / 16, dst / 16, 13]
  | .output _ src _ _ _ _ _ => [src / 16, 11, 13]
  | .kernel k _ _ => (kernelCores slots k).map (· / 8) ++ [13]
  | .migrate a b _ => [a / 16, b / 16, 8, 9, 11, 13]

/-- The islands that a manifest touches. The slots that a restart leaves do not count where their cluster is gone. -/
def islandsOf (s : State) (m : Manifest) : List Nat :=
  (m.entries.flatMap (entryIslands (slotsAround s m)) ++
    m.clears.flatMap (fun d => (if goneCluster s (d / 16) then [] else [d / 16]) ++ [8, 9, 11, 13])).foldl (fun l i => insertNat i l) []

/-! ### The end of the checks (R319) -/

/-- The reply to MANIFEST_COMMIT. -/
def commitReply (h : Nat) (m : Manifest) (st : Status) (reason entry lc tau : Nat) (s : State) : State :=
  let body := leBytes 1 st.code ++ leBytes 1 reason ++ leBytes 2 entry ++ leBytes 8 lc ++ leBytes 8 tau
  let n := manOf s h
  let s1 := answered st body (if n.reply = none then s else setMan s h { n with reply := none })
  match handleOwner h, m.reply with
  | .portA, some r => sendReply .a false 7 r.1 r.2 st body s1
  | .portB, some r => sendReply .b false 7 r.1 r.2 st body s1
  | .apps, some _ =>
    (match Tbl.get 0 s1.apps.handles h with
     | 0 => s1
     | a + 1 => if (appOf s1 a).block = .commit h then appWakes a (appRet a st ([reason, entry] ++ words64 lc) s1) else s1)
  | _, _ => s1

/-- A check fails: the manifest aborts with its code. -/
def checkFails (h : Nat) (m : Manifest) (st : Status) (reason entry : Nat) (s : State) : State :=
  let s1 := commitReply h m st reason entry 0 0 (endManifest h st.code reason entry 0 0 s)
  firmwareAborted m (dropHandle h (if handleOwner h = .firmware then avAnswer h st.code s1 else s1))

/-- Passed footprints that a manifest in OPEN or CHECKING still asks for. -/
def keepPassed (s : State) : State :=
  let open_ := s.man.tbl.filter (fun e => e.2.state == .opened || e.2.state == .checking)
  { s with man := { s.man with passed := s.man.passed.filter (fun p => open_.any (fun e => passedAfter e.2.seqOpen p.1)) } }

/-- GEN of the contexts whose parameters a manifest writes (R661). -/
def gensOf (s : State) (m : Manifest) : List (Nat × BitVec 8) :=
  (m.entries.filterMap (fun x => match x with
    | .write ix _ _ => if 0x8000 ≤ ix ∧ ix < 0xC000 then some (ix - 0x8000) else none
    | _ => none)).eraseDups.map (fun n => (n, (ctxOf s n).hdr.gen))

/-- Every check has passed: the manifest is staged for its commit lap, with its timetable. The first batch of a drain spends the reserve
(R296). -/
def checkPasses (h : Nat) (m : Manifest) (lc : Nat) (s : State) : State :=
  let seq := (s.man.seq + 1) % 2 ^ 32
  let m1 := { m with state := .staged, lc := lc, twoLap := needsTwo s m, order := seq, missing := islandsOf s m, gens := gensOf s m }
  let s1 := setMan s h { m1 with bank := (stagedBank (bankViews s m1)).getD s.adm.timetable }
  let s2 := { s1 with man := { s1.man with seq := seq, queue := s1.man.queue.filter (· != h),
                                           passed := s1.man.passed ++ [(seq, writesOf s m, readsOf m)] } }
  let s3 := match m.ofCluster with
    | c + 1 => if (clusterOf s2 c).state = 1 then spendReserve s2 else s2
    | 0 => s2
  commitReply h m .ok 0 0xFFFF lc (edgeNs s lc) (replan (keepPassed s3))

/-- The first entry that fails a check. -/
def failing (p : MEntry → Bool) (es : List MEntry) : Option Nat := es.findIdx? (fun e => !p e)

/-- The checks of Table 9.7, in order. -/
def runChecks (h : Nat) (s : State) : State :=
  let m := manOf s h
  let who := handleOwner h
  match failing (entryState s) m.entries with
  | some i => checkFails h m .state 0 i s
  | none =>
    match failing (entrySems s who) m.entries with
    | some i => checkFails h m .semNotHeld 0 i s
    | none =>
      if footprintClash s m then checkFails h m .conflict 0 0xFFFF s
      else
        match failing (entryCompares s who) m.entries with
        | some i => checkFails h m .compare 0 i s
        | none =>
          match checkAdmission s m with
          | some f =>
            let e := failEntry f m.entries
            checkFails h m .refused f.reason e (bankRefused (requestViews s (s.adm.reserve == 1) m.changes) f (admissionRefuse e (reqNum who) f s))
          | none =>
            let s1 := admissionAccept s
            match commitLap s1 m with
            | .error e => checkFails h m e 0 0xFFFF s1
            | .ok lc => checkPasses h m lc s1

/-- MANIFEST_CHECK (R324): the checks of the manifest at the head of the queue end at t ns. -/
def execManifestCheck (t : Nat) (s : State) : Out :=
  let s1 := advance (nsTicks t) s
  .next (match s1.man.queue with
    | h :: _ => if (manOf s1 h).state = .checking then runChecks h s1 else { s1 with man := { s1.man with queue := s1.man.queue.drop 1 } }
    | [] => s1)

/-- STAGING_DONE (R331): station st holds its whole share. -/
def execStagingDone (h : Fin 28) (st : Fin 14) (s : State) : Out :=
  let m := manOf s h.val
  .next (if m.state = .staged then setMan s h.val { m with missing := m.missing.filter (· != st.val) } else s)

/-! ### The decision point (R332) -/

/-- The islands whose READY is missing: those that do not hold their whole share, and clusters that have gone since. -/
def missingReady (s : State) (m : Manifest) : List Nat :=
  ((islandsOf s m).filter (goneCluster s)).foldl (fun l i => insertNat i l) m.missing

/-- A staged manifest is decided: GO, or LATE with a record of each missing island (Table 17.4). -/
def decideManifest (h : Nat) (s : State) : State :=
  let m := manOf s h
  if missingReady s m = [] then setMan s h { m with state := .given }
  else
    let s1 := (missingReady s m).foldl (fun s st => logRecord 285 1 0x0B 0xFF 0xFF (leBytes 1 h ++ leBytes 1 st ++ List.replicate 6 0) s) s
    let s2 := endManifest h 11 0 0xFFFF m.lc (edgeNs s m.lc) (restoreParams m s1)
    let s3 := gridAborted m { s2 with man := { s2.man with aborted := sat32 s2.man.aborted } }
    firmwareAborted m (dropHandle h (notifyEnd h 11 m.lc (edgeNs s m.lc) s3))

/-- Every staged manifest whose decision lap is the lap in progress, in the order in which they passed. -/
def decisions (s : State) : State :=
  ((standing s).filter (fun e => e.2.state == .staged && e.2.lc == s.grid.lap + (if e.2.twoLap then 2 else 1))).foldl
    (fun s e => decideManifest e.1 s) s

/-- DECISION_POINT. -/
def execDecisionPoint (s : State) : Out :=
  .next (if s.grid.running then decisions (advance (decisionAt s.grid s.grid.lap) s) else s)

/-! ### Parameter values (R335, R661) -/

/-- One parameter value enters a shadow page, unless its voice has gone. -/
def paramEnter (m : Manifest) (s0 : State) (x : Nat × Nat × Bytes) : State × List (Nat × Nat) :=
  let s := if (ctxOf s0 x.1).hdr.state = .armed then copiedFirst x.1 s0 else s0
  let c := ctxOf s x.1
  let same := match lookupNat m.gens x.1 with | some g => g == c.hdr.gen | none => false
  if c.hdr.state = .free ∨ c.hdr.state = .poisoned ∨ !same then
    ({ s with man := { s.man with dropped := sat32 s.man.dropped } }, [])
  else (setCtx s x.1 { c with shadow := Tbl.put 0 c.shadow x.2.1 (BitVec.ofNat 24 (leNat x.2.2)), dirty := true }, [(x.1, x.2.1)])

/-- The parameter values of a manifest enter the shadow pages, in the lap before its commit lap; those of a two-lap manifest
only after GO. -/
def paramsEnter (h : Nat) (s : State) : State :=
  let m := manOf s h
  if m.paramsIn ∨ m.lc ≠ s.grid.lap + 1 ∨ !(m.state == .given || (m.state == .staged && !m.twoLap)) then s
  else
    let ws := m.entries.filterMap (fun x => match x with
      | .write ix sub v => if 0x8000 ≤ ix ∧ ix < 0xC000 then some (ix - 0x8000, sub, v) else none
      | _ => none)
    let r := ws.foldl (fun (acc : State × List (Nat × Nat)) x =>
      let y := paramEnter m acc.1 x
      (y.1, acc.2 ++ y.2)) (s, [])
    setMan r.1 h { m with paramsIn := true, wrote := r.2 }

/-- MANIFEST_PARAM_WRITE. -/
def execManifestParamWrite (h : Fin 28) (s : State) : Out := .next (paramsEnter h.val s)

/-! ### Migration (R338 to R341) -/

/-- What the copy carries of an element of the source slot (R340). -/
def carriedCtx (c : Ctx) : Option Ctx :=
  match c.hdr.state with
  | .poisoned => none
  | .migrating => some { c with hdr := { c.hdr with state := c.prior } }
  | _ => some c

/-- The copy of one slot: by destination context. -/
def carrySlot (s : State) (x : Nat × Nat × Nat × Slot) : List (Nat × Ctx) :=
  (List.range x.2.2.2.n).filterMap (fun e => (carriedCtx (ctxOf s (128 * x.1 + e))).map (fun c => (128 * x.2.1 + e, c)))

/-- The batch of a manifest, with the elements whose beats were discarded, by place in the batch: they arrive POISONED, each
with its record (R301, Table 17.4). -/
def carryBatch (h : Nat) (bad : List Nat) (s : State) : State :=
  let m := manOf s h
  if m.state ≠ .given ∨ m.lc ≠ s.grid.lap + 1 ∨ m.carried ≠ [] then s
  else
    let all := (migrations s m).flatMap (fun x => (carrySlot s x).map (fun y => (x, y)))
    let step (acc : State × List (Nat × Ctx)) (i : Nat × (Nat × Nat × Nat × Slot) × Nat × Ctx) : State × List (Nat × Ctx) :=
      let x := i.2.1
      let y := i.2.2
      if bad.contains i.1 && y.2.hdr.state != .free then
        (logRecord (16 * (x.2.1 / 16) + 8) 1 0x08 (x.2.1 / 16) 0xFF (leBytes 1 (x.1 / 16) ++ leBytes 1 (x.1 % 16) ++ [1, 0, 0, 0, 0, 0]) acc.1,
         acc.2 ++ [(y.1, { y.2 with hdr := { y.2.hdr with state := .poisoned } })])
      else (acc.1, acc.2 ++ [y])
    let r := ((List.range all.length).zip all).foldl step (s, [])
    setMan r.1 h { m with carried := r.2 }

/-- MIGRATION_BATCH: bad lists the elements of the batch whose beats were discarded. -/
def execMigrationBatch (h : Fin 28) (bad : List (Fin 256)) (s : State) : Out := .next (carryBatch h.val (bad.map (·.val)) s)

/-- Batches that have not been told of have travelled by the edge. -/
def completeBatches (s : State) : State :=
  (standing s).foldl (fun s e => if migrations s e.2 = [] then s else carryBatch e.1 [] s) s

/-- Everything that names a context takes its new number (R341). -/
def renameCtx (a b : Nat) (s : State) : State :=
  let rn (n : Nat) : Nat := if n = a then b else n
  { s with
    starter := { s.starter with notes := s.starter.notes.map (fun l => { l with ctx := rn l.ctx }),
                                flight := s.starter.flight.map (fun r => { r with ctx := rn r.ctx }) }
    store := { s.store with rings := s.store.rings.map (fun e => (e.1, { e.2 with ctx := rn e.2.ctx })) } }

/-- One element moves: the source is FREE, and the destination holds what was carried with the header bits that the Starter
has set since. -/
def moveCtx (a b : Nat) (y : Option Ctx) (s : State) : State :=
  let src := ctxOf s a
  match y with
  | none => setCtx (freeContext a s) b { hdr := { src.hdr with state := .free } }
  | some c =>
    if c.hdr.state = .free then setCtx (freeContext a s) b { hdr := { src.hdr with state := .free } }
    else
      let live := if c.hdr.state = .poisoned then c.prior else c.hdr.state
      let dst : Ctx := { c with hdr := { src.hdr with state := live }, act := c.shadow, shadow := c.shadow, dirty := false, marked := false,
                                copying := false, defer := false, prior := .free, relLap := src.relLap, stolenLap := src.stolenLap }
      let s1 := renameCtx a b (dropHeld a s)
      let s2 := setCtx (setCtx s1 b dst) a { src with hdr := { src.hdr with state := .free }, dirty := false, marked := false }
      if c.hdr.state = .poisoned then poison b s2 else s2

/-- The elements of one slot move. -/
def moveSlot (carried : List (Nat × Ctx)) (s : State) (x : Nat × Nat × Nat × Slot) : State :=
  (List.range x.2.2.2.n).foldl (fun s e => moveCtx (128 * x.1 + e) (128 * x.2.1 + e) (lookupNat carried (128 * x.2.1 + e)) s) s

/-! ### Apply (R333, R334) -/

/-- The dictionary writes of a manifest, but for parameters and the grid, which act elsewhere; what the Starter's objects
held stays for events of earlier laps (R107). -/
def applyWrites (who : Requester) (es : List MEntry) (s : State) : State :=
  es.foldl (fun s e => match e with
    | .write ix sub v =>
      if 0x8000 ≤ ix ∧ ix < 0xC000 ∨ ix = 0x2001 then s
      else if 0x4400 ≤ ix ∧ ix < 0x5800 ∨ 0xC400 ≤ ix ∧ ix < 0xCC00 then
        let old := match lookupNat s.starter.oldObjs (odKey ix sub) with | some b => b | none => odBytes s ix sub
        odPut ix sub v { s with starter := { s.starter with oldObjs := assocSet s.starter.oldObjs (odKey ix sub) (some old), oldLap := s.grid.lap } }
      else
        let r := odEffect who ix sub 0 v s
        if r.1 = .ok then noteChange ix sub s r.2 else r.2
    | _ => s) s

/-- n of a slot of a load; 0 where it holds no convoy. -/
def slotSize (l : Load) (i : Nat) : Nat := match l.slot i with | some y => y.n | none => 0

/-- The elements that a clear or a shrink takes from the load. -/
def removedCtxs (old new : Load) : List Nat :=
  old.slots.flatMap (fun e => (List.range (e.2.n - slotSize new e.1)).map (fun i => 128 * e.1 + slotSize new e.1 + i))

/-- Cores whose program image changes. -/
def changedCores (old new : State) (es : List MEntry) : List Nat :=
  (List.range 64).filter (fun k =>
    coreKernels old k != coreKernels new k ||
    es.any (fun e => match e with | .kernel i _ _ => (coreKernels new k).contains i | _ => false))

/-- Nodes whose lap offset rises rest until the capture lap that follows the last one they processed (R59). -/
def restingNodes (lap : Nat) (held proc : List (Nat × Nat)) : List (Nat × Nat) :=
  held.filterMap (fun e => match lookupNat proc e.1 with | some p => if e.2 < p then some (e.1, lap + (p - e.2)) else none | none => none)

/-- The load changes at the edge of L_c, and the banks swap (R304). -/
def applyLoad (m : Manifest) (s : State) : State :=
  let v := (viewOf s).entries (m.changes.filter (fun e => match e with | .write _ _ _ => false | _ => true))
  let s1 := { s with adm := { s.adm with load := v.load } }
  let w := { viewOf s1 with held := v.held }
  let p := (planOf w).1
  let rest := (s.adm.resting.map (fun e => (m.entries.foldl (fun i x => match x with | .migrate a b _ => renameSlot a b i | _ => i) e.1, e.2))) ++
    restingNodes s.grid.lap v.held p.proc
  let s2 := { s1 with adm := { s1.adm with plan := p, resting := rest } }
  let s3 := trimPlans { s2 with adm := { s2.adm with timetable := m.bank }, relay := { s2.relay with bad := [] } }
  (changedCores s s3 m.entries).foldl (fun s k => setPermits k (loadPrograms k s)) s3

/-- The records of the slots that moved (R342): the 16 most recent. -/
def movedRecords (ms : List (Nat × Nat × Nat × Slot)) (lc : Nat) (old : List Bytes) : List Bytes :=
  let new := ms.map (fun x => leBytes 1 (x.1 / 16) ++ leBytes 1 (x.1 % 16) ++ leBytes 1 (x.2.1 / 16) ++ leBytes 1 (x.2.1 % 16) ++ leBytes 8 lc)
  (old ++ new).drop ((old ++ new).length - 16)

/-- Where the convoys of a manifest of module firmware went. -/
def placesMoved (s : State) (m : Manifest) (ms : List (Nat × Nat × Nat × Slot)) : List (Nat × Nat × Slot) :=
  if m.clears = [] then ms.map (fun x => (x.1, x.2.1, x.2.2.2))
  else
    let dest := m.entries.filterMap (fun x => match x with | .slot c i _ _ _ n => if n = 0 then none else some (16 * c + i) | _ => none)
    (m.clears.zip dest).filterMap (fun x => (s.adm.load.slot x.1).map (fun y => (x.1, x.2, y)))

/-- A manifest in GIVEN is applied at the edge of its commit lap. -/
def applyManifest (h : Nat) (s : State) : State :=
  let m := manOf s h
  let who := handleOwner h
  let ms := migrations s m
  let places := placesMoved s m ms
  let gone := removedCtxs (s.adm.load) (((viewOf s).entries (m.changes.filter (fun e => match e with | .migrate _ _ _ => false | _ => true))).load)
  let s1 := applyWrites who m.entries s
  let s2 := gone.foldl (fun s n => freeContext n s) s1
  let s3 := ms.foldl (moveSlot m.carried) s2
  let s4 := assignRings (applyLoad m s3)
  let streams := m.entries.any (fun e => match e with | .write ix _ _ => ix == 0x2120 || (0x2300 ≤ ix && ix < 0x2500) | _ => false)
  let s5 := if streams then streamsChanged (withdrawOld s s4) else s4
  let s6 := endManifest h 0 0 0xFFFF m.lc (edgeNs s m.lc) s5
  let s7 := { s6 with man := { s6.man with applied := sat32 s6.man.applied, moved := movedRecords ms m.lc s6.man.moved } }
  settleBinding (firmwareApplied m places (dropHandle h (notifyEnd h 0 m.lc (edgeNs s m.lc) s7)))

/-- Every manifest in GIVEN whose commit lap begins, in the order in which they passed. -/
def applyGiven (s : State) : State :=
  let due := (standing s).filter (fun e => e.2.state == .given && e.2.lc == s.grid.lap)
  let s0 := if due = [] then s
    else { s with starter := { s.starter with oldObjs := if s.starter.oldLap = s.grid.lap then s.starter.oldObjs else [] } }
  due.foldl (fun s e => applyManifest e.1 s) s0

/-- The writes of the house rate and the lap length among the manifests that the next edge applies. -/
def gridWrites (s : State) : State :=
  let ws := ((standing s).filter (fun e => e.2.state == .given && e.2.lc == s.grid.lap + 1)).flatMap (fun e => e.2.entries)
  ws.foldl (fun s e => match e with
    | .write ix sub v =>
      if ix = 0x2001 then
        let old := match s.grid.change with | some c => c | none => (s.grid.rate, s.grid.nLap)
        { s with grid := { s.grid with change := some (if sub = 1 then (leNat v, old.2) else (old.1, leNat v)) } }
      else s
    | _ => s) s

end Sys2Proof.Machine
end

