-- ==== Sys2Proof/Machine/Lap.lean ====
section
/-! DEFINITION. The seal (R44, R62 to R65, R80, R110, R146, R337), the lap edge (R36 to R38, R333, R492, R579, R615, R633),
page copies (R81), and the Relay's bursts and packets (R301, R304, R307). -/

namespace Sys2Proof.Machine

/-! ### Page copies (R80, R81) -/

/-- The copy of a context's new active page ends, and the writes that waited for it land. -/
def pageCopied (n : Nat) (s : State) : State :=
  let c := ctxOf s n
  let mine (h : HeldWrite) : Bool := h.ctx == n && h.atLap == none
  let ws := s.held.filter mine
  let sh := ws.foldl (fun t h => Tbl.put 0 t h.word h.val) c.act
  { setCtx s n { c with shadow := sh, copying := false, dirty := c.dirty || ws != [] } with held := s.held.filter (fun h => !mine h) }

/-- Contexts of a cluster whose page copies have not ended, lowest first. -/
def copyingCtxs (s : State) (c : Nat) : List Nat := (s.ctxs.filter (fun e => e.2.copying && e.1 / 2048 == c)).map (·.1)

/-- PAGE_COPY_END (R81): the next context of a cluster. -/
def execPageCopyEnd (c : Fin 8) (s : State) : Out :=
  .next (match copyingCtxs s c.val with | n :: _ => pageCopied n s | [] => s)

/-- Every copy has ended 10,240 cycles after the edge (R80). -/
def copiesDone (s : State) : State := (s.ctxs.filter (fun e => e.2.copying)).foldl (fun s e => pageCopied e.1 s) s

/-! ### The seal -/

/-- The lap sequencer runs the cores of a cluster: it is in service, drains or returns. -/
def clusterServes (s : State) (c : Nat) : Bool :=
  let x := (clusterOf s c).state
  x == 0 || x == 1 || x == 3

/-- A start record due in the start phase of the lap in progress. -/
def startDue (s : State) (r : StartRec) : Bool := decide (r.lap + 1 ≤ s.grid.lap)

/-- A core that had work in the lap and has not reported its end has overrun (R63). -/
def hasOverrun (s : State) (k : Nat) : Bool :=
  let c := coreOf s k
  clusterServes s (k / 8) && !c.reported &&
    (c.order != [] || c.conv.isSome || !(c.phase == .idle || c.phase == .precise && c.resume == .idle) || c.starts.any (startDue s))

/-- FREC records cause 7 or 8 of this lap (R163). -/
def stoppedByFault (c : SigCore) : Bool := c.frec.getLsbD 23 && (fld c.frec.toNat 20 16 == 7 || fld c.frec.toNat 20 16 == 8)

/-- The sequencer stops the running order of a core that has overrun; its starts that have not run are abandoned (R64). A core that
PRECISE stopped stays so until it is released, and goes on with a later running order (R147). -/
def cutCore (k : Nat) (s : State) : State :=
  let c := coreOf s k
  let gone := (c.starts.filter (startDue s)).map (·.ctx) ++ (match c.cur with | some r => [r.ctx] | none => [])
  let c0 := landAll c
  let c1 := { landAll { c0 with fastOn := false } with fastOn := c.fastOn }
  let f := { c1.f with stack := [], rep := none, delay := none, skipTo := none, fly := [] }
  let n := { c1.n with stack := [], rep := none, delay := none, skipTo := none, fly := [] }
  let l := { c1.lvu.idle with flValid := false, frameValid := c1.lvu.frameValid && !c1.mt, halt := c1.lvu.halt }
  poisonAll gone (setCore s k { c1 with
    n := n, f := f, fastOn := false, mt := false, fault := none, lvu := l, order := [], conv := none, ahead := none, resident := none,
    phase := if c.phase = .precise then .precise else .stopped, resume := .idle, fastSkip := false,
    starts := c.starts.filter (fun r => !startDue s r), cur := none, overran := true })

/-- A lap overrun of a core as the seal finds it (R63, R64): it is counted, and its running order is cut off. -/
def coreOverrun (k : Nat) (s : State) : State :=
  let c := coreOf s k
  let cut := match c.conv with
    | some slot => if c.phase = .idle ∨ c.phase = .starting then 0xFF else slot % 16
    | none => 0xFF
  updCore (cutCore k { s with overruns := Tbl.upd 0 s.overruns k sat32 }) k (fun c => { c with cutSlot := cut })

/-- Every core that has overrun. -/
def overrunSeal (s : State) : State :=
  match (List.range 64).filter (hasOverrun s) with
  | [] => s
  | ks => { ks.foldl (fun s k => coreOverrun k s) s with overLaps := sat32 s.overLaps }

/-- The event and the record of an overrun, at the end of its lap (R65, R611). -/
def overrunEvent (k : Nat) (s : State) : State :=
  let c := coreOf s k
  if !c.overran then s
  else if stoppedByFault c then fire (16 * (k / 8) + 1) s
  else logRecord (16 * (k / 8) + 1) 1 0x07 (k / 8) (k % 8) (leBytes 1 c.cutSlot ++ List.replicate 7 0) s

def overrunEdge (s : State) : State := (List.range 64).foldl (fun s k => overrunEvent k s) s

/-- A slot rests: its node's lap offset has risen (R59). -/
def slotRests (s : State) (slot : Nat) : Bool := s.adm.resting.any (fun e => e.1 == slot && decide (s.grid.lap < e.2))

/-- The slots whose contributions the bus mixer does not sum at the seal: those of cores that have not reported the end of their
running order and of clusters that do not serve (R62, Table 2.11). -/
def missingSlots (s : State) : List Nat :=
  (s.adm.load.slots.filter (fun e =>
    !slotRests s e.1 && (!clusterServes s (e.1 / 16) || !(coreOf s (slotCoreIn e.1 e.2)).reported))).map (·.1)

/-- The bus mixer sums the contributions of the lap (R62): the block of each output whose node processed enters its pad, and leaves
padO + 1 laps later (R43, R58). Where contributions are missing the block holds zeros (Table 2.11). -/
def busSum (s : State) : State :=
  let gone := missingSlots s
  let taint := gone.foldl (fun t i => insertNat i t) s.avail.taint
  let new := (s.adm.load.outputs.filter (fun o => !slotRests s o.2.src)).map (fun o =>
    let elems := if gone.contains o.2.src then [] else Tbl.get [] s.audio.mix.masks o.2.src
    (⟨s.grid.lap + 1 + (lookupNat s.adm.plan.padO o.1).getD 0, o.1, o.2, s.grid.lap, elems, taint.contains o.2.src⟩ : OutBlock))
  let lose (b : EdgeBlock) : EdgeBlock := if b.lap = s.grid.lap ∧ gone.contains b.src then { b with elems := [] } else b
  onMix (fun m => { m with outs := m.outs ++ new, edges := m.edges.map lose }) { s with avail := { s.avail with taint := [] } }

/-- ARITH takes SR[23:8] of both classes and the saturation flags of VSTAT (R146, R226). -/
def arithCore (k : Nat) (s : State) : State :=
  let c := coreOf s k
  let v := (if c.lvu.vstat.getLsbD 1 then 0x100 else 0) ||| (if c.lvu.vstat.getLsbD 2 then 0x200 else 0)
  let a := (c.n.sr ||| c.f.sr) &&& 0xFFFF00 ||| v
  let s1 := setCore s k { c with
    arith := a, n := { c.n with sr := c.n.sr &&& 0xFF }, f := { c.f with sr := c.f.sr &&& 0xFF },
    lvu := { c.lvu with vstat := c.lvu.vstat &&& 0xFFFF01 } }
  if a &&& c.aemask = 0 then s1 else fire (16 * (k / 8) + 2) s1

def arithSeal (s : State) : State := (List.range 64).foldl (fun s k => arithCore k s) s

/-- The candidates of each pool in each cluster are latched for the lap that follows (R110). -/
def candSeal (s : State) : State := { s with starter := { s.starter with latched := s.starter.best, best := [] } }

/-- Contexts with a write to the shadow page since the seal before are marked for swap; one whose manifest was aborted one
seal later (R80, R336). -/
def markCtx (c : Ctx) : Ctx :=
  if !c.dirty then c
  else if c.defer then { c with defer := false }
  else { c with marked := true, dirty := false }

def markSeal (s : State) : State := { s with ctxs := s.ctxs.map (fun e => (e.1, markCtx e.2)) }

/-- The elements that two-lap manifests in GIVEN remove two laps on are marked STOLEN (R337). -/
def twoLapSeal (s : State) : State :=
  let gone := (standing s).flatMap (fun e =>
    if e.2.state = .given ∧ e.2.twoLap ∧ e.2.lc = s.grid.lap + 2 then
      removedCtxs s.adm.load ((viewOf s).entries (e.2.changes.filter (fun x => match x with | .slot _ _ _ _ _ _ => true | _ => false))).load
    else [])
  gone.foldl (fun s n =>
    let c := ctxOf s n
    if c.hdr.state = .armed ∨ c.hdr.state = .running ∨ c.hdr.state = .releasing then
      unlinkNote n (setCtx s n { c with hdr := { c.hdr with stolen := true }, stolenLap := s.grid.lap })
    else s) s

/-- The instant of the seal of the lap in progress (R44). -/
def sealAt (g : Grid) : Nat := g.tau g.lap 0 + nsTicks (g.tCyc - 1024)

/-- The seal, with what time has brought before it: page copies, the decision point, and parameter values of manifests. -/
def sealLap (s0 : State) : State :=
  let s := decisions (copiesDone (advance (sealAt s0.grid) s0))
  let s1 := (standing s).foldl (fun s e => paramsEnter e.1 s) s
  let s2 := arithSeal (busSum (overrunSeal (quarantineSeal s1)))
  let s3 := twoLapSeal (markSeal (candSeal s2))
  { s3 with grid := { s3.grid with sealed := true } }

/-- SEAL (R44). -/
def execSeal (s : State) : Out := .next (if !s.grid.running ∨ s.grid.sealed then s else sealLap s)

/-! ### The lap edge -/

/-- Whether the lap that ends was impaired: an admitted output emitted a block with a substitution (R633). -/
def lapImpaired (s : State) : Bool :=
  s.avail.mark || s.adm.load.outputs.any (fun o =>
    s.audio.lost.contains (o.1, s.grid.lap) || s.audio.mix.outs.any (fun b => b.num == o.1 && b.emit == s.grid.lap && b.stained))

/-- An outage ends with the lap before the first service lap (R633). -/
def outageEnds (s : State) (a : Avail) : Avail :=
  match a.began with
  | none => a
  | some b =>
    let from_ := s.modes.clock + (s.grid.tau s.grid.lap 0 : Nat) - b.1
    { a with outage := a.outage + ceilDiv from_.toNat (max 1 b.2), began := none }

/-- Availability counts the lap that ends (R633, R634). -/
def countLap (s : State) : State :=
  let a := s.avail
  let b :=
    if !s.modes.mode.serves then a
    else if a.skip > 0 then { a with skip := a.skip - 1 }
    else
      let c := outageEnds s a
      { c with service := c.service + 1, impaired := if lapImpaired s then c.impaired + 1 else c.impaired }
  let off := if s.modes.mode.serves ∧ s.adm.reserve = 0 then b.offLaps + 1 else b.offLaps
  { s with avail := { b with mark := false, offLaps := off },
           audio := { s.audio with lost := s.audio.lost.filter (fun x => decide (s.grid.lap < x.2)) } }

/-- The longest time from the old edge to the new grid's first where the rate family changes: 2 ms (R36). -/
def familyGap : Nat := nsTicks 2000000

/-- What follows a change of house rate or lap length: the load is planned for the new grid, and a change of rate attaches
the USB device and populates heads anew (R36, R358, R361, R552). The timetable for it was staged when the change was accepted. -/
def gridChanged (rate : Bool) (s : State) : State :=
  let p := (planOf (viewOf s)).1
  let s1 := { s with adm := { s.adm with plan := p, resting := [] } }
  let s2 := replan s1
  if rate then reloadKeymaps (populateHeads (usbReattach s2)) else s2

/-- A new grid starts (R36, R38, R509). Where the rate family changes its first edge lies up to 2 ms after the old edge, a value left
open; the clocks stand still until then, and gPTP time runs on. -/
def newGrid (s : State) : State :=
  let g := s.grid
  let c := match g.change with | some c => c | none => (g.rate, g.nLap)
  let same := c.1 % 2 = g.rate % 2
  let r := if same then (s.now, s) else (let f := takeFree s; (s.now + f.1 % (familyGap + 1), f.2))
  let s1 := r.2
  let s2 := fire 294 { s1 with
    grid := { s1.grid with rate := c.1, nLap := c.2, epoch := r.1, epochLap := g.lap, change := none, regrid := false }
    audio := { s1.audio with count := 0, wclkOn := s1.audio.wclkOn && decide same, usb := { s1.audio.usb with inbuf := [], sentTo := 0 } }
    net := { s1.net with inbuf := [], crfNext := 0, talk := s1.net.talk.map (fun e => (e.1, { e.2 with next := 0 })) } }
  if c = (g.rate, g.nLap) then s2 else gridChanged (c.1 != g.rate) s2

/-- The lap counter rises, and a grid that was accepted starts (R36 to R38). -/
def beginLap (s : State) : State :=
  let edge := s.grid.tau (s.grid.lap + 1) 0
  let s1 := ppsTick (advance edge s)
  let s2 := { s1 with grid := { s1.grid with lap := s1.grid.lap + 1, sealed := false, silent := s1.grid.silent - 1 },
                      audio := { s1.audio with before := s1.audio.block, block := [] }, relay := { s1.relay with next := 0 } }
  if s2.grid.change.isSome || s2.grid.regrid then newGrid s2 else s2

/-- The pages of a marked context exchange roles, and the copy of the new active page begins (R80). -/
def swapPages (c : Ctx) : Ctx := if c.marked then { c with act := c.shadow, shadow := c.act, marked := false, copying := true } else c

def swapEdge (s : State) : State := { s with ctxs := s.ctxs.map (fun e => (e.1, swapPages e.2)) }

/-- The writes that waited for this edge: they land in the shadow page, or once its copy ends (R335). -/
def heldEdge (s : State) : State :=
  let due := s.held.filter (fun h => h.atLap == some s.grid.lap)
  let s1 := { s with held := (s.held.filter (fun h => h.atLap != some s.grid.lap)) ++
    (due.filter (fun h => (ctxOf s h.ctx).copying)).map (fun h => { h with atLap := none }) }
  (due.filter (fun h => !(ctxOf s h.ctx).copying)).foldl (fun s h =>
    updCtx s h.ctx (fun c => { c with shadow := Tbl.put 0 c.shadow h.word h.val, dirty := true })) s1

/-- An accepted mode transition takes effect (R579). -/
def modeEdge (s : State) : State :=
  match s.modes.next with
  | some (m, cause) =>
    if s.modes.dueLap ≤ s.grid.lap then
      let s1 := enterMode m cause s
      if s.modes.mode = .boot ∧ m = .maintain then repairsAfterStart s1 else s1
    else s
  | none => s

/-- A save takes its values at the first edge after its write (R482). -/
def saveEdge (s : State) : State :=
  if s.dict.saving.isSome && s.dict.saveSet.isNone then
    { s with dict := { s.dict with saveSet := some (persistSet s, s.adm.load, s.grid.rate, s.grid.nLap) } }
  else s

/-- A subscription is due at this edge: its value where it is (R491, R492). -/
def subDue (s : State) (mode period : Nat) (changed : Bool) (last : Bytes) (val : Bytes) : Bool :=
  if mode = 1 then changed || val != last else decide (period ≠ 0 ∧ s.grid.lap % period = 0)

/-- The value notifications of a port. -/
def portNotes (p : Port) (s : State) : State :=
  (portSt s p).subs.foldl (fun s u =>
    match odValue s (portReq p) u.idx u.sub with
    | .error _ => s
    | .ok v =>
      let s1 := updPort s p (fun x => { x with subs := x.subs.map (fun w => if w.id = u.id then { w with changed := false, last := v } else w) })
      if subDue s u.mode u.period u.changed u.last v then notifyValue p u.id u.idx u.sub v s1 else s1) s

/-- The value notifications of the applications. -/
def appNotes (s : State) : State :=
  s.apps.subs.foldl (fun s u =>
    match odValue s .apps u.idx u.sub with
    | .error _ => s
    | .ok v =>
      let s1 := setAppSubs (s.apps.subs.map (fun w => if w.id = u.id then { w with changed := false, last := v } else w)) s
      if subDue s u.mode u.period u.changed u.last v then
        appSend u.app (.value u.id ([0, BitVec.ofNat 8 u.id, 0, 0] ++ leBytes 8 s.grid.lap ++ leBytes 2 u.idx ++ leBytes 1 u.sub ++ [0] ++ v)) s1
      else s1) s

/-- An episode closes (R615). -/
def episodeEdge (s : State) : State :=
  match s.log.ep with
  | some e =>
    if ((s.now : Int) ≥ e.last + nsTicks 100000000 ∧ !e.pendingAct) ∨ (s.now : Int) ≥ e.start + nsTicks 10000000000 then { s with log := { s.log with ep := none } }
    else s
  | none => s

/-- What the Starter keeps of laps that are over. -/
def starterEdge (s : State) : State :=
  let l := s.grid.lap
  let a := s.starter
  { s with starter := { a with cands := a.latched, latched := [],
                               slots := a.slots.filter (fun e => decide (64 * (l - 1) ≤ e.1)),
                               holdEnds := a.holdEnds.filter (fun h => decide (l ≤ h.lap + 1)),
                               enables := a.enables.filter (fun c => decide (l ≤ c.lap + 1)),
                               copyEnd := a.copyEnd.filter (fun e => decide (s.now < e.2)) } }

/-- What the mixers and the delay lines keep of laps that are over. -/
def mixEdge (s : State) : State :=
  onMix (fun m => { m with masks := [], feedLost := [], ended := [], outs := m.outs.filter (fun b => decide (s.grid.lap ≤ b.emit)),
                           edges := m.edges.filter (fun b => decide (s.grid.lap ≤ b.due)) }) s

/-- The input block of the lap before comes into the CSM of every cluster that reads it (R42, R43, R47). DESIGN CHOICE (log 103): all of
it at the edge. -/
def deliverInputs (s : State) : State :=
  (List.range 8).foldl (fun s c =>
    (s.adm.load.inputs c).foldl (fun s ch =>
      let key := chKey ch.1 ch.2
      (List.range s.grid.nLap).foldl (fun s k =>
        let a := 1048576 * c + (Config.csmInputWord c key + k) % 1048576
        { s with csm := Tbl.put 0 s.csm a (Tbl.get 0 s.audio.before (inKey key k)), csmUpset := Tbl.put false s.csmUpset a false }) s) s) s

/-- Words of an input transfer that the Relay lost read as zeros (R301): word i of the transfer is sample i mod N_lap of channel
i / N_lap among those that the station brings. -/
def zeroInput (c src first n : Nat) (s : State) : State :=
  let chans := (s.adm.load.inputs c).filter (fun ch => inputStation ch.1 == src)
  (List.range n).foldl (fun s j =>
    let i := first + j
    match chans[i / s.grid.nLap]? with
    | some ch => { s with csm := Tbl.put 0 s.csm (1048576 * c + (Config.csmInputWord c (chKey ch.1 ch.2) + i % s.grid.nLap) % 1048576) 0 }
    | none => s) s

/-- The running order of a core for a lap (R58, R59). -/
def coreOrder (s : State) (k : Nat) : List Nat :=
  if clusterServes s (k / 8) then
    s.adm.plan.order.filter (fun i => (match s.adm.load.slot i with | some x => slotCoreIn i x == k | none => false) && !slotRests s i)
  else []

/-- A core as a lap begins (R163, R278). -/
def coreEdge (k : Nat) (s : State) : State :=
  updCore s k (fun c =>
    let back := c.lvu.halt && !c.lvu.poll
    { c with
      phase := if c.phase = .precise then .precise else .idle, reported := false, overran := false, cutSlot := 0xFF, frec := c.frec &&& 0x3FFFFF,
      conv := none, ahead := none, order := coreOrder s k,
      lvu := if back then { c.lvu.idle with halt := false, frameValid := false } else c.lvu })

def coresEdge (s : State) : State := (List.range 64).foldl (fun s k => coreEdge k s) s

/-- The lap divider (R466). -/
def dividerEdge (s : State) : State :=
  if s.evc.lapdiv ≠ 0 ∧ s.grid.lap % s.evc.lapdiv.toNat = 0 then fire 292 s else s

/-- The banks swap where the shadow bank is armed; a swap leaves the descriptors that could not be corrected behind (R304). -/
def swapBank (s : State) : State :=
  match s.adm.shadow with
  | some b => { s with adm := { s.adm with timetable := b, shadow := none }, relay := { s.relay with bad := [] } }
  | none => s

/-- The banks swap, manifests in GIVEN are applied with theirs, and the batches of the lap take their routes (R304, R333, R339). -/
def manifestEdge (s : State) : State := routeBatches (applyGiven (swapBank s))

/-- The lap edge. -/
def edgeLap (s0 : State) : State :=
  let sealed := if s0.grid.sealed then s0 else sealLap s0
  let s := countLap (gridWrites (completeBatches (overrunEdge (advance (sealed.grid.tau (sealed.grid.lap + 1) 0) sealed))))
  let s1 := manifestEdge (heldEdge (swapEdge (beginLap s)))
  let s2 := poisonedLeave s1
  let s3 := saveEdge (serviceEdge (modeEdge { s2 with adm := { s2.adm with resting := s2.adm.resting.filter (fun e => decide (s2.grid.lap < e.2)) } }))
  let s4 := appNotes (portNotes .b (portNotes .a s3))
  deliverInputs (coresEdge (mixEdge (starterEdge (episodeEdge (keysAtEdge (wakeEvents (dividerEdge s4)))))))

/-- LAP_EDGE (R37). -/
def execLapEdge (s : State) : Out := .next (if s.grid.running then edgeLap s else s)

/-- HEAD_RESIDENT (R358). -/
def execHeadResident (obj : Fin 1048576) (s : State) : Out := .next (stampHeads (headResident obj.val s))

/-- PREFIX_COPY_DONE (R361). -/
def execPrefixCopyDone (m : Fin 1024) (s : State) : Out := .next (stampHeads (prefixCopyDone m.val s))

/-! ### The Relay -/

/-- What a station substitutes for what was lost of a burst: audio is zero (R301, Table 2.11), and frames of a ring fill are replaced
(R376). ring, first and n name the play indices that were lost of a ring fill; of other audio first and n name words of the transfer. -/
def burstLost (b : Burst) (ring first n : Nat) (s : State) : State :=
  let taint (slot : Nat) (s : State) : State := { s with avail := { s.avail with taint := insertNat slot s.avail.taint } }
  match b.kind with
  | 1 => taint b.tag (onMix (fun m => { m with feedLost := m.feedLost ++ [(b.tag, first, n)] }) s)
  | 2 => setRing s ring { ringOf s ring with zeros := (ringOf s ring).zeros ++ (if n = 0 then [] else [(first, n)]) }
  | 5 =>
    let lose (x : EdgeBlock) : EdgeBlock := if x.num = b.tag ∧ x.due = s.grid.lap then { x with lost := x.lost ++ [(first, n)] } else x
    let s1 := onMix (fun m => { m with edges := m.edges.map lose }) s
    (match lookupNat s.adm.load.edges b.tag with | some e => taint e.dst s1 | none => s1)
  | 6 => (s.adm.load.slots.filter (fun e => e.1 / 16 == b.dst)).foldl (fun s e => taint e.1 s) (zeroInput b.dst b.src first n s)
  | 7 =>
    let lap := if b.start ≥ s.grid.tCyc - 976 then s.grid.lap + 1 else s.grid.lap
    { s with audio := { s.audio with lost := if s.audio.lost.contains (b.tag, lap) then s.audio.lost else s.audio.lost ++ [(b.tag, lap)] } }
  | _ => s

/-- The next burst of the lap runs: bad tells that a beat of it arrived with an error that cannot be corrected (R301). -/
def runBurst (bad : Bool) (ring first n : Nat) (s : State) : State :=
  let i := s.relay.next
  match s.adm.timetable[i]? with
  | none => s
  | some b =>
    let gone := s.relay.bad.contains i
    let idle := b.kind == 8 && b.src == b.dst
    let beats := if idle then 0 else b.len + 1
    let s1 := { s with relay := { s.relay with
      next := i + 1, sent := if gone then s.relay.sent else s.relay.sent + beats,
      discarded := if gone then s.relay.discarded + beats else if bad && !idle then s.relay.discarded + 1 else s.relay.discarded } }
    if idle || !(bad || gone) then s1
    else
      -- a burst without a descriptor is lost whole
      let before := (s.adm.timetable.take i).filter (fun x => x.kind == b.kind && x.tag == b.tag && x.src == b.src && x.dst == b.dst)
      let all := gone && b.kind != 2
      let s2 := burstLost b ring (if all then burstWords * before.length else first) (if all then burstWords else n) s1
      if gone then s2 else logRecord 337 1 0x09 0xFF 0xFF (leBytes 1 b.kind ++ leBytes 1 b.src ++ leBytes 1 b.dst ++ List.replicate 5 0) s2

/-- RELAY_BURST (R304). -/
def execRelayBurst (bad : Bool) (ring : Fin 4096) (first n : Nat) (s : State) : Out :=
  .next (if s.grid.running then runBurst bad ring.val first n s else s)

/-- RELAY_PACKET (R307): the lane serves the next station in turn among those with packets waiting; bits of waiting name
them, and beats + 1 is the packet's length. -/
def execRelayPacket (lane : Fin 4) (waiting : BitVec 13) (beats : Fin 16) (s : State) : Out :=
  .next (
    match ((List.range 13).map (fun i => (Tbl.get 0 s.relay.rr lane.val + i) % 13)).find? (fun i => waiting.getLsbD i) with
    | none => s
    | some st =>
      { s with relay := { s.relay with rr := Tbl.put 0 s.relay.rr lane.val (st + 1), sent := s.relay.sent + beats.val + 1 }, result := st })

end Sys2Proof.Machine
end

