-- ==== Sys2Proof/Machine/Bcp.lean ====
section
/-! DEFINITION. The Brente Control Protocol (R484 to R505): the messages of Table 13.8, their checks and replies, the QSPI
commands, link loss and hold-off, and the end of a save (R482). -/

namespace Sys2Proof.Machine

/-! ### What the messages ask for (Table 13.8) -/

/-- The answer to a request: its status, the body of its reply, and the state. -/
structure Answer where
  st   : Status
  body : Bytes
  s    : State

/-- A request that fails changes nothing, and its reply has no body. -/
def failed (e : Status) (s : State) : Answer := ⟨e, [], s⟩

def byteAt (b : Bytes) (i : Nat) : Nat := fieldAt b i 1

/-- An object that BOOT lets a requester read; every object in the modes that serve (Table 13.4). -/
def readsNow (s : State) (ix sub : Nat) : Bool :=
  serving s || (match odFind ix sub with | .ok r => r.fl.testBit 2 | .error _ => false)

/-- READ. -/
def askRead (who : Requester) (limit : Nat) (b : Bytes) (s : State) : Answer :=
  let ix := fieldAt b 0 2
  let sub := byteAt b 2
  if b.length ≠ 4 ∨ byteAt b 3 ≠ 0 then failed .range s
  else if !readsNow s ix sub then failed .state s
  else match odRead s who ix sub with
    | .error e => failed e s
    | .ok v => if v.length > limit then failed .range s else ⟨.ok, v, s⟩

/-- WRITE. -/
def askWrite (who : Requester) (b : Bytes) (s : State) : Answer :=
  if b.length < 4 ∨ byteAt b 3 ≠ 0 then failed .range s
  else
    let r := odWrite who (fieldAt b 0 2) (byteAt b 2) (b.drop 4) s
    ⟨r.1, [], r.2⟩

/-- READ_BLOCK. -/
def askReadBlock (who : Requester) (limit : Nat) (b : Bytes) (s : State) : Answer :=
  let ix := fieldAt b 0 2
  let sub := byteAt b 2
  let count := fieldAt b 8 2
  if b.length ≠ 12 ∨ byteAt b 3 ≠ 0 ∨ fieldAt b 10 2 ≠ 0 ∨ count > limit then failed .range s
  else if !readsNow s ix sub then failed .state s
  else match odRead s who ix sub with
    | .error e => failed e s
    | .ok v => if fieldAt b 4 4 > v.length then failed .range s else ⟨.ok, (v.drop (fieldAt b 4 4)).take count, s⟩

/-- The port of a requester. -/
def reqPort : Requester → Option Port | .portA => some .a | .portB => some .b | _ => none

/-- WRITE_BLOCK (R487). -/
def askWriteBlock (who : Requester) (b : Bytes) (s : State) : Answer :=
  let ix := fieldAt b 0 2
  let sub := byteAt b 2
  let kind := byteAt b 3
  let word := fieldAt b 4 4
  if b.length < 8 ∨ kind > 2 then failed .range s
  else if kind = 0 then
    let r := odRun who ix sub word (b.drop 8) s
    ⟨r.1, if r.1 = .ok then [] else leBytes 1 r.2.1, r.2.2⟩
  else
    let asm := match reqPort who with | some p => (portSt s p).asm | none => none
    let r := odSegment who ix sub (kind == 2) word (b.drop 8) asm s
    ⟨r.1, [], match reqPort who with | some p => updPort r.2.2 p (fun x => { x with asm := r.2.1 }) | none => r.2.2⟩

/-- MANIFEST_OPEN (R310). -/
def askOpen (who : Requester) (b : Bytes) (s : State) : Answer :=
  if b ≠ [] then ⟨.range, [Status.range.code, 0xFF], s⟩
  else
    let r := openManifest who s
    ⟨r.1, leBytes 1 r.1.code ++ leBytes 1 r.2.1, r.2.2⟩

/-- MANIFEST_ADD (R315). -/
def askAdd (who : Requester) (b : Bytes) (s : State) : Answer :=
  let body (e : Status) (i : Nat) : Bytes := leBytes 1 e.code ++ [0] ++ leBytes 2 i
  if b.length < 4 ∨ fieldAt b 1 3 ≠ 0 then ⟨.range, body .range 0xFFFF, s⟩
  else
    let r := addManifest who (byteAt b 0) (b.drop 4) s
    ⟨r.1, body r.1 r.2.1, r.2.2⟩

/-- The body of a reply to MANIFEST_COMMIT that fails before its checks. -/
def commitFailed (e : Status) : Bytes := leBytes 1 e.code ++ [0] ++ leBytes 2 0xFFFF ++ leBytes 8 0 ++ leBytes 8 0

/-- MANIFEST_COMMIT (R318, R323): the reply to one that waits for its checks is sent as they end. -/
def askCommit (who : Requester) (b : Bytes) (reply : Option (Nat × Nat)) (s : State) : Answer :=
  if b.length ≠ 12 ∨ byteAt b 1 > 1 ∨ fieldAt b 2 2 ≠ 0 then ⟨.range, commitFailed .range, s⟩
  else
    let r := commitManifest who (byteAt b 0) (if byteAt b 1 = 1 then some (fieldAt b 4 8) else none) reply s
    ⟨r.1, if r.1 = .ok then [] else commitFailed r.1, r.2⟩

/-- MANIFEST_ABORT (R321). -/
def askAbort (who : Requester) (b : Bytes) (s : State) : Answer :=
  if b.length ≠ 4 ∨ fieldAt b 1 3 ≠ 0 then ⟨.range, leBytes 1 Status.range.code, s⟩
  else
    let r := abortManifest who (byteAt b 0) s
    ⟨r.1, leBytes 1 r.1.code, r.2⟩

/-- SUBSCRIBE (R491). -/
def askSubscribe (who : Requester) (b : Bytes) (s : State) : Answer :=
  let ix := fieldAt b 0 2
  let sub := byteAt b 2
  let mode := byteAt b 3
  let period := fieldAt b 4 2
  match reqPort who with
  | none => failed .access s
  | some p =>
    if b.length ≠ 8 ∨ fieldAt b 6 2 ≠ 0 then failed .range s
    else match subscribeCheck s who ix sub mode period with
      | some e => failed e s
      | none =>
        let subs := (portSt s p).subs
        let old := subs.find? (fun u => u.idx == ix && u.sub == sub)
        let rest := subs.filter (fun u => !(u.idx == ix && u.sub == sub))
        if mode = 0 then
          ⟨.ok, leBytes 1 (match old with | some u => u.id | none => 0xFF), updPort s p (fun x => { x with subs := rest })⟩
        else
          match (match old with | some u => some u.id | none => freeId (subs.map (·.id))) with
          | none => failed .full s
          | some i =>
            let u : Subscr := { id := i, idx := ix, sub := sub, mode := mode, period := period, last := (shown s ix sub).getD [] }
            ⟨.ok, leBytes 1 i, updPort s p (fun x => { x with subs := rest ++ [u] })⟩

/-- SEM_TAKE and SEM_GIVE (R494). -/
def askSem (take : Bool) (who : Requester) (b : Bytes) (s : State) : Answer :=
  if b.length ≠ 4 ∨ fieldAt b 1 3 ≠ 0 then failed .range s
  else
    let r := if take then semTake who (byteAt b 0) s else semGive who (byteAt b 0) s
    ⟨r.1, [], r.2⟩

/-- A request of the dictionary server (R480, R485 step 6). -/
def ask (who : Requester) (msg limit : Nat) (b : Bytes) (reply : Option (Nat × Nat)) (s : State) : Answer :=
  if !serving s ∧ msg ≠ 1 ∧ msg ≠ 3 then
    (match msg with
     | 5 => ⟨.state, [Status.state.code, 0xFF], s⟩
     | 6 => ⟨.state, leBytes 1 Status.state.code ++ [0, 0xFF, 0xFF], s⟩
     | 7 => ⟨.state, commitFailed .state, s⟩
     | 8 => ⟨.state, leBytes 1 Status.state.code, s⟩
     | _ => failed .state s)
  else
    match msg with
    | 1 => askRead who limit b s
    | 2 => askWrite who b s
    | 3 => askReadBlock who limit b s
    | 4 => askWriteBlock who b s
    | 5 => askOpen who b s
    | 6 => askAdd who b s
    | 7 => askCommit who b reply s
    | 8 => askAbort who b s
    | 9 => askSubscribe who b s
    | 11 => askSem true who b s
    | 12 => askSem false who b s
    | _ => failed .range s

/-! ### The checks of a message (R485) -/

/-- The ports are active: the module is in a mode, and not in STANDBY (R504). -/
def portsLive (s : State) : Bool := s.modes.mode != .standby && s.modes.mode != .noMode

/-- A port is served: in BOOT hold the boot ROM serves port A alone (R587). -/
def portLive (s : State) (p : Port) : Bool := portsLive s && !(p == .b && s.modes.mode == .boot && s.modes.up.hold)

/-- Step 1. -/
def crcGood (m : Bytes) : Bool := decide (4 ≤ m.length) && fieldAt m (m.length - 4) 4 == crc32c (m.take (m.length - 4))

/-- Bytes of a message whose header names its length: 20 more with a trailer. -/
def wholeLen (m : Bytes) : Nat := 16 + fieldAt m 4 2 + (if byteAt m 6 = 4 then 20 else 0)

/-- Step 2. -/
def headerGood (s : State) (p : Port) (m : Bytes) : Bool :=
  decide (16 ≤ m.length) && byteAt m 0 == 1 && (byteAt m 6 == 0 || (byteAt m 6 == 4 && p == .b && s.dict.carrier == 1)) &&
  byteAt m 7 == 0 && decide (fieldAt m 4 2 ≤ carrierLen s p) && m.length == wholeLen m

def msgBody (m : Bytes) : Bytes := (m.drop 12).take (fieldAt m 4 2)

/-- READs of OD 1000 and OD 1012.04 need no trailer (R500). -/
def exempt (m : Bytes) : Bool :=
  byteAt m 1 == 1 && (fieldAt m 12 2 == 0x1000 || (fieldAt m 12 2 == 0x1012 && byteAt m 14 == 4))

/-- The COUNTER of a message's trailer. -/
def counterOf (m : Bytes) : Nat := fieldAt m (12 + fieldAt m 4 2) 4

/-- Step 3: the trailer is there, its tag is right and its COUNTER rises (R500). -/
def trailerGood (s : State) (m : Bytes) : Bool :=
  byteAt m 6 == 4 && decide (s.dict.portB.ctrIn < counterOf m) &&
  (m.drop (16 + fieldAt m 4 2)).take 16 == authTag s (m.take 12) (msgBody m) (counterOf m)

/-- The command that serves a message, by its place in Table 13.8; 0: it is reserved or malformed; 13 to 16: the segments of
WRITE_BLOCK and the other modes of SUBSCRIBE. -/
def msgRow (s : State) (p : Port) (m : Bytes) : Nat :=
  if !(crcGood m && headerGood s p m) then 0
  else
    let k := if fieldAt m 4 2 < 4 then 0 else byteAt m 15
    match byteAt m 1 with
    | 4 => if k = 1 then 13 else if k = 2 then 14 else 4
    | 9 => if k = 2 then 15 else if k = 0 then 16 else 9
    | 10 => 0
    | n => if n ≤ 12 then n else 0

/-! ### Requests in service (R488, R490, R493) -/

/-- The SEQ of a port's requests whose replies are still to come. -/
def inService (s : State) (p : Port) : List Nat :=
  (s.man.tbl.filterMap (fun e => if handleOwner e.1 = portReq p then e.2.reply.map (·.1) else none)) ++
  (match s.dict.saving with | some x => if x.1 = portReq p then [x.2.1 % 65536] else [] | none => [])

/-- A message comes to a port: it waits in the input buffer, which takes four with those in service. A repeat of a request in
service is answered by that request's reply. -/
def arrive (p : Port) (a : Arrival) (s : State) : State :=
  if crcGood a.bytes && headerGood s p a.bytes && (inService s p).contains (fieldAt a.bytes 2 2) then s
  else if (portSt s p).inbox.length + (inService s p).length ≥ 4 then portCount p 3 s
  else
    let s1 := updPort s p (fun x => { x with inbox := x.inbox ++ [a] })
    fire (224 + portNum p) { s1 with dict := { s1.dict with turns := s1.dict.turns ++ [p] } }

/-- A message that another than the bound peer sent (R499). -/
def otherPeer (s : State) (ip : BitVec 32) (udp : BitVec 16) : Bool :=
  s.dict.carrier == 1 && (match s.dict.portB.peer with | some q => q != (ip, udp) | none => false)

/-- The link-loss timer starts again (R503). -/
def restartLink (p : Port) (s : State) : State :=
  let ms := od s 0x1013 (portNum p + 1)
  updPort s p (fun x => { x with linkEnd := if ms = 0 then 0 else s.now + nsTicks (1000000 * ms) + 1 })

/-- The reply to a message that fails steps 1 to 3 goes to the bound peer, if there is one. A refused request's has no trailer, nor
has that to a READ that needs none (R500). -/
def replyBad (p : Port) (m : Bytes) (e : Status) (s : State) : State :=
  if p = .b ∧ s.dict.carrier = 1 ∧ s.dict.portB.peer = none then answered e [] s
  else sendPlain p (e == .auth || (e == .range && exempt m)) (byteAt m 1) (fieldAt m 2 2) (fieldAt m 8 4) e s

/-- A new binding of port B takes effect once the reply of port B itself to the write has left (R496). -/
def settleAfter (p : Option Port) (before : Nat) (s : State) : State :=
  let waits := p == some .b && onQspi s .b && s.dict.portB.out.any (fun m => match m with | .reply _ => true | _ => false)
  if od s 0x1010 1 = before ∨ waits = true then s else settleBinding s

/-- A save has begun with this request: its reply waits for the end. -/
def savesNow (old new : State) : Bool := old.dict.saving.isNone && new.dict.saving.isSome

/-- A message that has passed steps 1 to 3 and is no repeat (R485 steps 5 and 6). -/
def serve (p : Port) (plain : Bool) (a : Arrival) (s : State) : State :=
  let m := a.bytes
  let msg := byteAt m 1
  let seq := fieldAt m 2 2
  let token := fieldAt m 8 4
  if msg = 0 ∨ msg = 10 ∨ msg > 12 then
    (if p = .b ∧ s.dict.carrier = 1 ∧ s.dict.portB.peer = none then answered .range [] s else sendReply p plain msg seq token .range [] s)
  else
    let bound := if p = .b ∧ s.dict.carrier = 1 then
        { updPort s .b (fun x => { x with peer := some (a.ip, a.udp) }) with net := { s.net with bcpPort := a.eth.val } }
      else s
    let s1 := portCount p 1 (restartLink p bound)
    let r := ask (portReq p) msg (carrierLen s1 p) (msgBody m) (some (seq, token)) s1
    let before := od s1 0x1010 1
    if !portLive r.s p then r.s
    else if savesNow s1 r.s then { r.s with dict := { r.s.dict with saving := some (portReq p, 65536 * msg + seq, token) } }
    else if msg = 7 ∧ r.st = .ok then answered .ok [] r.s
    else settleAfter (some p) before (sendReply p plain msg seq token r.st r.body r.s)

/-- A message at the head of the input buffer is taken and checked (R485). -/
def handle (p : Port) (a : Arrival) (s : State) : State :=
  let m := a.bytes
  let auth := authOn s p && !(exempt m && byteAt m 6 == 0)
  if p = .b ∧ otherPeer s a.ip a.udp = true then portCount .b 3 s
  else if !crcGood m then replyBad p m .crc (portCount p 2 s)
  else if !headerGood s p m then replyBad p m .range s
  else if auth && !trailerGood s m then
    replyBad p m .auth (fire 231 { s with dict := { s.dict with authFail := sat32 s.dict.authFail } })
  else
    let s1 := if auth then updPort s .b (fun x => { x with ctrIn := counterOf m }) else s
    match lookupNat (portSt s1 p).kept (fieldAt m 2 2) with
    | some r => pushOut p (.reply r) (portCount p 4 (restartLink p s1))
    | none => serve p (!authOn s p || exempt m) a s1

/-- No request of the other port that the server could take came earlier (R490). Semaphores, and messages that fail their
checks, are the port engine's own. -/
def portTurn (s : State) (p : Port) (row : Nat) : Bool :=
  row == 0 || row == 11 || row == 12 ||
  (match s.dict.turns.find? (fun q => q == p || inService s q == []) with | some q => q == p | none => true)

/-- The head of a port's input buffer is taken; rest is left. -/
def takeHead (p : Port) (rest : List Arrival) (s : State) : State :=
  let s1 := updPort s p (fun x => { x with inbox := rest })
  { s1 with dict := { s1.dict with turns := s1.dict.turns.erase p } }

/-- The server takes the head of a port's input buffer where no request of the port is in service, the message is of the kind
that the command names, and it is the port's turn. -/
def serveHead (p : Port) (row : Nat) (s : State) : State :=
  if !portLive s p ∨ inService s p ≠ [] then s
  else match (portSt s p).inbox with
    | [] => s
    | a :: rest => if msgRow s p a.bytes = row ∧ portTurn s p row then handle p a (takeHead p rest s) else s

/-- A request without a message: its result is noted. -/
def serveBody (who : Requester) (row : Nat) (b : Bytes) (s : State) : State :=
  let msg := if row = 13 ∨ row = 14 then 4 else if row = 15 ∨ row = 16 then 9 else row
  let r := ask who msg 4096 b none s
  settleAfter none (od s 0x1010 1) (answered r.st r.body r.s)

/-- A request of one row of Table 13.8. -/
def bcp (row : Nat) (r : Request) (s : State) : Out :=
  .next (match r with
    | .body who b => serveBody who row b s
    | .queued p => serveHead p row s
    | .arrives a =>
      if !portLive s .b ∨ s.dict.carrier = 0 then s
      else
        let s1 := if s.dict.carrier = 1 then rxFrame a.eth.val s else s
        if otherPeer s a.ip a.udp then portCount .b 3 s1
        else serveHead .b row (arrive .b a s1))

/-- READ (R486). -/
def execBcpRead (r : Request) (s : State) : Out := bcp 1 r s

/-- WRITE (R479). -/
def execBcpWrite (r : Request) (s : State) : Out := bcp 2 r s

/-- READ_BLOCK (R486). -/
def execBcpReadBlock (r : Request) (s : State) : Out := bcp 3 r s

/-- WRITE_BLOCK with KIND 0, and with a reserved KIND (R487). -/
def execWriteBlockRun (r : Request) (s : State) : Out := bcp 4 r s

/-- WRITE_BLOCK with KIND 1 (R487). -/
def execWriteBlockSegment (r : Request) (s : State) : Out := bcp 13 r s

/-- WRITE_BLOCK with KIND 2 (R487). -/
def execWriteBlockFinal (r : Request) (s : State) : Out := bcp 14 r s

/-- MANIFEST_OPEN (R310). -/
def execManifestOpen (r : Request) (s : State) : Out := bcp 5 r s

/-- MANIFEST_ADD (R315). -/
def execManifestAdd (r : Request) (s : State) : Out := bcp 6 r s

/-- MANIFEST_COMMIT (R323). -/
def execManifestCommit (r : Request) (s : State) : Out := bcp 7 r s

/-- MANIFEST_ABORT (R321). -/
def execManifestAbort (r : Request) (s : State) : Out := bcp 8 r s

/-- SUBSCRIBE with MODE 1, and with a reserved MODE (R491). -/
def execSubscribeChange (r : Request) (s : State) : Out := bcp 9 r s

/-- SUBSCRIBE with MODE 2 (R491). -/
def execSubscribePeriodic (r : Request) (s : State) : Out := bcp 15 r s

/-- SUBSCRIBE with MODE 0 (R491). -/
def execSubscribeCancel (r : Request) (s : State) : Out := bcp 16 r s

/-- SEM_TAKE (R494). -/
def execSemTake (r : Request) (s : State) : Out := bcp 11 r s

/-- SEM_GIVE (R494). -/
def execSemGive (r : Request) (s : State) : Out := bcp 12 r s

/-- A message with a reserved MSG or a malformed header, or one whose CRC fails (R485). -/
def execBcpReservedMsg (r : Request) (s : State) : Out := bcp 0 r s

/-- BCP_OTHER_PEER_DATAGRAM (R499). -/
def execBcpOtherPeerDatagram (ip : BitVec 32) (udp : BitVec 16) (s : State) : Out :=
  .next (if portLive s .b && otherPeer s ip udp then portCount .b 3 s else s)

/-! ### QSPI (R497) -/

/-- A transaction on a port that is carried on QSPI: the link-loss timer starts again. -/
def qspi (p : Port) (f : State → State) (s : State) : Out := .next (if portLive s p && onQspi s p then f (restartLink p s) else s)

/-- Bytes that a read command drives: n of them, zeros after the defined ones. -/
def driven (n : Nat) (b : Bytes) : Bytes := (b ++ List.replicate (n - b.length) 0).take n

/-- WRITE_MSG: the bytes that the host clocked. -/
def execWriteMsg (p : Port) (b : List (BitVec 8)) (s : State) : Out :=
  qspi p (fun s =>
    let need := 16 + fieldAt b 4 2
    if b.length < 12 ∨ b.length < need then portCount p 3 s else arrive p ⟨b.take need, 0, 0, 0⟩ s) s

/-- The message at the head leaves the outbound queue; with the last one the line releases and the hold-off timer starts
(R504). -/
def leaveQueue (p : Port) (s : State) : State :=
  let s1 := updPort s p (fun x => { x with out := x.out.tail })
  if (portSt s1 p).out = [] then startHold p (updPort s1 p (fun x => { x with irq := false })) else s1

/-- READ_MSG: n bytes are clocked after the turnaround. -/
def execReadMsg (p : Port) (n : Nat) (s : State) : Out :=
  qspi p (fun s =>
    let b := match (portSt s p).out with | m :: _ => m.bytes | [] => List.replicate 12 0
    let s1 := { s with sent := s.sent ++ [.qspi (portNum p) (driven n b)] }
    if (portSt s p).out = [] ∨ n < b.length then s1
    else
      let s2 := leaveQueue p s1
      if p = .b ∧ !(s2.dict.portB.out.any (fun m => match m with | .reply _ => true | _ => false)) then settleBinding s2 else s2) s

/-- The word of STATUS (Table 13.12). -/
def qspiWord (s : State) (p : Port) : Nat :=
  let x := portSt s p
  b2n (x.out != []) 1 + b2n (decide (x.inbox.length + (inService s p).length < 4)) 2 + 256 * (x.out.length % 256) + 65536 * (x.inbox.length % 256)

/-- QSPI_STATUS: n bytes are clocked after the turnaround. -/
def execQspiStatus (p : Port) (n : Nat) (s : State) : Out :=
  qspi p (fun s => { s with sent := s.sent ++ [.qspi (portNum p) (driven n (leBytes 4 (qspiWord s p)))], result := qspiWord s p }) s

/-- RESET_PORT (R502). -/
def execResetPort (p : Port) (s : State) : Out := qspi p (fun s => settleBinding (resetPort p s)) s

/-- A reserved QSPI command. -/
def execQspiReservedCmd (p : Port) (s : State) : Out := qspi p (portCount p 6) s

/-! ### Timers and saves -/

/-- What a lost link takes from a port: a semaphore, a manifest in OPEN, an assembly or a bound peer (R503). -/
def portHolds (s : State) (p : Port) : Bool :=
  s.dict.sems.any (fun e => e.2 == ownerCode (portReq p)) ||
  s.man.tbl.any (fun e => handleOwner e.1 == portReq p && e.2.state == .opened) ||
  (portSt s p).asm.isSome || (portSt s p).peer.isSome

/-- LINK_LOSS_TIMEOUT (R503), at t ns: the timer has run out, or both Ethernet links have been down for the timeout. -/
def execLinkLossTimeout (p : Port) (t : Nat) (s : State) : Out :=
  let x := portSt s p
  let out := decide (x.linkEnd ≠ 0 ∧ x.linkEnd ≤ nsTicks t + 1)
  let since (n : NetPort) : Bool := !n.up && decide (n.downAt + nsTicks (1000000 * od s 0x1013 2) ≤ nsTicks t + 1)
  let dark := p == .b && s.dict.carrier == 1 && since s.net.p0 && since s.net.p1
  .next (if !portLive s p ∨ od s 0x1013 (portNum p + 1) = 0 ∨ !(out || dark) then s
    else
      let s1 := updPort (advance (nsTicks t) s) p (fun x => { x with linkEnd := 0 })
      if portHolds s1 p then resetPort p s1 else s1)

/-- NOTIFY_HOLDOFF_EXPIRY (R504). -/
def execNotifyHoldoffExpiry (p : Port) (s : State) : Out :=
  let x := portSt s p
  .next (if x.holdEnd = 0 then s
    else
      let s1 := updPort (advance (x.holdEnd - 1) s) p (fun x => { x with holdEnd := 0 })
      if x.out = [] then s1 else if onQspi s1 p then updPort s1 p (fun x => { x with irq := true }) else sendQueue p s1)

/-- SAVE_DONE (R482): both copies are complete, and the reply that waits is OK. -/
def execSaveDone (s : State) : Out :=
  let s1 := saveCommit s
  .next (match s.dict.saveSet, s.dict.saving with
    | some _, some (who, q, token) =>
      (match who with
       | .apps => appWakes q (appRet q .ok [] s1)
       | .firmware => s1
       | .portA => sendReply .a false (q / 65536) (q % 65536) token .ok [] s1
       | .portB => sendReply .b false (q / 65536) (q % 65536) token .ok [] s1)
    | _, _ => s1)

end Sys2Proof.Machine
end

