-- ==== Sys2Proof/Machine/DrvMem.lean ====
section
/-! DEFINITION. Memory as a Drover reaches it: the address map (R403, R404), the MPU (R428 to R432), the store buffer (R416
to R419), the data cache (R423), and loads and stores (R413 to R415). -/

namespace Sys2Proof.Machine

/-! ### The address map -/

/-- The regions of Table 11.4. -/
inductive DrvRegion where
  | rom | cram | dev | cluster | island | dram | aperture | unmapped
  deriving DecidableEq, Repr

def drvRegion (a : Nat) : DrvRegion :=
  if a < 0x10000 then .rom
  else if 0x10000000 ≤ a ∧ a < 0x10400000 then .cram
  else if 0x20000000 ≤ a ∧ a < 0x20100000 then .dev
  else if 0x21000000 ≤ a ∧ a < 0x21080000 then .cluster
  else if 0x21100000 ≤ a ∧ a < 0x21700000 then .island
  else if 0x40000000 ≤ a ∧ a < 0x80000000 then .dram
  else if 0x80000000 ≤ a ∧ a < 0xA0000000 then .aperture
  else .unmapped

/-- Device space: no load of it is forwarded, and no access of it may misalign. -/
def DrvRegion.device : DrvRegion → Bool
  | .dev => true | .cluster => true | .island => true | _ => false

def DrvRegion.isDram : DrvRegion → Bool
  | .dram => true | .aperture => true | _ => false

/-- The DRAM byte that an address of the Drover region or of the aperture names (R404). -/
def dramByte (x : Drover) (a : Nat) : Nat :=
  if a < 0x80000000 then 0x340000000 + (a - 0x40000000) else x.xbase * 2 ^ 29 + (a - 0x80000000)

/-- The physical address: DRAM lies above 2^32. -/
def drvPhys (x : Drover) (a : Nat) : Nat := if (drvRegion a).isDram then 2 ^ 32 + dramByte x a else a

/-! ### The MPU -/

/-- The lowest-numbered enabled region that covers an address (R428). -/
def mpuDecide (x : Drover) (a : Nat) : Option Nat :=
  (List.range 16).find? (fun r =>
    let b := Tbl.get 0 x.mpuB r
    b.getLsbD 0 && decide (b.toNat / 64 * 64 ≤ a ∧ a ≤ (Tbl.get 0 x.mpuA r).toNat / 64 * 64 + 63))

/-- Whether privilege p may read (0), write (1) or execute (2) at an address (R429, R430). -/
def mpuGrant (x : Drover) (p a kind : Nat) : Bool :=
  if p ≥ 2 then true
  else match mpuDecide x a with
    | some r => (Tbl.get 0 x.mpuA r).getLsbD (3 * p + kind)
    | none => false

/-- DRAM at an address is cacheable: C of the deciding region. -/
def mpuCache (x : Drover) (a : Nat) : Bool :=
  match mpuDecide x a with
  | some r => (Tbl.get 0 x.mpuB r).getLsbD 1
  | none => false

/-- The exception and ESR of a data access that may not be made (R403, R414, R429, R432). -/
def dataFault (x : Drover) (a n : Nat) (write : Bool) : Option (Nat × Nat) :=
  let b := (a + n - 1) % 2 ^ 32
  let r := drvRegion a
  if r ≠ drvRegion b then some (7, 2)
  else if r.device && a % n != 0 then some (7, 3)
  else if decide (x.priv < 2) && mpuDecide x a != mpuDecide x b then some (7, 1)
  else if !mpuGrant x x.priv a (if write then 1 else 0) then some (if write then 5 else 4, 1)
  else if r = .unmapped then some (9, 1)
  else if write && r == .rom then some (9, 2)
  else none

/-! ### Control RAM and DRAM -/

/-- A write to control RAM by Drover d: other cores' reservations on its granules are cleared (R421). -/
def cramWrite (d off : Nat) (bs : Bytes) (s : State) : State :=
  let g := (List.range bs.length).map (fun i => (off + i) / 16)
  { s with cram := Tbl.putAll 0 s.cram off bs,
           cramUpset := (List.range bs.length).foldl (fun t i => Tbl.put false t ((off + i) / 4) false) s.cramUpset,
           drv := (List.range 4).foldl (fun t e =>
             if e = d then t
             else Tbl.upd {} t e (fun y => match y.resv with | some r => if r ∈ g then { y with resv := none } else y | none => y)) s.drv }

def cramBad (s : State) (off n : Nat) : Bool := (List.range n).any (fun i => Tbl.get false s.cramUpset ((off + i) / 4))


/-! ### The caches -/

def lineSet (at_ : Nat) : Nat := at_ / 64 % 128

/-- The line of a cache that holds a physical address. -/
def cacheFind (c : Tbl (List Line)) (at_ : Nat) : Option Line :=
  (Tbl.get [] c (lineSet at_)).find? (fun l => l.at_ == at_ / 64 * 64)

/-- A line is used: it becomes the most recent of its set, with its contents as given. -/
def cacheUse (l : Line) (c : Tbl (List Line)) : Tbl (List Line) :=
  Tbl.upd [] c (lineSet l.at_) (fun ls => l :: ls.filter (fun m => m.at_ != l.at_))

def cacheDrop (at_ : Nat) (c : Tbl (List Line)) : Tbl (List Line) :=
  Tbl.upd [] c (lineSet at_) (fun ls => ls.filter (fun m => m.at_ != at_ / 64 * 64))

/-- A line enters a cache of 4 ways: the least recently used clean line leaves. If every line is dirty it does not enter
(R423). -/
def cacheEnter (l : Line) (c : Tbl (List Line)) : Tbl (List Line) :=
  let ls := (Tbl.get [] c (lineSet l.at_)).filter (fun m => m.at_ != l.at_)
  if ls.length < 4 then Tbl.put [] c (lineSet l.at_) (l :: ls)
  else match ls.reverse.find? (fun m => !m.dirty) with
    | some v => Tbl.put [] c (lineSet l.at_) (l :: ls.filter (fun m => m.at_ != v.at_))
    | none => c

/-- A load miss can take a line of its set. -/
def cacheRoom (at_ : Nat) (c : Tbl (List Line)) : Bool :=
  let ls := Tbl.get [] c (lineSet at_)
  decide (ls.length < 4) || ls.any (fun m => !m.dirty)

/-- The 64 bytes of a DRAM line, as a cache line. -/
def dramLine (s : State) (at_ : Nat) : Line :=
  { at_ := at_ / 64 * 64, bytes := Tbl.putAll 0 [] 0 (Tbl.slice 0 s.dram (at_ / 64 * 64 - 2 ^ 32) 64) }

/-! ### The store buffer -/

/-- The bytes of a write, granule by granule: at most two granules. -/
def granules (a : Nat) (bs : Bytes) : List (Nat × Nat × Bytes) :=
  let k := 8 - a % 8
  if bs.length ≤ k then [(a / 8 * 8, a % 8, bs)] else [(a / 8 * 8, a % 8, bs.take k), (a / 8 * 8 + 8, 0, bs.drop k)]

def SbEntry.add (e : SbEntry) (o : Nat) (bs : Bytes) : SbEntry :=
  { e with bytes := Tbl.putAll 0 e.bytes o bs, mask := (e.mask ++ (List.range bs.length).map (· + o)).eraseDups }

/-- The entry that a granule of a store makes. -/
def newEntry (x : Drover) (g o : Nat) (bs : Bytes) : SbEntry :=
  SbEntry.add { at_ := drvPhys x g, bytes := [], mask := [], addr := g, priv := x.priv,
                cach := (drvRegion g).isDram && mpuCache x (g + o) } o bs

/-- The store merges into the youngest entry (R416). -/
def sbMerges (buf : List SbEntry) (e : SbEntry) : Bool :=
  match buf.getLast? with
  | some y => y.at_ == e.at_ && y.addr == e.addr && y.priv == e.priv && y.cach == e.cach && !y.begun
  | none => false

/-- One granule enters the buffer; none when it is full. -/
def sbPush (x : Drover) (buf : List SbEntry) (g o : Nat) (bs : Bytes) : Option (List SbEntry) :=
  let e := newEntry x g o bs
  if sbMerges buf e then some (buf.dropLast ++ (buf.getLast?.map (fun y => y.add o bs)).toList)
  else if buf.length < 8 then some (buf ++ [e]) else none

def sbStore (x : Drover) (a : Nat) (bs : Bytes) (buf : List SbEntry) : Option (List SbEntry) :=
  (granules a bs).foldl (fun r g => match r with | some b => sbPush x b g.1 g.2.1 g.2.2 | none => none) (some buf)

/-- An entry holds a byte. -/
def SbEntry.holds (e : SbEntry) (a : Nat) : Bool := e.at_ == a / 8 * 8 && e.mask.contains (a % 8)

/-- The bytes of an entry in runs are written one by one. -/
def SbEntry.each (e : SbEntry) (f : Nat → Byte → State → State) (s : State) : State :=
  e.mask.foldl (fun s o => f o (Tbl.get 0 e.bytes o) s) s

/-- The words of a granule that an entry writes to a device: offset and value, bytes not stored being 0. -/
def SbEntry.words (e : SbEntry) : List (Nat × BitVec 32) :=
  [0, 4].filterMap (fun o =>
    if e.mask.any (fun i => i / 4 == o / 4) then some (o, BitVec.ofNat 32 (leNat (Tbl.slice 0 e.bytes o 4))) else none)

/-- An entry drains without a write transaction: to control RAM, to a device of the control island or of a cluster, or
into a D-cache line that holds it. -/
def sbLocal (x : Drover) (e : SbEntry) : Bool :=
  match drvRegion e.addr with
  | .cram => true
  | .dev => true
  | .cluster => true
  | .dram => e.cach && (cacheFind x.dcache e.at_).isSome
  | .aperture => e.cach && (cacheFind x.dcache e.at_).isSome
  | _ => false

/-- What an entry's drain does. -/
def sbWrite (d : Nat) (e : SbEntry) (s : State) : State :=
  match drvRegion e.addr with
  | .cram => e.each (fun o b s => cramWrite d (e.at_ - 0x10000000 + o) [b] s) s
  | .dev => e.words.foldl (fun s w => devWrite d e.priv (e.addr + w.1) w.2 s) s
  | .cluster => e.words.foldl (fun s w => devWrite d e.priv (e.addr + w.1) w.2 s) s
  | .island => e.words.foldl (fun s w => devWrite d e.priv (e.addr + w.1) w.2 s) s
  | _ =>
    let x := drvOf s d
    match (if e.cach then cacheFind x.dcache e.at_ else none) with
    | some l =>
      let l1 := { l with bytes := e.mask.foldl (fun t o => Tbl.put 0 t (e.at_ % 64 + o) (Tbl.get 0 e.bytes o)) l.bytes, dirty := true }
      setDrv s d { x with dcache := cacheUse l1 x.dcache }
    | none => e.each (fun o b s => dramWrite (e.at_ - 2 ^ 32 + o) [b] s) s

/-- The oldest entry of a core's store buffer drains, or its write transaction begins (R415, R416). -/
def sbDrain (d : Nat) (s : State) : State :=
  let x := drvOf s d
  match x.buf with
  | [] => s
  | e :: rest =>
    if sbLocal x e then sbWrite d e (setDrv s d { x with buf := rest })
    else if x.wback.isSome then s
    else setDrv s d { x with buf := { e with begun := true } :: rest }

/-- Drain up to n entries as far as no write transaction is waited for. -/
def sbDrainN (d : Nat) : Nat → State → State
  | 0, s => s
  | n + 1, s =>
    match (drvOf s d).buf with
    | [] => s
    | e :: _ => if sbLocal (drvOf s d) e then sbDrainN d n (sbDrain d s) else sbDrain d s

/-- One more than the place of the youngest entry that holds some of n bytes from a on; 0: none does. -/
def sbYoungest (buf : List SbEntry) (a n : Nat) : Nat :=
  (buf.zipIdx).foldl (fun k e => if (List.range n).any (fun i => e.1.holds (a + i)) then e.2 + 1 else k) 0

/-- The entry that holds every byte of a load (R418): the youngest that overlaps it holds all of it and no other does. -/
def sbForward (buf : List SbEntry) (a n : Nat) : Option Bytes :=
  let hits := buf.filter (fun e => (List.range n).any (fun i => e.holds (a + i)))
  match hits.getLast? with
  | some e =>
    if (List.range n).all (fun i => e.holds (a + i)) then some ((List.range n).map (fun i => Tbl.get 0 e.bytes ((a + i) % 8)))
    else none
  | none => none

/-- A byte as the core's own older stores leave it, hits what lies in control RAM. -/
def cramSees (s : State) (x : Drover) (a : Nat) : Byte :=
  x.buf.foldl (fun b e => if e.holds a then Tbl.get 0 e.bytes (a % 8) else b) (Tbl.get 0 s.cram (a - 0x10000000))

def cramWord (s : State) (x : Drover) (a : Nat) : BitVec 32 :=
  BitVec.ofNat 32 (leNat ((List.range 4).map (fun i => cramSees s x (a + i))))

/-! ### Loads -/

/-- What a load finds. -/
inductive LoadGot where
  | bytes (b : Bytes)
  /-- The exception, its ESR and its EFA. -/
  | except (e esr : Nat)
  /-- It waits, for a drain or for the read transaction that has been set up. -/
  | waits
  deriving DecidableEq, Repr

/-- The bytes of a load from one line, where no read transaction is needed; none otherwise. -/
def readHere (s : State) (x : Drover) (a n : Nat) : Option Bytes :=
  match drvRegion a with
  | .rom => some ((List.range n).map (fun i => Config.bootRom (a + i)))
  | .cram => some (Tbl.slice 0 s.cram (a - 0x10000000) n)
  | .island => none
  | .unmapped => none
  | .dev => none
  | .cluster => none
  | _ =>
    if mpuCache x a then
      match cacheFind x.dcache (drvPhys x a) with
      | some l => some (Tbl.slice 0 l.bytes (drvPhys x a % 64) n)
      | none => none
    else none

/-- The part of a load within the line of its first byte. -/
def lineLeft (a n : Nat) : Nat := min n (64 - a % 64)

/-- The exception of a part that is there but lost (R424, Table 17.1). -/
def readLost (s : State) (x : Drover) (a n : Nat) : Bool :=
  match drvRegion a with
  | .cram => cramBad s (a - 0x10000000) n
  | .dram => mpuCache x a && (match cacheFind x.dcache (drvPhys x a) with | some l => l.lost && l.dirty | none => false)
  | .aperture => mpuCache x a && (match cacheFind x.dcache (drvPhys x a) with | some l => l.lost && l.dirty | none => false)
  | _ => false

/-- A clean line with an uncorrectable error is invalidated before it is read (R424). -/
def dropLost (d a : Nat) (s : State) : State :=
  let x := drvOf s d
  if (drvRegion a).isDram then
    match cacheFind x.dcache (drvPhys x a) with
    | some l => if l.lost && !l.dirty then setDrv s d { x with dcache := cacheDrop (drvPhys x a) x.dcache } else s
    | none => s
  else s

/-- A used D-cache line becomes the most recent of its set. -/
def touchLine (d a : Nat) (s : State) : State :=
  let x := drvOf s d
  if (drvRegion a).isDram && mpuCache x a then
    match cacheFind x.dcache (drvPhys x a) with
    | some l => setDrv s d { x with dcache := cacheUse l x.dcache }
    | none => s
  else s

/-- Read the n bytes still to come of a load; each part lies in one line. The read side is taken where a part needs it
(R413, R415). -/
def readParts (d : Nat) : Nat → Nat → Nat → Bytes → (Nat × Bool × Nat) → State → LoadGot × State
  | 0, _, _, got, _, s => (.bytes got, s)
  | f + 1, a, n, got, dst, s =>
    if n = 0 then (.bytes got, s)
    else
      let s1 := dropLost d a s
      let x := drvOf s1 d
      let k := lineLeft a n
      if readLost s1 x a k then
        (.except 10 0, if drvRegion a = .cram then cramRecord a s1 else s1)
      else match readHere s1 x a k with
        | some b => readParts d f (a + k) (n - k) (got ++ b) dst (touchLine d a s1)
        | none =>
          if drvRegion a = .dev ∨ drvRegion a = .cluster then
            let r := devRead d (a / 4 * 4) s1
            (.bytes (got ++ ((leBytes 4 r.1).drop (a % 4)).take n), r.2)
          else
            let t : ReadTxn := { addr := a, left := n, got := got, rd := dst.1, sext := dst.2.1, start := dst.2.2,
                                 fill := mpuCache x a && (drvRegion a).isDram && cacheRoom (drvPhys x a) x.dcache }
            (.waits, setDrv s1 d { x with read := some t })

/-- A load of n bytes at an address by core d (R413, R418, R419): rd and sext say where the value goes. -/
def drvLoad (d a n rd : Nat) (sext : Bool) (s : State) : LoadGot × State :=
  let x := drvOf s d
  match dataFault x a n false with
  | some e => (.except e.1 e.2, s)
  | none =>
    let p := drvPhys x a
    if (drvRegion a).device then
      let older := (x.buf.zipIdx).foldl (fun k e => if (drvRegion e.1.addr).device then e.2 + 1 else k) 0
      let s1 := sbDrainN d older s
      if (drvOf s1 d).buf.any (fun e => (drvRegion e.addr).device) then (.waits, s1)
      else readParts d 3 a n [] (rd, sext, a) s1
    else match sbForward x.buf p n with
      | some b => (.bytes b, s)
      | none =>
        let k := sbYoungest x.buf p n
        let s1 := sbDrainN d k s
        if sbYoungest (drvOf s1 d).buf p n ≠ 0 then (.waits, s1) else readParts d 3 a n [] (rd, sext, a) s1

/-- The register value of a load's bytes. -/
def loadValue (sext : Bool) (b : Bytes) : BitVec 32 :=
  if sext then BitVec.ofInt 32 (leInt b) else BitVec.ofNat 32 (leNat b)

/-! ### Stores -/

/-- A store of bytes at an address by core d (R416, R417): none while the buffer is full. -/
def drvStore (d a : Nat) (bs : Bytes) (s : State) : Option State × State :=
  match sbStore (drvOf s d) a bs (drvOf s d).buf with
  | some b => (some (updDrv s d (fun x => { x with buf := b })), s)
  | none =>
    let s1 := sbDrainN d 2 s
    match sbStore (drvOf s1 d) a bs (drvOf s1 d).buf with
    | some b => (some (updDrv s1 d (fun x => { x with buf := b })), s1)
    | none => (none, s1)

end Sys2Proof.Machine
end

