-- ==== Sys2Proof/Machine/DrvExc.lean ====
section
/-! DEFINITION. A Drover's registers, exception entry (R433, R434, R441, R442), the pending arithmetic exception (R437), fetch
(R422, R425) and decoding (R407, R408). -/

namespace Sys2Proof.Machine

/-! ### Registers (R398, R399) -/

def Drover.reg (x : Drover) (n : Nat) : BitVec 32 :=
  if n = 0 then 0 else if n = 30 then Tbl.get 0 x.sp x.priv else Tbl.get 0 x.w n

def Drover.setReg (x : Drover) (n : Nat) (v : BitVec 32) : Drover :=
  if n = 0 then x else if n = 30 then { x with sp := Tbl.put 0 x.sp x.priv v } else { x with w := Tbl.put 0 x.w n v }

/-! ### Exception entry -/

/-- An exception descriptor (Table 11.15). -/
structure Desc where
  handler : BitVec 32
  spval   : BitVec 32
  limit   : BitVec 32
  ctl     : BitVec 32
  deriving DecidableEq, Repr

def descAddr (x : Drover) (k : Nat) : Nat := (x.edtb.toNat / 2048 * 2048 + 16 * k) % 2 ^ 32

/-- The descriptor lies in control RAM and can be read. -/
def descThere (s : State) (x : Drover) (k : Nat) : Bool :=
  let a := descAddr x k
  decide (drvRegion a = .cram ∧ drvRegion (a + 15) = .cram) && !cramBad s (a - 0x10000000) 16

def descRead (s : State) (x : Drover) (k : Nat) : Desc :=
  let a := descAddr x k
  ⟨cramWord s x a, cramWord s x (a + 4), cramWord s x (a + 8), cramWord s x (a + 12)⟩

def Desc.tpriv (e : Desc) : Nat := (e.ctl.extractLsb' 1 2).toNat

/-- R433: when a descriptor that was read is valid. -/
def Desc.valid (e : Desc) : Bool :=
  e.ctl.getLsbD 0 && e.ctl.extractLsb' 7 25 == 0 && (e.tpriv == 1 || e.tpriv == 2) && e.handler.extractLsb' 0 2 == 0

def descOk (s : State) (x : Drover) (k : Nat) : Bool := descThere s x k && (descRead s x k).valid

/-- A failed read of a descriptor in control RAM is logged. -/
def descRecord (d k : Nat) (s : State) : State :=
  let a := descAddr (drvOf s d) k
  if drvRegion a = .cram ∧ cramBad s (a - 0x10000000) 16 then cramRecord a s else s

/-- The exception frame (Table 11.16). -/
def frameBytes (psw epc esr efa osp : BitVec 32) : Bytes :=
  leBytes 4 psw.toNat ++ leBytes 4 epc.toNat ++ leBytes 4 esr.toNat ++ leBytes 4 efa.toNat ++ leBytes 4 osp.toNat ++ List.replicate 12 0

/-- The frame may be written (R434 step 4): the reason in which a check fails, or none. p is the target privilege. -/
def frameFault (x : Drover) (p : Nat) (sp limit : BitVec 32) : Option Nat :=
  let a := sp.toNat - 32
  if sp.toNat % 16 ≠ 0 then some 2
  else if sp.toNat < limit.toNat + 32 then some 3
  else if drvRegion a ≠ .cram ∨ drvRegion (a + 31) ≠ .cram ∨ 0x103FF000 ≤ a + 31 then some 4
  else if !mpuGrant x p a 1 || !mpuGrant x p (a + 31) 1 then some 4
  else none

/-- Write a frame at an address of control RAM: buffered stores inside it are discarded (R434 steps 6 and 7). -/
def frameWrite (d a : Nat) (bs : Bytes) (s : State) : State :=
  let s1 := updDrv s d (fun x => { x with buf := x.buf.filter (fun e => !(decide (a ≤ e.at_ ∧ e.at_ + 8 ≤ a + 32))) })
  cramWrite d (a - 0x10000000) bs s1

/-- The double-fault path (R442) after the entry to descriptor k failed for a reason. -/
def doubleFault (d k reason : Nat) (epc esr : BitVec 32) (s0 : State) : State :=
  let s := descRecord d 1 s0
  let x := drvOf s d
  if !descOk s x 1 then checkstop d 1 esr s
  else
    let e := descRead s x 1
    let a := 0x103FF3E0 + 0x400 * d
    let s1 := frameWrite d a (frameBytes x.psw epc (BitVec.ofNat 32 (k + 256 * reason)) esr (Tbl.get 0 x.sp 2)) s
    updDrv s1 d (fun x => { x with
      sp := Tbl.put 0 x.sp 2 (BitVec.ofNat 32 a), priv := 2, xie := false, df := true, precise := e.ctl.getLsbD 5,
      resv := none, wfi := false, queue := [], pc := e.handler })

/-- Exception entry (R434, R443). -/
def drvEnter (d k : Nat) (epc esr efa : BitVec 32) (s0 : State) : State :=
  if (drvOf s0 d).df then checkstop d k efa s0
  else
    let s := descRecord d k s0
    let x := drvOf s d
    if !descOk s x k then doubleFault d k 1 epc esr s
    else
      let e := descRead s x k
      let p := max e.tpriv x.priv
      let sp := if e.ctl.getLsbD 3 then Tbl.get 0 x.sp p else e.spval
      match frameFault x p sp e.limit with
      | some r => doubleFault d k r epc esr s
      | none =>
        let a := sp.toNat - 32
        let bs := frameBytes x.psw epc esr efa (Tbl.get 0 x.sp p)
        let s1 := appFault d x.priv k bs (frameWrite d a bs s)
        updDrv s1 d (fun x => { x with
          sp := Tbl.put 0 x.sp p (BitVec.ofNat 32 a), priv := p, precise := e.ctl.getLsbD 5,
          xie := x.xie && !e.ctl.getLsbD 4, resv := none, wfi := false, queue := [], pc := e.handler })

/-! ### The arithmetic exception (R437) and the boundary (R438) -/

def arithEsr (at_ kind : Nat) : BitVec 32 := BitVec.ofNat 32 (at_ / 4 * 4 + kind)

/-- A pending arithmetic exception is taken. -/
def drvArith (d : Nat) (s : State) : State :=
  let x := drvOf s d
  match x.arith with
  | some p => drvEnter d 8 x.pc (arithEsr p.at_ p.kind) 0 (setDrv s d { x with arith := none })
  | none => s

/-- An arithmetic exception of the instruction at an address, which has executed. -/
def arithRaise (d at_ kind : Nat) (s : State) : State :=
  let x := drvOf s d
  if x.arith.isSome then setDrv s d { x with axlost := min 255 (x.axlost + 1) }
  else if x.precise then drvEnter d 8 x.pc (arithEsr at_ kind) 0 s
  else setDrv s d { x with arith := some { at_ := at_, kind := kind } }

/-- The watchdog's exception is taken, after a pending arithmetic exception (R438). -/
def drvWatchdog (d : Nat) (s : State) : State :=
  let s1 := drvArith d s
  let x := drvOf s1 d
  if x.run = .running ∧ x.wdDue then drvEnter d 33 x.pc 0 0 (setDrv s1 d { x with wdDue := false, wfi := false }) else s1

/-- A precise exception, after a pending arithmetic exception (R438): the instruction executes again afterwards. -/
def drvRaise (d k : Nat) (epc esr efa : BitVec 32) (s : State) : State :=
  if (drvOf s d).arith.isSome then drvArith d s else drvEnter d k epc esr efa s

/-! ### Fetch -/

/-- The ESR of a fetch that may not be made. -/
def fetchFault (x : Drover) (a : Nat) : Option Nat :=
  if !mpuGrant x x.priv a 2 then some 1
  else if drvRegion a = .unmapped ∨ (drvRegion a).device then some 2
  else none

/-- The instruction word at an address, from the I-cache or the line buffer. -/
def fetchWord (x : Drover) (a : Nat) : Option (BitVec 32) :=
  let p := drvPhys x a
  let pick (l : Line) : Option (BitVec 32) := if l.lost then none else some (BitVec.ofNat 32 (leNat (Tbl.slice 0 l.bytes (p % 64) 4)))
  match cacheFind x.icache p with
  | some l => pick l
  | none => match x.lineBuf with | some l => if l.at_ = p / 64 * 64 then pick l else none | none => none

/-- Where fetch goes on after an instruction (R412); none where it cannot tell. -/
def predicted (a : Nat) (w : BitVec 32) : Option Nat :=
  let op := (w.extractLsb' 26 6).toNat
  let off16 := (w.extractLsb' 0 16).toInt
  let go (o : Int) : Nat := (((a : Int) + 4 * o) % 4294967296).toNat
  if op = 0x28 ∨ op = 0x29 then some (go (w.extractLsb' 0 26).toInt)
  else if op = 0x2A then none
  else if 0x20 ≤ op ∧ op ≤ 0x25 ∧ off16 < 0 then some (go off16)
  else some ((a + 4) % 2 ^ 32)

/-- Fetch n more instructions from an address on, as far as their lines are there. -/
def fetchOn (x : Drover) : Nat → Nat → List (Nat × BitVec 32)
  | 0, _ => []
  | n + 1, a =>
    if (fetchFault x a).isSome then []
    else match fetchWord x a with
      | some w => (a, w) :: (match predicted a w with | some b => fetchOn x n b | none => [])
      | none => []

/-- The fetch queue as it stands when the instruction at pc is to issue: filled up to 8 (log 40). -/
def fetchQueue (x : Drover) : List (Nat × BitVec 32) :=
  let a := x.pc.toNat / 4 * 4
  let q := match x.queue with | e :: _ => if e.1 = a then x.queue else [] | [] => []
  match q.getLast? with
  | none => fetchOn x 8 a
  | some l => q ++ (match predicted l.1 l.2 with | some b => fetchOn x (8 - q.length) b | none => [])

/-- The line that fetch misses: that of the instruction at pc, or the first one on. -/
def fetchMiss (x : Drover) : Option Nat :=
  let q := fetchQueue x
  let a := match q.getLast? with | none => some (x.pc.toNat / 4 * 4) | some l => if q.length < 8 then predicted l.1 l.2 else none
  match a with
  | some a => if (fetchFault x a).isNone && (fetchWord x a).isNone then some a else none
  | none => none

/-! ### Instructions -/

/-- The instructions of Tables 11.8a to 11.8d. -/
inductive DrvOp where
  | addi | andi | ori | xori | slti | sltiu | lui | addpc | lb | lbu | lh | lhu | lw | lwx | sb | sh | sw | swx
  | beq | bne | blt | bge | bltu | bgeu | j | jl | jr
  | add | sub | addv | subv | and | or | xor | nor | slt | sltu | sll | srl | sra | slli | srli | srai | min | max | minu | maxu
  | clz | sextb | sexth | mul | mulh | mulhu | div | divu | rem | remu
  | trap | eret | mfcr | mtcr | icinv | isync | dcclean | dcinv | dcflush | dsync | wfi | brk
  deriving DecidableEq, Repr

/-- The fields of an instruction word (Table 11.7); ra [25:21], rb [20:16], rc [15:11]. -/
structure DrvWord where
  w  : BitVec 32
  deriving DecidableEq, Repr

def DrvWord.op (i : DrvWord) : Nat := (i.w.extractLsb' 26 6).toNat
def DrvWord.ra (i : DrvWord) : Nat := (i.w.extractLsb' 21 5).toNat
def DrvWord.rb (i : DrvWord) : Nat := (i.w.extractLsb' 16 5).toNat
def DrvWord.rc (i : DrvWord) : Nat := (i.w.extractLsb' 11 5).toNat
def DrvWord.sh (i : DrvWord) : Nat := (i.w.extractLsb' 6 5).toNat
def DrvWord.fn (i : DrvWord) : Nat := (i.w.extractLsb' 0 6).toNat
def DrvWord.imm (i : DrvWord) : BitVec 16 := i.w.extractLsb' 0 16
def DrvWord.imm10 (i : DrvWord) : Nat := (i.w.extractLsb' 6 10).toNat
def DrvWord.sext (i : DrvWord) : BitVec 32 := i.imm.signExtend 32
def DrvWord.zext (i : DrvWord) : BitVec 32 := i.imm.setWidth 32

/-- The ALU group (Table 11.8b). -/
def aluOps : List DrvOp :=
  [.add, .sub, .addv, .subv, .and, .or, .xor, .nor, .slt, .sltu, .sll, .srl, .sra, .slli, .srli, .srai, .min, .max, .minu,
   .maxu, .clz, .sextb, .sexth]

def mulOps : List DrvOp := [.mul, .mulh, .mulhu, .div, .divu, .rem, .remu]

def sysOps : List DrvOp := [.trap, .eret, .mfcr, .mtcr, .icinv, .isync, .dcclean, .dcinv, .dcflush, .dsync, .wfi, .brk]

/-- The entry of a list at a number counted from 1. -/
def nth1 {α : Type} (l : List α) (n : Nat) : Option α := if n = 0 then none else l[n - 1]?

/-- The SYS group (Table 11.8d): unused fields are 0. -/
def decodeSys (i : DrvWord) : Option DrvOp :=
  match nth1 sysOps i.fn with
  | some .trap => if i.imm10 < 64 ∧ i.ra = 0 ∧ i.rb = 0 then some .trap else none
  | some .mfcr => if i.imm10 < 256 ∧ i.rb = 0 then some .mfcr else none
  | some .mtcr => if i.imm10 < 256 ∧ i.ra = 0 then some .mtcr else none
  | some .icinv => if i.imm10 = 0 ∧ i.ra = 0 then some .icinv else none
  | some .dcclean => if i.imm10 = 0 ∧ i.ra = 0 then some .dcclean else none
  | some .dcinv => if i.imm10 = 0 ∧ i.ra = 0 then some .dcinv else none
  | some .dcflush => if i.imm10 = 0 ∧ i.ra = 0 then some .dcflush else none
  | some o => if i.imm10 = 0 ∧ i.ra = 0 ∧ i.rb = 0 then some o else none
  | none => none

/-- The instruction of a word, or none where it is illegal (R408). -/
def drvDecode (i : DrvWord) : Option DrvOp :=
  match i.op with
  | 0x01 =>
    if (i.fn < 0x0E ∨ 0x10 < i.fn) ∧ i.sh ≠ 0 then none
    else if (0x0E ≤ i.fn ∧ i.fn ≤ 0x10 ∨ 0x15 ≤ i.fn) ∧ i.rc ≠ 0 then none
    else nth1 aluOps i.fn
  | 0x02 => if i.sh ≠ 0 then none else nth1 mulOps i.fn
  | 0x08 => some .addi | 0x09 => some .andi | 0x0A => some .ori | 0x0B => some .xori | 0x0C => some .slti | 0x0D => some .sltiu
  | 0x0E => if i.rb = 0 then some .lui else none
  | 0x0F => if i.rb = 0 then some .addpc else none
  | 0x10 => some .lb | 0x11 => some .lbu | 0x12 => some .lh | 0x13 => some .lhu | 0x14 => some .lw | 0x15 => some .lwx
  | 0x18 => some .sb | 0x19 => some .sh | 0x1A => some .sw
  | 0x1B => if i.sh = 0 ∧ i.fn = 0 then some .swx else none
  | 0x20 => some .beq | 0x21 => some .bne | 0x22 => some .blt | 0x23 => some .bge | 0x24 => some .bltu | 0x25 => some .bgeu
  | 0x28 => some .j | 0x29 => some .jl
  | 0x2A => if i.rc = 0 ∧ i.sh = 0 ∧ i.fn = 0 then some .jr else none
  | 0x3F => decodeSys i
  | _ => none

end Sys2Proof.Machine
end

