-- ==== Sys2Proof/Machine/DrvExec.lean ====
section
/-! DEFINITION. The Drover instructions (Tables 11.8a to 11.8d) and the events of a Drover core. -/

namespace Sys2Proof.Machine

/-! ### Control registers (Table 11.3) -/

/-- The least privilege that may read a control register; none: not listed. -/
def crRead (n : Nat) : Option Nat :=
  if n = 0 ∨ n = 5 ∨ n = 7 ∨ n = 8 ∨ n = 9 then some 0
  else if n = 3 then some 2
  else if n ≤ 0x0A ∨ 0x20 ≤ n ∧ n ≤ 0x3F then some 1
  else none

/-- The least privilege that may write a control register; a read-only one ignores the write of any. -/
def crWrite (n : Nat) : Option Nat :=
  if n = 5 ∨ n = 7 ∨ n = 8 ∨ n = 9 then some 0
  else if n ≤ 2 ∨ n = 6 then some 1
  else if n ≤ 0x0A ∨ 0x20 ≤ n ∧ n ≤ 0x3F then some 2
  else none

/-- The value of a control register; CYCLO takes a free value, which the count has risen by (log 41), and latches CYCHI. -/
def crValue (d n : Nat) (s : State) : BitVec 32 × State :=
  let x := drvOf s d
  match n with
  | 0 => (x.psw, s)
  | 1 => (Tbl.get 0 x.sp 0, s)
  | 2 => (Tbl.get 0 x.sp 1, s)
  | 3 => (Tbl.get 0 x.sp 2, s)
  | 4 => (x.edtb, s)
  | 5 => (BitVec.ofNat 32 d, s)
  | 6 => (BitVec.ofNat 32 x.axlost, s)
  | 7 =>
    let r := takeFree s
    let c := x.cycles + r.1
    (BitVec.ofNat 32 c, updDrv r.2 d (fun x => { x with cycles := c, cychi := BitVec.ofNat 32 (c / 2 ^ 32) }))
  | 8 => (x.cychi, s)
  | 9 => (BitVec.ofNat 32 s.grid.lap, s)
  | 10 => (BitVec.ofNat 32 x.xbase, s)
  | _ => (if n % 2 = 0 then Tbl.get 0 x.mpuB ((n - 0x20) / 2) else Tbl.get 0 x.mpuA ((n - 0x20) / 2), s)

/-- A write of a control register, by its access codes. -/
def crSet (n : Nat) (v : BitVec 32) (x : Drover) : Drover :=
  match n with
  | 0 => { x with precise := v.getLsbD 3, xie := v.getLsbD 2, queue := [] }
  | 1 => { x with sp := Tbl.put 0 x.sp 0 v }
  | 2 => { x with sp := Tbl.put 0 x.sp 1 v }
  | 3 => { x with sp := Tbl.put 0 x.sp 2 v }
  | 4 => { x with edtb := v &&& 0xFFFFF800, queue := [] }
  | 6 => { x with axlost := 0 }
  | 10 => { x with xbase := v.toNat % 32, queue := [] }
  | _ =>
    if n < 0x20 then x
    else if n % 2 = 0 then { x with mpuB := Tbl.put 0 x.mpuB ((n - 0x20) / 2) (v &&& 0xFFFFFFC3), queue := [] }
    else { x with mpuA := Tbl.put 0 x.mpuA ((n - 0x20) / 2) v, queue := [] }

/-! ### Checks before an instruction executes -/

/-- The address of a load, store or LWX. -/
def drvAddr (x : Drover) (i : DrvWord) : Nat := (x.reg i.rb + i.sext).toNat

/-- The size of a load or store in bytes. -/
def DrvOp.size : DrvOp → Nat
  | .lb => 1 | .lbu => 1 | .sb => 1 | .lh => 2 | .lhu => 2 | .sh => 2 | _ => 4

/-- An exclusive access that may not be made (R421). -/
def exclFault (x : Drover) (a : Nat) (write : Bool) : Option (Nat × Nat) :=
  if a % 4 ≠ 0 then some (7, 3)
  else if drvRegion a ≠ .cram then some (9, 4)
  else if !mpuGrant x x.priv a (if write then 1 else 0) then some (if write then 5 else 4, 1)
  else none

/-- A privileged instruction that the present privilege may not execute: exception 6 in U and 13 in S. -/
def privFault (x : Drover) (least : Nat) : Option Nat :=
  if x.priv ≥ least then none else some (if x.priv = 0 then 6 else 13)

/-- The address that a word of an ERET frame has. -/
def eretFrame (x : Drover) : Nat := (Tbl.get 0 x.sp x.priv).toNat

/-- A word as ERET reads it (R431, R435); outside control RAM the frame's bytes come from boot ROM or DRAM. -/
def frameByte (s : State) (x : Drover) (a : Nat) : Byte :=
  match drvRegion a with
  | .cram => cramSees s x a
  | .rom => Config.bootRom a
  | .dram => Tbl.get 0 s.dram (dramByte x a)
  | .aperture => Tbl.get 0 s.dram (dramByte x a)
  | _ => 0

def frameWordAt (s : State) (x : Drover) (o : Nat) : BitVec 32 :=
  BitVec.ofNat 32 (leNat ((List.range 4).map (fun i => frameByte s x (eretFrame x + o + i))))

/-- The exception of ERET, if any. -/
def eretFault (s : State) (x : Drover) (w : BitVec 32) : Option (Nat × BitVec 32 × BitVec 32) :=
  let a := eretFrame x
  match privFault x 1 with
  | some k => some (k, w, 0)
  | none =>
    match dataFault { x with priv := x.priv } a 32 false with
    | some e => some (e.1, BitVec.ofNat 32 e.2, BitVec.ofNat 32 a)
    | none =>
      if (drvRegion a).device then some (7, 3, BitVec.ofNat 32 a)
      else if drvRegion a = .cram ∧ cramBad s (a - 0x10000000) 20 then some (10, 0, BitVec.ofNat 32 a)
      else if (frameWordAt s x 0).toNat % 4 > x.priv then some (13, w, 0)
      else none

/-- A precise exception of the instruction at a core's pc: descriptor, EPC, ESR and EFA (R436). -/
def drvCheck (s : State) (x : Drover) (o : DrvOp) (i : DrvWord) : Option (Nat × BitVec 32 × BitVec 32 × BitVec 32) :=
  let here (e : Option (Nat × Nat)) (a : Nat) : Option (Nat × BitVec 32 × BitVec 32 × BitVec 32) :=
    e.map (fun e => (e.1, x.pc, BitVec.ofNat 32 e.2, BitVec.ofNat 32 a))
  let word (k : Option Nat) : Option (Nat × BitVec 32 × BitVec 32 × BitVec 32) := k.map (fun k => (k, x.pc, i.w, 0))
  let load := here (dataFault x (drvAddr x i) o.size false) (drvAddr x i)
  let store := here (dataFault x (drvAddr x i) o.size true) (drvAddr x i)
  let line := let a := (x.reg i.rb).toNat
    if !mpuGrant x x.priv a 0 then some (4, x.pc, (1 : BitVec 32), BitVec.ofNat 32 a) else none
  match o with
  | .lb => load | .lbu => load | .lh => load | .lhu => load | .lw => load
  | .sb => store | .sh => store | .sw => store
  | .lwx => here (exclFault x (drvAddr x i) false) (drvAddr x i)
  | .swx => here (exclFault x (x.reg i.rb).toNat true) (x.reg i.rb).toNat
  | .trap =>
    let n := i.imm10 % 64
    if x.priv = 0 ∧ !(descThere s x (64 + n) && (descRead s x (64 + n)).ctl.getLsbD 6) then some (6, x.pc, i.w, 0)
    else some (64 + n, x.pc + 4, BitVec.ofNat 32 n, 0)
  | .brk => some (14, x.pc + 4, 0, 0)
  | .eret => (eretFault s x i.w).map (fun e => (e.1, x.pc, e.2.1, e.2.2))
  | .mfcr => (match crRead i.imm10 with | none => some (2, x.pc, i.w, 0) | some p => word (privFault x p))
  | .mtcr => (match crWrite i.imm10 with | none => some (2, x.pc, i.w, 0) | some p => word (privFault x p))
  | .icinv => line
  | .dcclean => line
  | .dcinv => (match privFault x 1 with | some k => word (some k) | none => line)
  | .dcflush => line
  | .wfi => word (privFault x 1)
  | _ => none

/-- What stands at the boundary of a core: an exception, an instruction that may execute, or nothing yet. -/
inductive AtPc where
  | except (k : Nat) (epc esr efa : BitVec 32)
  | instr (o : DrvOp) (i : DrvWord)
  | missing
  deriving DecidableEq, Repr

/-- The core may issue: it runs, is not held, does not wait. -/
def Drover.issues (x : Drover) : Bool := x.run == .running && !x.hold && !x.wfi && x.read.isNone

/-- The instruction at pc, with its check. -/
def drvAt (s : State) (d : Nat) : AtPc :=
  let x := drvOf s d
  match fetchFault x (x.pc.toNat / 4 * 4) with
  | some e => .except 3 x.pc (BitVec.ofNat 32 e) x.pc
  | none =>
    match fetchQueue x with
    | [] => .missing
    | e :: _ =>
      match drvDecode ⟨e.2⟩ with
      | none => .except 2 x.pc e.2 0
      | some o =>
        match drvCheck s x o ⟨e.2⟩ with
        | some (k, epc, esr, efa) => .except k epc esr efa
        | none => .instr o ⟨e.2⟩

/-- The operation of the instruction at pc, whether or not it may execute. -/
def drvOpAt (s : State) (d : Nat) : Option DrvOp :=
  let x := drvOf s d
  match fetchQueue x with
  | [] => none
  | e :: _ => drvDecode ⟨e.2⟩

/-- The instruction retires: pc is set, the fetch queue moves on, and a pending arithmetic exception comes nearer. -/
def Drover.retire (x : Drover) (pc : BitVec 32) : Drover :=
  { x with pc := pc, queue := x.queue.drop 1, arith := x.arith.map (fun p => { p with count := p.count + 1 }) }

def drvNext (d : Nat) (f : Drover → Drover) (s : State) : State := updDrv s d (fun x => (f x).retire (x.pc + 4))

/-- The boundary takes an arithmetic exception that is due, or the watchdog's. -/
def drvDue (x : Drover) : Bool := x.wdDue || (match x.arith with | some p => decide (p.count ≥ 16) | none => false)

/-- A core issues the instruction at its pc, if that is o: the exceptions of the boundary and of the instruction come
first (R436, R438). -/
def drvStep (o : DrvOp) (eff : Nat → Drover → DrvWord → State → State) (d : Nat) (s : State) : State :=
  let x := drvOf s d
  if !x.issues then s
  else if drvDue x then (if x.wdDue then drvWatchdog d s else drvArith d s)
  else match drvAt s d with
    | .except k epc esr efa =>
      if (fetchFault x (x.pc.toNat / 4 * 4)).isSome ∨ drvOpAt s d = some o ∨ drvOpAt s d = none then drvRaise d k epc esr efa s else s
    | .instr o1 i => if o1 = o then eff d x i (setDrv s d { x with queue := fetchQueue x }) else s
    | .missing => s

/-! ### Register instructions -/

/-- rd := f rs1 rs2. -/
def effR (f : BitVec 32 → BitVec 32 → BitVec 32) (d : Nat) (x : Drover) (i : DrvWord) (s : State) : State :=
  drvNext d (fun y => y.setReg i.ra (f (x.reg i.rb) (x.reg i.rc))) s

/-- rd := f rs1 immediate. -/
def effI (f : BitVec 32 → DrvWord → BitVec 32) (d : Nat) (x : Drover) (i : DrvWord) (s : State) : State :=
  drvNext d (fun y => y.setReg i.ra (f (x.reg i.rb) i)) s

/-- As effR, with the KIND of an arithmetic exception after it. -/
def effTrap (f : BitVec 32 → BitVec 32 → BitVec 32) (kind : BitVec 32 → BitVec 32 → Option Nat) (d : Nat) (x : Drover)
    (i : DrvWord) (s : State) : State :=
  let s1 := effR f d x i s
  match kind (x.reg i.rb) (x.reg i.rc) with
  | some k => arithRaise d x.pc.toNat k s1
  | none => s1

/-- A signed result leaves 32 bits. -/
def leaves32 (v : Int) : Bool := decide (v < -2147483648 ∨ v > 2147483647)

def flag32 (b : Bool) : BitVec 32 := if b then 1 else 0

/-- Leading zeros. -/
def clz32 : Nat → BitVec 32 → Nat
  | 0, _ => 0
  | n + 1, v => if v.getLsbD n then 0 else 1 + clz32 n v

/-- ADDI: rd := rs1 + sext(imm16). -/
def execDrvAddi (d : Fin 4) (s : State) : Out := .next (drvStep .addi (effI (fun a i => a + i.sext)) d.val s)

/-- ANDI: rd := rs1 AND zext(imm16). -/
def execDrvAndi (d : Fin 4) (s : State) : Out := .next (drvStep .andi (effI (fun a i => a &&& i.zext)) d.val s)

/-- ORI: rd := rs1 OR zext(imm16). -/
def execDrvOri (d : Fin 4) (s : State) : Out := .next (drvStep .ori (effI (fun a i => a ||| i.zext)) d.val s)

/-- XORI: rd := rs1 XOR zext(imm16). -/
def execDrvXori (d : Fin 4) (s : State) : Out := .next (drvStep .xori (effI (fun a i => a ^^^ i.zext)) d.val s)

/-- SLTI: signed comparison with sext(imm16). -/
def execDrvSlti (d : Fin 4) (s : State) : Out := .next (drvStep .slti (effI (fun a i => flag32 (a.slt i.sext))) d.val s)

/-- SLTIU: unsigned comparison with sext(imm16). -/
def execDrvSltiu (d : Fin 4) (s : State) : Out := .next (drvStep .sltiu (effI (fun a i => flag32 (a.ult i.sext))) d.val s)

/-- LUI: rd := imm16 << 16. -/
def execDrvLui (d : Fin 4) (s : State) : Out := .next (drvStep .lui (effI (fun _ i => i.zext <<< 16)) d.val s)

/-- ADDPC: rd := PC + 4 x sext(imm16). -/
def execDrvAddpc (d : Fin 4) (s : State) : Out :=
  .next (drvStep .addpc (fun d x i s => drvNext d (fun y => y.setReg i.ra (x.pc + i.sext <<< 2)) s) d.val s)

/-- ADD modulo 2^32. -/
def execDrvAdd (d : Fin 4) (s : State) : Out := .next (drvStep .add (effR (fun a b => a + b)) d.val s)

/-- SUB modulo 2^32. -/
def execDrvSub (d : Fin 4) (s : State) : Out := .next (drvStep .sub (effR (fun a b => a - b)) d.val s)

/-- ADDV: signed overflow raises exception 8, KIND 0 (R437). -/
def execDrvAddv (d : Fin 4) (s : State) : Out :=
  .next (drvStep .addv (effTrap (fun a b => a + b) (fun a b => if leaves32 (a.toInt + b.toInt) then some 0 else none)) d.val s)

/-- SUBV: signed overflow raises exception 8, KIND 1 (R437). -/
def execDrvSubv (d : Fin 4) (s : State) : Out :=
  .next (drvStep .subv (effTrap (fun a b => a - b) (fun a b => if leaves32 (a.toInt - b.toInt) then some 1 else none)) d.val s)

/-- AND. -/
def execDrvAnd (d : Fin 4) (s : State) : Out := .next (drvStep .and (effR (fun a b => a &&& b)) d.val s)

/-- OR. -/
def execDrvOr (d : Fin 4) (s : State) : Out := .next (drvStep .or (effR (fun a b => a ||| b)) d.val s)

/-- XOR. -/
def execDrvXor (d : Fin 4) (s : State) : Out := .next (drvStep .xor (effR (fun a b => a ^^^ b)) d.val s)

/-- NOR. -/
def execDrvNor (d : Fin 4) (s : State) : Out := .next (drvStep .nor (effR (fun a b => ~~~(a ||| b))) d.val s)

/-- SLT: signed. -/
def execDrvSlt (d : Fin 4) (s : State) : Out := .next (drvStep .slt (effR (fun a b => flag32 (a.slt b))) d.val s)

/-- SLTU: unsigned. -/
def execDrvSltu (d : Fin 4) (s : State) : Out := .next (drvStep .sltu (effR (fun a b => flag32 (a.ult b))) d.val s)

/-- SLL by rs2[4:0]. -/
def execDrvSll (d : Fin 4) (s : State) : Out := .next (drvStep .sll (effR (fun a b => a <<< (b.toNat % 32))) d.val s)

/-- SRL by rs2[4:0]. -/
def execDrvSrl (d : Fin 4) (s : State) : Out := .next (drvStep .srl (effR (fun a b => a >>> (b.toNat % 32))) d.val s)

/-- SRA by rs2[4:0]. -/
def execDrvSra (d : Fin 4) (s : State) : Out := .next (drvStep .sra (effR (fun a b => a.sshiftRight (b.toNat % 32))) d.val s)

/-- SLLI by sh. -/
def execDrvSlli (d : Fin 4) (s : State) : Out := .next (drvStep .slli (effI (fun a i => a <<< i.sh)) d.val s)

/-- SRLI by sh. -/
def execDrvSrli (d : Fin 4) (s : State) : Out := .next (drvStep .srli (effI (fun a i => a >>> i.sh)) d.val s)

/-- SRAI by sh. -/
def execDrvSrai (d : Fin 4) (s : State) : Out := .next (drvStep .srai (effI (fun a i => a.sshiftRight i.sh)) d.val s)

/-- MIN: signed. -/
def execDrvMin (d : Fin 4) (s : State) : Out := .next (drvStep .min (effR (fun a b => if a.slt b then a else b)) d.val s)

/-- MAX: signed. -/
def execDrvMax (d : Fin 4) (s : State) : Out := .next (drvStep .max (effR (fun a b => if a.slt b then b else a)) d.val s)

/-- MINU: unsigned. -/
def execDrvMinu (d : Fin 4) (s : State) : Out := .next (drvStep .minu (effR (fun a b => if a.ult b then a else b)) d.val s)

/-- MAXU: unsigned. -/
def execDrvMaxu (d : Fin 4) (s : State) : Out := .next (drvStep .maxu (effR (fun a b => if a.ult b then b else a)) d.val s)

/-- CLZ: leading zeros of rs1, 0 to 32. -/
def execDrvClz (d : Fin 4) (s : State) : Out := .next (drvStep .clz (effR (fun a _ => BitVec.ofNat 32 (clz32 32 a))) d.val s)

/-- SEXTB. -/
def execDrvSextb (d : Fin 4) (s : State) : Out :=
  .next (drvStep .sextb (effR (fun a _ => (a.extractLsb' 0 8).signExtend 32)) d.val s)

/-- SEXTH. -/
def execDrvSexth (d : Fin 4) (s : State) : Out :=
  .next (drvStep .sexth (effR (fun a _ => (a.extractLsb' 0 16).signExtend 32)) d.val s)

/-- MUL: low 32 bits. -/
def execDrvMul (d : Fin 4) (s : State) : Out := .next (drvStep .mul (effR (fun a b => a * b)) d.val s)

/-- MULH: high 32 bits, signed. -/
def execDrvMulh (d : Fin 4) (s : State) : Out :=
  .next (drvStep .mulh (effR (fun a b => BitVec.ofInt 32 (a.toInt * b.toInt / 4294967296))) d.val s)

/-- MULHU: high 32 bits, unsigned. -/
def execDrvMulhu (d : Fin 4) (s : State) : Out :=
  .next (drvStep .mulhu (effR (fun a b => BitVec.ofNat 32 (a.toNat * b.toNat / 4294967296))) d.val s)

/-- DIV (R409): KIND 2 for a divisor of 0, 3 for 0x8000_0000 / -1. -/
def execDrvDiv (d : Fin 4) (s : State) : Out :=
  .next (drvStep .div (effTrap (fun a b => if b = 0 then 0xFFFFFFFF else BitVec.ofInt 32 (a.toInt.tdiv b.toInt))
    (fun a b => if b = 0 then some 2 else if a = 0x80000000 ∧ b = 0xFFFFFFFF then some 3 else none)) d.val s)

/-- DIVU (R409). -/
def execDrvDivu (d : Fin 4) (s : State) : Out :=
  .next (drvStep .divu (effTrap (fun a b => if b = 0 then 0xFFFFFFFF else a / b) (fun _ b => if b = 0 then some 2 else none)) d.val s)

/-- REM (R409): no exception for 0x8000_0000 by -1. -/
def execDrvRem (d : Fin 4) (s : State) : Out :=
  .next (drvStep .rem (effTrap (fun a b => if b = 0 then a else BitVec.ofInt 32 (a.toInt.tmod b.toInt))
    (fun _ b => if b = 0 then some 2 else none)) d.val s)

/-- REMU (R409). -/
def execDrvRemu (d : Fin 4) (s : State) : Out :=
  .next (drvStep .remu (effTrap (fun a b => if b = 0 then a else a % b) (fun _ b => if b = 0 then some 2 else none)) d.val s)

/-! ### Branches and jumps -/

/-- A B-format branch to PC + 4 x sext(off16). -/
def effB (c : BitVec 32 → BitVec 32 → Bool) (d : Nat) (x : Drover) (i : DrvWord) (s : State) : State :=
  updDrv s d (fun y => y.retire (if c (x.reg i.ra) (x.reg i.rb) then x.pc + i.sext <<< 2 else x.pc + 4))

/-- The target of a J-format jump. -/
def jTarget (x : Drover) (i : DrvWord) : BitVec 32 := x.pc + ((i.w.extractLsb' 0 26).signExtend 32) <<< 2

/-- BEQ. -/
def execDrvBeq (d : Fin 4) (s : State) : Out := .next (drvStep .beq (effB (fun a b => a == b)) d.val s)

/-- BNE. -/
def execDrvBne (d : Fin 4) (s : State) : Out := .next (drvStep .bne (effB (fun a b => a != b)) d.val s)

/-- BLT: signed. -/
def execDrvBlt (d : Fin 4) (s : State) : Out := .next (drvStep .blt (effB (fun a b => a.slt b)) d.val s)

/-- BGE: signed. -/
def execDrvBge (d : Fin 4) (s : State) : Out := .next (drvStep .bge (effB (fun a b => !a.slt b)) d.val s)

/-- BLTU: unsigned. -/
def execDrvBltu (d : Fin 4) (s : State) : Out := .next (drvStep .bltu (effB (fun a b => a.ult b)) d.val s)

/-- BGEU: unsigned. -/
def execDrvBgeu (d : Fin 4) (s : State) : Out := .next (drvStep .bgeu (effB (fun a b => !a.ult b)) d.val s)

/-- J. -/
def execDrvJ (d : Fin 4) (s : State) : Out :=
  .next (drvStep .j (fun d x i s => updDrv s d (fun y => y.retire (jTarget x i))) d.val s)

/-- JL: W31 := PC + 4. -/
def execDrvJl (d : Fin 4) (s : State) : Out :=
  .next (drvStep .jl (fun d x i s => updDrv s d (fun y => (y.setReg 31 (x.pc + 4)).retire (jTarget x i))) d.val s)

/-- JR: rd := PC + 4; jump to rs1[31:2] x 4. -/
def execDrvJr (d : Fin 4) (s : State) : Out :=
  .next (drvStep .jr (fun d x i s => updDrv s d (fun y => (y.setReg i.ra (x.pc + 4)).retire (x.reg i.rb &&& 0xFFFFFFFC))) d.val s)

/-! ### Loads and stores -/

/-- A load that has its bytes writes rd and retires; one that meets an error raises it. -/
def finishLoad (d rd : Nat) (sext : Bool) (a : Nat) (r : LoadGot × State) : State :=
  match r.1 with
  | .bytes b => drvNext d (fun y => y.setReg rd (loadValue sext b)) r.2
  | .except k esr =>
    let s1 := updDrv r.2 d (fun y => { y with read := none })
    drvRaise d k (drvOf s1 d).pc (BitVec.ofNat 32 esr) (BitVec.ofNat 32 a) s1
  | .waits => r.2

def effL (n : Nat) (sext : Bool) (d : Nat) (x : Drover) (i : DrvWord) (s : State) : State :=
  finishLoad d i.ra sext (drvAddr x i) (drvLoad d (drvAddr x i) n i.ra sext s)

/-- A store enters the store buffer, or waits while it is full (R417). -/
def effS (n : Nat) (d : Nat) (x : Drover) (i : DrvWord) (s : State) : State :=
  match drvStore d (drvAddr x i) (leBytes n (x.reg i.ra).toNat) s with
  | (some s1, _) => drvNext d id s1
  | (none, s1) => s1

/-- LB. -/
def execDrvLb (d : Fin 4) (s : State) : Out := .next (drvStep .lb (effL 1 true) d.val s)

/-- LBU. -/
def execDrvLbu (d : Fin 4) (s : State) : Out := .next (drvStep .lbu (effL 1 false) d.val s)

/-- LH. -/
def execDrvLh (d : Fin 4) (s : State) : Out := .next (drvStep .lh (effL 2 true) d.val s)

/-- LHU. -/
def execDrvLhu (d : Fin 4) (s : State) : Out := .next (drvStep .lhu (effL 2 false) d.val s)

/-- LW. -/
def execDrvLw (d : Fin 4) (s : State) : Out := .next (drvStep .lw (effL 4 false) d.val s)

/-- SB. -/
def execDrvSb (d : Fin 4) (s : State) : Out := .next (drvStep .sb (effS 1) d.val s)

/-- SH. -/
def execDrvSh (d : Fin 4) (s : State) : Out := .next (drvStep .sh (effS 2) d.val s)

/-- SW. -/
def execDrvSw (d : Fin 4) (s : State) : Out := .next (drvStep .sw (effS 4) d.val s)

/-- LWX (R421): drains the store buffer, loads, and sets the reservation. -/
def effLwx (d : Nat) (x : Drover) (i : DrvWord) (s : State) : State :=
  let a := drvAddr x i
  let s1 := sbDrainN d 8 s
  if (drvOf s1 d).buf ≠ [] then s1
  else if cramBad s1 (a - 0x10000000) 4 then drvRaise d 10 x.pc 0 (BitVec.ofNat 32 a) (cramRecord a s1)
  else
    let v := BitVec.ofNat 32 (leNat (Tbl.slice 0 s1.cram (a - 0x10000000) 4))
    drvNext d (fun y => { y.setReg i.ra v with resv := some ((a - 0x10000000) / 16) }) s1

/-- SWX (R421): drains the store buffer, and writes only with the reservation set on the granule. -/
def effSwx (d : Nat) (x : Drover) (i : DrvWord) (s : State) : State :=
  let a := (x.reg i.rb).toNat
  let s1 := sbDrainN d 8 s
  if (drvOf s1 d).buf ≠ [] then s1
  else
    let won := (drvOf s1 d).resv == some ((a - 0x10000000) / 16)
    let s2 := if won then cramWrite d (a - 0x10000000) (leBytes 4 (x.reg i.rc).toNat) s1 else s1
    drvNext d (fun y => { y.setReg i.ra (if won then 0 else 1) with resv := none }) s2

/-- LWX. -/
def execDrvLwx (d : Fin 4) (s : State) : Out := .next (drvStep .lwx effLwx d.val s)

/-- SWX. -/
def execDrvSwx (d : Fin 4) (s : State) : Out := .next (drvStep .swx effSwx d.val s)

/-! ### The SYS group -/

/-- TRAP #n (R439): descriptor 64 + n. -/
def execDrvTrap (d : Fin 4) (s : State) : Out := .next (drvStep .trap (fun _ _ _ s => s) d.val s)

/-- BRK: exception 14. -/
def execDrvBrk (d : Fin 4) (s : State) : Out := .next (drvStep .brk (fun _ _ _ s => s) d.val s)

/-- ERET (R435). -/
def effEret (d : Nat) (x : Drover) (_ : DrvWord) (s : State) : State :=
  let psw := frameWordAt s x 0
  updDrv s d (fun y =>
    { y.retire (frameWordAt s x 4) with
      sp := Tbl.put 0 y.sp x.priv (frameWordAt s x 16), df := psw.getLsbD 4, precise := psw.getLsbD 3, xie := psw.getLsbD 2,
      priv := psw.toNat % 4, resv := none, queue := [] })

/-- ERET. -/
def execDrvEret (d : Fin 4) (s : State) : Out := .next (drvStep .eret effEret d.val s)

/-- MFCR. -/
def execDrvMfcr (d : Fin 4) (s : State) : Out :=
  .next (drvStep .mfcr (fun d _ i s => let r := crValue d i.imm10 s; drvNext d (fun y => y.setReg i.ra r.1) r.2) d.val s)

/-- MTCR (R402). -/
def execDrvMtcr (d : Fin 4) (s : State) : Out :=
  .next (drvStep .mtcr (fun d x i s => updDrv s d (fun y => crSet i.imm10 (x.reg i.rb) (y.retire (x.pc + 4)))) d.val s)

/-- The write side of a core is taken (R415). -/
def Drover.writing (x : Drover) : Bool := x.wback.isSome || (match x.buf with | e :: _ => e.begun | [] => false)

/-- The dirty D-cache line of an address starts on its way back to DRAM; none: it must wait for the write side. -/
def cleanLine (d a : Nat) (s : State) : Option State :=
  let x := drvOf s d
  match (if (drvRegion a).isDram then cacheFind x.dcache (drvPhys x a) else none) with
  | none => some s
  | some l =>
    if !l.dirty then some s
    else if x.writing then none
    else
      let c := Tbl.upd [] x.dcache (lineSet l.at_) (fun ls => ls.map (fun m => if m.at_ = l.at_ then { m with dirty := false } else m))
      some (setDrv s d { x with dcache := c, wback := some { line := l, addr := a / 64 * 64 } })

/-- The D-cache line of an address is invalidated. -/
def dropLine (d a : Nat) (s : State) : State :=
  updDrv s d (fun x => if (drvRegion a).isDram then { x with dcache := cacheDrop (drvPhys x a) x.dcache } else x)

/-- ICINV (R425). -/
def effIcinv (d : Nat) (x : Drover) (i : DrvWord) (s : State) : State :=
  let a := (x.reg i.rb).toNat
  let p := drvPhys x a / 64 * 64
  let s1 := sbDrainN d (sbYoungest x.buf p 64) s
  if sbYoungest (drvOf s1 d).buf p 64 ≠ 0 then s1
  else match cleanLine d a s1 with
    | none => s1
    | some s2 =>
      if (drvOf s2 d).wback.any (fun w => w.line.at_ == p) then s2
      else drvNext d (fun y => { y with icache := cacheDrop p y.icache }) s2

/-- ICINV. -/
def execDrvIcinv (d : Fin 4) (s : State) : Out := .next (drvStep .icinv effIcinv d.val s)

/-- ISYNC (R426): the fetch queue and the line buffer are discarded. -/
def execDrvIsync (d : Fin 4) (s : State) : Out :=
  .next (drvStep .isync (fun d x _ s => updDrv s d (fun y => { y.retire (x.pc + 4) with queue := [], lineBuf := none })) d.val s)

/-- DCCLEAN: writes back the line if it is dirty. -/
def execDrvDcclean (d : Fin 4) (s : State) : Out :=
  .next (drvStep .dcclean (fun d x i s => match cleanLine d (x.reg i.rb).toNat s with | some s1 => drvNext d id s1 | none => s) d.val s)

/-- DCINV: invalidates the line without write-back. -/
def execDrvDcinv (d : Fin 4) (s : State) : Out :=
  .next (drvStep .dcinv (fun d x i s => drvNext d id (dropLine d (x.reg i.rb).toNat s)) d.val s)

/-- DCFLUSH: DCCLEAN, then invalidate. -/
def execDrvDcflush (d : Fin 4) (s : State) : Out :=
  .next (drvStep .dcflush (fun d x i s =>
    match cleanLine d (x.reg i.rb).toNat s with | some s1 => drvNext d id (dropLine d (x.reg i.rb).toNat s1) | none => s) d.val s)

/-- DSYNC (R420): waits until the store buffer is empty and every write transaction has completed. -/
def execDrvDsync (d : Fin 4) (s : State) : Out :=
  .next (drvStep .dsync (fun d _ _ s =>
    let s1 := sbDrainN d 8 s
    let x := drvOf s1 d
    if x.buf = [] ∧ x.wback = none then drvNext d id s1 else s1) d.val s)

/-- WFI (R427). -/
def execDrvWfi (d : Fin 4) (s : State) : Out :=
  .next (drvStep .wfi (fun d _ _ s => drvNext d (fun y => { y with wfi := !xirq s.evc d }) s) d.val s)

/-! ### Events of a core -/

/-- DROVER_INTERRUPT (R438, R440): taken with XIE = 1, after what comes before it at the boundary. -/
def execDroverInterrupt (d : Fin 4) (s : State) : Out :=
  let x := drvOf s d.val
  let ready (y : Drover) : Bool := y.run == .running && !y.hold && y.read.isNone && y.xie && xirq s.evc d.val
  .next (if !ready x then s
    else
      let s0 := setDrv s d.val { x with wfi := false }
      let s1 :=
        if x.arith.isSome || x.wdDue then drvWatchdog d.val s0
        else match drvAt s0 d.val with
          | .except k epc esr efa => drvEnter d.val k epc esr efa s0
          | _ => s0
      let y := drvOf s1 d.val
      if ready y then drvEnter d.val 32 y.pc 0 0 s1 else s1)

/-- ARITH_EXCEPTION_TAKEN (R437). -/
def execArithExceptionTaken (d : Fin 4) (s : State) : Out :=
  .next (if (drvOf s d.val).issues then drvArith d.val s else s)

/-- WFI_WAKE (R427): the external interrupt is pending for the Drover. -/
def execWfiWake (d : Fin 4) (s : State) : Out :=
  .next (if (drvOf s d.val).wfi && xirq s.evc d.val then updDrv s d.val (fun x => { x with wfi := false }) else s)

/-- STORE_BUFFER_DRAIN (R416). -/
def execStoreBufferDrain (d : Fin 4) (s : State) : Out :=
  .next (if (drvOf s d.val).run = .running then sbDrain d.val s else s)

/-- A read transaction's bytes have come: the load goes on with its next part. -/
def readGo (d : Nat) (t : ReadTxn) (b : Bytes) (s : State) : State :=
  finishLoad d t.rd t.sext t.start
    (readParts d 3 (t.addr + b.length) (t.left - b.length) (t.got ++ b) (t.rd, t.sext, t.start)
      (updDrv s d (fun x => { x with read := none })))

/-- A read transaction returned an error response: exception 9. -/
def readError (d : Nat) (t : ReadTxn) (s : State) : State := finishLoad d t.rd t.sext t.start (.except 9 3, s)

/-- The read side completes without a line fill. -/
def readDone (d : Nat) (t : ReadTxn) (s : State) : State :=
  let x := drvOf s d
  let k := lineLeft t.addr t.left
  if (drvRegion t.addr).isDram then
    let b := dramByte x t.addr
    if dramBad s b k then finishLoad d t.rd t.sext t.start (.except 10 0, dramRecord b s)
    else readGo d t (Tbl.slice 0 s.dram b k) s
  else
    let r := devRead d (t.addr / 4 * 4) s
    readGo d t (((leBytes 4 r.1).drop (t.addr % 4)).take k) r.2

/-- A write transaction completes (R415, R436). -/
def writeDone (d : Nat) (ok : Bool) (s : State) : State :=
  let x := drvOf s d
  let bad (a : Nat) (s : State) : State := logRecord (328 + d) 1 0x17 0xFF d (leBytes 4 a ++ [0, 0, 0, 0]) s
  match x.wback with
  | some w =>
    let s1 := setDrv s d { x with wback := none }
    if ok then dramWrite (w.line.at_ - 2 ^ 32) (Tbl.slice 0 w.line.bytes 0 64) s1 else bad w.addr s1
  | none =>
    match x.buf with
    | e :: rest =>
      if !e.begun then s
      else
        let s1 := setDrv s d { x with buf := rest }
        if !ok then bad (e.addr + e.mask.foldl min 7) s1
        else if (drvRegion e.addr).isDram then
          let s2 := e.each (fun o b s => dramWrite (e.at_ - 2 ^ 32 + o) [b] s) s1
          updDrv s2 d (fun y => match cacheFind y.dcache e.at_ with
            | some l => { y with dcache := Tbl.upd [] y.dcache (lineSet e.at_) (fun ls => ls.map (fun m =>
                if m.at_ = l.at_ then { m with bytes := e.mask.foldl (fun t o => Tbl.put 0 t (e.at_ % 64 + o) (Tbl.get 0 e.bytes o)) m.bytes }
                else m)) }
            | none => y)
        else sbWrite d e s1
    | [] => s

/-- REMOTE_TRANSACTION_DONE (R415): the read or the write side of a core completes, with its data or an error response. -/
def execRemoteTransactionDone (d : Fin 4) (write ok : Bool) (s : State) : Out :=
  .next (if write then writeDone d.val ok s
    else match (drvOf s d.val).read with
      | some t => if t.fill then s else if ok then readDone d.val t s else readError d.val t s
      | none => s)

/-- A line arrives for the I-cache side (R422). -/
def fetchFill (d : Nat) (outcome : Nat) (s : State) : State :=
  let x := drvOf s d
  match fetchMiss x with
  | none => s
  | some a =>
    let p := drvPhys x a / 64 * 64
    let dram := (drvRegion a).isDram
    let bad := if dram then dramBad s (p - 2 ^ 32) 64 else decide (drvRegion a = .cram) && cramBad s (p - 0x10000000) 64
    if bad || outcome == 1 then
      let s1 := if !bad then s else if dram then dramRecord (p - 2 ^ 32) s else cramRecord p s
      if a = x.pc.toNat / 4 * 4 then drvRaise d 11 x.pc 0 x.pc s1 else s1
    else
      let bytes : Tbl Byte :=
        if dram then (dramLine s p).bytes
        else if drvRegion a = .cram then Tbl.putAll 0 [] 0 (Tbl.slice 0 s.cram (p - 0x10000000) 64)
        else Tbl.putAll 0 [] 0 ((List.range 64).map (fun i => Config.bootRom (p + i)))
      let l : Line := { at_ := p, bytes := bytes, lost := outcome == 2 }
      let keep := !dram || mpuCache x a
      setDrv s d { x with lineBuf := some { l with lost := false },
                          icache := if keep then cacheEnter l (cacheDrop p x.icache) else x.icache }

/-- A line arrives for the D-cache side (R423). -/
def dataFill (d : Nat) (outcome : Nat) (s : State) : State :=
  match (drvOf s d).read with
  | none => s
  | some t =>
    let x := drvOf s d
    let p := drvPhys x t.addr / 64 * 64
    if !t.fill then s
    else if outcome = 1 then readError d t s
    else if dramBad s (p - 2 ^ 32) 64 then finishLoad d t.rd t.sext t.start (.except 10 0, dramRecord (p - 2 ^ 32) s)
    else
      let l := dramLine s p
      let s1 := setDrv s d { x with dcache := cacheEnter { l with lost := outcome == 2 } x.dcache }
      readGo d t (Tbl.slice 0 l.bytes (drvPhys x t.addr % 64) (lineLeft t.addr t.left)) s1

/-- CACHE_LINE_FILL (R422, R424): outcome 0 delivers the line, 1 fails, 2 delivers it and leaves an uncorrectable error in
the array behind it. -/
def execCacheLineFill (d : Fin 4) (instr : Bool) (outcome : Fin 3) (s : State) : Out :=
  .next (if instr then (if (drvOf s d.val).issues then fetchFill d.val outcome.val s else s) else dataFill d.val outcome.val s)

/-- WATCHDOG_EXPIRY (R445). -/
def execWatchdogExpiry (d : Fin 4) (s : State) : Out :=
  let x := drvOf s d.val
  .next (if !x.counts then s
    else if x.first then drvReset d.val 0 s
    else
      let s1 := setDrv s d.val { x with first := true, wdDue := true, wfi := false }
      if x.read.isNone then drvWatchdog d.val s1 else s1)

end Sys2Proof.Machine
end

