-- ==== Sys2Proof/Machine/Dispatch.lean ====
section
/-! DEFINITION. The dispatch of commands: one arm per constructor of Instr, each one direct call of its meaning. -/

namespace Sys2Proof.Machine

def exec (i : Instr) (s : State) : Host.Outcome State Fault Refusal :=
  match i with
  | .pageCopyEnd c => Sys2Proof.Machine.execPageCopyEnd c s
  | .starterEvent scls chan note vel etype entry split req => Sys2Proof.Machine.execStarterEvent scls chan note vel etype entry split req s
  | .startRecordArrival c => Sys2Proof.Machine.execStartRecordArrival c s
  | .templateCopyEnd c => Sys2Proof.Machine.execTemplateCopyEnd c s
  | .headerRowLoad k => Sys2Proof.Machine.execHeaderRowLoad k s
  | .startPhase k => Sys2Proof.Machine.execStartPhase k s
  | .convoyDispatch k => Sys2Proof.Machine.execConvoyDispatch k s
  | .bundleIssue k => Sys2Proof.Machine.execBundleIssue k s
  | .faultEntry k => Sys2Proof.Machine.execFaultEntry k s
  | .microTrap k done => Sys2Proof.Machine.execMicroTrap k done s
  | .lvuStopTaken k done => Sys2Proof.Machine.execLvuStopTaken k done s
  | .patchRamScrub k w bits => Sys2Proof.Machine.execPatchRamScrub k w bits s
  | .lcsctlStop k => Sys2Proof.Machine.execLcsctlStop k s
  | .lcsctlResume k => Sys2Proof.Machine.execLcsctlResume k s
  | .lcsctlDiscard k => Sys2Proof.Machine.execLcsctlDiscard k s
  | .lcsctlPload k on => Sys2Proof.Machine.execLcsctlPload k on s
  | .lcsctlPen k on => Sys2Proof.Machine.execLcsctlPen k on s
  | .lcsctlPoll k on => Sys2Proof.Machine.execLcsctlPoll k on s
  | .prdata4Commit k v => Sys2Proof.Machine.execPrdata4Commit k v s
  | .corrRead k => Sys2Proof.Machine.execCorrRead k s
  | .relayBurst bad ring first n => Sys2Proof.Machine.execRelayBurst bad ring first n s
  | .relayPacket lane waiting beats => Sys2Proof.Machine.execRelayPacket lane waiting beats s
  | .manifestOpen r => Sys2Proof.Machine.execManifestOpen r s
  | .manifestAdd r => Sys2Proof.Machine.execManifestAdd r s
  | .manifestCommit r => Sys2Proof.Machine.execManifestCommit r s
  | .manifestAbort r => Sys2Proof.Machine.execManifestAbort r s
  | .manifestCheck t => Sys2Proof.Machine.execManifestCheck t s
  | .stagingDone h st => Sys2Proof.Machine.execStagingDone h st s
  | .manifestParamWrite h => Sys2Proof.Machine.execManifestParamWrite h s
  | .migrationBatch h bad => Sys2Proof.Machine.execMigrationBatch h bad s
  | .streamOpen ring obj ctx => Sys2Proof.Machine.execStreamOpen ring obj ctx s
  | .ringFillRead ring => Sys2Proof.Machine.execRingFillRead ring s
  | .pageReadDone ring frames outcome page => Sys2Proof.Machine.execPageReadDone ring frames outcome page s
  | .consumptionReport ring => Sys2Proof.Machine.execConsumptionReport ring s
  | .nandProgramDone die plane block ok last => Sys2Proof.Machine.execNandProgramDone die plane block ok last s
  | .nandEraseDone die plane block ok => Sys2Proof.Machine.execNandEraseDone die plane block ok s
  | .doseTick temp => Sys2Proof.Machine.execDoseTick temp s
  | .headResident obj => Sys2Proof.Machine.execHeadResident obj s
  | .prefixCopyDone m => Sys2Proof.Machine.execPrefixCopyDone m s
  | .importProgramDone j => Sys2Proof.Machine.execImportProgramDone j s
  | .drvAddi d => Sys2Proof.Machine.execDrvAddi d s
  | .drvAndi d => Sys2Proof.Machine.execDrvAndi d s
  | .drvOri d => Sys2Proof.Machine.execDrvOri d s
  | .drvXori d => Sys2Proof.Machine.execDrvXori d s
  | .drvSlti d => Sys2Proof.Machine.execDrvSlti d s
  | .drvSltiu d => Sys2Proof.Machine.execDrvSltiu d s
  | .drvLui d => Sys2Proof.Machine.execDrvLui d s
  | .drvAddpc d => Sys2Proof.Machine.execDrvAddpc d s
  | .drvLb d => Sys2Proof.Machine.execDrvLb d s
  | .drvLbu d => Sys2Proof.Machine.execDrvLbu d s
  | .drvLh d => Sys2Proof.Machine.execDrvLh d s
  | .drvLhu d => Sys2Proof.Machine.execDrvLhu d s
  | .drvLw d => Sys2Proof.Machine.execDrvLw d s
  | .drvLwx d => Sys2Proof.Machine.execDrvLwx d s
  | .drvSb d => Sys2Proof.Machine.execDrvSb d s
  | .drvSh d => Sys2Proof.Machine.execDrvSh d s
  | .drvSw d => Sys2Proof.Machine.execDrvSw d s
  | .drvSwx d => Sys2Proof.Machine.execDrvSwx d s
  | .drvBeq d => Sys2Proof.Machine.execDrvBeq d s
  | .drvBne d => Sys2Proof.Machine.execDrvBne d s
  | .drvBlt d => Sys2Proof.Machine.execDrvBlt d s
  | .drvBge d => Sys2Proof.Machine.execDrvBge d s
  | .drvBltu d => Sys2Proof.Machine.execDrvBltu d s
  | .drvBgeu d => Sys2Proof.Machine.execDrvBgeu d s
  | .drvJ d => Sys2Proof.Machine.execDrvJ d s
  | .drvJl d => Sys2Proof.Machine.execDrvJl d s
  | .drvJr d => Sys2Proof.Machine.execDrvJr d s
  | .drvAdd d => Sys2Proof.Machine.execDrvAdd d s
  | .drvSub d => Sys2Proof.Machine.execDrvSub d s
  | .drvAddv d => Sys2Proof.Machine.execDrvAddv d s
  | .drvSubv d => Sys2Proof.Machine.execDrvSubv d s
  | .drvAnd d => Sys2Proof.Machine.execDrvAnd d s
  | .drvOr d => Sys2Proof.Machine.execDrvOr d s
  | .drvXor d => Sys2Proof.Machine.execDrvXor d s
  | .drvNor d => Sys2Proof.Machine.execDrvNor d s
  | .drvSlt d => Sys2Proof.Machine.execDrvSlt d s
  | .drvSltu d => Sys2Proof.Machine.execDrvSltu d s
  | .drvSll d => Sys2Proof.Machine.execDrvSll d s
  | .drvSrl d => Sys2Proof.Machine.execDrvSrl d s
  | .drvSra d => Sys2Proof.Machine.execDrvSra d s
  | .drvSlli d => Sys2Proof.Machine.execDrvSlli d s
  | .drvSrli d => Sys2Proof.Machine.execDrvSrli d s
  | .drvSrai d => Sys2Proof.Machine.execDrvSrai d s
  | .drvMin d => Sys2Proof.Machine.execDrvMin d s
  | .drvMax d => Sys2Proof.Machine.execDrvMax d s
  | .drvMinu d => Sys2Proof.Machine.execDrvMinu d s
  | .drvMaxu d => Sys2Proof.Machine.execDrvMaxu d s
  | .drvClz d => Sys2Proof.Machine.execDrvClz d s
  | .drvSextb d => Sys2Proof.Machine.execDrvSextb d s
  | .drvSexth d => Sys2Proof.Machine.execDrvSexth d s
  | .drvMul d => Sys2Proof.Machine.execDrvMul d s
  | .drvMulh d => Sys2Proof.Machine.execDrvMulh d s
  | .drvMulhu d => Sys2Proof.Machine.execDrvMulhu d s
  | .drvDiv d => Sys2Proof.Machine.execDrvDiv d s
  | .drvDivu d => Sys2Proof.Machine.execDrvDivu d s
  | .drvRem d => Sys2Proof.Machine.execDrvRem d s
  | .drvRemu d => Sys2Proof.Machine.execDrvRemu d s
  | .drvTrap d => Sys2Proof.Machine.execDrvTrap d s
  | .drvEret d => Sys2Proof.Machine.execDrvEret d s
  | .drvMfcr d => Sys2Proof.Machine.execDrvMfcr d s
  | .drvMtcr d => Sys2Proof.Machine.execDrvMtcr d s
  | .drvIcinv d => Sys2Proof.Machine.execDrvIcinv d s
  | .drvIsync d => Sys2Proof.Machine.execDrvIsync d s
  | .drvDcclean d => Sys2Proof.Machine.execDrvDcclean d s
  | .drvDcinv d => Sys2Proof.Machine.execDrvDcinv d s
  | .drvDcflush d => Sys2Proof.Machine.execDrvDcflush d s
  | .drvDsync d => Sys2Proof.Machine.execDrvDsync d s
  | .drvWfi d => Sys2Proof.Machine.execDrvWfi d s
  | .drvBrk d => Sys2Proof.Machine.execDrvBrk d s
  | .droverInterrupt d => Sys2Proof.Machine.execDroverInterrupt d s
  | .arithExceptionTaken d => Sys2Proof.Machine.execArithExceptionTaken d s
  | .wfiWake d => Sys2Proof.Machine.execWfiWake d s
  | .storeBufferDrain d => Sys2Proof.Machine.execStoreBufferDrain d s
  | .remoteTransactionDone d write ok => Sys2Proof.Machine.execRemoteTransactionDone d write ok s
  | .cacheLineFill d instr outcome => Sys2Proof.Machine.execCacheLineFill d instr outcome s
  | .checkstopTimerExpiry d => Sys2Proof.Machine.execCheckstopTimerExpiry d s
  | .watchdogExpiry d => Sys2Proof.Machine.execWatchdogExpiry d s
  | .wdkick d v => Sys2Proof.Machine.execWdkick d v s
  | .drvctlHold e d on => Sys2Proof.Machine.execDrvctlHold e d on s
  | .drvctlReset e d hold => Sys2Proof.Machine.execDrvctlReset e d hold s
  | .droverResetDone d ok => Sys2Proof.Machine.execDroverResetDone d ok s
  | .appSliceEnd d => Sys2Proof.Machine.execAppSliceEnd d s
  | .appExit a => Sys2Proof.Machine.execAppExit a s
  | .appYield a => Sys2Proof.Machine.execAppYield a s
  | .appOdRead a obj inMem len => Sys2Proof.Machine.execAppOdRead a obj inMem len s
  | .appOdWrite a obj buf => Sys2Proof.Machine.execAppOdWrite a obj buf s
  | .appOdWriteRun a obj buf count => Sys2Proof.Machine.execAppOdWriteRun a obj buf count s
  | .appOdReadBlock a obj inMem off count => Sys2Proof.Machine.execAppOdReadBlock a obj inMem off count s
  | .appOdWriteSeg a obj buf off final => Sys2Proof.Machine.execAppOdWriteSeg a obj buf off final s
  | .appManifestOpen a => Sys2Proof.Machine.execAppManifestOpen a s
  | .appManifestAdd a h buf => Sys2Proof.Machine.execAppManifestAdd a h buf s
  | .appManifestCommit a h flags time => Sys2Proof.Machine.execAppManifestCommit a h flags time s
  | .appManifestAbort a h => Sys2Proof.Machine.execAppManifestAbort a h s
  | .appSemTake a j => Sys2Proof.Machine.execAppSemTake a j s
  | .appSemGive a j => Sys2Proof.Machine.execAppSemGive a j s
  | .appSubscribe a obj mode period => Sys2Proof.Machine.execAppSubscribe a obj mode period s
  | .appWait a inMem len timeout => Sys2Proof.Machine.execAppWait a inMem len timeout s
  | .appWaitReturn a => Sys2Proof.Machine.execAppWaitReturn a s
  | .appBind a n on => Sys2Proof.Machine.execAppBind a n on s
  | .appPost a rec_ => Sys2Proof.Machine.execAppPost a rec_ s
  | .appMidiRead a input inMem len => Sys2Proof.Machine.execAppMidiRead a input inMem len s
  | .appMidiSend a buf => Sys2Proof.Machine.execAppMidiSend a buf s
  | .appTime a => Sys2Proof.Machine.execAppTime a s
  | .appSleep a time => Sys2Proof.Machine.execAppSleep a time s
  | .appSleepReturn a => Sys2Proof.Machine.execAppSleepReturn a s
  | .appSetpend a n => Sys2Proof.Machine.execAppSetpend a n s
  | .evcSourceFire n high => Sys2Proof.Machine.execEvcSourceFire n high s
  | .evcClaim d => Sys2Proof.Machine.execEvcClaim d s
  | .clspec d n => Sys2Proof.Machine.execClspec d n s
  | .evcComplete d v => Sys2Proof.Machine.execEvcComplete d v s
  | .setpend v => Sys2Proof.Machine.execSetpend v s
  | .clrpend v => Sys2Proof.Machine.execClrpend v s
  | .holdoffExpiry g => Sys2Proof.Machine.execHoldoffExpiry g s
  | .holdoffWrite g v => Sys2Proof.Machine.execHoldoffWrite g v s
  | .generalTimerExpiry n => Sys2Proof.Machine.execGeneralTimerExpiry n s
  | .tmrldWrite n v => Sys2Proof.Machine.execTmrldWrite n v s
  | .strayRead d => Sys2Proof.Machine.execStrayRead d s
  | .bcpRead r => Sys2Proof.Machine.execBcpRead r s
  | .bcpWrite r => Sys2Proof.Machine.execBcpWrite r s
  | .bcpReadBlock r => Sys2Proof.Machine.execBcpReadBlock r s
  | .writeBlockRun r => Sys2Proof.Machine.execWriteBlockRun r s
  | .writeBlockSegment r => Sys2Proof.Machine.execWriteBlockSegment r s
  | .writeBlockFinal r => Sys2Proof.Machine.execWriteBlockFinal r s
  | .subscribeChange r => Sys2Proof.Machine.execSubscribeChange r s
  | .subscribePeriodic r => Sys2Proof.Machine.execSubscribePeriodic r s
  | .subscribeCancel r => Sys2Proof.Machine.execSubscribeCancel r s
  | .semTake r => Sys2Proof.Machine.execSemTake r s
  | .semGive r => Sys2Proof.Machine.execSemGive r s
  | .bcpReservedMsg r => Sys2Proof.Machine.execBcpReservedMsg r s
  | .writeMsg p b => Sys2Proof.Machine.execWriteMsg p b s
  | .readMsg p n => Sys2Proof.Machine.execReadMsg p n s
  | .qspiStatus p n => Sys2Proof.Machine.execQspiStatus p n s
  | .resetPort p => Sys2Proof.Machine.execResetPort p s
  | .qspiReservedCmd p => Sys2Proof.Machine.execQspiReservedCmd p s
  | .linkLossTimeout p t => Sys2Proof.Machine.execLinkLossTimeout p t s
  | .notifyHoldoffExpiry p => Sys2Proof.Machine.execNotifyHoldoffExpiry p s
  | .semreqTake j => Sys2Proof.Machine.execSemreqTake j s
  | .semreqGive j => Sys2Proof.Machine.execSemreqGive j s
  | .registerWrite d a v => Sys2Proof.Machine.execRegisterWrite d a v s
  | .gptpSyncTimer t => Sys2Proof.Machine.execGptpSyncTimer t s
  | .gptpAnnounceTimer t => Sys2Proof.Machine.execGptpAnnounceTimer t s
  | .pdelayReqTimer t => Sys2Proof.Machine.execPdelayReqTimer t s
  | .pdelayReqReceive p seq t => Sys2Proof.Machine.execPdelayReqReceive p seq t s
  | .foreignAnnounce p => Sys2Proof.Machine.execForeignAnnounce p s
  | .foreignSync p => Sys2Proof.Machine.execForeignSync p s
  | .linkUp p speed t => Sys2Proof.Machine.execLinkUp p speed t s
  | .linkDown p t => Sys2Proof.Machine.execLinkDown p t s
  | .msrpRegistration p talker j on => Sys2Proof.Machine.execMsrpRegistration p talker j on s
  | .aafTalkerPacket j => Sys2Proof.Machine.execAafTalkerPacket j s
  | .aafReceive p j fmt rate ch stamp rtag t samples => Sys2Proof.Machine.execAafReceive p j fmt rate ch stamp rtag t samples s
  | .frerResetTimer j => Sys2Proof.Machine.execFrerResetTimer j s
  | .noteFrameReceive p id msgs t => Sys2Proof.Machine.execNoteFrameReceive p id msgs t s
  | .adpAvailableTimer t => Sys2Proof.Machine.execAdpAvailableTimer t s
  | .entityDiscover p => Sys2Proof.Machine.execEntityDiscover p s
  | .connectRx p j id dest vlan => Sys2Proof.Machine.execConnectRx p j id dest vlan s
  | .disconnectRx p j => Sys2Proof.Machine.execDisconnectRx p j s
  | .connectTx p j => Sys2Proof.Machine.execConnectTx p j s
  | .disconnectTx p j => Sys2Proof.Machine.execDisconnectTx p j s
  | .getRxState p j => Sys2Proof.Machine.execGetRxState p j s
  | .getTxState p j => Sys2Proof.Machine.execGetTxState p j s
  | .getTxConnection p j => Sys2Proof.Machine.execGetTxConnection p j s
  | .maapConflict p => Sys2Proof.Machine.execMaapConflict p s
  | .maapClaimDone p base => Sys2Proof.Machine.execMaapClaimDone p base s
  | .dhcpLease p addr mask gw => Sys2Proof.Machine.execDhcpLease p addr mask gw s
  | .dhcpFallbackTimer p => Sys2Proof.Machine.execDhcpFallbackTimer p s
  | .dhcpRetryTimer p => Sys2Proof.Machine.execDhcpRetryTimer p s
  | .arpRequest p target => Sys2Proof.Machine.execArpRequest p target s
  | .icmpEchoRequest p target fragment data => Sys2Proof.Machine.execIcmpEchoRequest p target fragment data s
  | .pauseFrameReceive p => Sys2Proof.Machine.execPauseFrameReceive p s
  | .contactAccepted x => Sys2Proof.Machine.execContactAccepted x s
  | .quarantineRelease src t => Sys2Proof.Machine.execQuarantineRelease src t s
  | .gpioEdgeAccepted n => Sys2Proof.Machine.execGpioEdgeAccepted n s
  | .cvConversion k codes => Sys2Proof.Machine.execCvConversion k codes s
  | .dinMidiMessage m t => Sys2Proof.Machine.execDinMidiMessage m t s
  | .usbMidiPacket pkt t => Sys2Proof.Machine.execUsbMidiPacket pkt t s
  | .usbSetInterface midi alt => Sys2Proof.Machine.execUsbSetInterface midi alt s
  | .usbSetCur freq => Sys2Proof.Machine.execUsbSetCur freq s
  | .usbVbusChange on => Sys2Proof.Machine.execUsbVbusChange on s
  | .powerSequencingDone us => Sys2Proof.Machine.execPowerSequencingDone us s
  | .pllLock us ticks => Sys2Proof.Machine.execPllLock us ticks s
  | .stage2LoadDone t => Sys2Proof.Machine.execStage2LoadDone t s
  | .rollCallAnswer st w => Sys2Proof.Machine.execRollCallAnswer st w s
  | .dramTrainingDone t ok => Sys2Proof.Machine.execDramTrainingDone t ok s
  | .sramInitDone bad => Sys2Proof.Machine.execSramInitDone bad s
  | .storeMountDone t outcome => Sys2Proof.Machine.execStoreMountDone t outcome s
  | .droverRestartReady d => Sys2Proof.Machine.execDroverRestartReady d s
  | .supplyMonitorTick vin temp junction power vout => Sys2Proof.Machine.execSupplyMonitorTick vin temp junction power vout s
  | .quarantineRestartCommit c => Sys2Proof.Machine.execQuarantineRestartCommit c s
  | .memoryScrub id unit bank addr bits => Sys2Proof.Machine.execMemoryScrub id unit bank addr bits s
  | .sliceDone c applied expected sig expSig us bad => Sys2Proof.Machine.execSliceDone c applied expected sig expSig us bad s
  | .sliceBudgetExpiry c => Sys2Proof.Machine.execSliceBudgetExpiry c s
  | .selftestItemDone j result => Sys2Proof.Machine.execSelftestItemDone j result s
  | .sampleInstant line tdm => Sys2Proof.Machine.execSampleInstant line tdm s
  | .keyScanSample k closed => Sys2Proof.Machine.execKeyScanSample k closed s
  | .gpioSample us levels => Sys2Proof.Machine.execGpioSample us levels s
  | .pdelayRespReceive p delay => Sys2Proof.Machine.execPdelayRespReceive p delay s
  | .usbAudioTransaction kind samples t => Sys2Proof.Machine.execUsbAudioTransaction kind samples t s
  | .bcpOtherPeerDatagram ip udp => Sys2Proof.Machine.execBcpOtherPeerDatagram ip udp s
  | .maapProbeReceive p addr count => Sys2Proof.Machine.execMaapProbeReceive p addr count s
  | .dhcpLeaseExpiry p => Sys2Proof.Machine.execDhcpLeaseExpiry p s
  | .houseRateWrite who v => Sys2Proof.Machine.execHouseRateWrite who v s
  | .lapLengthWrite who v => Sys2Proof.Machine.execLapLengthWrite who v s
  | .vld k => Sys2Proof.Machine.execVld k s
  | .vst k => Sys2Proof.Machine.execVst k s
  | .vldff k => Sys2Proof.Machine.execVldff k s
  | .vtab k => Sys2Proof.Machine.execVtab k s
  | .vtabi k => Sys2Proof.Machine.execVtabi k s
  | .vadd k => Sys2Proof.Machine.execVadd k s
  | .vsub k => Sys2Proof.Machine.execVsub k s
  | .vmul k => Sys2Proof.Machine.execVmul k s
  | .vmac k => Sys2Proof.Machine.execVmac k s
  | .vmsu k => Sys2Proof.Machine.execVmsu k s
  | .vclra k => Sys2Proof.Machine.execVclra k s
  | .vrnd k => Sys2Proof.Machine.execVrnd k s
  | .vmov k => Sys2Proof.Machine.execVmov k s
  | .vshl k => Sys2Proof.Machine.execVshl k s
  | .vshr k => Sys2Proof.Machine.execVshr k s
  | .vmin k => Sys2Proof.Machine.execVmin k s
  | .vmax k => Sys2Proof.Machine.execVmax k s
  | .vabs k => Sys2Proof.Machine.execVabs k s
  | .vneg k => Sys2Proof.Machine.execVneg k s
  | .vsplat k => Sys2Proof.Machine.execVsplat k s
  | .vsetl k => Sys2Proof.Machine.execVsetl k s
  | .vsetg k => Sys2Proof.Machine.execVsetg k s
  | .vsett k => Sys2Proof.Machine.execVsett k s
  | .vfir k => Sys2Proof.Machine.execVfir k s
  | .vbiq k => Sys2Proof.Machine.execVbiq k s
  | .vsvf k => Sys2Proof.Machine.execVsvf k s
  | .vintp k => Sys2Proof.Machine.execVintp k s
  | .vosc k => Sys2Proof.Machine.execVosc k s
  | .venv k => Sys2Proof.Machine.execVenv k s
  | .vmix k => Sys2Proof.Machine.execVmix k s
  | .vdly k => Sys2Proof.Machine.execVdly k s
  | .vfft4 k => Sys2Proof.Machine.execVfft4 k s
  | .vcmul k => Sys2Proof.Machine.execVcmul k s
  | .reserveWrite who v => Sys2Proof.Machine.execReserveWrite who v s
  | .keymapWrite who m zs => Sys2Proof.Machine.execKeymapWrite who m zs s
  | .importOpen j rec_ => Sys2Proof.Machine.execImportOpen j rec_ s
  | .importAppend j off d => Sys2Proof.Machine.execImportAppend j off d s
  | .importCommit j => Sys2Proof.Machine.execImportCommit j s
  | .importAbort j => Sys2Proof.Machine.execImportAbort j s
  | .objectDelete who id => Sys2Proof.Machine.execObjectDelete who id s
  | .streamingDrain who => Sys2Proof.Machine.execStreamingDrain who s
  | .streamingResume who => Sys2Proof.Machine.execStreamingResume who s
  | .prepareForStorage who => Sys2Proof.Machine.execPrepareForStorage who s
  | .appInstall who a => Sys2Proof.Machine.execAppInstall who a s
  | .appRemove who a => Sys2Proof.Machine.execAppRemove who a s
  | .appStart who a => Sys2Proof.Machine.execAppStart who a s
  | .appStop who a => Sys2Proof.Machine.execAppStop who a s
  | .odSave who => Sys2Proof.Machine.execOdSave who s
  | .restoreDefaults who => Sys2Proof.Machine.execRestoreDefaults who s
  | .portBBinding who v => Sys2Proof.Machine.execPortBBinding who v s
  | .setTime who t => Sys2Proof.Machine.execSetTime who t s
  | .speedsAllowedWrite who p v => Sys2Proof.Machine.execSpeedsAllowedWrite who p v s
  | .acquireEntity p => Sys2Proof.Machine.execAcquireEntity p s
  | .lockEntity p => Sys2Proof.Machine.execLockEntity p s
  | .entityAvailable p => Sys2Proof.Machine.execEntityAvailable p s
  | .readDescriptor p kind ix => Sys2Proof.Machine.execReadDescriptor p kind ix s
  | .getStreamFormat p out j => Sys2Proof.Machine.execGetStreamFormat p out j s
  | .setStreamFormat p out j rate ch => Sys2Proof.Machine.execSetStreamFormat p out j rate ch s
  | .getStreamInfo p out j => Sys2Proof.Machine.execGetStreamInfo p out j s
  | .getSamplingRate p => Sys2Proof.Machine.execGetSamplingRate p s
  | .getClockSource p => Sys2Proof.Machine.execGetClockSource p s
  | .getAvbInfo p j => Sys2Proof.Machine.execGetAvbInfo p j s
  | .getCounters p out j => Sys2Proof.Machine.execGetCounters p out j s
  | .registerUnsolicitedNotification p ctl => Sys2Proof.Machine.execRegisterUnsolicitedNotification p ctl s
  | .deregisterUnsolicitedNotification p ctl => Sys2Proof.Machine.execDeregisterUnsolicitedNotification p ctl s
  | .getName p => Sys2Proof.Machine.execGetName p s
  | .setName p name => Sys2Proof.Machine.execSetName p name s
  | .setSamplingRate p => Sys2Proof.Machine.execSetSamplingRate p s
  | .setClockSource p => Sys2Proof.Machine.execSetClockSource p s
  | .aecpUnsupportedCommand p code => Sys2Proof.Machine.execAecpUnsupportedCommand p code s
  | .ipModeWrite who p word v => Sys2Proof.Machine.execIpModeWrite who p word v s
  | .midiSend who b => Sys2Proof.Machine.execMidiSend who b s
  | .inputRangeWrite who j v => Sys2Proof.Machine.execInputRangeWrite who j v s
  | .lineMuteWrite who j v => Sys2Proof.Machine.execLineMuteWrite who j v s
  | .headphoneVolumeWrite who j v => Sys2Proof.Machine.execHeadphoneVolumeWrite who j v s
  | .tdmEnableWrite who p v => Sys2Proof.Machine.execTdmEnableWrite who p v s
  | .keyObjectWrite who k sub v => Sys2Proof.Machine.execKeyObjectWrite who k sub v s
  | .modeRequestStandby who => Sys2Proof.Machine.execModeRequestStandby who s
  | .modeRequestPerform who => Sys2Proof.Machine.execModeRequestPerform who s
  | .modeRequestMaintain who => Sys2Proof.Machine.execModeRequestMaintain who s
  | .modeRequestSafe who => Sys2Proof.Machine.execModeRequestSafe who s
  | .modeRequestWorkshop who => Sys2Proof.Machine.execModeRequestWorkshop who s
  | .warmResetRequest who => Sys2Proof.Machine.execWarmResetRequest who s
  | .fwVerify who => Sys2Proof.Machine.execFwVerify who s
  | .fwActivateHitless who => Sys2Proof.Machine.execFwActivateHitless who s
  | .fwActivateAtStart who => Sys2Proof.Machine.execFwActivateAtStart who s
  | .rollbackConfirm who => Sys2Proof.Machine.execRollbackConfirm who s
  | .lifecycleRequest who v => Sys2Proof.Machine.execLifecycleRequest who v s
  | .lifecycleTokenWrite who b => Sys2Proof.Machine.execLifecycleTokenWrite who b s
  | .customerKeyWrite who k b => Sys2Proof.Machine.execCustomerKeyWrite who k b s
  | .testNow who c => Sys2Proof.Machine.execTestNow who c s
  | .repairAgain who c => Sys2Proof.Machine.execRepairAgain who c s
  | .selftestRun who mask => Sys2Proof.Machine.execSelftestRun who mask s
  | .selftestAbort who => Sys2Proof.Machine.execSelftestAbort who s
  | .storeRawRead who => Sys2Proof.Machine.execStoreRawRead who s
  | .storeDecodedRead who => Sys2Proof.Machine.execStoreDecodedRead who s
  | .storeBlockErase who => Sys2Proof.Machine.execStoreBlockErase who s
  | .storePageProgram who => Sys2Proof.Machine.execStorePageProgram who s
  | .storeBlockRetire who => Sys2Proof.Machine.execStoreBlockRetire who s
  | .logClear who => Sys2Proof.Machine.execLogClear who s
  | .availabilityClear who => Sys2Proof.Machine.execAvailabilityClear who s
  | .lapEdge => Sys2Proof.Machine.execLapEdge s
  | .sealLap => Sys2Proof.Machine.execSeal s
  | .decisionPoint => Sys2Proof.Machine.execDecisionPoint s
  | .streamingDrainTimeout => Sys2Proof.Machine.execStreamingDrainTimeout s
  | .streamingResumed => Sys2Proof.Machine.execStreamingResumed s
  | .alwaysOnWake => Sys2Proof.Machine.execAlwaysOnWake s
  | .saveDone => Sys2Proof.Machine.execSaveDone s
  | .crfPdu => Sys2Proof.Machine.execCrfPdu s
  | .usbBusReset => Sys2Proof.Machine.execUsbBusReset s
  | .usbSuspend => Sys2Proof.Machine.execUsbSuspend s
  | .usbResume => Sys2Proof.Machine.execUsbResume s
  | .powerUp => Sys2Proof.Machine.execPowerUp s
  | .pwrEnRise => Sys2Proof.Machine.execPwrEnRise s
  | .pwrEnFall => Sys2Proof.Machine.execPwrEnFall s
  | .resetNAssert => Sys2Proof.Machine.execResetNAssert s
  | .resetNRelease => Sys2Proof.Machine.execResetNRelease s
  | .rollCallTimeout => Sys2Proof.Machine.execRollCallTimeout s
  | .patchLoadDone => Sys2Proof.Machine.execPatchLoadDone s
  | .savedLoadCommit => Sys2Proof.Machine.execSavedLoadCommit s
  | .bootLoopGuardClear => Sys2Proof.Machine.execBootLoopGuardClear s
  | .fwVerifyDone => Sys2Proof.Machine.execFwVerifyDone s
  | .activationReadyTimeout => Sys2Proof.Machine.execActivationReadyTimeout s
  | .standbyEntryDone => Sys2Proof.Machine.execStandbyEntryDone s
  | .alarmExpiry => Sys2Proof.Machine.execAlarmExpiry s
  | .thermalTrip => Sys2Proof.Machine.execThermalTrip s
  | .thermalTripEnd => Sys2Proof.Machine.execThermalTripEnd s
  | .vinLockout => Sys2Proof.Machine.execVinLockout s
  | .holdUpEnd => Sys2Proof.Machine.execHoldUpEnd s
  | .recordArchive => Sys2Proof.Machine.execRecordArchive s
  | .fatalResetTimer => Sys2Proof.Machine.execFatalResetTimer s
  | .testPassTimer => Sys2Proof.Machine.execTestPassTimer s
  | .availabilityArchiveTimer => Sys2Proof.Machine.execAvailabilityArchiveTimer s
  | .midiFramingError => Sys2Proof.Machine.execMidiFramingError s
  | .midiOutByteDone => Sys2Proof.Machine.execMidiOutByteDone s
  | .lifeCycleEraseDone => Sys2Proof.Machine.execLifeCycleEraseDone s

end Sys2Proof.Machine
end

