-- ==== Sys2Proof/Safety.lean ====
section
/-! DEFINITION. What holds of the module in every run: the invariants that statements are made in terms of. -/

namespace Sys2Proof.Machine

/-- R459: a Drover holds at most one claim. Sources are kept in canonical form; only a source that exists can be active; no
two active sources have one owner. -/
structure Evc.ClaimsOk (e : Evc) : Prop where
  canonical : Tbl.wf {} e.src = true
  exist : ∀ x ∈ e.src, x.2.act = true → evcExists x.1 = true
  alone : ∀ x ∈ e.src, ∀ y ∈ e.src, x.2.act = true → y.2.act = true → x.2.owner = y.2.owner → x.1 = y.1

/-- The three memories that hold bytes and words keep their canonical form, so that equal contents are equal data. -/
structure State.MemOk (s : State) : Prop where
  dram : Tbl.wf 0 s.dram = true
  cram : Tbl.wf 0 s.cram = true
  csm  : Tbl.wf 0 s.csm = true

/-- What every step keeps, from every state that meets it. -/
structure State.Inv (s : State) : Prop where
  claims : s.evc.ClaimsOk
  mem    : s.MemOk

/-- A sealed lap whose edge finds nothing to do but the lap itself: no manifest, grid change, mode change, save, event, held write, subscription
or episode waits; every cluster is in service and no context is POISONED. -/
structure State.QuietEdge (s : State) : Prop where
  running : s.grid.running = true
  closed  : s.grid.sealed = true
  grid    : s.grid.change = none
  regrid  : s.grid.regrid = false
  man     : s.man.tbl = []
  mode    : s.modes.next = none
  saving  : s.dict.saving = none
  events  : s.starter.waiting = []
  held    : s.held = []
  subsA   : s.dict.portA.subs = []
  subsB   : s.dict.portB.subs = []
  subs    : s.apps.subs = []
  keys    : s.audio.oldKeys = []
  serves  : ∀ c, c < 8 → (clusterOf s c).state = 0
  sound   : ∀ e ∈ s.ctxs, e.2.hdr.state ≠ .poisoned

/-! ### Drovers -/

/-- The instruction word w stands at the pc of Drover d, the core may issue it, and nothing comes before it at this boundary
(R436, R438): no watchdog, no arithmetic exception that is due, no fetch that is denied. -/
structure State.Issues (s : State) (d : Nat) (w : BitVec 32) : Prop where
  free    : (drvOf s d).issues = true
  due     : drvDue (drvOf s d) = false
  granted : fetchFault (drvOf s d) ((drvOf s d).pc.toNat / 4 * 4) = none
  fetched : ((fetchQueue (drvOf s d)).head?).map (fun e => e.2) = some w

/-- A core that has executed the instruction at its pc and goes on at another: the fetch queue moves by one, and an arithmetic
exception that waits has one instruction more behind it (R437). Nothing else changes. -/
def Drover.past (x : Drover) (pc : BitVec 32) : Drover :=
  { x with pc := pc, queue := (fetchQueue x).drop 1, arith := x.arith.map (fun p => { p with count := p.count + 1 }) }

/-- The state in which Drover d has written a register and gone on at pc + 4. -/
def State.wrote (s : State) (d rd : Nat) (v : BitVec 32) : State :=
  setDrv s d (((drvOf s d).past ((drvOf s d).pc + 4)).setReg rd v)

/-- The state in which Drover d has gone on at another pc and written nothing. -/
def State.went (s : State) (d : Nat) (pc : BitVec 32) : State := setDrv s d ((drvOf s d).past pc)

/-- The registers that the fields [20:16] and [15:11] of an instruction word name, as Drover d reads them. -/
def State.rs1 (s : State) (d : Nat) (w : BitVec 32) : BitVec 32 := (drvOf s d).reg (DrvWord.rb ⟨w⟩)
def State.rs2 (s : State) (d : Nat) (w : BitVec 32) : BitVec 32 := (drvOf s d).reg (DrvWord.rc ⟨w⟩)

/-- The byte of a physical address that a store buffer holds: that of its youngest entry with it (R418). -/
def bufSees (buf : List SbEntry) (a : Nat) : Option Byte :=
  buf.foldl (fun b e => if e.holds a then some (Tbl.get 0 e.bytes (a % 8)) else b) none

/-! ### Long-vector units -/

/-- The LVU of core k holds a legal instruction of the given VOP and may carry it out by chapter 6 (R210, R245): it is not
stopped, no scalar fault precedes it (R239), its micro-program stands in ROM, and it is not one that has been stopped and resumed. -/
structure State.Vector (s : State) (k : Nat) (o : LvuOp) (vop : Nat) : Prop where
  held    : (lvuOf s k).busy = some o
  named   : o.vop.toNat = vop
  legal   : vecOk (groupOf o.vg) vop o.opd.toNat = true
  going   : (lvuOf s k).stopped = false
  working : (lvuOf s k).halt = false
  clear   : (coreOf s k).fault = none
  rom     : (lvuOf s k).plainRom = true
  fresh   : (lvuOf s k).micro.resumed = false ∧ (lvuOf s k).micro.walk = false ∧ (lvuOf s k).micro.flagged = none
  unasked : (lvuOf s k).stopRq = false

/-- Element e of the vector register Vr, or of the vector accumulator VAr, of core k. -/
def State.vec (s : State) (k r e : Nat) : BitVec 24 := Tbl.get 0 (lvuOf s k).v (128 * r + e)
def State.vacc (s : State) (k r e : Nat) : BitVec 56 := Tbl.get 0 (lvuOf s k).va (128 * r + e)

/-- The state in which the LVU of core k has completed with the contents l and the rest of the core is c. -/
def State.completed (s : State) (k : Nat) (l : Lvu) : State := setCore s k { coreOf s k with lvu := l.idle }

/-- The state in which the LVU of core k has completed o with the contents l; first is the lowest element that set a flag. With
PRECISE = 1 the core stops at the instruction and PXE names the element (R217). -/
def State.completedFlagged (s : State) (k : Nat) (o : LvuOp) (l : Lvu) (first : Option Nat) : State :=
  match first with
  | none => s.completed k l
  | some e =>
    let c := { coreOf s k with lvu := l.idle }
    setCore s k (if o.mode.getLsbD 2 then { c.halted with pxpc := o.pc, pxe := BitVec.ofNat 24 (0x800000 + e % 128) } else c)

/-- t is s with the contents c in core k; the count of the free values used may differ. -/
structure State.CoreIs (s t : State) (k : Nat) (c : SigCore) : Prop where
  here  : coreOf t k = c
  there : ∀ j, j ≠ k → coreOf t j = coreOf s j
  rest  : { t with cores := s.cores, free := s.free } = s

/-- In t the LVU of core k has completed o and is idle: nothing but its V and VA registers and VSTAT has changed, and with
PRECISE = 1 perhaps the core's phase, the phase it goes on from, PXPC and PXE (R217). -/
structure State.Finished (s t : State) (k : Nat) (o : LvuOp) : Prop where
  core : s.CoreIs t k { coreOf s k with lvu := (lvuOf t k), phase := (coreOf t k).phase, resume := (coreOf t k).resume, pxpc := (coreOf t k).pxpc, pxe := (coreOf t k).pxe }
  lvu  : { lvuOf t k with v := (lvuOf s k).v, va := (lvuOf s k).va, vstat := (lvuOf s k).vstat } = (lvuOf s k).idle
  goes : o.mode.getLsbD 2 = false →
    (coreOf t k).phase = (coreOf s k).phase ∧ (coreOf t k).resume = (coreOf s k).resume ∧ (coreOf t k).pxpc = (coreOf s k).pxpc ∧ (coreOf t k).pxe = (coreOf s k).pxe

/-! ### Signal cores -/

/-- Core k is about to issue the bundle b in its normal class: no start is due (R104), nothing is in flight, no loop, repetition or delay is in
progress, the bundle is legal, can be read, does not stall and does not fault (R115, R161, R202). -/
structure State.Bundle (s : State) (k : Nat) (b : Bundle) : Prop where
  issues  : issuing (coreOf s k) = true
  undisturbed : startWaits s (coreOf s k) = false
  normal  : (coreOf s k).fastOn = false
  landed  : (coreOf s k).n.fly = []
  single  : (coreOf s k).n.rep = none
  direct  : (coreOf s k).n.delay = none
  outside : (coreOf s k).n.stack = []
  fetched : fetchBundle (coreOf s k) (coreOf s k).n.pc.toNat = b
  sound   : progUpset (coreOf s k) b = false
  legal   : illegalSlots (coreOf s k) (coreOf s k).n b = 0
  ready   : lvuStall (coreOf s k) b = false
  returns : returnStall (coreOf s k) b = false
  clear   : bundleFault (coreOf s k) (coreOf s k).n b = none

/-! ### The object dictionary -/

/-- A write of a value by a requester passes every check that R479 makes before the object's own rule: the object exists, the
requester may write it, the value has its length and its range, the mode serves writes, the object is not fixed by hardware, and the
requester holds the semaphores that guard it. -/
structure State.Writable (s : State) (who : Requester) (ix sub : Nat) (val : Bytes) : Prop where
  serves : serving s = true
  passes : ∃ r, odFind ix sub = .ok r ∧ mayWrite who r = true ∧ lengthOk r ix sub val.length = true ∧
    rangeOk s s.dict.od r ix sub val = true ∧ r.fl.testBit 1 = false ∧ holdsGuards s who ix r = true

/-- The state after a write of object ix.sub that succeeds with the effect u on the state s: the requester is told OK, subscriptions of an
object that shows another value note it (R492), declared streams follow (R517), and update and application objects keep the code (Tables 11.25, 16.11). -/
def State.told (s : State) (ix sub : Nat) (u : State) : State :=
  answered .ok [] (noteStatus ix sub (.ok, noteChange ix sub s (afterStreams ix s u))).2

end Sys2Proof.Machine
end

