-- ==== Sys2Proof/Certificates/Slice0/Obligations.lean ====
section
/-! DEFINITION. The statements for the provers: what the commands do, family by family, and what every step keeps. -/

open Sys2Proof Sys2Proof.Machine

/-! ### The queue and the whole machine -/

/-- log 1 (DESIGN CHOICE, for R490's order of arrival): a step carries out the command at the front of the queue, with the queue's rest; an empty queue idles. -/
def Obligations.StepRunsFrontCommand : Prop :=
  ∀ s : State, (∀ c rest, s.pending = c :: rest → step s = exec c { s with pending := rest }) ∧
    (s.pending = [] → step s = .next s)

/-- The guide's rule for a block: no command stops the machine, and none touches the queue of those that wait behind it. -/
def Obligations.CommandsKeepTheQueue : Prop :=
  ∀ (c : Instr) (s : State), (∃ t, exec c s = .next t) ∧ (s.evc.ClaimsOk → s.MemOk → ∃ t, exec c s = .next t ∧ t.pending = s.pending)

/-- R459 and the canonical form of the memories (log 3): what State.Inv says holds after every step from every state that meets it. -/
def Obligations.StepKeepsInvariant : Prop :=
  ∀ s t : State, s.Inv → step s = .next t → t.Inv

/-- The invariant holds at reset. -/
def Obligations.ResetMeetsInvariant : Prop := State.reset.Inv

/-- R605: no step takes the life-cycle state back. -/
def Obligations.LifeCycleOnlyForward : Prop :=
  ∀ s t : State, s.Inv → step s = .next t → s.modes.life ≤ t.modes.life

/-! ### Drovers (chapter 11) -/

/-- Tables 11.8a to 11.8d (R407, R408): which words are which instruction. A word that none of the lines names is illegal. -/
def Obligations.DroverEncodings : Prop :=
  ∀ w : BitVec 32,
    let op := (w.extractLsb' 26 6).toNat; let rd := (w.extractLsb' 21 5).toNat; let rs1 := (w.extractLsb' 16 5).toNat
    let rs2 := (w.extractLsb' 11 5).toNat; let sh := (w.extractLsb' 6 5).toNat; let fn := (w.extractLsb' 0 6).toNat
    let imm10 := (w.extractLsb' 6 10).toNat
    let is (o : DrvOp) (p : Prop) : Prop := drvDecode ⟨w⟩ = some o ↔ p
    let alu (n : Nat) : Prop := op = 0x01 ∧ fn = n ∧ sh = 0
    let mulg (n : Nat) : Prop := op = 0x02 ∧ fn = n ∧ sh = 0
    let sys (n : Nat) : Prop := op = 0x3F ∧ fn = n
    (is .addi (op = 0x08) ∧ is .andi (op = 0x09) ∧ is .ori (op = 0x0A) ∧ is .xori (op = 0x0B) ∧ is .slti (op = 0x0C) ∧ is .sltiu (op = 0x0D) ∧
     is .lui (op = 0x0E ∧ rs1 = 0) ∧ is .addpc (op = 0x0F ∧ rs1 = 0)) ∧
    (is .lb (op = 0x10) ∧ is .lbu (op = 0x11) ∧ is .lh (op = 0x12) ∧ is .lhu (op = 0x13) ∧ is .lw (op = 0x14) ∧ is .lwx (op = 0x15) ∧
     is .sb (op = 0x18) ∧ is .sh (op = 0x19) ∧ is .sw (op = 0x1A) ∧ is .swx (op = 0x1B ∧ sh = 0 ∧ fn = 0)) ∧
    (is .beq (op = 0x20) ∧ is .bne (op = 0x21) ∧ is .blt (op = 0x22) ∧ is .bge (op = 0x23) ∧ is .bltu (op = 0x24) ∧ is .bgeu (op = 0x25) ∧
     is .j (op = 0x28) ∧ is .jl (op = 0x29) ∧ is .jr (op = 0x2A ∧ rs2 = 0 ∧ sh = 0 ∧ fn = 0)) ∧
    (is .add (alu 0x01) ∧ is .sub (alu 0x02) ∧ is .addv (alu 0x03) ∧ is .subv (alu 0x04) ∧ is .and (alu 0x05) ∧ is .or (alu 0x06) ∧
     is .xor (alu 0x07) ∧ is .nor (alu 0x08) ∧ is .slt (alu 0x09) ∧ is .sltu (alu 0x0A) ∧ is .sll (alu 0x0B) ∧ is .srl (alu 0x0C) ∧
     is .sra (alu 0x0D) ∧ is .min (alu 0x11) ∧ is .max (alu 0x12) ∧ is .minu (alu 0x13) ∧ is .maxu (alu 0x14) ∧
     is .slli (op = 0x01 ∧ fn = 0x0E ∧ rs2 = 0) ∧ is .srli (op = 0x01 ∧ fn = 0x0F ∧ rs2 = 0) ∧ is .srai (op = 0x01 ∧ fn = 0x10 ∧ rs2 = 0) ∧
     is .clz (alu 0x15 ∧ rs2 = 0) ∧ is .sextb (alu 0x16 ∧ rs2 = 0) ∧ is .sexth (alu 0x17 ∧ rs2 = 0)) ∧
    (is .mul (mulg 0x01) ∧ is .mulh (mulg 0x02) ∧ is .mulhu (mulg 0x03) ∧ is .div (mulg 0x04) ∧ is .divu (mulg 0x05) ∧ is .rem (mulg 0x06) ∧
     is .remu (mulg 0x07)) ∧
    (is .trap (sys 0x01 ∧ imm10 < 64 ∧ rd = 0 ∧ rs1 = 0) ∧ is .eret (sys 0x02 ∧ imm10 = 0 ∧ rd = 0 ∧ rs1 = 0) ∧
     is .mfcr (sys 0x03 ∧ imm10 < 256 ∧ rs1 = 0) ∧ is .mtcr (sys 0x04 ∧ imm10 < 256 ∧ rd = 0) ∧ is .icinv (sys 0x05 ∧ imm10 = 0 ∧ rd = 0) ∧
     is .isync (sys 0x06 ∧ imm10 = 0 ∧ rd = 0 ∧ rs1 = 0) ∧ is .dcclean (sys 0x07 ∧ imm10 = 0 ∧ rd = 0) ∧ is .dcinv (sys 0x08 ∧ imm10 = 0 ∧ rd = 0) ∧
     is .dcflush (sys 0x09 ∧ imm10 = 0 ∧ rd = 0) ∧ is .dsync (sys 0x0A ∧ imm10 = 0 ∧ rd = 0 ∧ rs1 = 0) ∧
     is .wfi (sys 0x0B ∧ imm10 = 0 ∧ rd = 0 ∧ rs1 = 0) ∧ is .brk (sys 0x0C ∧ imm10 = 0 ∧ rd = 0 ∧ rs1 = 0))

/-- R398, R399: W0 reads 0 and a write to it is discarded; W30 is the stack pointer of the current privilege; a write of one
register changes no other, and no other part of the core. -/
def Obligations.DroverRegisters : Prop :=
  ∀ (x : Drover) (n m : Fin 32) (v : BitVec 32),
    x.reg 0 = 0 ∧ x.setReg 0 v = x ∧ x.reg 30 = Tbl.get 0 x.sp x.priv ∧
    (n ≠ 0 → (x.setReg n v).reg n = v) ∧ (m ≠ n → (x.setReg n v).reg m = x.reg m) ∧
    (∀ p, p ≠ x.priv ∨ n ≠ 30 → Tbl.get 0 (x.setReg n v).sp p = Tbl.get 0 x.sp p) ∧
    { x.setReg n v with w := x.w, sp := x.sp } = x

/-- R408, Tables 11.8a and 11.8b: ADDI to ADDPC, with the 16-bit immediate sign- or zero-extended as the table says, and the ALU group without ADDV
and SUBV write rd, and the core goes on at PC + 4; nothing else changes (State.wrote). -/
def Obligations.DroverAlu : Prop :=
  ∀ (d : Fin 4) (s : State) (w : BitVec 32), s.Issues d w →
    let rd := (w.extractLsb' 21 5).toNat; let a := s.rs1 d w; let b := s.rs2 d w; let pc := (drvOf s d).pc
    let z : BitVec 32 := (w.extractLsb' 0 16).setWidth 32; let x : BitVec 32 := (w.extractLsb' 0 16).signExtend 32
    let sh := (w.extractLsb' 6 5).toNat; let n := b.toNat % 32
    (drvDecode ⟨w⟩ = some .addi → exec (.drvAddi d) s = .next (s.wrote d rd (a + x))) ∧
    (drvDecode ⟨w⟩ = some .andi → exec (.drvAndi d) s = .next (s.wrote d rd (a &&& z))) ∧
    (drvDecode ⟨w⟩ = some .ori → exec (.drvOri d) s = .next (s.wrote d rd (a ||| z))) ∧
    (drvDecode ⟨w⟩ = some .xori → exec (.drvXori d) s = .next (s.wrote d rd (a ^^^ z))) ∧
    (drvDecode ⟨w⟩ = some .slti → exec (.drvSlti d) s = .next (s.wrote d rd (if a.toInt < x.toInt then 1 else 0))) ∧
    (drvDecode ⟨w⟩ = some .sltiu → exec (.drvSltiu d) s = .next (s.wrote d rd (if a.toNat < x.toNat then 1 else 0))) ∧
    (drvDecode ⟨w⟩ = some .lui → exec (.drvLui d) s = .next (s.wrote d rd (z <<< 16))) ∧
    (drvDecode ⟨w⟩ = some .addpc → exec (.drvAddpc d) s = .next (s.wrote d rd (pc + x * 4))) ∧
    (drvDecode ⟨w⟩ = some .add → exec (.drvAdd d) s = .next (s.wrote d rd (BitVec.ofNat 32 (a.toNat + b.toNat)))) ∧
    (drvDecode ⟨w⟩ = some .sub → exec (.drvSub d) s = .next (s.wrote d rd (BitVec.ofInt 32 (a.toInt - b.toInt)))) ∧
    (drvDecode ⟨w⟩ = some .and → exec (.drvAnd d) s = .next (s.wrote d rd (a &&& b))) ∧
    (drvDecode ⟨w⟩ = some .or → exec (.drvOr d) s = .next (s.wrote d rd (a ||| b))) ∧
    (drvDecode ⟨w⟩ = some .xor → exec (.drvXor d) s = .next (s.wrote d rd (a ^^^ b))) ∧
    (drvDecode ⟨w⟩ = some .nor → exec (.drvNor d) s = .next (s.wrote d rd (~~~a &&& ~~~b))) ∧
    (drvDecode ⟨w⟩ = some .slt → exec (.drvSlt d) s = .next (s.wrote d rd (if a.toInt < b.toInt then 1 else 0))) ∧
    (drvDecode ⟨w⟩ = some .sltu → exec (.drvSltu d) s = .next (s.wrote d rd (if a.toNat < b.toNat then 1 else 0))) ∧
    (drvDecode ⟨w⟩ = some .sll → exec (.drvSll d) s = .next (s.wrote d rd (BitVec.ofNat 32 (a.toNat * 2 ^ n)))) ∧
    (drvDecode ⟨w⟩ = some .srl → exec (.drvSrl d) s = .next (s.wrote d rd (BitVec.ofNat 32 (a.toNat / 2 ^ n)))) ∧
    (drvDecode ⟨w⟩ = some .sra → exec (.drvSra d) s = .next (s.wrote d rd (BitVec.ofInt 32 (a.toInt / 2 ^ n)))) ∧
    (drvDecode ⟨w⟩ = some .slli → exec (.drvSlli d) s = .next (s.wrote d rd (BitVec.ofNat 32 (a.toNat * 2 ^ sh)))) ∧
    (drvDecode ⟨w⟩ = some .srli → exec (.drvSrli d) s = .next (s.wrote d rd (BitVec.ofNat 32 (a.toNat / 2 ^ sh)))) ∧
    (drvDecode ⟨w⟩ = some .srai → exec (.drvSrai d) s = .next (s.wrote d rd (BitVec.ofInt 32 (a.toInt / 2 ^ sh)))) ∧
    (drvDecode ⟨w⟩ = some .min → exec (.drvMin d) s = .next (s.wrote d rd (BitVec.ofInt 32 (min a.toInt b.toInt)))) ∧
    (drvDecode ⟨w⟩ = some .max → exec (.drvMax d) s = .next (s.wrote d rd (BitVec.ofInt 32 (max a.toInt b.toInt)))) ∧
    (drvDecode ⟨w⟩ = some .minu → exec (.drvMinu d) s = .next (s.wrote d rd (BitVec.ofNat 32 (min a.toNat b.toNat)))) ∧
    (drvDecode ⟨w⟩ = some .maxu → exec (.drvMaxu d) s = .next (s.wrote d rd (BitVec.ofNat 32 (max a.toNat b.toNat)))) ∧
    (drvDecode ⟨w⟩ = some .clz → ∃ k : Nat, k ≤ 32 ∧ a.toNat < 2 ^ (32 - k) ∧ (k < 32 → 2 ^ (31 - k) ≤ a.toNat) ∧
      exec (.drvClz d) s = .next (s.wrote d rd (BitVec.ofNat 32 k))) ∧
    (drvDecode ⟨w⟩ = some .sextb → exec (.drvSextb d) s = .next (s.wrote d rd (BitVec.ofInt 32 (a.setWidth 8).toInt))) ∧
    (drvDecode ⟨w⟩ = some .sexth → exec (.drvSexth d) s = .next (s.wrote d rd (BitVec.ofInt 32 (a.setWidth 16).toInt)))

/-- R408, R409, R437, Tables 11.8b and 11.8c: ADDV, SUBV and the MUL group write their result first; where the table names an
arithmetic exception, the state is the one that exception 8 of that KIND is raised in (arithRaise), and otherwise nothing but rd and
the pc changes. -/
def Obligations.DroverArithmetic : Prop :=
  ∀ (d : Fin 4) (s : State) (w : BitVec 32), s.Issues d w →
    let rd := (w.extractLsb' 21 5).toNat; let a := s.rs1 d w; let b := s.rs2 d w; let pc := (drvOf s d).pc.toNat
    let fits (v : Int) : Prop := -2 ^ 31 ≤ v ∧ v < 2 ^ 31
    let big : BitVec 32 := 0x80000000; let ones : BitVec 32 := 0xFFFFFFFF
    let done (c : Instr) (v : BitVec 32) : Prop := exec c s = .next (s.wrote d rd v)
    let raised (c : Instr) (v : BitVec 32) (kind : Nat) : Prop := exec c s = .next (arithRaise d pc kind (s.wrote d rd v))
    (drvDecode ⟨w⟩ = some .addv → (fits (a.toInt + b.toInt) → done (.drvAddv d) (a + b)) ∧
      (¬ fits (a.toInt + b.toInt) → raised (.drvAddv d) (a + b) 0)) ∧
    (drvDecode ⟨w⟩ = some .subv → (fits (a.toInt - b.toInt) → done (.drvSubv d) (a - b)) ∧
      (¬ fits (a.toInt - b.toInt) → raised (.drvSubv d) (a - b) 1)) ∧
    (drvDecode ⟨w⟩ = some .mul → done (.drvMul d) (BitVec.ofNat 32 (a.toNat * b.toNat))) ∧
    (drvDecode ⟨w⟩ = some .mulh → done (.drvMulh d) (BitVec.ofInt 32 (a.toInt * b.toInt / 2 ^ 32))) ∧
    (drvDecode ⟨w⟩ = some .mulhu → done (.drvMulhu d) (BitVec.ofNat 32 (a.toNat * b.toNat / 2 ^ 32))) ∧
    (drvDecode ⟨w⟩ = some .div → (b = 0 → raised (.drvDiv d) ones 2) ∧ (a = big → b = ones → raised (.drvDiv d) big 3) ∧
      (b ≠ 0 → ¬ (a = big ∧ b = ones) → done (.drvDiv d) (BitVec.ofInt 32 (a.toInt.tdiv b.toInt)))) ∧
    (drvDecode ⟨w⟩ = some .divu → (b = 0 → raised (.drvDivu d) ones 2) ∧ (b ≠ 0 → done (.drvDivu d) (BitVec.ofNat 32 (a.toNat / b.toNat)))) ∧
    (drvDecode ⟨w⟩ = some .rem → (b = 0 → raised (.drvRem d) a 2) ∧ (a = big → b = ones → done (.drvRem d) 0) ∧
      (b ≠ 0 → ¬ (a = big ∧ b = ones) → done (.drvRem d) (BitVec.ofInt 32 (a.toInt.tmod b.toInt)))) ∧
    (drvDecode ⟨w⟩ = some .remu → (b = 0 → raised (.drvRemu d) a 2) ∧ (b ≠ 0 → done (.drvRemu d) (BitVec.ofNat 32 (a.toNat % b.toNat))))

/-- R437: with an arithmetic exception pending a further one is only counted in AXLOST, saturating at 255; with PRECISE = 1 it is
taken before the next instruction; otherwise it waits, and executing an instruction brings it one nearer. AXADDR and KIND are kept. -/
def Obligations.DroverArithmeticException : Prop :=
  ∀ (d : Fin 4) (s : State) (at_ kind : Nat), kind < 4 →
    let x := drvOf s d; let esr : BitVec 32 := BitVec.ofNat 32 (at_ / 4 * 4 + kind)
    (x.arith.isSome → arithRaise d at_ kind s = setDrv s d { x with axlost := min 255 (x.axlost + 1) }) ∧
    (x.arith = none → x.precise = true → arithRaise d at_ kind s = drvEnter d 8 x.pc esr 0 s) ∧
    (x.arith = none → x.precise = false → arithRaise d at_ kind s = setDrv s d { x with arith := some { at_ := at_, kind := kind, count := 0 } }) ∧
    (∀ n, x.issues = true → x.arith = some { at_ := at_, kind := kind, count := n } →
      exec (.arithExceptionTaken d) s = .next (drvEnter d 8 x.pc esr 0 (setDrv s d { x with arith := none }))) ∧
    (∀ w n, s.Issues d w → drvDecode ⟨w⟩ = some .add → x.arith = some { at_ := at_, kind := kind, count := n } → n < 16 ∧
      ∃ t, exec (.drvAdd d) s = .next t ∧ (drvOf t d).arith = some { at_ := at_, kind := kind, count := n + 1 })

/-- R407, Table 11.8a: branches and jumps. A branch changes no register; JL writes W31 and JR its rd with PC + 4. -/
def Obligations.DroverJumps : Prop :=
  ∀ (d : Fin 4) (s : State) (w : BitVec 32), s.Issues d w →
    let x := drvOf s d; let pc := x.pc
    let a := x.reg (w.extractLsb' 21 5).toNat; let b := x.reg (w.extractLsb' 16 5).toNat
    let near : BitVec 32 := pc + 4 * (w.extractLsb' 0 16).signExtend 32; let far : BitVec 32 := pc + 4 * (w.extractLsb' 0 26).signExtend 32
    let goes (c : Instr) (p : Prop) : Prop := (p → exec c s = .next (s.went d near)) ∧ (¬ p → exec c s = .next (s.went d (pc + 4)))
    (drvDecode ⟨w⟩ = some .beq → goes (.drvBeq d) (a = b)) ∧ (drvDecode ⟨w⟩ = some .bne → goes (.drvBne d) (a ≠ b)) ∧
    (drvDecode ⟨w⟩ = some .blt → goes (.drvBlt d) (a.toInt < b.toInt)) ∧ (drvDecode ⟨w⟩ = some .bge → goes (.drvBge d) (b.toInt ≤ a.toInt)) ∧
    (drvDecode ⟨w⟩ = some .bltu → goes (.drvBltu d) (a.toNat < b.toNat)) ∧ (drvDecode ⟨w⟩ = some .bgeu → goes (.drvBgeu d) (b.toNat ≤ a.toNat)) ∧
    (drvDecode ⟨w⟩ = some .j → exec (.drvJ d) s = .next (s.went d far)) ∧
    (drvDecode ⟨w⟩ = some .jl → exec (.drvJl d) s = .next (setDrv s d ((x.past far).setReg 31 (pc + 4)))) ∧
    (drvDecode ⟨w⟩ = some .jr → exec (.drvJr d) s =
      .next (setDrv s d ((x.past (BitVec.ofNat 32 (b.toNat / 4 * 4))).setReg (w.extractLsb' 21 5).toNat (pc + 4))))

/-- R403, R414, R428 to R430, R432: which region decides an address, whom it grants what, and the exception that a load or store
takes instead of its effect, with the ESR of Table 11.17: the first of the checks that fails. -/
def Obligations.DroverAccessChecks : Prop :=
  ∀ (x : Drover) (a n : Nat) (write : Bool), 0 < n → a < 2 ^ 32 →
    let z := (a + n - 1) % 2 ^ 32
    let covers (r : Nat) : Prop := (Tbl.get 0 x.mpuB r).getLsbD 0 = true ∧ (Tbl.get 0 x.mpuB r).toNat / 64 * 64 ≤ a ∧
      a ≤ (Tbl.get 0 x.mpuA r).toNat / 64 * 64 + 63
    (∀ r, mpuDecide x a = some r ↔ r < 16 ∧ covers r ∧ ∀ q, q < r → ¬ covers q) ∧
    (∀ kind, mpuGrant x 2 a kind = true) ∧
    (∀ p kind, p < 2 → (mpuGrant x p a kind = true ↔ ∃ r, mpuDecide x a = some r ∧ (Tbl.get 0 x.mpuA r).getLsbD (3 * p + kind) = true)) ∧
    (let two := drvRegion a ≠ drvRegion z; let off := (drvRegion a).device = true ∧ a % n ≠ 0
     let split := x.priv < 2 ∧ mpuDecide x a ≠ mpuDecide x z; let denied := mpuGrant x x.priv a (if write then 1 else 0) = false
     let none := drvRegion a = .unmapped; let rom := write = true ∧ drvRegion a = .rom
     (two → dataFault x a n write = some (7, 2)) ∧ (¬ two → off → dataFault x a n write = some (7, 3)) ∧
     (¬ two → ¬ off → split → dataFault x a n write = some (7, 1)) ∧
     (¬ two → ¬ off → ¬ split → denied → dataFault x a n write = some (if write then 5 else 4, 1)) ∧
     (¬ two → ¬ off → ¬ split → ¬ denied → none → dataFault x a n write = some (9, 1)) ∧
     (¬ two → ¬ off → ¬ split → ¬ denied → ¬ none → rom → dataFault x a n write = some (9, 2)) ∧
     (¬ two → ¬ off → ¬ split → ¬ denied → ¬ none → ¬ rom → dataFault x a n write = .none))

/-- R408, R413, R418: LB, LBU, LH, LHU and LW at rs1 + sext(imm16). A load of control RAM that no buffered store overlaps reads control
RAM; a load outside device space whose bytes the youngest buffered store holds takes them from it; a load that may not be made raises its
exception with EPC the instruction and EFA the address. -/
def Obligations.DroverLoads : Prop :=
  ∀ (d : Fin 4) (s : State) (w : BitVec 32), s.Issues d w →
    let x := drvOf s d; let rd := (w.extractLsb' 21 5).toNat; let a := (s.rs1 d w + (w.extractLsb' 0 16).signExtend 32).toNat
    let load (c : Instr) (o : DrvOp) (n : Nat) (val : Nat → BitVec 32) : Prop := drvDecode ⟨w⟩ = some o →
      (∀ k esr, dataFault x a n false = some (k, esr) → exec c s = .next (drvRaise d k x.pc (BitVec.ofNat 32 esr) (BitVec.ofNat 32 a) s)) ∧
      (dataFault x a n false = none → drvRegion a = .cram → cramBad s (a - 0x10000000) n = false →
        (∀ e ∈ x.buf, ∀ i, i < n → e.holds (a + i) = false) →
        exec c s = .next (s.wrote d rd (val (leNat (Tbl.slice 0 s.cram (a - 0x10000000) n))))) ∧
      (∀ older e, dataFault x a n false = none → (drvRegion a).device = false → x.buf = older ++ [e] →
        (∀ i, i < n → e.holds (drvPhys x a + i) = true) →
        exec c s = .next (s.wrote d rd (val (leNat ((List.range n).map (fun i => Tbl.get 0 e.bytes ((drvPhys x a + i) % 8)))))))
    load (.drvLb d) .lb 1 (fun v => (BitVec.ofNat 8 v).signExtend 32) ∧ load (.drvLbu d) .lbu 1 (fun v => BitVec.ofNat 32 v) ∧
    load (.drvLh d) .lh 2 (fun v => (BitVec.ofNat 16 v).signExtend 32) ∧ load (.drvLhu d) .lhu 2 (fun v => BitVec.ofNat 32 v) ∧
    load (.drvLw d) .lw 4 (fun v => BitVec.ofNat 32 v)

/-- R408, R416, R417: SB, SH and SW at rs1 + sext(imm16) complete: with room for two granules the store enters the buffer and the core goes on, and
nothing but the core's buffer, pc and fetch changes. The buffer then holds the stored bytes at their physical addresses, least significant first, and
what it held at every other; in control RAM the core sees the same. A full buffer of control RAM stores drains for it, and the core goes on too. -/
def Obligations.DroverStores : Prop :=
  ∀ (d : Fin 4) (s : State) (w : BitVec 32), s.Issues d w →
    let x := drvOf s d; let v := (x.reg (w.extractLsb' 21 5).toNat).toNat; let a := (s.rs1 d w + (w.extractLsb' 0 16).signExtend 32).toNat
    let store (c : Instr) (o : DrvOp) (n : Nat) : Prop := drvDecode ⟨w⟩ = some o →
      (∀ k esr, dataFault x a n true = some (k, esr) → exec c s = .next (drvRaise d k x.pc (BitVec.ofNat 32 esr) (BitVec.ofNat 32 a) s)) ∧
      (dataFault x a n true = none → x.buf.length ≤ 8 → (∀ e ∈ x.buf, drvRegion e.addr = .cram) →
        ∃ t, exec c s = .next t ∧ (drvOf t d).pc = x.pc + 4 ∧ (drvOf t d).w = x.w ∧ (drvOf t d).buf.length ≤ 8 ∧ t.dram = s.dram ∧ t.csm = s.csm ∧
          ∀ i, i < n → bufSees (drvOf t d).buf (drvPhys x a + i) = some (BitVec.ofNat 8 (v / 256 ^ i))) ∧
      (dataFault x a n true = none → x.buf.length ≤ 6 → ∃ b, exec c s = .next (setDrv s d { x.past (x.pc + 4) with buf := b }) ∧
        (∀ z, bufSees b z = if drvPhys x a ≤ z ∧ z < drvPhys x a + n then some (BitVec.ofNat 8 (v / 256 ^ (z - drvPhys x a))) else bufSees x.buf z) ∧
        (drvRegion a = .cram → ∀ z, drvRegion z = .cram → cramSees s { x with buf := b } z =
          if a ≤ z ∧ z < a + n then BitVec.ofNat 8 (v / 256 ^ (z - a)) else cramSees s x z))
    store (.drvSb d) .sb 1 ∧ store (.drvSh d) .sh 2 ∧ store (.drvSw d) .sw 4

/-- R421, with an empty store buffer: LWX loads and sets the reservation on the 16-byte granule. SWX writes rs2 and gives 0 with the
reservation on that granule, takes it from the other Drovers that hold it, and otherwise writes nothing and gives 1; it clears its own either
way. Elsewhere than in control RAM exception 9 comes, and 7 at an address that is not a multiple of 4. -/
def Obligations.DroverExclusives : Prop :=
  ∀ (d : Fin 4) (s : State) (w : BitVec 32), s.Issues d w → (drvOf s d).buf = [] →
    let x := drvOf s d; let rd := (w.extractLsb' 21 5).toNat; let base := s.rs1 d w
    (drvDecode ⟨w⟩ = some .lwx →
      let a := (base + (w.extractLsb' 0 16).signExtend 32).toNat
      (a % 4 ≠ 0 → exec (.drvLwx d) s = .next (drvRaise d 7 x.pc 3 (BitVec.ofNat 32 a) s)) ∧
      (a % 4 = 0 → drvRegion a ≠ .cram → exec (.drvLwx d) s = .next (drvRaise d 9 x.pc 4 (BitVec.ofNat 32 a) s)) ∧
      (a % 4 = 0 → drvRegion a = .cram → mpuGrant x x.priv a 0 = false → exec (.drvLwx d) s = .next (drvRaise d 4 x.pc 1 (BitVec.ofNat 32 a) s)) ∧
      (a % 4 = 0 → drvRegion a = .cram → mpuGrant x x.priv a 0 = true → cramBad s (a - 0x10000000) 4 = false →
        exec (.drvLwx d) s = .next (setDrv s d { (x.past (x.pc + 4)).setReg rd
          (BitVec.ofNat 32 (leNat (Tbl.slice 0 s.cram (a - 0x10000000) 4))) with resv := some ((a - 0x10000000) / 16) }))) ∧
    (drvDecode ⟨w⟩ = some .swx →
      let a := base.toNat; let off := a - 0x10000000
      (a % 4 ≠ 0 → exec (.drvSwx d) s = .next (drvRaise d 7 x.pc 3 base s)) ∧
      (a % 4 = 0 → drvRegion a ≠ .cram → exec (.drvSwx d) s = .next (drvRaise d 9 x.pc 4 base s)) ∧
      (a % 4 = 0 → drvRegion a = .cram → mpuGrant x x.priv a 1 = false → exec (.drvSwx d) s = .next (drvRaise d 5 x.pc 1 base s)) ∧
      (a % 4 = 0 → drvRegion a = .cram → mpuGrant x x.priv a 1 = true →
        let after (r : BitVec 32) : Drover := { (x.past (x.pc + 4)).setReg rd r with resv := none }
        (x.resv ≠ some (off / 16) → exec (.drvSwx d) s = .next (setDrv s d (after 1))) ∧
        (x.resv = some (off / 16) → ∃ t, exec (.drvSwx d) s = .next t ∧ drvOf t d = after 0 ∧
          (∀ z, Tbl.get 0 t.cram z = if off ≤ z ∧ z < off + 4 then BitVec.ofNat 8 ((s.rs2 d w).toNat / 256 ^ (z - off)) else Tbl.get 0 s.cram z) ∧
          (∀ e : Fin 4, e ≠ d → drvOf t e = if (drvOf s e).resv = some (off / 16) then { drvOf s e with resv := none } else drvOf s e) ∧
          t.dram = s.dram ∧ t.csm = s.csm)))

/-- R433, R434, R442, R443: what exception entry does. With a valid descriptor and a frame that may be written, the eight words of Table
11.16 stand in control RAM below the new stack pointer and the core's registers are those of step 8 and 9. With a descriptor that cannot be
used, the same through descriptor 1 on the emergency stack, with DF = 1. With DF = 1 already the core enters CHECKSTOP. -/
def Obligations.DroverExceptionEntry : Prop :=
  ∀ (d : Fin 4) (s : State) (k : Nat) (epc esr efa : BitVec 32),
    let x := drvOf s d; let t := drvEnter d k epc esr efa s
    let word (t : State) (a o : Nat) : BitVec 32 := BitVec.ofNat 32 (leNat (Tbl.slice 0 t.cram (a - 0x10000000 + o) 4))
    let frame (t : State) (a : Nat) (ws : List (BitVec 32)) : Prop := ∀ i, i < 8 → word t a (4 * i) = ws.getD i 0
    (x.df = false → descOk s x k = true →
      let e := descRead s x k; let p := max e.tpriv x.priv
      let sp := if e.ctl.getLsbD 3 then Tbl.get 0 x.sp p else e.spval
      frameFault x p sp e.limit = none → (x.priv ≠ 0 ∨ 32 ≤ k ∨ Tbl.get 0 s.apps.current d = 0) → let a := sp.toNat - 32
        frame t a [x.psw, epc, esr, efa, Tbl.get 0 x.sp p] ∧
        drvOf t d = { x with
          sp := Tbl.put 0 x.sp p (BitVec.ofNat 32 a), priv := p, precise := e.ctl.getLsbD 5,
          xie := x.xie && !e.ctl.getLsbD 4, resv := none, wfi := false, queue := [], pc := e.handler,
          buf := x.buf.filter (fun b => !(decide (a ≤ b.at_ ∧ b.at_ + 8 ≤ a + 32))) }) ∧
    (x.df = false → descThere s x k = true → (descRead s x k).valid = false → descOk s x 1 = true →
      let e := descRead s x 1; let a := 0x103FF3E0 + 0x400 * d.val
      frame t a [x.psw, epc, BitVec.ofNat 32 (k + 256), esr, Tbl.get 0 x.sp 2] ∧
      (drvOf t d).pc = e.handler ∧ (drvOf t d).priv = 2 ∧ (drvOf t d).xie = false ∧ (drvOf t d).df = true ∧
      (drvOf t d).precise = e.ctl.getLsbD 5 ∧ Tbl.get 0 (drvOf t d).sp 2 = BitVec.ofNat 32 a ∧ (drvOf t d).w = x.w) ∧
    (x.df = true → (drvOf t d).run = .checkstop ∧ (drvOf t d).resv = none ∧ (drvOf t d).snapPc = x.pc ∧ (drvOf t d).snapPsw = x.psw ∧
      (drvOf t d).snapEsr = k ∧ (drvOf t d).snapEfa = efa ∧ (drvOf t d).buf = x.buf ∧ (drvOf t d).dcache = x.dcache ∧
      (drvOf t d).icache = x.icache ∧ t.cram = s.cram)

/-- R408, R436 to R440, R445, Table 11.17: TRAP, BRK, the external interrupt, the watchdog's first expiry and an illegal word enter the
exception with the EPC, ESR and EFA of the table, when no arithmetic exception waits before them. -/
def Obligations.DroverExceptions : Prop :=
  ∀ (d : Fin 4) (s : State),
    let x := drvOf s d
    (∀ w, s.Issues d w → x.arith = none →
      let n := (w.extractLsb' 6 6).toNat
      (drvDecode ⟨w⟩ = some .trap →
        (x.priv ≠ 0 ∨ descThere s x (64 + n) = true ∧ (descRead s x (64 + n)).ctl.getLsbD 6 = true →
          exec (.drvTrap d) s = .next (drvEnter d (64 + n) (x.pc + 4) (BitVec.ofNat 32 n) 0 s)) ∧
        (x.priv = 0 → descThere s x (64 + n) = true → (descRead s x (64 + n)).ctl.getLsbD 6 = false →
          exec (.drvTrap d) s = .next (drvEnter d 6 x.pc w 0 s))) ∧
      (drvDecode ⟨w⟩ = some .brk → exec (.drvBrk d) s = .next (drvEnter d 14 (x.pc + 4) 0 0 s)) ∧
      (drvDecode ⟨w⟩ = none → exec (.drvAdd d) s = .next (drvEnter d 2 x.pc w 0 s)) ∧
      (∀ o, drvDecode ⟨w⟩ = some o → drvCheck s x o ⟨w⟩ = none → x.xie = true → xirq s.evc d = true →
        exec (.droverInterrupt d) s = .next (drvEnter d 32 x.pc 0 0 (setDrv s d x)))) ∧
    (x.arith = none → x.counts = true → x.first = false → x.read = none →
      exec (.watchdogExpiry d) s = .next (drvEnter d 33 x.pc 0 0 (setDrv s d { x with first := true, wdDue := false, wfi := false })))

/-- R435: ERET in S or M reads the frame at the stack pointer of the privilege, as the core's own stores leave it, and restores the
stack pointer, PSW and PC; it clears the reservation. A frame that would raise privilege raises exception 13, and U may not execute it. -/
def Obligations.DroverEret : Prop :=
  ∀ (d : Fin 4) (s : State) (w : BitVec 32), s.Issues d w → drvDecode ⟨w⟩ = some .eret →
    let x := drvOf s d; let a := (Tbl.get 0 x.sp x.priv).toNat; let psw := cramWord s x a
    (x.priv = 0 → exec (.drvEret d) s = .next (drvRaise d 6 x.pc w 0 s)) ∧
    (1 ≤ x.priv → dataFault x a 32 false = none → drvRegion a = .cram → cramBad s (a - 0x10000000) 20 = false →
      (x.priv < psw.toNat % 4 → exec (.drvEret d) s = .next (drvRaise d 13 x.pc w 0 s)) ∧
      (psw.toNat % 4 ≤ x.priv → exec (.drvEret d) s = .next (setDrv s d { x.past (cramWord s x (a + 4)) with
        sp := Tbl.put 0 x.sp x.priv (cramWord s x (a + 16)), df := psw.getLsbD 4, precise := psw.getLsbD 3, xie := psw.getLsbD 2,
        priv := psw.toNat % 4, resv := none, queue := [] })))

/-- R401, R402, Table 11.3: MFCR and MTCR of every register; which privilege reaches it, what a write leaves of it, and that a write of PSW,
EDTB, XBASE or an MPU register discards the fetched instructions. CYCLO and CYCHI are read in MFCR's last two clauses: CYCLO is a count
that the model leaves open (log 41), whose high word the read latches. -/
def Obligations.DroverControlRegisters : Prop :=
  ∀ (d : Fin 4) (s : State) (w : BitVec 32), s.Issues d w →
    let x := drvOf s d; let n := (w.extractLsb' 6 10).toNat; let rd := (w.extractLsb' 21 5).toNat; let v := s.rs1 d w
    let mpu := 0x20 ≤ n ∧ n ≤ 0x3F; let listed := n ≤ 0x0A ∨ mpu; let r := (n - 0x20) / 2
    let all := n = 0 ∨ n = 5 ∨ n = 7 ∨ n = 8 ∨ n = 9
    let ro := n = 5 ∨ n = 7 ∨ n = 8 ∨ n = 9
    let least : Nat := if all then 0 else if n = 3 then 2 else 1
    let leastW : Nat := if ro then 0 else if n ≤ 2 ∨ n = 6 then 1 else 2
    let y := x.past (x.pc + 4)
    (drvDecode ⟨w⟩ = some .mfcr →
      (¬ listed → exec (.drvMfcr d) s = .next (drvRaise d 2 x.pc w 0 s)) ∧
      (listed → x.priv < least → exec (.drvMfcr d) s = .next (drvRaise d (if x.priv = 0 then 6 else 13) x.pc w 0 s)) ∧
      (listed → least ≤ x.priv → n ≠ 7 → exec (.drvMfcr d) s = .next (s.wrote d rd
        (if n = 0 then x.psw else if n ≤ 3 then Tbl.get 0 x.sp (n - 1) else if n = 4 then x.edtb else if n = 5 then BitVec.ofNat 32 d
         else if n = 6 then BitVec.ofNat 32 x.axlost else if n = 8 then x.cychi else if n = 9 then BitVec.ofNat 32 s.grid.lap
         else if n = 10 then BitVec.ofNat 32 x.xbase else if n % 2 = 0 then Tbl.get 0 x.mpuB r else Tbl.get 0 x.mpuA r))) ∧
      (n = 7 → ∃ c t, x.cycles ≤ c ∧ exec (.drvMfcr d) s = .next t ∧
        drvOf t d = { y.setReg rd (BitVec.ofNat 32 c) with cycles := c, cychi := BitVec.ofNat 32 (c / 2 ^ 32) })) ∧
    (drvDecode ⟨w⟩ = some .mtcr →
      (¬ listed → exec (.drvMtcr d) s = .next (drvRaise d 2 x.pc w 0 s)) ∧
      (listed → x.priv < leastW → exec (.drvMtcr d) s = .next (drvRaise d (if x.priv = 0 then 6 else 13) x.pc w 0 s)) ∧
      (listed → leastW ≤ x.priv → exec (.drvMtcr d) s = .next (setDrv s d
        (if n = 0 then { y with precise := v.getLsbD 3, xie := v.getLsbD 2, queue := [] } else if n ≤ 3 then { y with sp := Tbl.put 0 x.sp (n - 1) v }
         else if n = 4 then { y with edtb := BitVec.ofNat 32 (v.toNat / 2048 * 2048), queue := [] } else if ro then y
         else if n = 6 then { y with axlost := 0 } else if n = 10 then { y with xbase := v.toNat % 32, queue := [] }
         else if n % 2 = 0 then { y with mpuB := Tbl.put 0 x.mpuB r (v &&& 0xFFFFFFC3), queue := [] }
         else { y with mpuA := Tbl.put 0 x.mpuA r v, queue := [] }))))

/-- R420, R423, R425 to R427, Table 11.8d: the cache instructions, ISYNC, DSYNC and WFI, where nothing makes them wait: the MPU grants the
address, the store buffer is empty and no write transaction is on its way. DCCLEAN and DCFLUSH hand a dirty line to the write side; DCINV
drops it; ICINV drops the I-cache line; none of them changes a register. -/
def Obligations.DroverCaches : Prop :=
  ∀ (d : Fin 4) (s : State) (w : BitVec 32), s.Issues d w → (drvOf s d).buf = [] → (drvOf s d).wback = none →
    let x := drvOf s d; let a := (s.rs1 d w).toNat; let p := drvPhys x a; let y := x.past (x.pc + 4)
    let line := if (drvRegion a).isDram then cacheFind x.dcache p else none
    let clean (c : Tbl (List Line)) : Tbl (List Line) :=
      Tbl.upd [] c (p / 64 % 128) (fun ls => ls.map (fun m => if m.at_ = p / 64 * 64 then { m with dirty := false } else m))
    let drop (c : Tbl (List Line)) : Tbl (List Line) := Tbl.upd [] c (p / 64 % 128) (fun ls => ls.filter (fun m => m.at_ != p / 64 * 64))
    (mpuGrant x x.priv a 0 = true →
      (drvDecode ⟨w⟩ = some .dcclean → (∀ l, line = some l → l.dirty = true →
          exec (.drvDcclean d) s = .next (setDrv s d { y with dcache := clean x.dcache, wback := some ⟨l, a / 64 * 64⟩ })) ∧
        ((∀ l, line = some l → l.dirty = false) → exec (.drvDcclean d) s = .next (setDrv s d y))) ∧
      (drvDecode ⟨w⟩ = some .dcinv → 1 ≤ x.priv →
        exec (.drvDcinv d) s = .next (setDrv s d (if (drvRegion a).isDram then { y with dcache := drop x.dcache } else y))) ∧
      (drvDecode ⟨w⟩ = some .dcflush → (∀ l, line = some l → l.dirty = true →
          exec (.drvDcflush d) s = .next (setDrv s d { y with dcache := drop (clean x.dcache), wback := some ⟨l, a / 64 * 64⟩ })) ∧
        ((∀ l, line = some l → l.dirty = false) →
          exec (.drvDcflush d) s = .next (setDrv s d (if (drvRegion a).isDram then { y with dcache := drop x.dcache } else y)))) ∧
      (drvDecode ⟨w⟩ = some .icinv → (∀ l, line = some l → l.dirty = false) →
        exec (.drvIcinv d) s = .next (setDrv s d { y with icache := drop x.icache }))) ∧
    (mpuGrant x x.priv a 0 = false → drvDecode ⟨w⟩ = some .dcclean →
      exec (.drvDcclean d) s = .next (drvRaise d 4 x.pc 1 (BitVec.ofNat 32 a) s)) ∧
    (drvDecode ⟨w⟩ = some .isync → exec (.drvIsync d) s = .next (setDrv s d { y with queue := [], lineBuf := none })) ∧
    (drvDecode ⟨w⟩ = some .dsync → exec (.drvDsync d) s = .next (setDrv s d y)) ∧
    (drvDecode ⟨w⟩ = some .wfi → 1 ≤ x.priv → exec (.drvWfi d) s = .next (setDrv s d { y with wfi := !xirq s.evc d })) ∧
    (drvDecode ⟨w⟩ = some .wfi → x.priv = 0 → exec (.drvWfi d) s = .next (drvRaise d 6 x.pc w 0 s))

/-- R427, R443 to R446, R591: what wakes, holds, kicks and resets a Drover. Another Drover in M writes HOLD and RESET; the core's own write,
or one in U or S, is ignored. A reset returns the registers to their reset values, drops both caches and the store buffer, completes the
core's claim, and leaves every Drover but the one as it was; one by the watchdog or the CHECKSTOP timer is counted. After it the core waits
in WFI, or holds itself where the stage-2 check fails; where the firmware begins is left open (log 70). -/
def Obligations.DroverHoldAndReset : Prop :=
  ∀ (d e : Fin 4) (s : State),
    let x := drvOf s d
    let reset (t : State) (hold : Bool) (resets : Nat) : Prop :=
      drvOf t d = { run := .reset, hold := hold, snapPc := x.snapPc, snapPsw := x.snapPsw, snapEsr := x.snapEsr, snapEfa := x.snapEfa,
                    wdper := x.wdper, wfis := x.wfis, resets := resets } ∧
      (∀ n : Nat, (evcSrc t.evc n).act = true → (evcSrc t.evc n).owner ≠ d) ∧ (∀ f : Fin 4, f ≠ d → drvOf t f = drvOf s f) ∧
      t.cram = s.cram ∧ t.dram = s.dram
    (x.wfi = true → xirq s.evc d = true → exec (.wfiWake d) s = .next (setDrv s d { x with wfi := false })) ∧
    (∀ v, exec (.wdkick d v) s = .next (if v = 0xA5 then setDrv s d { x with first := false } else s)) ∧
    (e = d ∨ (drvOf s e).priv ≠ 2 → ∀ on, exec (.drvctlHold e d on) s = .next s ∧ exec (.drvctlReset e d on) s = .next s) ∧
    (e ≠ d → (drvOf s e).priv = 2 → ∀ on,
      (x.run ≠ .checkstop → exec (.drvctlHold e d on) s = .next (setDrv s d { x with hold := on, wfi := false })) ∧
      (x.run = .checkstop → on = true → exec (.drvctlHold e d on) s = .next (setDrv s d { x with hold := true, wfi := false, ckEnd := 0 })) ∧
      (x.run ≠ .reset → s.Inv → ∃ t, exec (.drvctlReset e d on) s = .next t ∧ reset t on x.resets)) ∧
    (x.run = .checkstop → x.ckEnd ≠ 0 → x.hold = false → s.Inv →
      ∃ t, exec (.checkstopTimerExpiry d) s = .next t ∧ reset t false (min 255 (x.resets + 1)) ∧ x.ckEnd - 1 ≤ t.now) ∧
    (x.counts = true → x.first = true → s.Inv → ∃ t, exec (.watchdogExpiry d) s = .next t ∧ reset t false (min 255 (x.resets + 1))) ∧
    (x.run = .reset →
      (∃ p, exec (.droverResetDone d true) s = .next (setDrv { s with free := s.free + 1 } d { x with run := .running, wfi := true, pc := p })) ∧
      (∃ t, exec (.droverResetDone d false) s = .next t ∧ drvOf t d = { x with run := .running, hold := true }))

/-- R415, R416, R422 to R424, R436: the events of a core's memory side. The oldest store-buffer entry drains into control RAM at once and to
uncached DRAM through a write transaction, whose completion writes its bytes; an error response writes nothing. A read transaction or a line fill that
completes ends its load, and a line fill enters the cache. Nothing but the core and that memory changes. -/
def Obligations.DroverTransactions : Prop :=
  ∀ (d : Fin 4) (s : State),
    let x := drvOf s d
    let same (t : State) : Prop := (∀ e : Fin 4, e ≠ d → drvOf t e = { drvOf s e with resv := (drvOf t e).resv }) ∧ t.csm = s.csm ∧ t.evc = s.evc
    (∀ e rest, x.run = .running → x.buf = e :: rest → drvRegion e.addr = .cram → ∃ t, exec (.storeBufferDrain d) s = .next t ∧ same t ∧
      drvOf t d = { x with buf := rest } ∧ t.dram = s.dram ∧
      ∀ z, Tbl.get 0 t.cram z = if e.mask.any (fun o => e.at_ - 0x10000000 + o == z) then Tbl.get 0 e.bytes (z - (e.at_ - 0x10000000)) else Tbl.get 0 s.cram z) ∧
    (∀ e rest, x.run = .running → x.buf = e :: rest → (drvRegion e.addr).isDram → e.cach = false → x.wback = none →
      exec (.storeBufferDrain d) s = .next (setDrv s d { x with buf := { e with begun := true } :: rest })) ∧
    (∀ e rest, x.buf = e :: rest → e.begun = true → (drvRegion e.addr).isDram → x.wback = none →
      (cacheFind x.dcache e.at_ = none → ∃ t, exec (.remoteTransactionDone d true true) s = .next t ∧ same t ∧ drvOf t d = { x with buf := rest } ∧
        t.cram = s.cram ∧
        ∀ z, Tbl.get 0 t.dram z = if e.mask.any (fun o => e.at_ - 2 ^ 32 + o == z) then Tbl.get 0 e.bytes (z - (e.at_ - 2 ^ 32)) else Tbl.get 0 s.dram z) ∧
      (∃ t, exec (.remoteTransactionDone d true false) s = .next t ∧ drvOf t d = { x with buf := rest } ∧ t.cram = s.cram ∧ t.dram = s.dram)) ∧
    (∀ l, x.wback = some l → ∃ t, exec (.remoteTransactionDone d true true) s = .next t ∧ same t ∧ drvOf t d = { x with wback := none } ∧ t.cram = s.cram ∧
      ∀ z, Tbl.get 0 t.dram z = if l.line.at_ - 2 ^ 32 ≤ z ∧ z < l.line.at_ - 2 ^ 32 + 64 then Tbl.get 0 l.line.bytes (z - (l.line.at_ - 2 ^ 32))
        else Tbl.get 0 s.dram z) ∧
    (∀ r, x.read = some r → (drvRegion r.addr).isDram → r.left ≤ 64 - r.addr % 64 →
      (r.fill = false → dramBad s (dramByte x r.addr) r.left = false → ∃ t, exec (.remoteTransactionDone d false true) s = .next t ∧ same t ∧
        drvOf t d = (({ x with read := none } : Drover).setReg r.rd
          (loadValue r.sext (r.got ++ Tbl.slice 0 s.dram (dramByte x r.addr) r.left))).retire (x.pc + 4) ∧ t.cram = s.cram ∧ t.dram = s.dram) ∧
      (let p := drvPhys x r.addr / 64 * 64
       r.fill = true → dramBad s (p - 2 ^ 32) 64 = false → ∃ t, exec (.cacheLineFill d false 0) s = .next t ∧ same t ∧
        drvOf t d = (({ x with read := none, dcache := cacheEnter (dramLine s p) x.dcache } : Drover).setReg r.rd
          (loadValue r.sext (r.got ++ Tbl.slice 0 s.dram (dramByte x r.addr) r.left))).retire (x.pc + 4) ∧ t.cram = s.cram ∧ t.dram = s.dram)) ∧
    (∀ a, x.issues = true → fetchMiss x = some a → drvRegion a = .cram → cramBad s (a / 64 * 64 - 0x10000000) 64 = false →
      let l : Line := { at_ := a / 64 * 64, bytes := Tbl.putAll 0 [] 0 (Tbl.slice 0 s.cram (a / 64 * 64 - 0x10000000) 64) }
      exec (.cacheLineFill d true 0) s = .next (setDrv s d { x with lineBuf := some l, icache := cacheEnter l (cacheDrop (a / 64 * 64) x.icache) }))

/-- R10, R405, R406, R495, Tables 11.6 and 13.11: a Drover's register writes. SEMREQ takes a semaphore for Drover applications, code 3, where it is free
or already theirs, and gives only one that they hold, with SEMRES saying how it went. AEMASK is written in every mode; BPM0 only in BOOT or WORKSHOP
or with the cluster drained, and otherwise the write is ignored; ARITH, FREC and the offsets that no table gives are read only. -/
def Obligations.DroverRegisterWrites : Prop :=
  ∀ (d : Fin 4) (s : State),
    (∀ i : Fin 32, let o := Tbl.get 0 s.dict.sems i
      let held (k code : Nat) : State := { s with dict := { s.dict with sems := Tbl.put 0 s.dict.sems i k, semres := code } }
      (o = 0 ∨ o = 3 → exec (.semreqTake i) s = .next (held 3 0)) ∧
      (¬ (o = 0 ∨ o = 3) → exec (.semreqTake i) s = .next { s with dict := { s.dict with semres := 7 } }) ∧
      (o = 3 → exec (.semreqGive i) s = .next (held 0 0)) ∧
      (o ≠ 3 → exec (.semreqGive i) s = .next { s with dict := { s.dict with semres := 6 } })) ∧
    (∀ (k : Fin 64) (v : BitVec 32),
      let at_ (o : Nat) : BitVec 32 := BitVec.ofNat 32 (0x21000000 + 0x10000 * (k / 8) + 0x1000 * (k % 8) + o)
      let c := coreOf s k; let free := bootOrWorkshop s = true ∨ drained s (k / 8) = true
      exec (.registerWrite d (at_ 0x210) v) s = .next (setCore s k { c with aemask := v.setWidth 24 &&& 0x000700 }) ∧
      (free → exec (.registerWrite d (at_ 0x200) v) s = .next (setCore s k { c with bpm0 := v.setWidth 24 &&& 0x7FFFFF })) ∧
      (¬ free → exec (.registerWrite d (at_ 0x200) v) s = .next s) ∧
      exec (.registerWrite d (at_ 0x21C) v) s = .next s ∧ exec (.registerWrite d (at_ 0x220) v) s = .next s ∧
      exec (.registerWrite d (at_ 0x500) v) s = .next s)

/-! ### Long-vector units (chapter 6) -/

/-- R210, R218, Table 6.7: VADD, VSUB, VMOV, VSHL, VSHR, VMIN, VMAX, VABS, VNEG and VSPLAT write elements 0 to VLe - 1 of Vd from
the elements of Va and of Vb (or the latched D value); every other element stands, and nothing else of the core changes but that the
LVU is idle. S clamps. -/
def Obligations.VectorElements : Prop :=
  ∀ (k : Fin 64) (s : State) (o : LvuOp),
    let d := o.f 21 18
    let a (e : Nat) : Int := (s.vec k (o.f 17 14) e).toInt
    let b (e : Nat) : Int := if o.f 8 8 = 1 then o.d.toInt else (s.vec k (o.f 13 10) e).toInt
    let clamp (x : Int) : Int := if o.f 9 9 = 1 then max (-2 ^ 23) (min (2 ^ 23 - 1) x) else x
    let writes (c : Instr) (vop : Nat) (val : Nat → Int) : Prop := s.Vector k o vop →
      ∃ v, exec c s = .next (s.completed k { lvuOf s k with v := v }) ∧
        ∀ j, Tbl.get 0 v j = if 128 * d ≤ j ∧ j < 128 * d + o.vle then BitVec.ofInt 24 (val (j - 128 * d)) else Tbl.get 0 (lvuOf s k).v j
    writes (.vadd k) 8 (fun e => clamp (a e + b e)) ∧ writes (.vsub k) 9 (fun e => clamp (a e - b e)) ∧
    writes (.vmov k) 15 a ∧ writes (.vshl k) 16 (fun e => a e * 2 ^ o.f 13 9) ∧ writes (.vshr k) 17 (fun e => a e / 2 ^ o.f 13 9) ∧
    writes (.vmin k) 18 (fun e => min (a e) (b e)) ∧ writes (.vmax k) 19 (fun e => max (a e) (b e)) ∧
    writes (.vabs k) 20 (fun e => clamp ((a e).natAbs : Int)) ∧ writes (.vneg k) 21 (fun e => clamp (-(a e))) ∧
    writes (.vsplat k) 22 (fun _ => o.d.toInt)

/-- R142, R143, R144, R215, R217, Table 6.7: VMUL, VMAC and VMSU write the accumulator VAn, wrapped or with ACCSAT = 1 clamped to 56
bits; an element out of range sets GOV and, in VSTAT, the bit of
the register that holds it. VCLRA clears it. VRND writes the transfer to Vd, rounded with T = 0;
with SATM = 1 it is clamped and sets SAT. With PRECISE = 1 the core stops at the lowest element that set a flag. -/
def Obligations.VectorAccumulators : Prop :=
  ∀ (k : Fin 64) (s : State) (o : LvuOp),
    let l := lvuOf s k; let n := o.f 21 20
    let a (e : Nat) : Int := (s.vec k (o.f 17 14) e).toInt
    let b (e : Nat) : Int := if o.f 8 8 = 1 then o.d.toInt else (s.vec k (o.f 13 10) e).toInt
    let p (e : Nat) : Int := if o.mode.getLsbD 3 then a e * b e else 2 * (a e * b e)
    let old (e : Nat) : Int := (s.vacc k n e).toInt
    let clamp (x : Int) : Int := if o.mode.getLsbD 1 then max (-2 ^ 55) (min (2 ^ 55 - 1) x) else x
    let accumulates (c : Instr) (vop : Nat) (val : Nat → Int) : Prop := s.Vector k o vop →
      let bad (e : Nat) : Bool := decide (val e < -2 ^ 55 ∨ 2 ^ 55 ≤ val e)
      let stat := ((List.range o.vle).filter bad).foldl (fun w e => w ||| BitVec.ofNat 24 (2 + 16 * 2 ^ (n + e / 128))) l.vstat
      ∃ va, exec c s = .next (s.completedFlagged k o { l with va := va, vstat := stat } ((List.range o.vle).find? bad)) ∧
        ∀ j, Tbl.get 0 va j = if 128 * n ≤ j ∧ j < 128 * n + o.vle then BitVec.ofInt 56 (clamp (val (j - 128 * n))) else Tbl.get 0 l.va j
    let moved (e : Nat) : Int := ((s.vacc k (o.f 17 16) e).toInt + if o.f 15 15 = 0 then 2 ^ 23 else 0) / 2 ^ 24
    accumulates (.vmul k) 10 p ∧ accumulates (.vmac k) 11 (fun e => old e + p e) ∧ accumulates (.vmsu k) 12 (fun e => old e - p e) ∧
    accumulates (.vclra k) 13 (fun _ => 0) ∧
    (let bad (e : Nat) : Bool := o.mode.getLsbD 0 && decide (moved e < -2 ^ 23 ∨ 2 ^ 23 ≤ moved e)
     let stat := if ((List.range o.vle).find? bad).isSome then l.vstat ||| 4 else l.vstat
     s.Vector k o 14 → ∃ v, exec (.vrnd k) s = .next (s.completedFlagged k o { l with v := v, vstat := stat } ((List.range o.vle).find? bad)) ∧
      ∀ j, Tbl.get 0 v j = if 128 * o.f 21 18 ≤ j ∧ j < 128 * o.f 21 18 + o.vle then
        BitVec.ofInt 24 (if o.mode.getLsbD 0 then max (-2 ^ 23) (min (2 ^ 23 - 1) (moved (j - 128 * o.f 21 18))) else moved (j - 128 * o.f 21 18))
        else Tbl.get 0 l.v j)

/-- R207, Table 6.7: VSETL sets VL from the immediate, or from D up to 1,024; VSETG sets VG; VSETT sets the table port, base and
length. Nothing else changes but that the LVU is idle. -/
def Obligations.VectorSettings : Prop :=
  ∀ (k : Fin 64) (s : State) (o : LvuOp), let l := lvuOf s k
    (s.Vector k o 24 → exec (.vsetl k) s = .next (s.completed k { l with
      vl := BitVec.ofNat 11 (if o.f 21 21 = 0 then o.f 10 0 else min o.d.toNat 1024) })) ∧
    (s.Vector k o 25 → exec (.vsetg k) s = .next (s.completed k { l with vg := BitVec.ofNat 2 (o.f 1 0) })) ∧
    (s.Vector k o 26 → exec (.vsett k) s = .next (s.completed k { l with tport := o.f 21 21 = 1, vtb := o.p, vtlen := o.d.setWidth 16 }))

/-- R219 to R222, R240: VLD and VLDFF write elements 0 to m - 1 of Vd, or of the part of VAd that PART names, from unit-stride words of X,
Y or bank 254, and VST writes those words, where m is VLe or the lowest element whose address does not exist (cause 5) or whose word cannot be
read (cause 6). At such an element VLD and VST leave the fault of that element; VLDFF shortens VL to it, unless it is element 0. -/
def Obligations.VectorMemory : Prop :=
  ∀ (k : Fin 64) (s : State) (o : LvuOp) (m : Nat), m ≤ o.vle →
    let c := coreOf s k; let l := lvuOf s k; let yport := o.f 21 21 = 1; let page := ¬ o.bank = 0
    let addr (e : Nat) := o.p.toNat + e
    let exists_ (e : Nat) := addr e ≤ 65535 ∧ (o.bank = 0 ∨ o.bank = 254 ∧ 4096 ≤ addr e ∧ addr e ≤ 8191)
    let bad (e : Nat) := Tbl.get false c.upset ((if page then 0x40000 else if yport then 0x10000 else 0) + addr e) = true
    let word (e : Nat) : BitVec 24 := Tbl.get 0 (if page then l.spill else if yport then c.y else c.x) (addr e)
    let part : Part := if o.f 12 11 = 1 then .l else if o.f 12 11 = 2 then .h else .g
    let inV (r j : Nat) := 128 * r ≤ j ∧ j < 128 * r + m
    let cause (e : Nat) := if exists_ e then 6 else 5
    let fault (x : SigCore) : State := setCore s k (lvuFaultSet o (cause m) (o.bank ++ BitVec.ofNat 16 (addr m)) m x)
    let readable := (∀ e, e < m → exists_ e ∧ ¬ bad e) ∧ (m < o.vle → ¬ exists_ m ∨ bad m)
    let writable := (∀ e, e < m → exists_ e) ∧ (m < o.vle → ¬ exists_ m)
    let filled (l' : Lvu) : Prop := if o.f 12 11 = 0
      then (∃ v, l' = { l with v := v } ∧ ∀ j, Tbl.get 0 v j = if inV (o.f 20 17) j then word (j - 128 * o.f 20 17) else Tbl.get 0 l.v j)
      else (∃ va, l' = { l with va := va } ∧ ∀ j, Tbl.get 0 va j = if inV (o.f 18 17) j
        then accSetPart (Tbl.get 0 l.va j) part (word (j - 128 * o.f 18 17)) else Tbl.get 0 l.va j)
    (s.Vector k o 1 → readable → ∃ l', filled l' ∧
      exec (.vld k) s = .next (if m = o.vle then s.completed k l' else fault { c with lvu := l'.idle })) ∧
    (s.Vector k o 3 → readable → ∃ l', filled l' ∧
      exec (.vldff k) s = .next (if m = o.vle then s.completed k l'
        else if m = 0 then fault { c with lvu := l'.idle }
        else s.completed k { l' with vl := BitVec.ofNat 11 m, vfe := BitVec.ofNat 24 (0x800000 + m), vstat := l.vstat ||| 0x100 })) ∧
    (s.Vector k o 2 → writable → ∃ (t : Tbl (BitVec 24)) (u : Tbl Bool),
      (let old := if page then l.spill else if yport then c.y else c.x
       ∀ a, Tbl.get 0 t a = if o.p.toNat ≤ a ∧ a < o.p.toNat + m then
          (if o.f 12 11 = 0 then s.vec k (o.f 20 17) (a - o.p.toNat) else accPart (s.vacc k (o.f 18 17) (a - o.p.toNat)) part) else Tbl.get 0 old a) ∧
      (let base := (if page then 0x40000 else if yport then 0x10000 else 0) + o.p.toNat
       ∀ j, Tbl.get false u j = if base ≤ j ∧ j < base + m then false else Tbl.get false c.upset j) ∧
      let c' := { c with lvu := Lvu.idle (if page then { l with spill := t } else l), x := if page ∨ yport then c.x else t, y := if ¬ page ∧ yport then t else c.y, upset := u }
      exec (.vst k) s = .next (if m = o.vle then setCore s k c' else fault c'))

/-- R223, R224, R225: VTAB reads the table entry that the whole part of an index names; VTABI and VDLY interpolate between two entries or
two samples of a delay line, rounded, by its fraction. Without TCLAMP an index outside the table faults at its element (cause 5); with it the
last entry or the oldest sample is read, or 0 from a table without entries. A word that cannot be read faults (cause 6). Elements below keep their result. -/
def Obligations.VectorTables : Prop :=
  ∀ (k : Fin 64) (s : State) (o : LvuOp) (m : Nat), m ≤ o.vle →
    let c := coreOf s k; let l := lvuOf s k; let d := o.f 21 18; let fb := o.f 13 9; let len := o.vtlen.toNat
    let x (e : Nat) := (s.vec k (o.f 17 14) e).toNat
    let i (e : Nat) := x e / 2 ^ fb; let fr (e : Nat) : Int := (x e % 2 ^ fb : Nat)
    let ok (a : Nat) := a ≤ 65535 ∧ Tbl.get false c.upset ((if o.tport then 0x10000 else 0) + a) = false
    let word (a : Nat) : BitVec 24 := Tbl.get 0 (if o.tport then c.y else c.x) a
    let why (a : Nat) : Nat × BitVec 24 := (if a ≤ 65535 then 6 else 5, (0 : BitVec 8) ++ BitVec.ofNat 16 a)
    let out (e : Nat) : Nat × BitVec 24 := (5, (0 : BitVec 8) ++ BitVec.ofNat 16 (o.vtb.toNat + i e))
    let blend (e : Nat) (w0 w1 : BitVec 24) : BitVec 24 :=
      BitVec.ofInt 24 ((w0.toInt * 2 ^ 24 + fr e * (w1.toInt - w0.toInt) * 2 ^ (24 - fb) + 2 ^ 23) / 2 ^ 24)
    let one (a : Nat) (f : BitVec 24 → BitVec 24) : (BitVec 24) ⊕ (Nat × BitVec 24) := if ok a then .inl (f (word a)) else .inr (why a)
    let two (e a0 a1 : Nat) : (BitVec 24) ⊕ (Nat × BitVec 24) := if ok a0 then one a1 (fun w => blend e (word a0) w) else .inr (why a0)
    let tap (e : Nat) (back : Nat) : Nat := o.p.toNat + (((o.d.toNat % 65536 : Nat) - (back : Int)) % (len : Int)).toNat * o.vle + e
    let tab (e : Nat) := if i e < len then one (o.vtb.toNat + i e) id
      else if o.tclamp then (if len = 0 then .inl 0 else one (o.vtb.toNat + (len - 1)) id) else .inr (out e)
    let tabi (e : Nat) := if i e + 1 < len then two e (o.vtb.toNat + i e) (o.vtb.toNat + i e + 1)
      else if o.tclamp then (if len = 0 then .inl 0 else one (o.vtb.toNat + (len - 1)) id) else .inr (out e)
    let dly (e : Nat) := if i e < len then two e (tap e (i e)) (tap e (i e + 1))
      else if o.tclamp then (if len = 0 then .inl 0 else one (tap e (len - 1)) id) else .inr (out e)
    let runs (instr : Instr) (vop : Nat) (res : Nat → (BitVec 24) ⊕ (Nat × BitVec 24)) : Prop :=
      s.Vector k o vop → (∀ e, e < m → (res e).isLeft = true) → (m < o.vle → (res m).isRight = true) →
      ∃ v, (∀ j, .inl (Tbl.get 0 v j) = if 128 * d ≤ j ∧ j < 128 * d + m then res (j - 128 * d) else .inl (Tbl.get 0 l.v j)) ∧
        (m = o.vle → exec instr s = .next (s.completed k { l with v := v })) ∧
        (∀ f, m < o.vle → res m = .inr f → exec instr s = .next (setCore s k (lvuFaultSet o f.1 f.2 m { c with lvu := Lvu.idle { l with v := v } })))
    runs (.vtab k) 4 tab ∧ runs (.vtabi k) 5 tabi ∧ runs (.vdly k) 39 dly

/-- R227 to R230: VFIR, VBIQ, VSVF and VINTP leave in each element below VLe what the rules give; sums and products are exact before they are
narrowed (R143) or moved (R144). No other element or register of the LVU changes. Of a product of VSVF that its state cannot hold, which of the two
numbers next to it stands, and a sample of VINTP with a window of width 0, are left open (log 24, DESIGN CHOICE). -/
def Obligations.VectorFilters : Prop :=
  ∀ (k : Fin 64) (s : State) (o : LvuOp),
    let v (r e : Nat) : Int := (s.vec k r e).toInt; let va (r e : Nat) : Int := (s.vacc k r e).toInt
    let mul (a b : Int) : Int := if o.mode.getLsbD 3 then a * b else 2 * (a * b)
    let acc (x : Int) : BitVec 56 := BitVec.ofInt 56 (if o.mode.getLsbD 1 then max (-2 ^ 55) (min (2 ^ 55 - 1) x) else x)
    let move (x : Int) : BitVec 24 := let h := (x + 2 ^ 23) / 2 ^ 24; BitVec.ofInt 24 (if o.mode.getLsbD 0 then max (-2 ^ 23) (min (2 ^ 23 - 1) h) else h)
    let sum (n : Nat) (f : Nat → Int) : Int := (List.range n).foldl (fun x i => x + f i) 0
    let d := o.f 21 18; let a := o.f 17 14; let b := o.f 13 10
    let after (c : Instr) (vop : Nat) (vs vas : List Nat) (post : State → Nat → Prop) : Prop := s.Vector k o vop →
      ∃ t, exec c s = .next t ∧ s.Finished t k o ∧ (∀ e, e < o.vle → post t e) ∧
        (∀ j, (∀ r ∈ vs, ¬ (128 * r ≤ j ∧ j < 128 * r + o.vle)) → Tbl.get 0 (lvuOf t k).v j = Tbl.get 0 (lvuOf s k).v j) ∧
        (∀ j, (∀ r ∈ vas, ¬ (128 * r ≤ j ∧ j < 128 * r + o.vle)) → Tbl.get 0 (lvuOf t k).va j = Tbl.get 0 (lvuOf s k).va j)
    -- T taps, then the history moves by one
    (let T := o.f 9 7 + 1; let n := o.f 21 20
     after (.vfir k) 32 ((List.range (T - 1)).map (fun i => a + i + 1)) [n] (fun t e =>
      t.vacc k n e = acc (va n e + sum T (fun i => mul (v b i) (v (a + i) e))) ∧
      ∀ i, i + 1 < T → t.vec k (a + i + 1) e = s.vec k (a + i) e)) ∧
    -- transposed direct form II, coefficients in Q2.22
    (let n := o.f 9 8
     after (.vbiq k) 33 [d] [n, n + 1] (fun t e => let q (i : Nat) : Int := v (b + i) e; let x := v a e
      let y := move (4 * (q 0 * x) + va n e)
      t.vec k d e = y ∧ t.vacc k n e = acc (4 * (q 1 * x) - 4 * (q 3 * y.toInt) + va (n + 1) e) ∧
      t.vacc k (n + 1) e = acc (4 * (q 2 * x) - 4 * (q 4 * y.toInt)))) ∧
    -- low pass, band pass and high pass
    (let n := o.f 5 4
     after (.vsvf k) 34 [d, d + 1, d + 2] [n, n + 1] (fun t e => let f := v b e; let q := v (o.f 9 6) e; let bp := va (n + 1) e
      ∃ p1 p2 p3 : Int, let lp := acc (va n e + p1); let hp := v a e * 2 ^ 24 - lp.toInt - p2; let bp' := acc (bp + p3)
        let cut (p u : Int) (b : Nat) : Prop := p = u / 2 ^ b ∨ u % 2 ^ b ≠ 0 ∧ p = u / 2 ^ b + 1
        cut p1 (f * bp) 23 ∧ cut p2 (q * bp) 22 ∧ cut p3 (f * hp) 23 ∧
        t.vacc k n e = lp ∧ t.vacc k (n + 1) e = bp' ∧
        t.vec k d e = move lp.toInt ∧ t.vec k (d + 1) e = move bp'.toInt ∧ t.vec k (d + 2) e = move hp)) ∧
    -- T taps of the polyphase branch that the fraction names, over a window that wraps
    (let T := 8 * 2 ^ o.f 1 0; let wd := o.d.toNat % 65536
     after (.vintp k) 35 [d, a] [] (fun t e => let p := (s.vec k a e).toNat
      t.vec k a e = s.vec k a e + s.vec k b e ∧
      (wd ≠ 0 → t.vec k d e = move (sum T (fun i =>
        mul (Tbl.get 0 (coreOf s k).x ((o.vtb.toNat + p / 16 % 256 * T + i) % 65536)).toInt
          (Tbl.get 0 (coreOf s k).y ((o.p.toNat + e * wd + (((p / 4096 : Nat) - (T / 2 : Nat) + 1 + i : Int) % (wd : Int)).toNat) % 65536)).toInt)))))

/-- R231 to R235: VOSC, VENV, VMIX, VFFT4 and VCMUL likewise. Of the sample of VOSC R231 gives a bound for the sine, and a saw and a pulse away from
their edges; the error within the bound, the correction at an edge, the pulse's levels and the triangle's phase are left open (log 22, DESIGN CHOICE). -/
def Obligations.VectorGenerators : Prop :=
  ∀ (k : Fin 64) (s : State) (o : LvuOp),
    let v (r e : Nat) : Int := (s.vec k r e).toInt; let va (r e : Nat) : Int := (s.vacc k r e).toInt
    let mul (a b : Int) : Int := if o.mode.getLsbD 3 then a * b else 2 * (a * b)
    let acc (x : Int) : BitVec 56 := BitVec.ofInt 56 (if o.mode.getLsbD 1 then max (-2 ^ 55) (min (2 ^ 55 - 1) x) else x)
    let move (x : Int) : BitVec 24 := let h := (x + 2 ^ 23) / 2 ^ 24; BitVec.ofInt 24 (if o.mode.getLsbD 0 then max (-2 ^ 23) (min (2 ^ 23 - 1) h) else h)
    let d := o.f 21 18; let a := o.f 17 14; let b := o.f 13 10; let n := o.f 21 20
    let after (c : Instr) (vop : Nat) (vs vas : List Nat) (post : State → Nat → Prop) : Prop := s.Vector k o vop →
      ∃ t, exec c s = .next t ∧ s.Finished t k o ∧ (∀ e, e < o.vle → post t e) ∧
        (∀ j, (∀ r ∈ vs, ¬ (128 * r ≤ j ∧ j < 128 * r + o.vle)) → Tbl.get 0 (lvuOf t k).v j = Tbl.get 0 (lvuOf s k).v j) ∧
        (∀ j, (∀ r ∈ vas, ¬ (128 * r ≤ j ∧ j < 128 * r + 128)) → Tbl.get 0 (lvuOf t k).va j = Tbl.get 0 (lvuOf s k).va j)
    -- the phase advances
    after (.vosc k) 36 [d, a] [] (fun t e =>
      t.vec k a e = s.vec k a e + s.vec k b e ∧
      (let w := t.vec k d e; let ph := (s.vec k a e).toNat; let inc := (s.vec k b e).toNat; let wd := (s.vec k (o.f 9 6) e).toNat
       let clamp (x : Int) : BitVec 24 := BitVec.ofInt 24 (max (-2 ^ 23) (min (2 ^ 23 - 1) x))
       (o.f 5 4 = 0 → ∃ x : Int, (sineRange ph).1 ≤ x ∧ x ≤ (sineRange ph).2 ∧ w = clamp x) ∧
       (o.f 5 4 = 1 → nearEdge ph inc 0 = false → w = BitVec.ofInt 24 (ph - 2 ^ 23)) ∧
       (o.f 5 4 = 2 → nearEdge ph inc 0 = false → nearEdge ph inc wd = false → w = Config.pulseLevel (decide (ph < wd))) ∧
       (o.f 5 4 = 3 → w = clamp (triangleAt ((ph + Config.trianglePhase) % 2 ^ 24))))) ∧
    -- a linear or an exponential segment towards the target, and the mark that it is reached
    after (.venv k) 37 [d, o.f 9 6] [] (fun t e => let l := v d e; let g := v a e; let r := v b e
      t.vec k d e = (if o.f 5 5 = 1 then BitVec.ofInt 24 (if (g - l).natAbs ≤ r.natAbs then g else if g < l then l - r.natAbs else l + r.natAbs)
        else if (2 * (r * (g - l)) + 2 ^ 23) / 2 ^ 24 = 0 then BitVec.ofInt 24 g else move (l * 2 ^ 24 + 2 * (r * (g - l)))) ∧
      t.vec k (o.f 9 6) e = if t.vec k d e = s.vec k a e then 0x7FFFFF else 0) ∧
    -- two channels of the bus accumulator
    after (.vmix k) 38 [] [n] (fun t _ => let j := o.d.toNat % 128; let j2 := (j + 64) % 128
      let sum (r : Nat) : Int := (List.range o.vle).foldl (fun x e => x + mul (v a e) (v r e)) 0
      t.vacc k n j = acc (va n j + sum b) ∧ t.vacc k n j2 = acc (va n j2 + sum (o.f 9 6)) ∧
      ∀ i, i < 128 → i ≠ j → i ≠ j2 → t.vacc k n i = s.vacc k n i) ∧
    -- a radix-4 butterfly in place, shifted right by 0 to 2 places
    after (.vfft4 k) 40 ((List.range 8).map (d + ·)) [] (fun t e =>
      let wr (i : Nat) := v (a + 2 * (i - 1)) e; let wi (i : Nat) := v (a + 2 * (i - 1) + 1) e
      let re (i : Nat) := v (d + 2 * i) e; let im (i : Nat) := v (d + 2 * i + 1) e
      let x (i : Nat) : Int := if i = 0 then re 0 * 2 ^ 24 else mul (wr i) (re i) - mul (wi i) (im i)
      let y (i : Nat) : Int := if i = 0 then im 0 * 2 ^ 24 else mul (wr i) (im i) + mul (wi i) (re i)
      let out (i : Nat) (z : Int) : Prop := t.vec k (d + i) e = move (z / 2 ^ o.f 13 12)
      out 0 (x 0 + x 1 + x 2 + x 3) ∧ out 1 (y 0 + y 1 + y 2 + y 3) ∧ out 2 (x 0 + y 1 - x 2 - y 3) ∧ out 3 (y 0 - x 1 - y 2 + x 3) ∧
      out 4 (x 0 - x 1 + x 2 - x 3) ∧ out 5 (y 0 - y 1 + y 2 - y 3) ∧ out 6 (x 0 - y 1 - x 2 + y 3) ∧ out 7 (y 0 + x 1 - y 2 - x 3)) ∧
    -- a complex product, or with conjugation, moved to a pair of V registers or added to a pair of accumulators
    (let re (e : Nat) := if o.f 9 9 = 1 then mul (v a e) (v b e) + mul (v (a + 1) e) (v (b + 1) e) else mul (v a e) (v b e) - mul (v (a + 1) e) (v (b + 1) e)
     let im (e : Nat) := if o.f 9 9 = 1 then mul (v (a + 1) e) (v b e) - mul (v a e) (v (b + 1) e) else mul (v a e) (v (b + 1) e) + mul (v (a + 1) e) (v b e)
     after (.vcmul k) 41 (if o.f 8 8 = 1 then [] else [d, d + 1]) (if o.f 8 8 = 1 then [n, n + 1] else []) (fun t e =>
      if o.f 8 8 = 1 then t.vacc k n e = acc (va n e + re e) ∧ t.vacc k (n + 1) e = acc (va (n + 1) e + im e)
      else t.vec k d e = move (re e) ∧ t.vec k (d + 1) e = move (im e)))

/-- R159, R237, R260, R261, R266, R269: of an instruction whose routine stands in ROM, a micro-trap in trap mode, or a stop in polling mode, lets the
elements before some element land, writes the frame and leaves the LVU idle (which element, the first of a block, and the routine's other micro-state
are left open, log 21); with a request that meets a DONE word, or where such an element faults, the instruction completes instead. The request is
answered, and a fast-class entry that is due follows its trap. -/
def Obligations.VectorTraps : Prop :=
  ∀ (k : Fin 64) (s : State) (o : LvuOp) (done : Bool),
    let c := coreOf s k; let l := lvuOf s k
    l.busy = some o → l.plainRom = true → l.micro.walk = false → l.micro.resumed = false →
    let framed (r : LvuRun) (m : Micro) (stopped : Bool) : SigCore := { c with
      x := r.x, y := r.y, upset := (List.range 16).foldl (fun u i => Tbl.put false u (262144 + 32 + i) false) r.upset,
      lvu := { r.l.idle with frameValid := true, frame := o, frameMicro := m, stopRq := false, stopped := stopped } }
    let place (e : Nat) : Prop := romBlock o ∣ e ∧ (e = 0 ∨ e < o.vle)
    (l.poll = false → trapRequest s c = true → ∃ t, exec (.microTrap k done) s = .next t ∧
      (lvuOf t k).busy = none ∧ (lvuOf t k).stopRq = false ∧ (lvuOf t k).stopped = ((l.stopped || l.stopRq) && !l.halt) ∧
      (done = false → ∃ e m, place e ∧ m.ec = BitVec.ofNat 11 e ∧
        let part := lvuSpan o 0 e { l := { l with stopRq := false }, x := c.x, y := c.y, upset := c.upset, flagged := l.micro.flagged, free := s.free + 14 }
        part.fault = none → part.trunc = false →
          let x := { framed part m ((l.stopped || l.stopRq) && !l.halt) with mt := true }
          (startWaits s c = false → s.CoreIs t k x) ∧
          (c.phase = .running → startWaits s c = true → c.fault = none → l.halt = false →
            (coreOf t k).fastOn = true ∧ (coreOf t k).cur.isSome ∧ (coreOf t k).mt = true ∧ (coreOf t k).lvu = x.lvu))) ∧
    (l.poll = true → l.stopRq = true → ∃ t, exec (.lvuStopTaken k done) s = .next t ∧
      (lvuOf t k).busy = none ∧ (lvuOf t k).stopRq = false ∧ (lvuOf t k).stopped = true ∧
      (done = true → (lvuOf t k).frameValid = false) ∧
      (done = false → ∃ e m, place e ∧ m.ec = BitVec.ofNat 11 e ∧
        let part := lvuSpan o 0 e { l := l, x := c.x, y := c.y, upset := c.upset, flagged := l.micro.flagged, free := s.free + 14 }
        part.fault = none → part.trunc = false → s.CoreIs t k (framed part m true)))

/-- R268, R270, R271, R273, R265, Tables 7.11 and 7.12: the commands of an LVU's control block, each with the state in which it acts and,
where the table says so, in which it is ignored. -/
def Obligations.VectorControl : Prop :=
  ∀ (k : Fin 64) (s : State) (on : Bool) (v : BitVec 32),
    let c := coreOf s k; let l := lvuOf s k
    let becomes (i : Instr) (x : SigCore) : Prop := ∃ t, exec i s = .next t ∧ s.CoreIs t k x
    let lvu (i : Instr) (x : Lvu) : Prop := becomes i { c with lvu := x }
    let out := drained s (k / 8) = true
    -- STOP, RESUME, DISCARD
    (¬ out → exec (.lcsctlStop k) s = .next s) ∧
    (out → l.busy.isSome → lvu (.lcsctlStop k) { l with stopRq := true }) ∧
    (out → l.busy = none → lvu (.lcsctlStop k) { l with stopped := true, frameValid := false }) ∧
    (l.stopped = true → l.frameValid = true → frameUpset c = false →
      becomes (.lcsctlResume k) { c with mt := false, lvu := { l with stopped := false, frameValid := false, busy := some l.frame, micro := { l.frameMicro with resumed := true } } }) ∧
    (l.stopped = true ∨ l.halt = true → becomes (.lcsctlDiscard k) { c with mt := false, lvu := { l.idle with
      stopped := false, halt := false, stopRq := false, frameValid := false } }) ∧
    -- the load port
    (l.busy = none → l.pload = false → (s.modes.mode = .boot ∨ s.modes.mode = .workshop ∨ out) → lvu (.lcsctlPload k true) { l with
      pload := true, pset := 0, praddr := 0, pmatch := [], csver := l.csver &&& 0xFF000000, crc := 0xFFFF, pen := false }) ∧
    (l.pload = true → lvu (.lcsctlPload k false) { l with
      pload := false, csver := (l.csver &&& 0xFF000000) ||| BitVec.ofNat 32 (l.pset.toNat % 256 * 65536 + l.crc.toNat) }) ∧
    (on = true → l.pload = true → exec (.lcsctlPen k on) s = .next s) ∧
    (on = false ∨ l.pload = false → lvu (.lcsctlPen k on) { l with pen := on }) ∧
    (l.busy.isSome → lvu (.lcsctlPoll k on) { l with pollNext := some on }) ∧
    (l.busy = none → lvu (.lcsctlPoll k on) { l with poll := on }) ∧
    -- the commit of a microword: 144 bits from PRDATA0 to PRDATA4, at PRADDR, which moves on; its check bits tell an error (log 21)
    (l.pload = false → exec (.prdata4Commit k v) s = .next s) ∧
    (l.pload = true → ∃ (x : Lvu) (w : BitVec 144), lvu (.prdata4Commit k v) x ∧
      (let a := l.praddr.toNat % 512
       (∀ i, i < 4 → w.extractLsb' (32 * i) 32 = Tbl.get 0 l.prdata i) ∧ w.extractLsb' 128 16 = v.extractLsb' 0 16 ∧
       Tbl.get 0 x.patch a = (if Config.microEcc w = 1 then Config.microFix w else w) ∧ Tbl.get 0 x.patchUpset a = Config.microEcc w ∧
       x.perr = (l.perr || Config.microEcc w != 0) ∧
       (∀ j, j ≠ a → Tbl.get 0 x.patch j = Tbl.get 0 l.patch j ∧ Tbl.get 0 x.patchUpset j = Tbl.get 0 l.patchUpset j) ∧
       x.praddr.toNat = (a + 1) % 512 ∧ x.crc = BitVec.ofNat 16 (crc16 l.crc.toNat (leBytes 2 v.toNat)))) ∧
    -- CORR is read and cleared
    (∃ t, exec (.corrRead k) s = .next { t with result := l.corr } ∧ s.CoreIs t k { c with lvu := { l with corr := 0 } })

/-- R246, R276: a visit of the patch RAM scrubber to an LVU that is idle. A single-bit error is corrected and counted; a double-bit
error stays and is recorded. -/
def Obligations.PatchScrub : Prop :=
  ∀ (k : Fin 64) (s : State) (w : Fin 512), let l := lvuOf s k
    l.busy = none →
    exec (.patchRamScrub k w 0) s = .next s ∧
    (∃ t, exec (.patchRamScrub k w 1) s = .next t ∧ (lvuOf t k) = { l with corr := min 0xFFFF (l.corr + 1), patchUpset := Tbl.put 0 l.patchUpset w 0 } ∧
      t.corrMicro = min 0xFFFFFFFF (s.corrMicro + 1) ∧ Tbl.get 0 t.log.corrected 5 = min 0xFFFFFFFF (Tbl.get 0 s.log.corrected 5 + 1)) ∧
    (∃ t, exec (.patchRamScrub k w 2) s = .next t ∧ Tbl.get 0 (lvuOf t k).patchUpset w = 2 ∧
      (lvuOf t k).corr = l.corr ∧ t.log.newest = nextSeq s.log.newest)

/-! ### Signal cores (chapters 4 and 5) -/

/-- R115, R130 to R135, R142, R149, R153, R181, R197, R201: a bundle of one syllable that the core issues advances the PC past it; its result is there for
the bundle that Table 4.10 names, and nothing else of the core changes. LOOPI, REP, ENDC and a taken branch set up what follows; a VEC syllable is latched
by the LVU. With PRECISE = 0 every bundle without a control syllable completes, its results in flight. -/
def Obligations.BundleIssue : Prop :=
  ∀ (k : Fin 64) (s : State) (b : Bundle), s.Bundle k b →
    let c := coreOf s k; let r := c.n; let D (i : Nat) : Int := (r.D i).toInt
    let issued (fly : List InFlight) : ClassRegs := { r with pc := BitVec.ofNat 13 b.next, count := r.count + 1, fly := fly }
    let becomes (x : SigCore) : Prop := ∃ t, exec (.bundleIssue k) s = .next t ∧ s.CoreIs t k x
    -- no syllable but CTRL NOP
    (b.syls = [.ctrl .nop] → becomes { c with n := issued [] }) ∧
    -- ALU0 ADD and SUB: Dd, then Z, N, C and V, for the next bundle
    (∀ dd da db, b.syls = [.alu0 (.d 1 dd da db 0 0)] → ∃ x, becomes { c with n := issued x } ∧
      let y := landTo { c with n := issued x } (r.count + 1); let z := BitVec.ofInt 24 (D da + D db)
      y.n.D dd = z ∧ (∀ i, i ≠ dd → y.n.D i = r.D i) ∧ y.n.sr.getLsbD 0 = (z == 0) ∧ y.n.sr.getLsbD 1 = z.msb ∧
      y.n.sr.getLsbD 2 = decide ((r.D da).toNat + (r.D db).toNat ≥ 2 ^ 24) ∧ y.n.sr.getLsbD 3 = decide (D da + D db < -2 ^ 23 ∨ 2 ^ 23 ≤ D da + D db) ∧
      y.n.sr.extractLsb' 4 20 = r.sr.extractLsb' 4 20) ∧
    (∀ dd da db, b.syls = [.alu1 (.d 2 dd da db 0 0)] → becomes { c with n := issued [{ due := r.count + 1, dst := .d dd, val := (r.D da - r.D db).toNat }] }) ∧
    -- MAC0 MAC: An two bundles later
    (∀ an dj dk, let p := if r.mode.getLsbD 3 then D dj * D dk else 2 * (D dj * D dk)
      b.syls = [.mac0 ⟨2, an, dj, dk, 0, 0⟩] → -2 ^ 55 ≤ (c.acc' an).toInt + p → (c.acc' an).toInt + p < 2 ^ 55 → ∃ x, becomes { c with n := issued x } ∧
      (landTo { c with n := issued x } (r.count + 1)).acc = c.acc ∧
      (landTo { c with n := issued x } (r.count + 2)).acc' an = BitVec.ofInt 56 ((c.acc' an).toInt + p)) ∧
    -- XMEM stores a D register in X and reads one back three bundles later
    (∀ n i, b.syls = [.xmem ⟨2, n, i, 0, 0, 0⟩] → r.xbk = 0 → ∃ x u, becomes { c with n := issued [], x := x, upset := u } ∧
      ∀ a, Tbl.get 0 x a = if a = (r.P i).toNat then r.D n else Tbl.get 0 c.x a) ∧
    (∀ n i, b.syls = [.xmem ⟨1, n, i, 0, 0, 0⟩] → r.xbk = 0 →
      becomes { c with n := issued [{ due := r.count + 3, dst := .d n, val := (Tbl.get 0 c.x (r.P i).toNat).toNat }] }) ∧
    -- a taken branch goes on after two delay bundles
    (∀ cond tg, b.syls = [.ctrl (.br cond false tg)] → becomes { c with n := { issued [] with
      delay := if condHolds r.sr cond then some ⟨2, some (BitVec.ofNat 13 tg), false⟩ else none } }) ∧
    -- LOOPI, REP and ENDC
    (∀ cnt e, b.syls = [.ctrl (.loopi cnt e)] → cnt ≠ 0 → becomes { c with n := { issued [] with
      stack := [r.cur], cur := ⟨BitVec.ofNat 16 cnt, BitVec.ofNat 13 b.next, BitVec.ofNat 13 (b.next + e)⟩ } }) ∧
    (∀ n, b.syls = [.ctrl (.repN n)] → becomes { c with n := { issued [] with
      rep := some { left := n, cond := none, first := true, annul := n == 0 }, rpc := BitVec.ofNat 13 n } }) ∧
    (b.syls = [.ctrl .endc] → becomes { c with n := { issued [] with delay := some ⟨2, none, false⟩ } }) ∧
    -- any bundle without a control syllable
    (ctrlOf b = none → r.mode.getLsbD 2 = false → ∃ t fly, exec (.bundleIssue k) s = .next t ∧ (coreOf t k).n = issued fly ∧
      (∀ w ∈ otherResults c r b, w ∈ fly) ∧ (coreOf t k).phase = c.phase ∧ (coreOf t k).fault = none) ∧
    -- VEC
    (∀ x, b.syls = [.vec x] → becomes { c with n := issued [], lvu := lvuAccept c.lvu (vecOperands c r b.addr x) })

/-- R161 to R164: fault entry records the cause and the place, keeps what RTE restores and goes on at FVEC; the system default handler
poisons the convoy's contexts and ends the convoy without write-back; a fault inside a handler stops the core until the lap edge. -/
def Obligations.FaultEntry : Prop :=
  ∀ (k : Fin 64) (s : State) (f : PendingFault),
    let c := coreOf s k; let r := c.cls
    c.fault = some f → f.cause < 32 → f.slots < 256 →
    (c.frec.getLsbD 22 = false → r.fly = [] → c.fvec ≠ 0x1F00 → ∃ t, exec (.faultEntry k) s = .next t ∧ s.CoreIs t k (SigCore.setCls { c with
      frec := BitVec.ofNat 24 (0xC00000 + (if c.fastOn then 0x200000 else 0) + f.cause * 65536 + f.slots * 256),
      fpc := r.pc, faddr := f.addr, felem := f.elem, fault := none, fastSkip := false,
      phase := if c.phase = .ending ∧ c.fastOn = false then .running else c.phase } { r with
        pc := c.fvec, rep := none, delay := none,
        ret := ⟨r.rep, r.delay, r.stack.length, decide (f.slots = 128 ∧ (f.cause = 5 ∨ f.cause = 6)), decide (c.phase = .ending ∧ c.fastOn = false)⟩ })) ∧
    (c.frec.getLsbD 22 = false → r.fly = [] → c.fvec = 0x1F00 → c.fastOn = false → c.ctxi.getLsbD 23 = false → f.elem.getLsbD 23 = false →
      ∀ slot, c.conv = some slot → ∃ t, exec (.faultEntry k) s = .next t ∧
        (coreOf t k).phase = .ending ∧ (coreOf t k).skipWb = true ∧ (coreOf t k).frec.getLsbD 22 = false ∧ (coreOf t k).fault = none ∧
        t.log.newest = nextSeq s.log.newest ∧ ∀ n ∈ slotCtxs s slot, (ctxOf s n).hdr.state ≠ .free → (ctxOf t n).hdr.state = .poisoned) ∧
    (c.frec.getLsbD 22 = true → ∃ t, exec (.faultEntry k) s = .next t ∧
      (coreOf t k).phase = .stopped ∧ (coreOf t k).fault = none ∧ (coreOf t k).fpc = r.pc ∧ t.log.newest = nextSeq s.log.newest ∧
      (coreOf t k).frec = BitVec.ofNat 24 (0xC00000 + (if c.fastOn then 0x200000 else 0) + 0x80000 + f.slots * 256))

/-- R53, R62, R76, R85, R88, R89, R104, R111, R158, R160, R287: the header rows of the first convoy, the start phase, and the end of a convoy, for a
convoy whose kernel streams nothing and in whose contexts no request, hold or migration waits. A convoy whose producers on other cores have not ended
waits for them. -/
def Obligations.CoreLap : Prop :=
  ∀ (k : Fin 64) (s : State) (slot : Nat) (x : Slot) (kr : Kernel),
    let c := coreOf s k
    s.adm.load.slot slot = some x → s.adm.load.kernel x.kernel = some kr → kr.stream = false → x.n ≤ 128 →
    let ctx (e : Nat) := 128 * slot + e
    let quiet (e : Nat) := (ctxOf s (ctx e)).upset = none ∧ (ctxOf s (ctx e)).hdr.relreq = false ∧ (ctxOf s (ctx e)).hdr.sus = false
    -- the header row load: into the other buffer, all rows of every context
    (c.phase = .idle → c.conv = none → c.order.head? = some slot → c.resident = none → (∀ e, e < x.n → quiet e) →
      (copyLapMoves s).all (fun m => m.1 != slot) = true → ∃ t, exec (.headerRowLoad k) s = .next t ∧
        (coreOf t k).conv = some slot ∧ (coreOf t k).bufB = !c.bufB ∧ (coreOf t k).n = c.n ∧
        ∀ e w, e < x.n → w < 192 →
          Tbl.get 0 (coreOf t k).x ((if c.bufB then 0 else 0x6000) + 128 * w + e) = (ctxOf s (ctx e)).rowWord s.grid.lap w) ∧
    -- the start phase with no record begins the loaded convoy at its kernel's entry
    (c.phase = .idle → c.starts = [] → c.fastOn = false → c.mt = false → c.order.head? = some slot → c.conv = some slot →
      (producersEnded s k slot = false → ∃ t, exec (.startPhase k) s = .next t ∧ s.CoreIs t k { c with phase := .waiting, cur := none }) ∧
      (producersEnded s k slot = true → ∃ t, exec (.startPhase k) s = .next t ∧ (coreOf t k).phase = .running ∧ (coreOf t k).order = c.order.tail ∧
        (coreOf t k).n.pc = BitVec.ofNat 13 (kernelBase s k x.kernel) ∧ (coreOf t k).n.xbk = 0 ∧ (coreOf t k).n.ybk = 0 ∧
        (coreOf t k).n.P 0 = BitVec.ofNat 16 (if c.bufB then 0x6000 else 0) ∧
        (coreOf t k).n.D 0 = BitVec.ofNat 24 x.n ∧ (coreOf t k).n.D 1 = BitVec.ofNat 24 (slot % 16))) ∧
    -- with one it enters the fast class at the kernel's start routine
    (∀ (rec : StartRec) (rest : List StartRec), c.phase = .idle → c.starts = rec :: rest → rec.lap + 1 = s.grid.lap → rec.dead = false →
      c.lvu.busy = none → c.cls.fly = [] → (ctxOf s rec.ctx).hdr.state = .armed → ∃ t, exec (.startPhase k) s = .next t ∧
        (coreOf t k).phase = .starting ∧ (coreOf t k).fastOn = true ∧ (coreOf t k).starts = rest ∧ (coreOf t k).n = c.n ∧
        (coreOf t k).f.mode = c.fmode ∧ (coreOf t k).f.pc = BitVec.ofNat 13 (Config.kernelStart k rec.kernel) ∧
        (let i := rec.ctx % 2048
         (coreOf t k).f.D 0 = BitVec.ofNat 24 i ∧ (coreOf t k).f.xbk = BitVec.ofNat 8 (32 + i / 512) ∧ (coreOf t k).f.ybk = BitVec.ofNat 8 (36 + i / 1024) ∧
         (coreOf t k).ctxi = BitVec.ofNat 24 (0x800000 + i))) ∧
    -- the end of the last convoy writes its running contexts back and frees those that ended; the core reports
    (c.phase = .ending → c.lvu.busy = none → c.fault = none → c.fastOn = false → c.n.fly = [] → c.conv = some slot → c.skipWb = false → c.order = [] →
      ∃ t, exec (.convoyDispatch k) s = .next t ∧ (coreOf t k).phase = .done ∧ (coreOf t k).reported = true ∧ (coreOf t k).resident = some slot ∧
        ∀ e, e < x.n → (ctxOf s (ctx e)).hdr.state = .running → (ctxOf s (ctx e)).hdr.stolen = false → (ctxOf s (ctx e)).hdr.ended = false →
          let w (i : Nat) : BitVec 24 := Tbl.get 0 c.x ((if c.bufB then 0x6000 else 0) + 128 * i + e)
          (∀ i, 8 ≤ i → i < 128 → Tbl.get 0 (ctxOf t (ctx e)).st i = w i) ∧ (ctxOf t (ctx e)).hdr.loud = w 2 ∧
          (ctxOf t (ctx e)).hdr.state = (if (w 1).getLsbD 21 then .free else .running))

/-! ### The Starter (chapter 3) -/

/-- R50, R92 to R99, R103, R108: what the Starter does with an event that it takes at its entry: no rule matches; one rule starts one voice of a
pool without streaming, on the core and context that the round robin gives, in time; no context is left and the pool does not steal; the event
is for a later lap, or late. -/
def Obligations.StarterEvents : Prop :=
  ∀ (s : State) (scls : Fin 7) (chan : BitVec 4) (note : BitVec 8) (vel : BitVec 16) (etype : Fin 6) (entry split : Nat),
    let e : Ev := ⟨BitVec.ofNat 4 scls, chan, note, vel, etype.val + 1, nsTicks entry, split / 1000 * 1000⟩
    let ev (req : Option Nat) : Instr := .starterEvent scls chan note vel etype entry split req
    let l := s.grid.lapOf (nsTicks e.split); let a := s.starter
    starterRuns s = true → nsTicks entry ≤ s.now →
    let rules := (ruleNumbers s).filter (ruleMatches s l e)
    let edge := s.grid.tau (l + 1) 0; let at_ := leaveTime s e
    (rules = [] → ∃ t, exec (ev none) s = .next t ∧ t.starter.taken = min 0xFFFFFFFF (a.taken + 1) ∧ t.starter.unmatched = min 0xFFFFFFFF (a.unmatched + 1) ∧
      t.starter.flight = a.flight ∧ t.starter.notes = a.notes ∧ { t with starter := s.starter } = s) ∧
    (∀ r v, rules = [r] → ruleVal s l r 9 = 1 → ruleVal s l r 10 = 0 → ruleVoices s l r = [v] → poolVal s l v.pool 12 = 0 →
      (keyVoices s e).length < 64 →
      let shared := ((List.range 8).map (fun i => (Tbl.get 0 a.rr v.pool + i) % 8)).filter (fun c =>
        clusterOpen s c && decide (activeIn s v.pool c < poolShare s l v.pool c))
      -- it starts
      (∀ k n, shared.findSome? (roomIn s l v.pool) = some (k, n) → at_ ≤ edge + nsTicks 400 →
        (let c := Tbl.get 0 a.copyEnd (n / 2048)
         max c at_ + 17 * tickNs ≤ edge + nsTicks 496) →
        ∃ t x, exec (ev none) s = .next t ∧ t.starter.flight = a.flight ++ [x] ∧ t.starter.notes = a.notes ++ [⟨e.scls, chan, note, n⟩] ∧
          x.ctx = n ∧ x.lap = l ∧ x.tmpl = v.tmpl ∧ x.pool = v.pool ∧ x.vel = vel ∧ x.note = note ∧ x.chan = chan ∧ x.sv = false ∧
          Tbl.get 0 t.starter.slots (64 * (l + 1) + 8 * (n / 2048) + k) = Tbl.get 0 a.slots (64 * (l + 1) + 8 * (n / 2048) + k) + 1 ∧
          Tbl.get 0 t.starter.starts v.pool = min 0xFFFFFFFF (Tbl.get 0 a.starts v.pool + 1) ∧ { t with starter := s.starter } = s) ∧
      -- reason 5, CONTEXT
      (shared = [] → poolVal s l v.pool 11 = 0 → v.pool ≠ 0xFFFF → ∃ t, exec (ev none) s = .next t ∧ t.starter.flight = a.flight ∧
        t.starter.refContext = min 0xFFFFFFFF (a.refContext + 1) ∧ Tbl.get 0 t.starter.refusals v.pool = min 0xFFFFFFFF (Tbl.get 0 a.refusals v.pool + 1) ∧
        t.starter.lastRefused = refusalRecord e.split e 5 v.pool ∧ t.evc = evcPulse 192 s.evc)) ∧
    (∀ req, nsOf (nsTicks entry) ≤ req → req ≤ nsOf (nsTicks entry) + 1000000000 → s.grid.lapOf (nsTicks (req / 1000 * 1000)) > s.grid.lap →
      ∃ t, exec (ev (some req)) s = .next t ∧ t.starter.waiting = a.waiting ++ [{ e with split := req / 1000 * 1000 }] ∧
        t.starter.flight = a.flight ∧ { t with starter := s.starter } = s) ∧
    (∀ req, req < nsOf (nsTicks entry) → ∃ t, exec (ev (some req)) s = .next t ∧ t.starter.late = min 0xFFFFFFFF (a.late + 1))

/-- R81, R99, R101, Table 3.2: a start record reaches its cluster and arms its context; its template copy fills the context's state and parameter
words, the velocity and note words last; the copy of a page ends and the writes that waited for it land. -/
def Obligations.ContextCopies : Prop :=
  ∀ (s : State) (c : Fin 8),
    (∀ r, s.starter.flight.find? (fun r => r.ctx / 2048 == c.val) = some r → ∃ t, exec (.startRecordArrival c) s = .next t ∧
      (let h := (ctxOf t r.ctx).hdr
       h.state = .armed ∧ h.kernel = BitVec.ofNat 16 r.kernel ∧ h.pool = BitVec.ofNat 10 r.pool ∧ h.gen = (ctxOf s r.ctx).hdr.gen + 1 ∧ h.ended = false ∧
       h.stolen = r.stolen ∧ h.relreq = r.relreq ∧ h.age = BitVec.ofNat 48 r.lap ∧ h.vel = r.vel ∧ h.note = r.note ∧ h.chan = r.chan ∧ h.scls = r.scls) ∧
      t.starter.flight = s.starter.flight.erase r ∧ Tbl.get [] t.starter.copies c = Tbl.get [] s.starter.copies c ++ [r] ∧
      (∀ n, n ≠ r.ctx → ctxOf t n = ctxOf s n) ∧ { t with starter := s.starter, ctxs := s.ctxs } = s) ∧
    (∀ r rest, Tbl.get [] s.starter.copies c = r :: rest → r.copied = false → r.dead = false → r.velw < 64 → r.notew < 64 → r.velw ≠ r.notew →
      ∃ t, exec (.templateCopyEnd c) s = .next t ∧ Tbl.get [] t.starter.copies c = rest ∧
      (let x := ctxOf t r.ctx; let img := starterBytes s r.lap (0x5000 + r.tmpl) 1
       (∀ w, 8 ≤ w → w < 128 → Tbl.get 0 x.st w = templateWord img w) ∧
       (∀ i, i < 64 → Tbl.get 0 x.act i = if i = r.velw then BitVec.ofNat 24 (r.vel.toNat * 256) else if i = r.notew then r.note.setWidth 24 else templateWord img (128 + i)) ∧
       x.shadow = x.act ∧ x.hdr = (ctxOf s r.ctx).hdr) ∧
      (let k := slotCore s (slotOfCtx r.ctx); (coreOf t k).starts = (coreOf s k).starts ++ [{ r with copied := true }])) ∧
    (∀ n rest, copyingCtxs s c = n :: rest → ∃ t, exec (.pageCopyEnd c) s = .next t ∧
      (let mine := s.held.filter (fun h => h.ctx == n && h.atLap == none); let x := ctxOf t n; let y := ctxOf s n
       x.copying = false ∧ x.act = y.act ∧ x.hdr = y.hdr ∧ x.st = y.st ∧ (mine = [] → x.shadow = y.act ∧ x.dirty = y.dirty) ∧
       (∀ h, mine = [h] → x.dirty = true ∧ ∀ w, Tbl.get 0 x.shadow w = if w = h.word then h.val else Tbl.get 0 y.act w) ∧
       t.held = s.held.filter (fun h => !(h.ctx == n && h.atLap == none))) ∧
      (∀ j, j ≠ n → ctxOf t j = ctxOf s j) ∧ { t with ctxs := s.ctxs, held := s.held } = s)

/-! ### Laps (chapter 2) -/

/-- R37, R58, R80, R163, R466: the lap edge of a sealed lap in a module that has nothing else to do at it (State.QuietEdge): the counter rises, time
stands at the new edge, marked pages exchange roles, and every core has the running order of the new lap; the lap divider and a new second raise their
events, and a core that has overrun is recorded (R65). A grid that does not run has no edge. -/
def Obligations.LapEdge : Prop :=
  ∀ s : State, (s.grid.running = false → exec .lapEdge s = .next s) ∧
    (s.QuietEdge → ∃ t, exec .lapEdge s = .next t ∧
      t.grid = { s.grid with lap := s.grid.lap + 1, sealed := false, silent := s.grid.silent - 1 } ∧
      t.now = max s.now (s.grid.tau (s.grid.lap + 1) 0) ∧ t.relay.next = 0 ∧ t.modes.mode = s.modes.mode ∧
      (∀ n, ctxOf t n = if (ctxOf s n).marked then { ctxOf s n with act := (ctxOf s n).shadow, shadow := (ctxOf s n).act, marked := false, copying := true } else ctxOf s n) ∧
      (∀ k, k < 64 → let c := coreOf s k; let x := coreOf t k
        x.phase = (if c.phase = .precise then .precise else .idle) ∧ x.reported = false ∧ x.conv = none ∧ x.frec = c.frec &&& 0x3FFFFF ∧ x.n = c.n ∧
        x.order = s.adm.plan.order.filter (fun i => (match s.adm.load.slot i with | some y => slotCoreIn i y == k | none => false) &&
          !s.adm.resting.any (fun e => e.1 == i && decide (s.grid.lap + 1 < e.2)))) ∧
      ((∀ k, k < 64 → (coreOf s k).overran = false) →
        (let e := if s.net.pps < nsOf t.now / 1000000000 then evcPulse 293 s.evc else s.evc
         t.evc = if s.evc.lapdiv ≠ 0 ∧ (s.grid.lap + 1) % s.evc.lapdiv.toNat = 0 then evcPulse 292 e else e) ∧ t.log.newest = s.log.newest) ∧
      (∀ k, k < 64 → (coreOf s k).overran = true → (∀ j, j < 64 → j ≠ k → (coreOf s j).overran = false) → stoppedByFault (coreOf s k) = false →
        t.log.newest = nextSeq s.log.newest))

/-- R44, R63 to R65, R80, R146: the seal of a lap with no manifest and no quarantine due. ARITH takes what the lap has set and the sticky flags are
cleared; contexts that were written are marked; a core that has overrun is stopped, unless PRECISE has stopped it, its starts are abandoned, and it is
counted. -/
def Obligations.Seal : Prop :=
  ∀ s : State, s.man.tbl = [] → (∀ c, c < 8 → (clusterOf s c).quarDue = false) →
    (s.grid.running = false ∨ s.grid.sealed = true → exec .sealLap s = .next s) ∧
    (s.grid.running = true → s.grid.sealed = false → ∃ t, exec .sealLap s = .next t ∧
      t.grid = { s.grid with sealed := true } ∧ t.now = max s.now (s.grid.tau s.grid.lap 0 + nsTicks (s.grid.tCyc - 1024)) ∧
      (∀ k, k < 64 → hasOverrun s k = false → let c := coreOf s k; let x := coreOf t k
        x.arith = ((c.n.sr ||| c.f.sr) &&& 0xFFFF00 ||| ((if c.lvu.vstat.getLsbD 1 then 0x100 else 0) ||| (if c.lvu.vstat.getLsbD 2 then 0x200 else 0))) ∧
        x.n = { c.n with sr := c.n.sr &&& 0xFF } ∧ x.f = { c.f with sr := c.f.sr &&& 0xFF } ∧ x.lvu = { c.lvu with vstat := c.lvu.vstat &&& 0xFFFF01 } ∧
        x.phase = c.phase ∧ x.order = c.order) ∧
      (∀ k, k < 64 → hasOverrun s k = true → (coreOf t k).phase = (if (coreOf s k).phase = .precise then .precise else .stopped) ∧ (coreOf t k).overran = true ∧ (coreOf t k).order = [] ∧
        Tbl.get 0 t.overruns k = min 0xFFFFFFFF (Tbl.get 0 s.overruns k + 1)) ∧
      ((∀ k, k < 64 → hasOverrun s k = false) → t.overruns = s.overruns ∧ t.overLaps = s.overLaps ∧
        ∀ n, (ctxOf s n).copying = false → let c := ctxOf s n
          ctxOf t n = if c.dirty then (if c.defer then { c with defer := false } else { c with marked := true, dirty := false }) else c) ∧
      ((∃ k, k < 64 ∧ hasOverrun s k = true) → t.overLaps = min 0xFFFFFFFF (s.overLaps + 1)))

/-! ### The Relay (chapter 8) -/

/-- R301, R304, R307: the next burst of the timetable runs and its beats count as sent; one that arrives with an error is discarded, recorded, and what it
carried is substituted (an output's block counts as lost). A lane's arbiter serves the stations that wait in turn. -/
def Obligations.RelayTraffic : Prop :=
  ∀ (s : State) (b : Burst) (ring : Fin 4096) (first n : Nat),
    (s.grid.running = true → s.adm.timetable[s.relay.next]? = some b → b.kind ≠ 8 → s.relay.next ∉ s.relay.bad →
      exec (.relayBurst false ring first n) s = .next { s with relay := { s.relay with next := s.relay.next + 1, sent := s.relay.sent + (b.len + 1) } } ∧
      ∃ t, exec (.relayBurst true ring first n) s = .next t ∧ t.relay.next = s.relay.next + 1 ∧ t.relay.discarded = s.relay.discarded + 1 ∧
        t.log.newest = nextSeq s.log.newest ∧
        (b.kind = 1 → b.tag ∈ t.avail.taint ∧ (b.tag, first, n) ∈ t.audio.mix.feedLost) ∧
        (b.kind = 7 → (b.tag, if b.start ≥ s.grid.tCyc - 976 then s.grid.lap + 1 else s.grid.lap) ∈ t.audio.lost)) ∧
    (∀ (lane : Fin 4) (waiting : BitVec 13) (beats : Fin 16) (i : Nat), i < 13 → let st := (Tbl.get 0 s.relay.rr lane + i) % 13
      waiting.getLsbD st = true → (∀ j, j < i → waiting.getLsbD ((Tbl.get 0 s.relay.rr lane + j) % 13) = false) →
      exec (.relayPacket lane waiting beats) s = .next { s with
        relay := { s.relay with rr := Tbl.put 0 s.relay.rr lane (st + 1), sent := s.relay.sent + beats + 1 }, result := st })

/-! ### Manifests between their checks and their edge (chapter 9) -/

/-- R324, R325, R328, R329, R331, R332, R335, R338, R340, R661: the checks of the manifest at the head of the queue, in the order of Table 9.7; the
shares that the islands have staged; the decision; parameter values and the batch of a migration in the lap before the commit lap. -/
def Obligations.ManifestsToCommit : Prop :=
  ∀ (s : State) (h : Fin 28), let m := manOf s h
    let others (t : State) : Prop := ∀ j, j ≠ h.val → manOf t j = manOf s j
    -- the checks
    (∀ t0 rest, nsTicks t0 ≤ s.now → s.man.queue = h.val :: rest → m.state = .checking → h.val < 16 → m.ofCluster = 0 →
      let ends (code entry : Nat) : Prop := ∃ t, exec (.manifestCheck t0) s = .next t ∧ (manOf t h).state = .free ∧ h.val ∉ t.man.queue ∧
        Tbl.get [] t.man.results (h.val + 1) = resultRecord code 0 entry 0 0 ∧ others t ∧ t.adm = s.adm
      (∀ i, failing (entryState s) m.entries = some i → ends 12 i) ∧
      (failing (entryState s) m.entries = none → (∀ i, failing (entrySems s (handleOwner h)) m.entries = some i → ends 6 i)) ∧
      (failing (entryState s) m.entries = none → failing (entrySems s (handleOwner h)) m.entries = none → footprintClash s m = true → ends 10 0xFFFF) ∧
      (∀ lc, failing (entryState s) m.entries = none → failing (entrySems s (handleOwner h)) m.entries = none → footprintClash s m = false →
        failing (entryCompares s (handleOwner h)) m.entries = none → checkAdmission s m = none → commitLap s m = .ok lc →
        ∃ t, exec (.manifestCheck t0) s = .next t ∧ others t ∧ h.val ∉ t.man.queue ∧ t.man.seq = (s.man.seq + 1) % 2 ^ 32 ∧
          t.adm.accepted = min 0xFFFFFFFF (s.adm.accepted + 1) ∧ t.adm.load = s.adm.load ∧
          (let x := manOf t h
           x.state = .staged ∧ x.lc = lc ∧ x.entries = m.entries ∧ x.twoLap = needsTwo s m ∧ x.missing = islandsOf s m ∧ x.order = t.man.seq) ∧
          (m.timed = none → s.grid.lapOf s.now + (if needsTwo s m then 3 else 2) ≤ lc ∧ ∀ e ∈ standing s, e.2.lc ≤ lc))) ∧
    -- staging
    (∀ st : Fin 14, m.state = .staged → exec (.stagingDone h st) s = .next (setMan s h { m with missing := m.missing.filter (· != st.val) })) ∧
    -- the decision point: GO, or LATE
    (s.grid.running = true → s.man.tbl = [(h.val, m)] → m.state = .staged → m.lc = s.grid.lap + (if m.twoLap then 2 else 1) → (∀ i ∈ islandsOf s m, goneCluster s i = false) →
      (m.missing = [] → ∃ t, exec .decisionPoint s = .next t ∧ manOf t h = { m with state := .given } ∧ t.now = max s.now (decisionAt s.grid s.grid.lap)) ∧
      (∀ i, m.missing = [i] → m.wrote = [] → h.val < 16 → m.ofCluster = 0 → ∃ t, exec .decisionPoint s = .next t ∧ (manOf t h).state = .free ∧
        Tbl.get [] t.man.results (h.val + 1) = resultRecord 11 0 0xFFFF m.lc (edgeNs s m.lc) ∧ t.man.aborted = min 0xFFFFFFFF (s.man.aborted + 1) ∧
        t.log.newest = nextSeq s.log.newest)) ∧
    -- a parameter value, unless the voice it was meant for has gone
    (∀ n w v, n < 16384 → m.paramsIn = false → m.lc = s.grid.lap + 1 → m.state = .staged → m.twoLap = false → m.entries = [.write (0x8000 + n) w v] →
      ((ctxOf s n).hdr.state ≠ .free → (ctxOf s n).hdr.state ≠ .poisoned → lookupNat m.gens n = some (ctxOf s n).hdr.gen →
        let u := if (ctxOf s n).hdr.state = .armed then copiedFirst n s else s
        ∃ t, exec (.manifestParamWrite h) s = .next t ∧ others t ∧ (manOf t h).paramsIn = true ∧ (manOf t h).wrote = [(n, w)] ∧
          ctxOf t n = { ctxOf u n with shadow := Tbl.put 0 (ctxOf u n).shadow w (BitVec.ofNat 24 (leNat v)), dirty := true } ∧
          ∀ j, j ≠ n → ctxOf t j = ctxOf s j) ∧
      ((∀ g, lookupNat m.gens n = some g → g ≠ (ctxOf s n).hdr.gen) → ∃ t, exec (.manifestParamWrite h) s = .next t ∧ (manOf t h).paramsIn = true ∧
        t.man.dropped = min 0xFFFFFFFF (s.man.dropped + 1) ∧ ((ctxOf s n).hdr.state ≠ .armed → t.ctxs = s.ctxs))) ∧
    -- the batch of one migration of one element
    (∀ a b core y, m.state = .given → m.lc = s.grid.lap + 1 → m.carried = [] → m.entries = [.migrate a b core] → s.adm.load.slot a = some y → y.n = 1 →
      (ctxOf s (128 * a)).hdr.state = .migrating → (ctxOf s (128 * a)).prior ≠ .free →
      (let c := ctxOf s (128 * a)
       exec (.migrationBatch h []) s = .next (setMan s h { m with carried := [(128 * b, { c with hdr := { c.hdr with state := c.prior } })] }) ∧
       ∃ t, exec (.migrationBatch h [0]) s = .next t ∧ (manOf t h).carried = [(128 * b, { c with hdr := { c.hdr with state := .poisoned } })] ∧
        t.log.newest = nextSeq s.log.newest))

/-! ### The sample store (chapter 10) -/

/-- R351 to R353, R367 to R371: a start record opens a stream on a ring, at its head; the store engine issues a page read when the ring has room for it, and no plane's
queue grows past 6; a page that is read fills the ring as far as there is room and frames, and one of a busy plane is rebuilt without that plane; a report
tells what was consumed and closes a loop that the voice has left. -/
def Obligations.StreamRings : Prop :=
  ∀ (s : State) (ring : Fin 4096), let g := ringOf s ring; let r := objRec (objOf s g.object).record
    (∀ (obj : Fin 1048576) (ctx : Fin 16384), let x := objRec (objOf s obj).record; let h := (x.head * x.rho * rateHz s.grid.rate + 63999) / 64000
      exec (.streamOpen ring obj ctx) s = .next (setRing s ring { g with
        state := 1, object := obj, ctx := ctx, cursor := 0, consumed := 0, written := if x.le = 0 then min h x.frames else h,
        loopClose := 0xFFFFFFFF, leave := false, left := false, stale := g.stale + g.reads, reads := 0, zeros := [], orphan := false })) ∧
    (g.state = 1 → g.grants ≠ 0 → 49152 * g.grants ≤ ringFree s g → streamWhole s g = false →
      exec (.ringFillRead ring) s = .next (setRing (issueRead ring s) ring { g with reads := g.reads + 1 })) ∧
    (let q := (issueRead ring s).store
     { issueRead ring s with store := s.store } = s ∧ { q with queued := s.store.queued, waiting := s.store.waiting } = s.store ∧
     q.queued.length + q.waiting.length = s.store.queued.length + s.store.waiting.length + 1 ∧
     (∀ p, (s.store.queued.filter (fun r => r.planes.contains p)).length ≤ 6 → (q.queued.filter (fun r => r.planes.contains p)).length ≤ 6) ∧
     (∀ x, x ∈ q.waiting → ∃ p, p ∈ x.planes ∧ planeRoom q.queued p = false)) ∧
    (g.state = 1 → g.grants ≠ 0 → (ringFree s g < 49152 * g.grants ∨ streamWhole s g = true) → g.orphan = false → exec (.ringFillRead ring) s = .next s) ∧
    (g.state ≠ 0 → exec (.consumptionReport ring) s = .next (setRing s ring { g with
      consumed := g.cursor, left := g.left || g.leave,
      loopClose := if g.leave ∧ g.left = false ∧ 0 < r.le ∧ g.loopClose = 0xFFFFFFFF then loopCloseAt r g.written else g.loopClose })) ∧
    -- pages
    (∀ (frames : Nat) (page : BitVec 27), let k := blockKey (pageDie page.toNat) (pagePlane page.toNat) (pageBlock page.toNat); let b := blockOf s k
      (planeBusy s (pageDie page.toNat) (pagePlane page.toNat) = false →
        ∃ t, exec (.pageReadDone none frames 0 page) s = .next t ∧ (blockOf t k).reads = b.reads + 1 ∧ t.store.rings = s.store.rings) ∧
      (s.store.queued.find? (fun x => x.ring == ring.val) = none → s.store.waiting.any (fun x => x.ring == ring.val) = true → ∀ outcome,
        exec (.pageReadDone (some ring) frames outcome page) s = .next s) ∧
      (∀ x, s.store.queued.find? (fun x => x.ring == ring.val) = some x → 1 < x.planes.length → ∃ t, exec (.pageReadDone (some ring) frames 0 page) s = .next t ∧
        (blockOf t k).reads = b.reads ∧ t.store.rebuilt = min 0xFFFFFFFF (s.store.rebuilt + 1) ∧
        ∀ d, d < 8 → d ≠ pageDie page.toNat → let j := blockKey d (pagePlane page.toNat) (pageBlock page.toNat)
          (blockOf t j).reads = (blockOf s j).reads + 1) ∧
      (∀ x, s.store.queued.find? (fun x => x.ring == ring.val) = some x → x.planes.length = 1 → g.stale = 0 → g.reads ≠ 0 → playEnd r g.loopClose = none →
        let n := min frames (ringFrames g.grants r.channels - (g.written - max g.consumed (headFrames r s.grid.rate)))
        (∃ t, exec (.pageReadDone (some ring) frames 0 page) s = .next t ∧ (blockOf t k).reads = b.reads + 1 ∧
          (ringOf t ring).reads = g.reads - 1 ∧ (ringOf t ring).written = g.written + n ∧ (ringOf t ring).zeros = g.zeros) ∧
        (∃ t, exec (.pageReadDone (some ring) frames 3 page) s = .next t ∧ (ringOf t ring).written = g.written + n ∧
          (ringOf t ring).zeros = g.zeros ++ [(g.written, n)] ∧ t.store.uncorr = min 0xFFFFFFFF (s.store.uncorr + 1) ∧
          t.log.newest = nextSeq s.log.newest ∧ (blockOf t k).soft = b.soft + 1)))

/-- R350, R358, R361, R378 to R381, R385, R387: programs, erases and doses of the flash, of which a plane group has one at a time; heads, prefixes and imports that become resident; the end of a drain
and the return of the streaming service. -/
def Obligations.StoreCare : Prop :=
  ∀ s : State,
    (∀ (die : Fin 8) (plane : Fin 4) (block : Fin 1366), let k := blockKey die plane block; let b := blockOf s k
      (b.retired = false → ∀ last, ∃ t, exec (.nandProgramDone die plane block false last) s = .next t ∧ (blockOf t k).retired = true ∧
        Tbl.get 0 t.store.taken (4 * die.val + plane.val) = Tbl.get 0 s.store.taken (4 * die.val + plane.val) + 1) ∧
      (∃ t, exec (.nandProgramDone die plane block true false) s = .next t ∧ { t with free := s.free, store := { t.store with busy := s.store.busy } } = s) ∧
      (oneBusy s = true → (∀ p, p < 4 → ∃ d, Tbl.get 0 s.store.busy p = oneDie d) → ∀ c, (∃ ok last, c = .nandProgramDone die plane block ok last) ∨
          (∃ ok, c = .nandEraseDone die plane block ok) →
        ∃ t, exec c s = .next t ∧ ∀ p, p < 4 → ∃ d, Tbl.get 0 t.store.busy p = oneDie d) ∧
      (∃ t, exec (.nandProgramDone die plane block true true) s = .next t ∧ superOf t (superKey plane block) = { written := true, dose := 0, moving := false } ∧
        t.store.blocks = s.store.blocks) ∧
      (∃ t, exec (.nandEraseDone die plane block true) s = .next t ∧ blockOf t k = { b with pe := b.pe + 1, reads := 0, soft := 0, moving := false })) ∧
    (∀ temp : Int, ∃ t, exec (.doseTick temp) s = .next t ∧ t.store.blocks = s.store.blocks ∧
      ∀ k, let x := superOf s k; let dose := x.dose + Config.doseStep temp
        superOf t k = if x.written then { x with dose := dose, moving := x.moving || decide (dose ≥ 850 * 1000000000) } else x) ∧
    (∀ obj : Fin 1048576, (objOf s obj).state = 3 → ∃ t, exec (.headResident obj) s = .next t ∧
      (let r := objRec (objOf s obj).record
       objOf t obj = { objOf s obj with state := 4, headOff := (codingAt r.frames (objOf s obj).data (headFrames r s.grid.rate) 0).1 }) ∧
      ∀ j, j ≠ obj.val → objOf t j = objOf s j) ∧
    (∀ m : Fin 1024, let x := keymapOf s m; let w (os : List Nat) : Nat := prefixWordsOf s os
      let loaded := (s.store.keymaps.filter (fun e => e.2.state == 2)).foldl (fun os e => (keymapObjects s e.1).foldl (fun os o => insertNat o os) os) []
      let total := w ((keymapObjects s m).foldl (fun os o => insertNat o os) loaded)
      x.state = 1 → x.reload = false →
      (total ≤ 524288 → ∃ t, exec (.prefixCopyDone m) s = .next t ∧ keymapOf t m = { x with state := 2, status := 0, words := w (keymapObjects s m) } ∧
        t.store.prefixWords = total ∧ t.evc = evcPulse 139 s.evc) ∧
      (524288 < total → ∃ t, exec (.prefixCopyDone m) s = .next t ∧ keymapOf t m = { x with state := 3, status := 8 } ∧ t.evc = evcPulse 139 s.evc)) ∧
    (∀ j : Fin 3, let x := sessionOf s j; let id := (objRec x.record).id
      x.state = 3 → ∃ t, exec (.importProgramDone j) s = .next t ∧ sessionOf t j = { x with state := 4, status := 0, data := [] } ∧
        objOf t id = { objOf s id with state := 3 } ∧ t.evc = evcPulse (136 + j.val) s.evc) ∧
    (s.store.service = 1 → ∃ t, exec .streamingDrainTimeout s = .next t ∧ t.store.service = 2 ∧ t.evc = evcPulse 141 s.evc ∧
      ∀ n, ctxOf t n = let c := ctxOf s n
        if c.hdr.sv && c.hdr.state.active then { c with hdr := { c.hdr with stolen := true }, stolenLap := s.grid.lap } else c) ∧
    (s.store.service = 3 → s.modes.entering ≠ 1 → ∃ t, exec .streamingResumed s = .next t ∧ t.store = { s.store with service := 0, busy := [] } ∧
      t.evc = evcPulse 141 s.evc)

/-- R360, R382, R384, R385, R387, R388: what a write that passes the checks of R479 does to the library: keymaps, imports, deletions, the streaming
service and the preparation for storage. A commit whose data do not match their CRC ends the session with that code. -/
def Obligations.LibraryWrites : Prop :=
  ∀ (s : State) (who : Requester),
    let writes (c : Instr) (who : Requester) (ix sub : Nat) (val : Bytes) (u : State) : Prop := s.Writable who ix sub val → exec c s = .next (s.told ix sub u)
    (∀ (m : Fin 1024) (zs : List (BitVec 8)), s.dict.od.any (fun e => decide (0xC400 * 256 ≤ e.1 ∧ e.1 < 0xCC00 * 256) && leNat e.2 == m.val) = false →
      (∀ z ∈ zones zs, (objOf s z.object).state = 4) →
      writes (.keymapWrite who m zs) who (0xCC00 + m.val) 1 zs (setKeymap (odPut (0xCC00 + m.val) 1 zs s) m { state := 1 })) ∧
    (∀ (j : Fin 3), let x := sessionOf s j; let owner := sessionOwner j; let ix := 0xC100 + j.val; libraryOpen s = true →
      (∀ v, let r := objRec v; (x.state = 0 ∨ 4 ≤ x.state) → (objOf s r.id).state = 0 → 16 ≤ sparesLeft s → userHeld s + r.bytes ≤ userCapacity →
        headsUsed s s.grid.rate + headBytes r s.grid.rate ≤ headRegion →
        writes (.importOpen j v) owner ix 1 v (setObj (setSession s j { state := 1, record := v }) r.id { state := 1, record := v })) ∧
      (∀ off v, x.state = 1 → 16 ≤ sparesLeft s → BitVec.toNat off = x.data.length → x.data.length + v.length ≤ (objRec x.record).bytes → staged s + v.length ≤ 268435456 →
        writes (.importAppend j off v) owner ix 2 v (setSession s j { x with data := x.data ++ v })) ∧
      (x.state = 1 → 16 ≤ sparesLeft s → importCheck (objRec x.record) x.data = .ok → writes (.importCommit j) owner ix 3 [1]
        (opsBegin (setSession (setObj s (objRec x.record).id { state := 2, record := x.record, data := x.data }) j { x with state := 3 }))) ∧
      (x.state = 1 → 16 ≤ sparesLeft s → x.data.length = (objRec x.record).bytes → crc32c x.data ≠ (objRec x.record).crc → s.Writable owner ix 3 [1] →
        ∃ t, exec (.importCommit j) s = .next t ∧ t.dict.last = .crc ∧ (sessionOf t j).state = 5 ∧ (sessionOf t j).status = 14 ∧
          (objOf t (objRec x.record).id).state = 0 ∧ t.evc = evcPulse (136 + j.val) s.evc) ∧
      (x.state = 1 → writes (.importAbort j) owner ix 3 [2] (freeObject (objRec x.record).id (endSession j 0 .ok s)))) ∧
    (∀ id : BitVec 32, let o := objOf s id.toNat; (o.state = 3 ∨ o.state = 4) →
      (∀ m, m < 1024 → (lookupNat s.dict.od (odKey (0xCC00 + m) 1)).isSome → id.toNat ∉ keymapObjects s m) →
      writes (.objectDelete who id) who 0xC110 1 (leBytes 4 id.toNat) (freeDeleted (setObj s id.toNat { o with state := 5 }))) ∧
    (s.modes.mode = .maintain → (s.store.service = 0 ∨ s.store.service = 3) → writes (.streamingDrain who) who 0xC002 1 [1]
      (odSet 0xC002 1 1 (setService 1 { s with store := { s.store with drainEnd := s.now + nsTicks 10000000000 + 1 } }))) ∧
    (s.modes.mode = .maintain → (s.store.service = 1 ∨ s.store.service = 2) → writes (.streamingResume who) who 0xC002 1 [0] (odSet 0xC002 1 0 (setService 3 s))) ∧
    writes (.prepareForStorage who) who 0xC020 2 [1] (opsBegin (prepSettle { s with store := { s.store with
      prep := 1,
      supers := s.store.supers.map (fun e => if e.2.written && decide (e.2.dose > 250 * 1000000000) then (e.1, { e.2 with moving := true }) else e) } }))

/-! ### Modes, updates, applications and service: writes of their objects (chapters 11, 13 and 16) -/

/-- R448, R449, R482, R577 to R579, R589, R594 to R597, R599, R605, R606, Tables 16.2, 16.9 and 16.13: what a write that passes the checks of R479 does
to the mode, the update, the life cycle, the customer keys, the applications and the saved set. A mode request while another is under way is BUSY. -/
def Obligations.ModeWrites : Prop :=
  ∀ (s : State) (who : Requester),
    let writes (c : Instr) (ix sub : Nat) (val : Bytes) (u : State) : Prop := s.Writable who ix sub val → exec c s = .next (s.told ix sub u)
    let now := s.modes.mode
    -- the mode
    (let asks (c : Instr) (v : Nat) (m : Mode) (when : Prop) : Prop :=
       (s.modes.next.isSome ∨ s.modes.entering ≠ 0 → s.Writable who 0xF000 1 [BitVec.ofNat 8 v] → exec c s = .next (answered .busy [] s)) ∧
       (s.modes.next = none → s.modes.entering = 0 → when →
        writes c 0xF000 1 [BitVec.ofNat 8 v] (setNext m 0 (edgeAfter2 s) (onModes (fun x => { x with faultN := some (x.life != 5) }) (odSet 0xF000 1 v s))))
     asks (.modeRequestPerform who) 2 .perform ((now = .maintain ∧ nothingOut s = true) ∨ (now = .safe ∧ loadPasses s = true)) ∧
     asks (.modeRequestMaintain who) 3 .maintain (now = .perform) ∧
     asks (.modeRequestSafe who) 4 .safe (now = .perform ∨ now = .workshop ∨ (now = .maintain ∧ s.store.service = 0)) ∧
     asks (.modeRequestWorkshop who) 5 .workshop (now = .safe ∧ s.modes.life ∈ [0, 1, 3, 4])) ∧
    (s.modes.next = none → s.modes.entering = 0 → writes (.modeRequestStandby who) 0xF000 1 [0]
      (standbyBegin 0 (onModes (fun x => { x with faultN := some (x.life != 5) }) (odSet 0xF000 1 0 s)))) ∧
    (∀ x : State, x.modes.upd.state ≠ 5 → x.store.service = 0 → (standbyBegin 0 x).modes.entering = 2 ∧ (standbyBegin 0 x).man.tbl = []) ∧
    (∀ x : State, x.modes.upd.state ≠ 5 → x.store.service = 1 → (standbyBegin 0 x).modes.entering = 1 ∧ (standbyBegin 0 x).store.service = 3) ∧
    writes (.warmResetRequest who) 0xF000 7 [0xA5] (warmReset false s) ∧
    -- the update
    (let upd (x : Update) : State := { s with modes := { s.modes with upd := x } }
     let u := s.modes.upd; let other := 1 - s.modes.slot
     u.state ≠ 2 → u.state ≠ 5 →
     (u.state ≠ 0 → writes (.fwVerify who) 0xF010 3 [1] (upd { u with state := 2 })) ∧
     (u.state = 3 → writes (.fwActivateAtStart who) 0xF010 5 [2] { s with modes := { s.modes with
        upd := { u with state := 7 },
        boot := { s.modes.boot with pending := some other, tries := 3, fail := s.modes.boot.fail.filter (fun x => x != other), seq := s.modes.boot.seq + 1 } } }) ∧
     (u.state = 3 → (let b := slotPkg s other
       pkgFld b 10 1 % 2 = 1 ∧ pkgFld b 8 1 = expectedCsver s / 2 ^ 24 ∧ pkgFld b 9 1 = expectedCsver s / 65536 % 256) →
       writes (.fwActivateHitless who) 0xF010 5 [1] (restartDrover 3 (upd { u with state := 5, left := [3, 2, 1, 0] })))) ∧
    (let i := pkgFld (slotPkg s s.modes.slot) 2 2
     s.modes.boot.active = s.modes.slot → s.modes.rollback < i → writes (.rollbackConfirm who) 0xF010 6 [1] { s with modes := { s.modes with rollback := i } }) ∧
    -- the life cycle
    (∀ a b, (lifeMove a b).isSome ↔ (a, b) ∈ [(0, 1), (1, 2), (2, 3), (2, 4), (3, 4), (0, 5), (1, 5), (2, 5), (3, 5), (4, 5)]) ∧
    (∀ v : BitVec 8, (now = .safe ∨ now = .workshop) →
      (lifeMove s.modes.life v.toNat = some false → writes (.lifecycleRequest who v) 0xF001 1 [v] { s with modes := { s.modes with
        life := v.toNat, erasing := decide (v.toNat ≥ 4), faultN := if v = 5 then some false else s.modes.faultN } }) ∧
      (∀ tok, lifeMove s.modes.life v.toNat = some true → s.modes.token = some tok → pkgFld tok 1 1 = v.toNat →
        writes (.lifecycleRequest who v) 0xF001 1 [v] { s with modes := { s.modes with
          life := v.toNat, token := none, erasing := decide (v.toNat ≥ 4), faultN := if v = 5 then some false else s.modes.faultN } })) ∧
    (∀ b : Bytes, b.length = 88 → pkgFld b 0 1 = 1 → pkgFld b 2 2 = 0 → pkgFld b 4 4 = s.modes.nonce.toNat → Config.serial.length = 16 →
      (b.drop 8).take 16 = Config.serial → Config.ecdsaOk 4 (Config.sha256 (b.take 24)) (b.drop 24) = true →
      ∃ n, writes (.lifecycleTokenWrite who b) 0xF001 2 b { s with free := s.free + 1, modes := { s.modes with token := some b, nonce := n } }) ∧
    (∀ (k : Fin 4) (b : Bytes), s.modes.life = 1 → Tbl.get [] s.dict.keys k = [] →
      writes (.customerKeyWrite who k b) 0xF001 (k.val + 4) b { s with dict := { s.dict with keys := Tbl.put [] s.dict.keys k b } }) ∧
    -- applications
    (∀ a : Fin 8, let x := appOf s a; let ix := 0xF050 + a.val; let b := x.draft; let key := imgFld b 1 1
      (x.state ≠ 2 → imageOk (fun k => Tbl.get [] s.dict.keys k != []) b = true → key ≠ 255 →
        Config.hmacSha256 (Tbl.get [] s.dict.keys key) (b.take (imgSigned b)) = b.drop (imgSigned b) → imagesHeld s a + b.length ≤ 268435456 →
        writes (.appInstall who a) ix 3 [1] (setApp s a { x with state := 1, image := b, draft := [] })) ∧
      (x.state ≠ 2 → writes (.appRemove who a) ix 3 [2] (setApp s a { x with state := 0, image := [] })) ∧
      (x.state ≠ 2 → x.image ≠ [] → (now = .perform ∨ now = .maintain) → writes (.appStart who a) ix 4 [1]
        (appSchedule (setApp s a { x with state := 2, queue := [], block := .none, regs := [a, 0, 0, 0, 0], buf := [] }))) ∧
      (x.state = 2 → writes (.appStop who a) ix 4 [0] (appSchedule (endApp a 5 s)) ∧ (appOf (endApp a 5 s) a).state = 5)) ∧
    -- the saved set
    (s.dict.saving = none → writes (.odSave who) 0x1030 1 [1] { s with dict := { s.dict with saving := some (.firmware, 0, 0), saveSet := none, saveState := 1 } }) ∧
    (now = .safe ∨ now = .workshop → writes (.restoreDefaults who) 0x1030 2 [1] { s with dict := { s.dict with loadDefaults := true } })

/-! ### The grid, the reserve, time and the interfaces: writes of their objects (chapters 2, 8, 13, 14 and 15) -/

/-- R34 to R36, R294, R496, R509, R516, R533, R545 to R547, R549, R558, R563: what a write that passes the checks of R479 does to the grid, the
reserve, gPTP time and the settings of the interfaces, and what the reserve answers where admission refuses it. -/
def Obligations.GridAndIoWrites : Prop :=
  ∀ (s : State) (who : Requester),
    let writes (c : Instr) (ix sub : Nat) (val : Bytes) (u : State) : Prop := s.Writable who ix sub val → exec c s = .next (s.told ix sub u)
    let quiet := s.modes.mode = .safe ∨ s.modes.mode = .workshop
    -- the grid and time
    (let old := match s.grid.change with | some c => c | none => (s.grid.rate, s.grid.nLap)
     let passes (r n : Nat) := admission s false (s.adm.reserve == 1) [.write 0x2001 1 (leBytes 1 r), .write 0x2001 2 (leBytes 1 n)] = none
     let u (r n : Nat) : State := restage (replan { admissionAccept s with
        grid := { s.grid with change := if (r, n) = (s.grid.rate, s.grid.nLap) then none else some (r, n) } })
     quiet →
      (∀ v : BitVec 8, passes v.toNat old.2 → writes (.houseRateWrite who v) 0x2001 1 [v] (u v.toNat old.2)) ∧
      (∀ v : BitVec 8, passes old.1 v.toNat → writes (.lapLengthWrite who v) 0x2001 2 [v] (u old.1 v.toNat))) ∧
    (∀ t : BitVec 64, quiet → writes (.setTime who t) 0x2100 2 (leBytes 8 t.toNat) (setTime t.toNat s)) ∧
    (∀ n, let u := setTime n s
      u.now = nsTicks n ∧ u.grid = { s.grid with epoch := s.grid.epoch + nsTicks n - s.now, regrid := true } ∧
      u.net.timeBase = (s.net.timeBase + 1) % 65536 ∧ u.net.p0.phaseLeft = 10 ∧ u.net.p1.phaseLeft = 10 ∧ absTime u = absTime s) ∧
    -- the reserve
    (let adm (x : Admission) : State := { s with adm := x }
     writes (.reserveWrite who 0) 0x3001 1 [0] (restage (admissionAccept (adm { s.adm with reserve := 0, plans := [], reserveLate := false }))) ∧
     (s.adm.reserve ≠ 0 → writes (.reserveWrite who 1) 0x3001 1 [1] s) ∧
     (s.adm.reserve = 0 → s.adm.out.isSome → writes (.reserveWrite who 1) 0x3001 1 [1] (restage (admissionAccept (adm { s.adm with reserve := 2, reserveLate := true })))) ∧
     (s.adm.reserve = 0 → s.adm.out = none →
      (checkReserve s (reserveViews s) = none → writes (.reserveWrite who 1) 0x3001 1 [1] (holdReserve (admissionAccept s))) ∧
      (∀ f, checkReserve s (reserveViews s) = some f → s.Writable who 0x3001 1 [1] →
        exec (.reserveWrite who 1) s = .next (answered .refused [] (admissionRefuse 0xFFFF (reqNum who) f s)))) ∧
     -- what is staged anew: banks, never the load; the one in force swaps at an edge (R304)
     ∀ u, let r := restage u
       r.adm.load = u.adm.load ∧ r.adm.plan = u.adm.plan ∧ { r with adm := u.adm, man := u.man } = u ∧ (∀ h, { manOf r h with bank := (manOf u h).bank } = manOf u h) ∧
       (u.grid.running = true → r.adm.timetable = u.adm.timetable) ∧
       (u.grid.running = true → ∀ b, stagedBank (caseViews u).reverse = some b → r.adm.shadow = some b)) ∧
    -- port B, the network ports and their IP interfaces
    (∀ v : BitVec 8, quiet → s.Writable who 0x1010 1 [v] →
      exec (.portBBinding who v) s = .next (settleBinding (s.told 0x1010 1 (odPut 0x1010 1 [v] s))) ∧
      ∃ t, exec (.portBBinding who v) s = .next t ∧ t.dict.carrier = od (odPut 0x1010 1 [v] s) 0x1010 1) ∧
    (∀ (p : Fin 2) (v : BitVec 8), writes (.speedsAllowedWrite who p v) (0x2200 + p.val) 2 [v]
      (if odBytes s (0x2200 + p.val) 2 = [v] then s else linkDown p (odPut (0x2200 + p.val) 2 [v] s))) ∧
    (∀ (p : Fin 2) (v : BitVec 32),
      writes (.ipModeWrite who p 0 v) (0x2500 + p.val) 1 (leBytes 1 v.toNat) (ipStart p (odPut (0x2500 + p.val) 1 (leBytes 1 v.toNat) s)) ∧
      ∀ w : Fin 4, w ≠ 0 → writes (.ipModeWrite who p w v) (0x2500 + p.val) (w.val + 1) (leBytes 4 v.toNat)
        (ipStart p (odPut (0x2500 + p.val) (w.val + 1) (leBytes 4 v.toNat) s))) ∧
    (∀ (p : Fin 2) (u : State), od u (0x2500 + p.val) 1 = 2 →
      let x := netPort (ipStart p u) p
      x.addr = od u (0x2500 + p.val) 2 ∧ x.mask = od u (0x2500 + p.val) 3 ∧ x.gw = od u (0x2500 + p.val) 4 ∧ x.origin = 3) ∧
    -- audio and performance interfaces
    (∀ (j : Fin 4) (v : BitVec 8), writes (.inputRangeWrite who j v) 0x2800 (j.val + 1) [v] (rangeWrite j (odPut 0x2800 (j.val + 1) [v] s))) ∧
    (∀ (j : Fin 8) (v : BitVec 8), writes (.lineMuteWrite who j v) 0x2801 (j.val + 1) [v] (muteWrite j v.toNat (odPut 0x2801 (j.val + 1) [v] s))) ∧
    (∀ (j : Fin 2) (v : BitVec 16), writes (.headphoneVolumeWrite who j v) 0x2802 (j.val + 1) (leBytes 2 v.toNat)
      (volumeWrite j v.toInt (odPut 0x2802 (j.val + 1) (leBytes 2 v.toNat) s))) ∧
    (∀ (u : State) (j v : Nat) (w : Int),
      Tbl.get 0 (rangeWrite j u).audio.zeroed j = u.grid.lap + 2 ∧
      (let r := lineGain u j
       lineGain (muteWrite j v u) j = if r.lap = u.grid.lap + 1 then { r with stop := v } else { start := r.stop, stop := v, lap := u.grid.lap + 1 }) ∧
      (let r := hpGain u j
       hpGain (volumeWrite j w u) j = if r.lap = u.grid.lap + 1 then { r with stop := w } else { start := r.stop, stop := w, lap := u.grid.lap + 1 })) ∧
    (∀ (p : Fin 4) (v : BitVec 8), writes (.tdmEnableWrite who p v) (0x2810 + p.val) 1 [v] (odPut (0x2810 + p.val) 1 [v] s)) ∧
    (∀ (k : Fin 320) (j : Fin 11) (v : BitVec 16) (r : OdRow), odRow (0x2900 + k.val) (j.val + 1) = some r →
      let val := leBytes r.ty.bytes v.toNat
      writes (.keyObjectWrite who k j v) (0x2900 + k.val) (j.val + 1) val (odPut (0x2900 + k.val) (j.val + 1) val (keepKey (0x2900 + k.val) (j.val + 1) s))) ∧
    (∀ b : Bytes, b ≠ [] → ∀ ms, splitMidi b.length 0 b = some ms →
      let waiting := (s.audio.dinOut.queue.map (fun m => m.2.length)).sum
      (waiting + b.length ≤ 1024 → writes (.midiSend who b) 0x2830 6 b
        (dinGo { s with audio := { s.audio with dinOut := { s.audio.dinOut with queue := s.audio.dinOut.queue ++ ms } } })) ∧
      (waiting + b.length > 1024 → s.Writable who 0x2830 6 b → exec (.midiSend who b) s = .next (answered .busy [] s)))

/-! ### Requests of the dictionary server and its ports (chapter 13) -/

/-- R312, R315, R319, R321, R323, R479, R480, R486, R487, R491, R494: what the requests of Table 13.8 do in the modes that serve the dictionary: reads, blocks, writes, runs
and segments, manifests from MANIFEST_OPEN to MANIFEST_ABORT, subscriptions and semaphores. What a request changes at OD 1010.01 takes effect after it (R496). A write
that fails does so at the first step, in order, whose check it fails: the object and its access, the length, the range, the state that the object's rule asks for,
then the semaphores; nothing is stored, and only the status objects of updates and applications note the code. -/
def Obligations.DictionaryRequests : Prop :=
  (∀ (s : State) (who : Requester) (ix : BitVec 16) (sub : BitVec 8) (val : Bytes),
    let i := ix.toNat
    let j := sub.toNat
    let answers (e : Status) : Prop := exec (.bcpWrite (.body who (leBytes 2 i ++ [sub, 0] ++ val))) s = .next (answered e [] (noteStatus i j (e, s)).2)
    (∀ b : Bytes, serving s = false → exec (.bcpWrite (.body who b)) s = .next (answered .state [] s)) ∧
    (serving s = true →
      (odRow i j = none → answers (if odIndex i then .noSubindex else .noObject)) ∧
      ∀ r, odRow i j = some r →
        (mayWrite who r = false → answers .access) ∧
        (mayWrite who r = true →
          (lengthOk r i j val.length = false → answers .type) ∧
          (lengthOk r i j val.length = true →
            (rangeOk s s.dict.od r i j val = false → answers .range) ∧
            (rangeOk s s.dict.od r i j val = true →
              (r.fl.testBit 1 = true → answers .state) ∧
              (r.fl.testBit 1 = false →
                let x := odEffect who i j 0 val s
                (x.1 = .ok → holdsGuards s who i r = false → answers .semNotHeld))))))) ∧
  (∀ (s : State) (who : Requester) (ix : BitVec 16) (sub : BitVec 8), serving s = true →
    let i := ix.toNat
    let j := sub.toNat
    let head (k : Nat) : Bytes := leBytes 2 i ++ [sub, BitVec.ofNat 8 k]
    let settled (t : State) : State := if od t 0x1010 1 = od s 0x1010 1 then t else settleBinding t
    let does (c : Request → Instr) (b : Bytes) (st : Status) (body : Bytes) (t : State) : Prop := exec (c (.body who b)) s = .next (settled (answered st body t))
    let old := (portSt s .a).asm
    -- reads
    (∀ v, odRead s who i j = .ok v →
      (v.length ≤ 4096 → does .bcpRead (head 0) .ok v s) ∧ (v.length > 4096 → does .bcpRead (head 0) .range [] s) ∧
      (∀ (off : BitVec 32) (n : BitVec 16), n.toNat ≤ 4096 →
        let b := head 0 ++ leBytes 4 off.toNat ++ leBytes 2 n.toNat ++ [0, 0]
        (off.toNat ≤ v.length → does .bcpReadBlock b .ok ((v.drop off.toNat).take n.toNat) s) ∧ (off.toNat > v.length → does .bcpReadBlock b .range [] s))) ∧
    (∀ e, odRead s who i j = .error e → does .bcpRead (head 0) e [] s) ∧
    -- writes
    (∀ val u, s.Writable who i j val → odEffect who i j 0 val s = (.ok, u) → does .bcpWrite (head 0 ++ val) .ok [] (noteStatus i j (.ok, noteChange i j s (afterStreams i s u))).2) ∧
    (∀ (n : BitVec 32) (d : Bytes), 0 < n.toNat → n.toNat ≤ 255 → j + n.toNat ≤ 256 →
      (∀ t, runWrite who i n.toNat j d s = .ok t → does .writeBlockRun (head 0 ++ leBytes 4 n.toNat ++ d) .ok [] t) ∧
      (∀ e, runWrite who i n.toNat j d s = .error e → does .writeBlockRun (head 0 ++ leBytes 4 n.toNat ++ d) e.1 (if e.1 = .ok then [] else leBytes 1 e.2.1) (runFails s e.2.2))) ∧
    (runWrite who i 0 j [] s = .ok s ∧ ∀ n r d x t, odRow i j = some r → mayWrite who r = true → runTake r d = some x → odWrite who i j x.1 s = (.ok, t) →
      runWrite who i (n + 1) j d s = runWrite who i n (j + 1) x.2 t) ∧
    (∀ r, who = .portA → odRow i j = some r → mayWrite who r = true → r.ty.bytes = 0 → streamed i j = false →
      ∀ (off : BitVec 32) (h d : Bytes), (off = 0 ∧ h = []) ∨ (old = some (i, j, h) ∧ off.toNat = h.length ∧ h ≠ []) → (h ++ d).length ≤ r.len → (h ++ d).length ≤ 262144 →
        does .writeBlockSegment (head 1 ++ leBytes 4 off.toNat ++ d) .ok [] (updPort s .a (fun x => { x with asm := some (i, j, h ++ d) })) ∧
        ∀ w, odWrite who i j (h ++ d) s = w → does .writeBlockFinal (head 2 ++ leBytes 4 off.toNat ++ d) w.1 [] (updPort w.2 .a (fun x => { x with asm := none }))) ∧
    -- manifests
    (∀ h, ((List.range (handleCount who)).map (· + handleBase who)).find? (fun h => (manOf s h).state == .free) = some h →
      does .manifestOpen [] .ok [0, BitVec.ofNat 8 h] (setMan s h { state := .opened, seqOpen := s.man.seq })) ∧
    (((List.range (handleCount who)).map (· + handleBase who)).find? (fun h => (manOf s h).state == .free) = none → does .manifestOpen [] .full [8, 0xFF] s) ∧
    (∀ h : BitVec 8, h.toNat < 28 → handleOwner h.toNat = who →
      let m := manOf s h.toNat
      (m.state = .opened →
        (∀ b, match addEntries s who (b.length + 1) b m.entries m.payload with
          | .ok x => does .manifestAdd ([h, 0, 0, 0] ++ b) .ok [0, 0, 0xFF, 0xFF] (setMan s h.toNat { m with entries := x.1, payload := x.2 })
          | .error x =>
              does .manifestAdd ([h, 0, 0, 0] ++ b) x.1 (leBytes 1 x.1.code ++ [0] ++ leBytes 2 x.2) (endManifest h.toNat x.1.code 0 x.2 0 0 s)) ∧
        does .manifestAbort [h, 0, 0, 0] .ok [0] { s with man := { s.man with tbl := Tbl.drop s.man.tbl h.toNat } } ∧
        (s.modes.upd.state ≠ 5 → ∀ t : BitVec 64,
          let queued (m : Manifest) : State := queueCommit h.toNat (setMan s h.toNat m)
          does .manifestCommit ([h, 0, 0, 0] ++ leBytes 8 t.toNat) .ok [] (queued { m with state := .checking, timed := none, reply := none }) ∧
          does .manifestCommit ([h, 1, 0, 0] ++ leBytes 8 t.toNat) .ok [] (queued { m with state := .checking, timed := some t.toNat, reply := none }))) ∧
      (m.state = .staged → does .manifestAbort [h, 0, 0, 0] .ok [0] (gridAborted m
        { restoreParams m s with man := { (restoreParams m s).man with tbl := Tbl.drop (restoreParams m s).man.tbl h.toNat, aborted := sat32 (restoreParams m s).man.aborted } })) ∧
      (m.state = .checking → does .manifestAbort [h, 0, 0, 0] .busy [7] s)) ∧
    -- the queue of checks: in order of arrival, and among commits of one instant in the order of their requesters
    (∀ h : Nat, let i := s.man.queue.length - s.man.group; let q := (queueCommit h s).man.queue
      (s.man.group = 0 ∨ s.man.arrived ≠ s.now → q = s.man.queue ++ [h]) ∧
      (s.man.group ≠ 0 → s.man.arrived = s.now → q.take i = s.man.queue.take i ∧ (∀ j, (q.drop i).count j = (h :: s.man.queue.drop i).count j) ∧
        ((s.man.queue.drop i).Pairwise (fun a b => tieRank s.man.turn a ≤ tieRank s.man.turn b) → (q.drop i).Pairwise (fun a b => tieRank s.man.turn a ≤ tieRank s.man.turn b)))) ∧
    -- subscriptions
    (∀ p, reqPort who = some p →
      let subs := (portSt s p).subs
      let rest := subs.filter (fun u => !(u.idx == i && u.sub == j))
      let old := subs.find? (fun u => u.idx == i && u.sub == j)
      let takes (mode period n : Nat) : State := updPort s p (fun x => { x with
        subs := rest ++ [{ id := n, idx := i, sub := j, mode := mode, period := period, last := (shown s i j).getD [] }] })
      does .subscribeCancel (head 0 ++ [0, 0, 0, 0]) .ok (leBytes 1 (match old with | some u => u.id | none => 0xFF)) (updPort s p (fun x => { x with subs := rest })) ∧
      ∀ r, odRow i j = some r → subOk i j r = true → mayRead who r = true →
        ∀ n, (match old with | some u => some u.id | none => freeId (subs.map (·.id))) = some n →
          does .subscribeChange (head 1 ++ [0, 0, 0, 0]) .ok (leBytes 1 n) (takes 1 0 n) ∧
          ∀ per : BitVec 16, per ≠ 0 → does .subscribePeriodic (head 2 ++ leBytes 2 per.toNat ++ [0, 0]) .ok (leBytes 1 n) (takes 2 per.toNat n)) ∧
    -- semaphores
    (∀ n : BitVec 8, n.toNat < 32 →
      let o := Tbl.get 0 s.dict.sems n.toNat
      let to_ (v : Nat) : State := { s with dict := { s.dict with sems := Tbl.put 0 s.dict.sems n.toNat v } }
      (o = 0 ∨ o = ownerCode who → does .semTake [n, 0, 0, 0] .ok [] (to_ (ownerCode who))) ∧
      (o ≠ 0 → o ≠ ownerCode who → does .semTake [n, 0, 0, 0] .busy [] s) ∧
      (o = ownerCode who → does .semGive [n, 0, 0, 0] .ok [] (to_ 0)) ∧
      (o ≠ ownerCode who → does .semGive [n, 0, 0, 0] .semNotHeld [] s)) ∧
    -- a reserved message
    (∀ b, does .bcpReservedMsg b .range [] s))

/-- R484, R485, R488 to R490, R493, R496 to R500, R502 to R504, R587, R482: how messages reach the dictionary server and leave it. A message waits in its port's input
buffer; the server takes the head while no request of the port is in service and no message of the other port that it could take came first, and checks it in
the order of R485; a repeat is answered with the kept reply. The QSPI commands, a lost link, the hold-off timer and the end of a save. In BOOT hold port B is
not served. -/
def Obligations.PortTraffic : Prop :=
  ∀ (s : State), portsLive s = true →
    -- the head of an input buffer, by the command that serves it
    (∀ (p : Port) (a : Arrival) (rest : List Arrival), portLive s p = true → (portSt s p).inbox = a :: rest → inService s p = [] →
      let serves (c : Request → Instr) (row : Nat) : Prop :=
        msgRow s p a.bytes = row → (row ∈ [0, 11, 12] ∨ ∀ q, s.dict.turns.find? (fun q => q == p || inService s q == []) = some q → q = p) →
          exec (c (.queued p)) s = .next (handle p a (takeHead p rest s))
      serves .bcpReservedMsg 0 ∧ serves .bcpRead 1 ∧ serves .bcpWrite 2 ∧ serves .bcpReadBlock 3 ∧ serves .writeBlockRun 4 ∧ serves .manifestOpen 5 ∧
      serves .manifestAdd 6 ∧ serves .manifestCommit 7 ∧ serves .manifestAbort 8 ∧ serves .subscribeChange 9 ∧ serves .semTake 11 ∧ serves .semGive 12 ∧
      serves .writeBlockSegment 13 ∧ serves .writeBlockFinal 14 ∧ serves .subscribePeriodic 15 ∧ serves .subscribeCancel 16) ∧
    (∀ (p : Port) (rest : List Arrival), let t := takeHead p rest s
      (portSt t p).inbox = rest ∧ t.dict.turns = s.dict.turns.erase p ∧ { t with dict := s.dict } = s) ∧
    (∀ a : Arrival, portLive s .b = true → s.dict.carrier ≠ 0 → let u := if s.dict.carrier = 1 then rxFrame a.eth.val s else s
      (otherPeer s a.ip a.udp = true → exec (.bcpRead (.arrives a)) s = .next (portCount .b 3 u) ∧ exec (.bcpOtherPeerDatagram a.ip a.udp) s = .next (portCount .b 3 s)) ∧
      (otherPeer s a.ip a.udp = false → inService s .b = [] → (portSt s .b).inbox = [] → (.a ∉ s.dict.turns ∨ inService s .a ≠ []) →
        msgRow (arrive .b a u) .b a.bytes = 1 →
        exec (.bcpRead (.arrives a)) s = .next (handle .b a (takeHead .b [] (arrive .b a u))))) ∧
    (∀ (p : Port) (b : Bytes) (n : Nat), portLive s p = false →
      exec (.writeMsg p b) s = .next s ∧ exec (.readMsg p n) s = .next s ∧ exec (.qspiStatus p n) s = .next s ∧ exec (.resetPort p) s = .next s ∧
      exec (.qspiReservedCmd p) s = .next s) ∧
    -- the checks of a message
    (∀ (p : Port) (a : Arrival), let m := a.bytes; let auth := authOn s p && !(exempt m && byteAt m 6 == 0)
      p = .a ∨ otherPeer s a.ip a.udp = false →
      (crcGood m = false → handle p a s = replyBad p m .crc (portCount p 2 s)) ∧
      (crcGood m = true → headerGood s p m = false → handle p a s = replyBad p m .range s) ∧
      (crcGood m = true → headerGood s p m = true → auth = true → trailerGood s m = false →
        handle p a s = replyBad p m .auth (fire 231 { s with dict := { s.dict with authFail := sat32 s.dict.authFail } })) ∧
      (crcGood m = true → headerGood s p m = true → auth = false →
        (∀ r, lookupNat (portSt s p).kept (fieldAt m 2 2) = some r → handle p a s = pushOut p (.reply r) (portCount p 4 (restartLink p s))) ∧
        (lookupNat (portSt s p).kept (fieldAt m 2 2) = none → handle p a s = serve p (!authOn s p || exempt m) a s))) ∧
    -- the QSPI commands of a port that is carried on QSPI
    (∀ p : Port, portLive s p = true → onQspi s p = true →
      let u := restartLink p s
      let ms := od s 0x1013 (portNum p + 1)
      (portSt u p).linkEnd = (if ms = 0 then 0 else s.now + nsTicks (1000000 * ms) + 1) ∧
      (∀ b : Bytes, (b.length < 12 ∨ b.length < 16 + fieldAt b 4 2) → exec (.writeMsg p b) s = .next (portCount p 3 u)) ∧
      (∀ b : Bytes, 12 ≤ b.length → 16 + fieldAt b 4 2 ≤ b.length → let m : Arrival := ⟨b.take (16 + fieldAt b 4 2), 0, 0, 0⟩
        fieldAt m.bytes 2 2 ∉ inService u p →
        ((portSt u p).inbox.length + (inService u p).length < 4 →
          exec (.writeMsg p b) s = .next (let v := updPort u p (fun x => { x with inbox := x.inbox ++ [m] })
            fire (224 + portNum p) { v with dict := { v.dict with turns := v.dict.turns ++ [p] } })) ∧
        ((portSt u p).inbox.length + (inService u p).length ≥ 4 → exec (.writeMsg p b) s = .next (portCount p 3 u))) ∧
      (∀ n, let x := portSt u p
        (x.out = [] → exec (.readMsg p n) s = .next { u with sent := u.sent ++ [.qspi (portNum p) (driven n (List.replicate 12 0))] }) ∧
        ∀ m q, x.out = m :: q →
          let v : State := { u with sent := u.sent ++ [.qspi (portNum p) (driven n m.bytes)] }
          (n < m.bytes.length → exec (.readMsg p n) s = .next v) ∧
          (m.bytes.length ≤ n →
            let w := if q = [] then startHold p (updPort v p (fun x => { x with out := [], irq := false })) else updPort v p (fun x => { x with out := q })
            let replies := q.any (fun m => match m with | .reply _ => true | _ => false)
            exec (.readMsg p n) s = .next (if p = .b ∧ replies = false then settleBinding w else w))) ∧
      (∀ n, let x := portSt u p; let w := (if x.out = [] then 0 else 1) + (if x.inbox.length + (inService u p).length < 4 then 2 else 0) + 256 * (x.out.length % 256) + 65536 * (x.inbox.length % 256)
        exec (.qspiStatus p n) s = .next { u with sent := u.sent ++ [.qspi (portNum p) (driven n (leBytes 4 w))], result := w }) ∧
      exec (.resetPort p) s = .next (settleBinding (resetPort p u)) ∧
      exec (.qspiReservedCmd p) s = .next (portCount p 6 u)) ∧
    (∀ (p : Port) (u : State), let x := portSt (resetPort p u) p
      x.inbox = [] ∧ x.out = [] ∧ x.kept = [] ∧ x.subs = [] ∧ x.asm = none ∧ x.peer = none ∧ x.irq = false ∧ x.notes = 0) ∧
    -- timers
    (∀ (p : Port) (t : Nat), portLive s p = true → od s 0x1013 (portNum p + 1) ≠ 0 → (((portSt s p).linkEnd ≠ 0 ∧ (portSt s p).linkEnd ≤ nsTicks t + 1) ∨
        (p = .b ∧ s.dict.carrier = 1 ∧ ∀ n ∈ [s.net.p0, s.net.p1], n.up = false ∧ n.downAt + nsTicks (1000000 * od s 0x1013 2) ≤ nsTicks t + 1)) →
      let u := updPort (advance (nsTicks t) s) p (fun x => { x with linkEnd := 0 })
      (portHolds u p = true → exec (.linkLossTimeout p t) s = .next (resetPort p u)) ∧ (portHolds u p = false → exec (.linkLossTimeout p t) s = .next u)) ∧
    (∀ p : Port, (portSt s p).holdEnd ≠ 0 →
      let u := updPort (advance ((portSt s p).holdEnd - 1) s) p (fun x => { x with holdEnd := 0 })
      ((portSt s p).out = [] → exec (.notifyHoldoffExpiry p) s = .next u) ∧
      ((portSt s p).out ≠ [] → onQspi s p = true → exec (.notifyHoldoffExpiry p) s = .next (updPort u p (fun x => { x with irq := true }))) ∧
      ((portSt s p).out ≠ [] → onQspi s p = false → exec (.notifyHoldoffExpiry p) s = .next (sendQueue p u))) ∧
    -- the end of a save
    (∀ set_, s.dict.saveSet = some set_ →
      let u := saveCommit s
      (u.dict.saved = set_.1 ∧ u.dict.savedLoad = set_.2.1 ∧ u.modes.boot.rate = set_.2.2.1 ∧ u.modes.boot.nLap = set_.2.2.2 ∧ u.dict.savedOk = true ∧
        u.dict.saving = none ∧ u.dict.saveState = 2 ∧ u.modes.boot.seq = s.modes.boot.seq + 1) ∧
      (∀ q t, s.dict.saving = some (.firmware, q, t) → exec .saveDone s = .next u) ∧
      (∀ q t, s.dict.saving = some (.portA, q, t) → exec .saveDone s = .next (sendReply .a false (q / 65536) (q % 65536) t .ok [] u)) ∧
      (∀ q t, s.dict.saving = some (.portB, q, t) → exec .saveDone s = .next (sendReply .b false (q / 65536) (q % 65536) t .ok [] u)) ∧
      (∀ q t, s.dict.saving = some (.apps, q, t) → exec .saveDone s = .next (appWakes q (appRet q .ok [] u))))

/-! ### The event concentrator (chapter 12) -/

/-- R456, R458, R459, R461, R463 to R467, R471, R601: a source's firings, its claim and completion, SETPEND and CLRPEND, hold-off, the general timers, STRAY, and the
wake of a sleeping control island, whose concentrator comes up at reset where nothing was retained. A Drover that holds a claim, or that nothing is deliverable to, reads 0x3FF. -/
def Obligations.EvcDelivery : Prop :=
  ∀ (s : State),
    let e := s.evc
    let evc (f : Evc) : State := { s with evc := f }
    -- an input changes; doorbells and software sources have none
    (∀ n : Fin 512, n.val < 384 → evcExists n = true → e.asleep = false →
      let x := evcSrc e n
      let becomes (high : Bool) (y : EvcSrc) : Prop := exec (.evcSourceFire n high) s = .next (evc (evcPut e n y))
      let fires (x : EvcSrc) : EvcSrc := { x with pend := true, count := min 15 (x.count + 1) }
      (x.trig = true → x.inp = false → becomes true (fires { x with inp := true })) ∧
      (x.trig = true → x.inp = true → becomes true x) ∧
      (x.trig = true → x.inp = true → becomes false (if 200 ≤ n.val ∧ n.val ≤ 215 then fires { x with inp := false } else { x with inp := false })) ∧
      (x.trig = false → becomes true (if x.act = false ∧ x.pend = false then fires { x with inp := true } else { x with inp := true })) ∧
      (x.trig = false → becomes false { x with inp := false })) ∧
    (∀ n : Fin 512, 384 ≤ n.val → ∀ high, exec (.evcSourceFire n high) s = .next s) ∧
    -- delivery and claim
    (∀ d n : Nat, deliverable e d n = true ↔
      evcExists n = true ∧ n ≠ 320 + d ∧ (evcSrc e n).pend = true ∧ (evcSrc e n).en = true ∧ (evcSrc e n).tgt.getLsbD d = true ∧ (evcSrc e n).act = false ∧
      Tbl.get 0 e.holdEnd (n / 16) = 0) ∧
    (∀ d : Fin 4,
      let reads (c : Instr) (v : Nat) (f : Evc) : Prop := exec c s = .next (boundClaim v { s with evc := f, result := v })
      let claims (c : Instr) (n : Nat) : Prop :=
        let x := evcSrc e n
        let f := evcPut e n { x with act := true, owner := d, pend := false, count := 0 }
        let h := (Tbl.get 0 e.holdoff (n / 16)).toNat
        reads c (x.count * 65536 + n) (if h = 0 then f else { f with holdEnd := Tbl.put 0 f.holdEnd (n / 16) (s.now + nsTicks (1000 * h) + 1) })
      (heldBy e d ≠ 0x3FF → reads (.evcClaim d) 0x3FF e ∧ ∀ n, reads (.clspec d n) 0x3FF e) ∧
      (heldBy e d = 0x3FF →
        (deliverables e d = [] → reads (.evcClaim d) 0x3FF e) ∧
        (∀ n rest, deliverables e d = n :: rest → claims (.evcClaim d) n) ∧
        (∀ n : BitVec 10, deliverable e d n.toNat = true → claims (.clspec d n) n.toNat) ∧
        (∀ n : BitVec 10, deliverable e d n.toNat = false → reads (.clspec d n) 0x3FF e))) ∧
    -- completion: the sources 0 to 511 are those of COMPLETE, SETPEND and CLRPEND
    (∀ (d : Fin 4) (v : BitVec 32), let n := v.toNat % 1024; let x := evcSrc e n
      (evcExists n = true → n ≤ 511 → x.act = true → x.owner = d → exec (.evcComplete d v) s = .next (evc (evcPut e n ({ x with act := false }).settle))) ∧
      (evcExists n = false ∨ n > 511 ∨ x.act = false ∨ x.owner ≠ d →
        exec (.evcComplete d v) s = .next (evc { e with stray := Tbl.put 0 e.stray d (min 0xFFFF (Tbl.get 0 e.stray d + 1)) }))) ∧
    (∀ v : BitVec 32, let n := v.toNat % 1024; let x := evcSrc e n
      (evcExists n = true → n ≤ 511 →
        exec (.setpend v) s = .next (evc (evcPut e n { x with pend := true, count := min 15 (x.count + 1) })) ∧
        exec (.clrpend v) s = .next (evc (evcPut e n ({ x with pend := false, count := 0 }).settle))) ∧
      (evcExists n = false ∨ n > 511 → exec (.setpend v) s = .next s ∧ exec (.clrpend v) s = .next s)) ∧
    (∀ x : EvcSrc, x.settle = if x.trig = false ∧ x.inp = true ∧ x.act = false ∧ x.pend = false then { x with pend := true, count := min 15 (x.count + 1) } else x) ∧
    -- hold-off and the general timers
    (∀ (g : Fin 32) (v : BitVec 16),
      (v ≠ 0 → exec (.holdoffWrite g v) s = .next (evc { e with holdoff := Tbl.put 0 e.holdoff g v })) ∧
      (v = 0 → exec (.holdoffWrite g v) s = .next (evc { e with holdoff := Tbl.put 0 e.holdoff g v, holdEnd := Tbl.put 0 e.holdEnd g 0 }))) ∧
    (∀ g : Fin 32, let t := Tbl.get 0 e.holdEnd g
      t ≠ 0 → exec (.holdoffExpiry g) s = .next { evc { e with holdEnd := Tbl.put 0 e.holdEnd g 0 } with now := max s.now (t - 1) }) ∧
    (∀ (n : Fin 4) (v : BitVec 32), exec (.tmrldWrite n v) s = .next (evc { e with
      tmrld := Tbl.put 0 e.tmrld n v, tmrEnd := Tbl.put 0 e.tmrEnd n (if v = 0 then 0 else s.now + nsTicks (1000 * v.toNat) + 1) })) ∧
    (∀ n : Fin 4, let t := Tbl.get 0 e.tmrEnd n; let p := (Tbl.get 0 e.tmrld n).toNat
      t ≠ 0 → exec (.generalTimerExpiry n) s =
        .next (fire (288 + n) { evc { e with tmrEnd := Tbl.put 0 e.tmrEnd n (t + nsTicks (1000 * p)) } with now := max s.now (t - 1) })) ∧
    -- STRAY
    (∀ d : Fin 4, exec (.strayRead d) s = .next { evc { e with stray := Tbl.put 0 e.stray d 0 } with result := Tbl.get 0 e.stray d }) ∧
    -- the wake
    (let m := s.modes
     m.mode = .standby → m.pwrEn = true → m.resetN = true → e.asleep = true → evcWork e = true →
      exec .alwaysOnWake s = .next (startUp m.rails m.kept.isSome 4 { s with evc := if m.retained then evcWake s.now e else Evc.start }))

/-! ### Drover applications (chapter 11) -/

/-- R449 to R451, Table 11.26: what the calls of an application that runs in a slice do and return: W1 is the status, and the other results follow. A buffer that
does not lie wholly in the application's memory is answered ACCESS. How an application gives up its slice, waits, sleeps and ends: a Drover of role 5 then takes
the next ready application in turn. -/
def Obligations.Applications : Prop :=
  (∀ (s : State) (a : Fin 8), appCalls s a = true →
    let returns (c : Instr) (st : Status) (out : List Nat) (t : State) : Prop := exec c s = .next (appRet a st out t)
    let buffer (b : Bytes) (t : State) : State := updApp t a (fun x => { x with buf := b })
    (∀ st out (t : State), (appOf t a).state = 2 → appRet a st out t = setApp t a { appOf t a with regs := st.code :: out }) ∧
    (∀ (obj : BitVec 32), let i := obj.toNat / 256; let j := obj.toNat % 256
      -- the dictionary
      (∀ n m : BitVec 32, returns (.appOdRead a obj false n) .access [] s ∧ returns (.appOdReadBlock a obj false n m) .access [] s ∧
        returns (.appOdWrite a obj none) .access [] s ∧ returns (.appOdWriteRun a obj none n) .access [] s ∧ returns (.appOdWriteSeg a obj none n m) .access [] s) ∧
      (∀ v, odRead s .apps i j = .ok v → ∀ n off : BitVec 32,
        (v.length ≤ n.toNat → returns (.appOdRead a obj true n) .ok [v.length] (buffer v s)) ∧ (v.length > n.toNat → returns (.appOdRead a obj true n) .range [] s) ∧
        (off.toNat ≤ v.length → let p := (v.drop off.toNat).take n.toNat; returns (.appOdReadBlock a obj true off n) .ok [p.length] (buffer p s)) ∧
        (off.toNat > v.length → returns (.appOdReadBlock a obj true off n) .range [] s)) ∧
      (∀ e, odRead s .apps i j = .error e → ∀ n off : BitVec 32, returns (.appOdRead a obj true n) e [] s ∧ returns (.appOdReadBlock a obj true off n) e [] s) ∧
      (∀ val u, s.Writable .apps i j val → odEffect .apps i j 0 val s = (.ok, u) → u.dict.saving = s.dict.saving →
        exec (.appOdWrite a obj (some val)) s = .next (settleBinding (appRet a .ok [] (noteStatus i j (.ok, noteChange i j s (afterStreams i s u))).2))) ∧
      (∀ (d : Bytes) (n : BitVec 32) t, 0 < n.toNat → n.toNat ≤ 255 → j + n.toNat ≤ 256 → runWrite .apps i n.toNat j d s = .ok t → t.dict.saving = s.dict.saving →
        exec (.appOdWriteRun a obj (some d) n) s = .next (settleBinding (appRet a .ok [] t))) ∧
      (∀ r, odRow i j = some r → mayWrite .apps r = true → r.ty.bytes = 0 → streamed i j = false → ∀ d : Bytes, d.length ≤ r.len → d.length ≤ 262144 →
        returns (.appOdWriteSeg a obj (some d) 0 0) .ok [] (setAppAsm a (some (i, j, d)) s) ∧
        ∀ w, odWrite .apps i j d s = w → returns (.appOdWriteSeg a obj (some d) 0 1) w.1 [] (setAppAsm a none w.2)) ∧
      -- subscriptions
      (serving s = true → (∀ u ∈ s.apps.subs, u.app = a) →
        let rest := s.apps.subs.filter (fun u => !(u.idx == i && u.sub == j))
        let set_ (l : List AppSub) : State := { s with apps := { s.apps with subs := l } }
        returns (.appSubscribe a obj 0 0) .ok [match appSubOf s i j with | some u => u.id | none => 0xFF] (set_ rest) ∧
        ∀ r, odRow i j = some r → subOk i j r = true → mayRead .apps r = true →
          ∀ k, (match appSubOf s i j with | some u => some u.id | none => freeId (s.apps.subs.map (·.id))) = some k →
            let u (mode per : Nat) : AppSub := { id := k, app := a, idx := i, sub := j, mode := mode, period := per, last := (shown s i j).getD [] }
            returns (.appSubscribe a obj 1 0) .ok [k] (set_ (rest ++ [u 1 0])) ∧
            ∀ per : BitVec 32, 0 < per.toNat → per.toNat ≤ 65535 → returns (.appSubscribe a obj 2 per) .ok [k] (set_ (rest ++ [u 2 per.toNat])))) ∧
    -- manifests
    (serving s = true →
      (∀ h, ((List.range (handleCount .apps)).map (· + handleBase .apps)).find? (fun h => (manOf s h).state == .free) = some h →
        let t := setMan s h { state := .opened, seqOpen := s.man.seq }
        returns (.appManifestOpen a) .ok [h] { t with apps := { s.apps with handles := Tbl.put 0 s.apps.handles h (a + 1) } }) ∧
      ∀ h : BitVec 32, h.toNat < 28 → handleOwner h.toNat = .apps → otherHandle s a h.toNat = false → (manOf s h.toNat).state = .opened →
        let m := manOf s h.toNat
        (∀ b x, addEntries s .apps (b.length + 1) b m.entries m.payload = .ok x →
          returns (.appManifestAdd a h (some b)) .ok [0xFFFF] (setMan s h.toNat { m with entries := x.1, payload := x.2 })) ∧
        (returns (.appManifestAbort a h) .ok [] { s with
          man := { s.man with tbl := Tbl.drop s.man.tbl h.toNat }, apps := { s.apps with handles := Tbl.put 0 s.apps.handles h.toNat 0 } }) ∧
        (s.modes.upd.state ≠ 5 → ∀ t : BitVec 64,
          let queued (m : Manifest) : State := queueCommit h.toNat (setMan s h.toNat m)
          exec (.appManifestCommit a h 0 t) s = .next (appBlocks a (.commit h.toNat) (queued { m with state := .checking, timed := none, reply := some (0, 0) })) ∧
          exec (.appManifestCommit a h 1 t) s = .next (appBlocks a (.commit h.toNat) (queued { m with state := .checking, timed := some t.toNat, reply := some (0, 0) })))) ∧
    -- semaphores
    (∀ n : BitVec 32, n.toNat < 32 → otherSem s a n.toNat = false →
      let o := Tbl.get 0 s.dict.sems n.toNat
      let sems (v w : Nat) : State := { s with
        dict := { s.dict with sems := Tbl.put 0 s.dict.sems n.toNat v }, apps := { s.apps with semOwner := Tbl.put 0 s.apps.semOwner n.toNat w } }
      (o = 0 ∨ o = 3 → returns (.appSemTake a n) .ok [] (sems 3 (a + 1))) ∧ (o ≠ 0 → o ≠ 3 → returns (.appSemTake a n) .busy [] s) ∧
      (o = 3 → returns (.appSemGive a n) .ok [] (sems 0 0)) ∧ (o ≠ 3 → returns (.appSemGive a n) .semNotHeld [] s)) ∧
    (∀ n : BitVec 32, otherSem s a n.toNat = true → returns (.appSemTake a n) .access [] s ∧ returns (.appSemGive a n) .access [] s) ∧
    -- sources, notes, MIDI and time
    (∀ n : BitVec 32, bindable n.toNat = true → (∀ b ∈ s.apps.bound, b.1 = n.toNat → b.2 = a) →
      let rest := s.apps.bound.filter (fun b => b.1 != n.toNat)
      returns (.appBind a n 1) .ok [] { s with apps := { s.apps with bound := rest ++ [(n.toNat, a.val)] } } ∧
      returns (.appBind a n 0) .ok [] { s with apps := { s.apps with bound := rest } }) ∧
    (∀ n : BitVec 32, (448 ≤ n.toNat ∧ n.toNat ≤ 511 → returns (.appSetpend a n) .ok [] { s with evc := evcSetPend n.toNat s.evc }) ∧
      (n.toNat < 448 ∨ n.toNat > 511 → returns (.appSetpend a n) .range [] s)) ∧
    (∀ b r, noteRecord b = some r → returns (.appPost a (some b)) .ok [] (noteEvent 6 (nsOf s.now) r s)) ∧
    (∀ b, noteRecord b = none → returns (.appPost a (some b)) .range [] s) ∧
    (∀ (k : Fin 2) (n : BitVec 32), let x := midiIn s k; let r := takeQueue n.toNat x.queue
      returns (.appMidiRead a (BitVec.ofNat 32 k) true n) .ok [r.1.length] (buffer r.1 (setMidiIn s k { x with queue := r.2 }))) ∧
    (∀ b u, s.Writable .apps 0x2830 6 b → midiSend b s = (.ok, u) → returns (.appMidiSend a (some b)) .ok [] (noteChange 0x2830 6 s u)) ∧
    (returns (.appTime a) .ok [nsOf s.now % 2 ^ 32, nsOf s.now / 2 ^ 32 % 2 ^ 32, s.grid.lap % 2 ^ 32, s.grid.lap / 2 ^ 32 % 2 ^ 32] s)) ∧
  (∀ (s : State) (a : Fin 8),
    let x := appOf s a
    let blocked (b : AppBlock) : State := appYield a (setApp s a { x with block := b })
    let wakes (t : State) : State := appSchedule (updApp t a (fun x => { x with block := .none }))
    (∀ d : Fin 4, Tbl.get 0 s.apps.current d = a + 1 → exec (.appSliceEnd d) s = .next (appYield a s)) ∧
    (∀ t : State, appYield a t = appSchedule { t with apps := { t.apps with current := t.apps.current.filter (fun e => e.2 != a + 1) } }) ∧
    (∀ (t : State) (d n : Nat), appDrovers t = [d] → Tbl.get 0 t.apps.current d = 0 → appNext t = some n →
      appSchedule t = { t with apps := { t.apps with current := Tbl.put 0 t.apps.current d (n + 1), last := n + 1 } }) ∧
    (∀ t : State, appNext t = none → appSchedule t = t) ∧
    (appCalls s a = true →
      exec (.appYield a) s = .next (appYield a (appRet a .ok [] s)) ∧
      exec (.appExit a) s = .next (appSchedule (endApp a 3 s)) ∧ (appOf (endApp a 3 s) a).state = 3 ∧
      (∀ len tmo : BitVec 32,
        exec (.appWait a false len tmo) s = .next (appRet a .access [] s) ∧
        (x.queue = [] → exec (.appWait a true len tmo) s = .next (blocked (.wait len.toNat (if tmo = 0 then 0 else s.now + nsTicks (1000 * tmo.toNat) + 1)))) ∧
        ∀ m q, x.queue = m :: q →
          (m.bytes.length ≤ len.toNat → exec (.appWait a true len tmo) s = .next (setApp s a { x with queue := q, buf := m.bytes, regs := [0, m.bytes.length] })) ∧
          (m.bytes.length > len.toNat → exec (.appWait a true len tmo) s = .next (appRet a .range [] s))) ∧
      (∀ t : BitVec 64,
        (nsTicks t.toNat < s.now → exec (.appSleep a t) s = .next (appRet a .ok [] s)) ∧
        (s.now ≤ nsTicks t.toNat → exec (.appSleep a t) s = .next (blocked (.sleep t.toNat))))) ∧
    (∀ len stop, x.block = .wait len stop →
      (∀ m q, x.queue = m :: q → m.bytes.length ≤ len → x.state = 2 →
        exec (.appWaitReturn a) s = .next (wakes (setApp s a { x with queue := q, buf := m.bytes, regs := [0, m.bytes.length] }))) ∧
      (x.queue = [] → stop ≠ 0 → exec (.appWaitReturn a) s = .next (wakes (appRet a .busy [] { s with now := max s.now (stop - 1) })))) ∧
    (∀ t, x.block = .sleep t → exec (.appSleepReturn a) s = .next (wakes (appRet a .ok [] { s with now := max s.now (nsTicks t) }))))

/-! ### The network (chapter 14) -/

/-- R512 to R518, R526, R533 to R536: gPTP messages and the peer delay, foreign masters, the link, registrations, the MAAP claim, IPv4 addresses, ARP, echo and PAUSE
frames, on a port whose link is up. -/
def Obligations.NetworkPorts : Prop :=
  ∀ (s : State) (p : Fin 2),
    let x := netPort s p
    let at_ (t : Nat) : State := { s with now := max s.now (nsTicks t) }
    let port (y : NetPort) (u : State) : State := setNetPort u p y
    let sends (k : FrameKind) (f : List Nat) (u : State) : State := { u with sent := u.sent ++ [.frame p k f] }
    let addr (a m g o : Nat) (u : State) : State :=
      let v := setNetPort u p { netPort u p with addr := a, mask := m, gw := g, origin := o }
      if (netPort u p).addr ≠ a ∨ (netPort u p).origin ≠ o then fire 167 v else v
    -- a frame is received
    let r := rxFrame p s
    let y := netPort r p
    (r = if x.up then port { x with frames := sat32 x.frames } s else s) ∧
    -- gPTP
    (∀ t, exec (.gptpSyncTimer t) s = .next (sendSync 1 (sendSync 0 (at_ t))) ∧ exec (.gptpAnnounceTimer t) s = .next (sendAnnounce 1 (sendAnnounce 0 (at_ t))) ∧
      exec (.pdelayReqTimer t) s = .next (sendPdelay 1 (sendPdelay 0 (at_ t)))) ∧
    (x.up = true →
      (x.asCap = true → sendSync p s = port { x with syncSeq := (x.syncSeq + 1) % 65536, phaseLeft := x.phaseLeft - 1 }
        (sends .followUp [x.syncSeq, nsOf s.now, s.net.timeBase, if x.phaseLeft > 0 then (s.net.phase % (2 ^ 96 : Int)).toNat else 0, 0] (sends .sync [x.syncSeq, 0] s))) ∧
      sendAnnounce p s = port { x with annSeq := (x.annSeq + 1) % 65536 }
        (sends .announce [x.annSeq, od s 0x2100 4, 248, 0xFE, 0x436A, od s 0x2100 5, clockIdentity, 0, 0xA0, od s 0x2100 6, od s 0x2100 7] s) ∧
      sendPdelay p s = port { x with pdSeq := (x.pdSeq + 1) % 65536, asCap := x.asCap && !x.pdWait, pdWait := true } (sends .pdelayReq [x.pdSeq, 0] s) ∧
      (∀ (seq : BitVec 16) t, exec (.pdelayReqReceive p seq t) s =
        .next (sends .pdelayRespFollowUp [seq.toNat, nsOf (at_ t).now] (sends .pdelayResp [seq.toNat, t] (rxFrame p (at_ t))))) ∧
      (x.pdWait = true → ∀ delay, exec (.pdelayRespReceive p delay) s = .next (port { y with pdWait := false, delay := delay, asCap := decide (delay ≤ 800) } s)) ∧
      (∃ u, exec (.foreignAnnounce p) s = .next u ∧ u.net.announces = sat32 s.net.announces ∧ (netPort u p).foreign = true ∧
        (netPort u p).frames = sat32 x.frames ∧ u.evc = if x.foreign then s.evc else evcPulse 162 s.evc) ∧
      exec (.foreignSync p) s = .next { r with net := { r.net with syncs := sat32 s.net.syncs } } ∧
      exec (.pauseFrameReceive p) s = .next (port { x with frames := sat32 x.frames, pauses := sat32 x.pauses } s)) ∧
    -- the link
    (∀ (speed : Fin 3) t, netRuns s = true → x.up = false → (od s (0x2200 + p.val) 2).testBit speed.val = true →
      exec (.linkUp p speed t) s = .next (linkUp p (speed.val + 1) (at_ t))) ∧
    (∀ u k, linkUp p k u = ipStart p (declareAll p (startClaim p (sendPdelay p (sendAnnounce p (fire 162 (fire (160 + p) (setNetPort u p { netPort u p with
      up := true, speed := k, asCap := false, foreign := false, pdWait := false, upAt := u.now + 1 }))))))) ) ∧
    (∀ t, x.up = true → exec (.linkDown p t) s = .next (fire 162 (fire (160 + p) (port { x with
      up := false, downAt := max s.now (nsTicks t) + 1, speed := 0, asCap := false, pdWait := false, regT := [], regL := [], maap := none, claiming := false } (at_ t))))) ∧
    -- registrations and the MAAP claim
    (x.up = true →
      (∀ (k : Fin 257), k.val ∉ x.regL →
        exec (.msrpRegistration p false k true) s = .next (fire 165 (port { y with regL := x.regL ++ [k.val] } r)) ∧
        exec (.msrpRegistration p true k false) s = .next (fire 165 (port { y with regT := x.regT.filter (· != k.val) } r))) ∧
      (∀ (k : Fin 257), k.val ∉ x.regT →
        let u := fire 165 (port { y with regT := x.regT ++ [k.val] } r)
        (k.val ∈ portListeners s p → k.val < 256 → exec (.msrpRegistration p true k true) s = .next (declareListener p k true u)) ∧
        (k.val ∉ portListeners s p → exec (.msrpRegistration p true k true) s = .next u)) ∧
      (∀ base : BitVec 48, x.claiming = true → exec (.maapClaimDone p base) s =
        .next (((portTalkers s p).filter (fun i => i == 256 || od s (talkIx i) 3 == 0)).foldl (fun u i => declareTalker p i true u)
          (sends .maapAnnounce [base.toNat, 257] (port { x with claiming := false, maap := some base.toNat } s))))) ∧
    (∀ b, x.maap = some b →
      (∀ (addr : BitVec 48) (n : BitVec 16), addr.toNat < b + 257 → b < addr.toNat + n.toNat → exec (.maapProbeReceive p addr n) s = .next (sends .maapDefend [b, 257] r)) ∧
      (∀ (addr : BitVec 48) (n : BitVec 16), b + 257 ≤ addr.toNat ∨ addr.toNat + n.toNat ≤ b → exec (.maapProbeReceive p addr n) s = .next r) ∧
      (x.up = true → portTalkers s p = [256] → ∃ u, exec (.maapConflict p) s = .next u ∧ (netPort u p).claiming = true ∧ (netPort u p).maap = none ∧
        256 ∉ (netPort u p).regL ∧ u.evc = evcPulse 165 s.evc)) ∧
    -- IPv4
    (x.up = true →
      (od s (0x2500 + p.val) 1 = 0 →
        (∀ a m g : BitVec 32, exec (.dhcpLease p a m g) s = .next (addr a.toNat m.toNat g.toNat 1 r)) ∧
        (x.origin = 0 → ∃ a, 0xA9FE0100 ≤ a ∧ a ≤ 0xA9FEFEFF ∧ exec (.dhcpFallbackTimer p) s = .next (addr a 0xFFFF0000 0 2
          { s with free := s.free + 1, now := max s.now (x.upAt - 1 + nsTicks 10000000000) })) ∧
        (x.origin = 2 → exec (.dhcpRetryTimer p) s = .next (sends .dhcp [1] s))) ∧
      (∀ (tgt : BitVec 32) (data : Bytes),
        exec (.icmpEchoRequest p tgt true data) s = .next (port { y with discards := sat32 x.discards } r) ∧
        (x.origin ≠ 0 → x.addr = tgt.toNat → exec (.arpRequest p tgt) s = .next (sends .arp [Config.macAddress p, x.addr] r) ∧
          exec (.icmpEchoRequest p tgt false data) s = .next (sends .icmpEcho (data.map (·.toNat)) r)) ∧
        (x.origin = 0 ∨ x.addr ≠ tgt.toNat → exec (.arpRequest p tgt) s = .next r ∧ exec (.icmpEchoRequest p tgt false data) s = .next r))) ∧
    (x.origin = 1 → exec (.dhcpLeaseExpiry p) s = .next (addr 0 0 0 0 s)) ∧
    -- ADP
    (∀ u : State, (netPort u p).up = true → adpAvailable p u = { u with sent := u.sent ++ [.frame p .adpAvailable [clockIdentity, 10, u.net.availIx]] }) ∧
    (∀ t, exec (.adpAvailableTimer t) s = .next { adpAvailable 1 (adpAvailable 0 (at_ t)) with net := { s.net with availIx := (s.net.availIx + 1) % 2 ^ 32 } })

/-- R519 to R523, R527 to R530: the packets of talkers and of the CRF stream, packets and note messages that listeners take, and sequence recovery. -/
def Obligations.NetworkStreams : Prop :=
  ∀ (s : State),
    -- talkers
    (∀ j : Fin 256,
      let f := aafFrames (od s (talkIx j) 5) s.grid.rate; let x := Tbl.get {} s.net.talk j; let k := s.audio.count / f; let first := (k - 1) * f
      odBool s (talkIx j) 1 = true → s.grid.running = true → x.next < k →
      let ps := [0, 1].filter (fun p => talkRuns s p j); let both := talkPorts s j = 3
      ∃ t, exec (.aafTalkerPacket j) s = .next t ∧
        t.sent = s.sent ++ ps.map (fun p => .frame p .aaf ([talkId s j, (talkDest s p j).getD 0, od s (talkIx j) 4, if both then x.seq + 1 else 0, s.grid.rate,
          od s (talkIx j) 6, nsOf (instantOf s first + nsTicks (od s (talkIx j) 8)) % 2 ^ 32] ++ aafPayload s j first f)) ∧
        Tbl.get {} t.net.talk j = { x with next := k, seq := if ps = [] ∨ ¬both then x.seq else (x.seq + 1) % 65536, packets := if ps = [] then x.packets else sat32 x.packets } ∧
        (∀ i, i ≠ j.val → Tbl.get {} t.net.talk i = Tbl.get {} s.net.talk i) ∧ { t with sent := s.sent, net := s.net } = s) ∧
    (let step := rateHz s.grid.rate / 300; let first := s.net.crfNext; let ps := [0, 1].filter (fun p => talkRuns s p 256)
     s.grid.running = true → odBool s 0x2120 1 = true → s.modes.mode ≠ .standby →
      ∃ t, exec .crfPdu s = .next t ∧ t.net = { s.net with crfNext := first + 6 * step, crfSeq := (s.net.crfSeq + 1) % 65536 } ∧ { t with sent := s.sent, net := s.net } = s ∧
        t.sent = s.sent ++ ps.map (fun p => .frame p .crf ([talkId s 256, (talkDest s p 256).getD 0, s.net.crfSeq, s.grid.rate, step] ++
          (List.range 6).map (fun j => nsOf (instantOf s (first + j * step + od s 0x2120 3)))))) ∧
    (∀ n, (instantOf s n : Int) = max 0 (s.grid.epoch + (n * sampleTicks s.grid.rate : Nat))) ∧
    -- a packet for a listener
    (∀ (p : Fin 2) (j : Fin 256) (fmt rate ch : Nat) (stamp : BitVec 32) (rtag : Option (BitVec 16)) (t0 : Nat) (samples : List (BitVec 32)),
      let x := Tbl.get {} s.net.listen j; let ports := od s (listenIx j) 9
      (netPort s p).up = true → odBool s (listenIx j) 1 = true → ports.testBit p = true → s.grid.running = true →
      let r : Bool × StreamSt × Nat := if ports = 3 then (match rtag with | some q => recover x q.toNat | none => (p == 0, x, 0)) else (true, x, 0)
      let x := r.2.1
      let takes (y : StreamSt) (buf : Tbl Nat) : Prop := ∃ t, exec (.aafReceive p j fmt rate ch stamp rtag t0 samples) s = .next t ∧
        Tbl.get {} t.net.listen j = { y with lastAt := some (max s.now (nsTicks t0) : Nat) } ∧ t.net.inbuf = buf ∧ t.now = max s.now (nsTicks t0) ∧
        netPort t p = { netPort s p with frames := sat32 (netPort s p).frames } ∧ t.evc = (if r.2.2 > 0 then evcPulse 164 s.evc else s.evc) ∧
        { t with now := s.now, net := s.net, evc := s.evc } = s
      let present := extendStamp t0 stamp.toNat
      let good := fmt ≤ 2 ∧ rate = s.grid.rate ∧ ch = od s (listenIx j) 6
      (r.1 = false → takes x s.net.inbuf) ∧
      (r.1 = true → ¬good → takes { x with mismatch := sat32 x.mismatch, bad := true } s.net.inbuf) ∧
      (r.1 = true → good → present > (t0 : Int) + 64000000 → takes { x with early := sat32 x.early, bad := false } s.net.inbuf) ∧
      (r.1 = true → good → present ≤ (t0 : Int) + 64000000 → takes { x with packets := sat32 x.packets, bad := false } (holdFrames s j (tagOf s present) ch fmt samples))) ∧
    (∀ arrival stamp, let d := extendStamp arrival stamp - (arrival : Int)
      d < 2147483648 ∧ -2147483648 ≤ d ∧ (extendStamp arrival stamp - (stamp : Int)) % 4294967296 = 0) ∧
    -- sequence recovery
    (∀ (x : StreamSt) (q : Nat), q < 65536 → x.seq < 65536 →
      (x.take = true → recover x q = (true, { x with take := false, seq := q, hist := 0xFFFFFFFF }, 0)) ∧
      (x.take = false →
        (q = x.seq → recover x q = (false, { x with dups := sat32 x.dups }, 0)) ∧
        (q = (x.seq + 1) % 65536 → x.hist.getLsbD 31 = true → recover x q = (true, { x with seq := q, hist := (x.hist <<< 1) ||| 1, losses := min 0xFFFFFFFF x.losses }, 0)) ∧
        (∀ b, 0 < b → b < 32 → (q + b) % 65536 = x.seq →
          (x.hist.getLsbD b = true → recover x q = (false, { x with dups := sat32 x.dups }, 0)) ∧
          (x.hist.getLsbD b = false → recover x q = (true, { x with hist := x.hist ||| (1 <<< b) }, 0))))) ∧
    (∀ j : Fin 256, let x := Tbl.get {} s.net.listen j
      ∀ l, x.take = false → x.lastAt = some l → exec (.frerResetTimer j) s =
        .next { s with now := max s.now (l + (nsTicks 100000000 : Nat)).toNat, net := { s.net with listen := Tbl.put {} s.net.listen j { x with take := true } } }) ∧
    -- note messages
    (∀ (p : Fin 2) (id : BitVec 64) (msgs : List Bytes) (t : Nat), (netPort s p).up = true → odBool s 0x2700 1 = true → id.toNat = od s 0x2700 2 →
      exec (.noteFrameReceive p id msgs t) s = .next (msgs.foldl (fun s b => match noteRecord b with
        | some r => starterEvent ⟨3, BitVec.ofNat 4 r.2.1, BitVec.ofNat 8 r.2.2.1, BitVec.ofNat 16 r.2.2.2.1, r.1, nsTicks t, t / 1000 * 1000⟩ r.2.2.2.2 s
        | none => { s with net := { s.net with noteBad := sat32 s.net.noteBad } }) (rxFrame p { s with now := max s.now (nsTicks t) }))) ∧
    (∀ b r, noteRecord b = some r → b.length = 16 ∧ 1 ≤ r.1 ∧ r.1 ≤ 6 ∧ r.2.1 ≤ 15)

/-- R531, R532: what the module answers to IEEE 1722.1 commands on a port whose link is up, with source 166: the commands that report, those that a manifest of module
firmware carries out where OD 2600.02 allows it, and those it does not implement. -/
def Obligations.ControllerCommands : Prop :=
  ∀ (s : State) (p : Fin 2), (netPort s p).up = true →
    let u := fire 166 (rxFrame p s)
    let answers (c : Instr) (acmp : Bool) (code : Nat) (st : AvStatus) (f : List Nat) : Prop :=
      exec c s = .next { u with sent := s.sent ++ [.avdecc p acmp code st f] }
    -- a change: refused, without a free handle, or queued
    let changes (c : Instr) (acmp : Bool) (code : Nat) (ws : List (Nat × Nat × Bytes)) : Prop :=
      let free := ((List.range 4).map (· + 24)).find? (fun h => (manOf s h).state == .free)
      let fits := ∀ w ∈ ws, ∃ r, odRow w.1 w.2.1 = some r ∧ lengthOk r w.1 w.2.1 w.2.2.length = true ∧ rangeOk s s.dict.od r w.1 w.2.1 w.2.2 = true
      let es : List MEntry := ws.map (fun w => .write w.1 w.2.1 w.2.2)
      (odBool s 0x2600 2 = false → answers c acmp code (if acmp then .notAuthorized else .notSupported) []) ∧
      (odBool s 0x2600 2 = true →
        (¬fits → answers c acmp code (if acmp then .stateUnavailable else .badArguments) []) ∧
        (fits → free = none → answers c acmp code (if acmp then .stateUnavailable else .noResources) []) ∧
        (∀ h, fits → free = some h → ∃ t, exec c s = .next t ∧ t.sent = s.sent ∧ Tbl.get none t.net.cmds h = some ⟨p, acmp, code⟩ ∧ t.man.queue = (queueCommit h s).man.queue ∧
          (manOf t h).state = .checking ∧ (manOf t h).entries = es ∧ t.dict = s.dict ∧ t.evc = u.evc))
    (exec (.entityDiscover p) s = .next { u with sent := s.sent ++ [.frame p .adpAvailable [clockIdentity, 10, s.net.availIx]] }) ∧
    -- ACMP
    (∀ j : Fin 256,
      (∀ (id dest : BitVec 64) (vlan : BitVec 16), changes (.connectRx p j id dest vlan) true 0 [(0x2400 + j.val, 2, leBytes 8 id.toNat),
        (0x2400 + j.val, 3, leBytes 8 dest.toNat), (0x2400 + j.val, 4, leBytes 2 vlan.toNat), (0x2400 + j.val, 1, [1])]) ∧
      changes (.disconnectRx p j) true 1 [(0x2400 + j.val, 1, [0])] ∧ changes (.connectTx p j) true 2 [(0x2300 + j.val, 1, [1])] ∧
      changes (.disconnectTx p j) true 3 [(0x2300 + j.val, 1, [0])] ∧
      answers (.getRxState p j) true 4 .success [j.val, od s (0x2400 + j.val) 2, od s (0x2400 + j.val) 3, od s (0x2400 + j.val) 4, od s (0x2400 + j.val) 1]) ∧
    (∀ j : Fin 257, let id := talkId s j; let dest := (talkDest s p j).getD 0
      answers (.getTxState p j) true 5 .success [j.val, id, dest, b2n (talkOn s j) 1, b2n (talkRuns s p j) 1] ∧
      answers (.getTxConnection p j) true 6 .success [j.val, id, dest, b2n (talkRuns s p j) 1]) ∧
    -- AEM
    (answers (.acquireEntity p) false 0 .success [] ∧ answers (.lockEntity p) false 1 .success [] ∧ answers (.entityAvailable p) false 2 .success []) ∧
    (∀ (k : Fin 10) (ix : BitVec 16),
      (ix.toNat ≥ descriptorCount k → answers (.readDescriptor p k ix) false 3 .noSuchDescriptor [k.val, ix.toNat]) ∧
      (ix.toNat < descriptorCount k → ∃ f, answers (.readDescriptor p k ix) false 3 .success ([k.val, ix.toNat] ++ f))) ∧
    (∀ (out : Bool) (j : Fin 256) (ch : BitVec 8), let i := (if out then 0x2300 else 0x2400) + j.val; let x := Tbl.get {} (if out then s.net.talk else s.net.listen) j.val
      answers (.getStreamFormat p out j) false 4 .success [s.grid.rate, od s i 6] ∧
      (∀ rate : Fin 6, (rate.val = s.grid.rate → changes (.setStreamFormat p out j rate ch) false 5 [(i, 6, leBytes 1 ch.toNat)]) ∧
        (rate.val ≠ s.grid.rate → odBool s 0x2600 2 = true → answers (.setStreamFormat p out j rate ch) false 5 .badArguments [])) ∧
      answers (.getStreamInfo p true j) false 6 .success [talkId s j, (talkDest s p j).getD 0, od s (0x2300 + j.val) 4, od s (0x2300 + j.val) 8, talkState s j] ∧
      answers (.getStreamInfo p false j) false 6 .success [od s (0x2400 + j.val) 2, od s (0x2400 + j.val) 3, od s (0x2400 + j.val) 4, listenState s j] ∧
      answers (.getCounters p out j) false 10 .success [x.packets, x.late, x.early, x.mismatch, x.losses, x.dups]) ∧
    (answers (.getSamplingRate p) false 7 .success [rateHz s.grid.rate] ∧ answers (.getClockSource p) false 8 .success [0]) ∧
    (∀ j : Fin 2, answers (.getAvbInfo p j) false 9 .success [clockIdentity, (netPort s j).delay, b2n (netPort s j).asCap 1]) ∧
    (∀ ctl : BitVec 64, let l := s.net.unsol; let reply (code : Nat) (l : List Nat) : State :=
        { u with net := { u.net with unsol := l }, sent := s.sent ++ [.avdecc p false code .success []] }
      exec (.registerUnsolicitedNotification p ctl) s = .next (reply 11 (if ctl.toNat ∈ l then l else l ++ [ctl.toNat])) ∧
      exec (.deregisterUnsolicitedNotification p ctl) s = .next (reply 12 (l.filter (· != ctl.toNat)))) ∧
    answers (.getName p) false 13 .success ((odBytes s 0x2600 3).map (·.toNat)) ∧ (∀ name : Bytes, changes (.setName p name) false 14 [(0x2600, 3, name)]) ∧
    answers (.setSamplingRate p) false 15 .notImplemented [] ∧ answers (.setClockSource p) false 16 .notImplemented [] ∧
    (∀ code : BitVec 16, answers (.aecpUnsupportedCommand p code) false (17 + code.toNat) .notImplemented [])

/-! ### Audio and performance inputs and outputs (chapter 15) -/

/-- R42, R52, R510, R511, R541, R544, R545, R549, R552 to R554, R569: a sample instant takes the inputs of the lap in progress and emits its outputs, the once-a-second
source 293 with it; the clock outputs; and the USB device: attachment, settings, bus events, and audio transactions. -/
def Obligations.SampleAndUsb : Prop :=
  ∀ (s : State),
    let usb (u : Usb) (t : State) : State := { t with audio := { t.audio with usb := u } }
    let u := s.audio.usb
    -- a sample instant
    (∀ (samples : List Int) (tdm : List (BitVec 24)), let n := s.audio.count; let k := n % s.grid.nLap; let now := max s.now (instantOf s n)
      s.grid.running = true → s.grid.epochLap + n / s.grid.nLap = s.grid.lap → samples.length = 4 → streamsOn s 0x2400 = [] → usbAudioOn s = false →
      ∃ t, exec (.sampleInstant samples tdm) s = .next t ∧ t.now = now ∧ t.audio.count = n + 1 ∧ t.audio.quar = s.audio.quar ∧ t.dict = s.dict ∧
        t.evc = (if nsOf now / 1000000000 > s.net.pps then evcPulse 293 s.evc else s.evc) ∧
        t.net.pps = max s.net.pps (nsOf now / 1000000000) ∧ t.net.ppsOn = (if nsOf now / 1000000000 > s.net.pps then odBool s 0x2110 3 else s.net.ppsOn) ∧
        t.audio.wclkOn = odBool s 0x2110 2 ∧ (s.now ≤ instantOf s n → s.grid.rate < 6 → wclkHigh t = odBool s 0x2110 2) ∧
        (∀ j, j < 4 → ∀ v, samples[j]? = some v → Tbl.get 0 t.audio.block (inKey (chKey 1 j) k) =
          (let z := Tbl.get 0 s.audio.zeroed j
           if z ≠ 0 ∧ z ≤ s.grid.lap + 1 ∧ s.grid.lap ≤ z then 0 else BitVec.ofInt 24 (max (-8388608) (min 8388607 v))) ∧
          Tbl.get 0 t.audio.clips j = (if v > 8388607 ∨ v < -8388608 then sat32 (Tbl.get 0 s.audio.clips j) else Tbl.get 0 s.audio.clips j)) ∧
        (∀ j, j < 16 → Tbl.get 0 t.audio.block (inKey (chKey 6 j) k) =
          (let x := cvSt s j; BitVec.ofNat 24 ((if nsTicks (x.time + 20000) ≤ now then x.code else x.old) * 2048))) ∧
        (∀ j, j < 4 → Tbl.get false t.audio.tdmOn j = (odBool s (0x2810 + j) 1 && s.modes.mode != .standby)) ∧
        (outputsMuted s = true → fading s = false → t.audio.out = []) ∧
        (∀ b c, outputsMuted s = false → blocksDue s = [b] → b.out.iface = 1 → c < b.out.channels →
          Tbl.get 0 t.audio.out (chKey 1 (b.out.ibase + c)) = BitVec.ofInt 24 (max (-8388608) (min 8388607 (outSample s b c k))))) ∧
    (odBool s 0x2110 1 = false ∨ s.grid.running = false → mclkHz s = 0 ∧ mclkHigh s = false) ∧
    (∀ n, odBool s 0x2110 1 = true → s.grid.running = true → s.grid.rate < 6 → s.grid.epoch ≤ (s.now : Int) → s.now = instantOf s n →
      mclkHz s = (if s.grid.rate % 2 = 0 then 22579200 else 24576000) ∧ mclkHigh s = true) ∧
    (ppsHigh s = true ↔ s.net.ppsOn = true ∧ nsOf s.now < s.net.pps * 1000000000 + 100000000) ∧
    -- the USB device
    (∀ on : Bool, exec (.usbVbusChange on) s = .next (if on = true ∧ usbModes s = true then usb { u with vbus := on, attached := true } s
      else usb { u with vbus := on, attached := false, suspended := false, audio := 0, midiAlt := 0, inbuf := [] } s)) ∧
    (u.attached = true →
      (∀ alt : Fin 2, exec (.usbSetInterface true alt) s = .next (usb { u with midiAlt := alt } s) ∧ exec (.usbSetInterface false alt) s = .next (usb { u with audio := alt, inbuf := [] } s)) ∧
      (let quiet (t : State) : State := if s.dict.carrier = 2 then resetPort .b t else t
       exec .usbBusReset s = .next (quiet (fire 229 (usb { u with suspended := false, audio := 0, midiAlt := 0, inbuf := [] } s))) ∧
       (u.suspended = false → exec .usbSuspend s = .next (quiet (fire 229 (usb { u with suspended := true, inbuf := [] } s)))) ∧
       (u.suspended = true → exec .usbResume s = .next (fire 229 (usb { u with suspended := false } s))))) ∧
    (∀ f : Nat, exec (.usbSetCur f) s = .next { s with result := if f = rateHz s.grid.rate then 0 else 1 }) ∧
    (usbAudioOn s = true → s.grid.running = true → ∀ (x : List (BitVec 24)) (t : Nat),
      let v : State := { s with now := max s.now (nsTicks t) }
      (let buf := (x.zipIdx).foldl (fun b e => let n := tagOf s (t + 250000) + e.2 / usbChannels s
          if n < s.audio.count then b else Tbl.put 0 b (512 * n + e.2 % usbChannels s) (e.1.toNat + 1)) u.inbuf
       exec (.usbAudioTransaction 0 x t) s = .next (usb { u with inbuf := buf } v)) ∧
      (∀ due, due = min s.audio.count (let since : Int := (nsTicks t : Int) - nsTicks 250000 - s.grid.epoch
          if since < 0 then 0 else since.toNat / sampleTicks s.grid.rate + 1) →
        exec (.usbAudioTransaction 1 x t) s = .next { usb { u with sentTo := max u.sentTo due } v with sent := s.sent ++ [.usb (usbFrames s (max u.sentTo (due - 63)) due)] }) ∧
      exec (.usbAudioTransaction 2 x t) s = .next { v with sent := s.sent ++ [.usb (leBytes 4 (rateHz s.grid.rate * 65536 / 8000))] })

/-- R100, R555 to R575: the key scan, GPIO and controller inputs, their debounce and quarantine, and the MIDI inputs and outputs. -/
def Obligations.PerformanceInputs : Prop :=
  ∀ (s : State),
    let at_ (t : Nat) : State := { s with now := max s.now (nsTicks t) }
    let audio (f : Audio → Audio) (u : State) : State := { u with audio := f u.audio }
    -- the key scan
    (∀ (n : Nat) (closed : List (Fin 640)) (x : Nat), scanRuns s = true → x < 640 →
      ∃ t, exec (.keyScanSample n closed) s = .next t ∧ t.audio.scan = n + 1 ∧ t.dict = s.dict ∧
        (let c := contact s x; let v := closed.any (fun y => y.val == x); let time := 10000 * n + 500 * (x / 32) + 450
         (v = true ∨ x ∈ s.audio.contacts.map (fun e => e.1)) →
          contact t x = { c with raw := v, t0 := if v = c.acc then 0 else if c.t0 = 0 then time + 1 else c.t0, moved := if v = c.raw then c.moved else time })) ∧
    (∀ x : Fin 640, let c := contact s x; let time := sampleTime (s.audio.scan - 1) x; let seen := (c.t0 - 1) / 10000
      scanRuns s = true → c.t0 ≠ 0 → s.audio.scan ≠ 0 → c.t0 - 1 + 10000 * debounceOf s x ≤ time → x.val ∉ s.audio.quar →
      (keysOf s x = [] → exec (.contactAccepted x) s = .next (setContact (at_ time) x { c with acc := c.raw, t0 := 0 })) ∧
      (∀ k role, keysOf s x = [(k, role)] →
        let b := time / 10000000
        let ms := (Tbl.get [] s.audio.moves x).filter (fun y => decide (b < y + 100))
        let w := keyContact k role c.raw seen time
          (setContact (audio (fun a => { a with moves := Tbl.put [] a.moves x (ms ++ [b]) }) (at_ time)) x { c with acc := c.raw, t0 := 0 })
        (ms.length < 250 → exec (.contactAccepted x) s = .next (if quarantined s (keyVal s k 2) = true ∨ quarantined s (keyVal s k 3) = true then setKeySt w k { keySt w k with on := false } else w)) ∧
        (ms.length ≥ 250 → c.acc = false → exec (.contactAccepted x) s =
          .next (fire 196 (audio (fun a => { a with quar := a.quar ++ [x.val], quars := sat32 a.quars, moves := Tbl.put [] a.moves x ms }) (at_ time)))))) ∧
    (∀ (u : State) (k seen t : Nat) (closed : Bool), keyVal u k 4 = 0 → keyVal u k 3 = 0xFFFF →
      let e := if u.audio.keyScan = t + 1 then u.audio.keyEntry + audioCycle u.grid.rate else fourthCycle u (nsTicks t)
      keyContact k 0 closed seen t u = eventAt e 0 (keyVal u k 7) (keyVal u k 6) (keyVal u k 11) (if closed then 1 else 2) t
        (audio (fun a => { a with keyScan := t + 1, keyEntry := e }) (setKeySt u k { keySt u k with on := closed }))) ∧
    (∀ t : Nat, s.grid.epoch ≤ t → let cyc := audioCycle s.grid.rate; let e := fourthCycle s t
      t + 3 * cyc < e ∧ e ≤ t + 4 * cyc ∧ ((e : Int) - s.grid.epoch) % (cyc : Int) = 0) ∧
    -- GPIO
    (∀ (us : Nat) (levels : BitVec 16) (n : Nat), s.modes.mode ≠ .standby → s.modes.mode ≠ .noMode → n < 16 →
      ∃ t, exec (.gpioSample us levels) s = .next t ∧ t.audio.gpioAt = 1000 * us ∧
        (let c := gpioSt s n; let v := (levels.getLsbD n != odBool s (0x2B20 + n) 3)
         gpioSt t n = if od s (0x2B20 + n) 1 = 2 then c
          else { c with raw := v, t0 := if v = c.acc then 0 else if c.t0 = 0 then 1000 * us + 1 else c.t0, moved := if v = c.raw then c.moved else 1000 * us })) ∧
    (∀ n : Fin 16, let c := gpioSt s n; let ix := 0x2B20 + n.val; let at_ := s.audio.gpioAt
      c.t0 ≠ 0 → c.t0 - 1 + 1000 * od s ix 4 ≤ at_ →
      (od s ix 1 = 0 → exec (.gpioEdgeAccepted n) s = .next (setGpio s n { c with acc := c.raw, t0 := 0 })) ∧
      (od s ix 1 = 1 → 0x400 + n.val ∉ s.audio.quar →
        let b := at_ / 10000000
        let ms := (Tbl.get [] s.audio.moves (0x400 + n.val)).filter (fun y => decide (b < y + 100))
        ms.length < 250 → exec (.gpioEdgeAccepted n) s = .next (inputEvent 5 (od s ix 9) n (od s ix 7) (od s ix (if c.raw then 5 else 6)) at_
          (level (200 + n.val) c.raw (setGpio (audio (fun a => { a with moves := Tbl.put [] a.moves (0x400 + n.val) (ms ++ [b]) }) s) n { c with acc := c.raw, t0 := 0 }))))) ∧
    -- controller inputs
    (∀ (k : Nat) (codes : List (BitVec 12)) (j : Nat) (v : BitVec 12), codes.length ≤ 16 → codes[j]? = some v →
      (∀ j, j < 16 → od s (0x2B00 + j) 4 = 0 ∧ od s (0x2B00 + j) 5 = 0) →
      ∃ t, exec (.cvConversion k codes) s = .next t ∧ t.evc = s.evc ∧ t.starter = s.starter ∧
        (let x := cvSt s j; let up := x.high = false ∧ od s (0x2B00 + j) 2 ≤ v.toNat; let down := x.high = true ∧ v.toNat ≤ od s (0x2B00 + j) 3
         cvSt t j = { x with old := x.code, code := v.toNat, time := 250000 * k, high := if up then true else if down then false else x.high,
                             moved := if up ∨ down then 250000 * k else x.moved })) ∧
    -- quarantine ends
    (∀ (n : Fin 1296) (t : Nat), n.val ∈ s.audio.quar →
      let u := at_ t
      let free (v : State) : State := audio (fun a => { a with quar := a.quar.filter (· != n.val), moves := Tbl.put [] a.moves n [] }) v
      (n.val < 0x400 → (contact s n).moved + 2000000000 ≤ t → exec (.quarantineRelease n t) s = .next (fire 196 (setContact (free u) n { contact s n with acc := (contact s n).raw, t0 := 0 }))) ∧
      (0x400 ≤ n.val → n.val < 0x500 → let c := gpioSt s (n.val - 0x400); let x := evcSrc s.evc (200 + (n.val - 0x400))
        c.moved + 2000000000 ≤ t → exec (.quarantineRelease n t) s = .next (fire 196
          { setGpio (free u) (n.val - 0x400) { c with acc := c.raw, t0 := 0 } with evc := evcPut s.evc (200 + (n.val - 0x400)) { x with inp := c.raw } })) ∧
      (0x500 ≤ n.val → (cvSt s (n.val - 0x500)).moved + 2000000000 ≤ t → exec (.quarantineRelease n t) s = .next (fire 196 (free u)))) ∧
    -- MIDI
    (∀ (b : BitVec 8) (d : Bytes) (t : Nat), 0x80 ≤ b.toNat → let chan := b.toNat % 16; let x := s.audio.din
      let u := dinThru 0 (b :: d) (setMidiIn (at_ t) 0 { x with running := if b.toNat < 0xF0 then b.toNat else if b.toNat < 0xF8 then 0 else x.running })
      exec (.dinMidiMessage (b :: d) t) s = .next (midiTake 0 chan t (midiRoute (Tbl.get false x.hold chan) (b :: d)) (b :: d) u)) ∧
    (∀ (b : BitVec 8) (d : Bytes) (t : Nat), b.toNat < 0x80 → let r := s.audio.din.running
      (r = 0 → exec (.dinMidiMessage (b :: d) t) s = .next (at_ t)) ∧
      (0x80 ≤ r → r < 0xF0 → let m := BitVec.ofNat 8 r :: b :: d
        exec (.dinMidiMessage (b :: d) t) s = .next (midiTake 0 (r % 16) t (midiRoute (Tbl.get false s.audio.din.hold (r % 16)) m) m (dinThru r (b :: d) (at_ t))))) ∧
    (∀ (a v c : BitVec 8) (hold : Bool), c.toNat < 16 → v.toNat < 128 →
      midiRoute hold [BitVec.ofNat 8 (0x90 + c.toNat), a, v] = some (some (if v.toNat = 0 then (2, a.toNat, 0) else (1, a.toNat, rep7 v.toNat)), hold) ∧
      midiRoute hold [BitVec.ofNat 8 (0x80 + c.toNat), a, v] = some (some (2, a.toNat, rep7 v.toNat), hold)) ∧
    (exec .midiFramingError s = .next (audio (fun a => { a with din := { a.din with framing := sat32 a.din.framing, running := 0 } }) s)) ∧
    (s.audio.dinOut.busy.isSome = true → exec .midiOutByteDone s = .next (dinGo (audio (fun a => { a with dinOut := { a.dinOut with busy := none } }) s))) ∧
    (∀ (h c a v : BitVec 8) (t : Nat), s.audio.usb.attached = true → s.audio.usb.suspended = false → s.audio.usb.midiAlt = 0 → h.toNat = 9 →
      exec (.usbMidiPacket [h, c, a, v] t) s = .next (midiTake 1 (c.toNat % 16) t (midiRoute (Tbl.get false s.audio.usbMidi.hold (c.toNat % 16)) [c, a, v]) [c, a, v] (at_ t)))

/-! ### Error log, scrubbing, self-test, repair and availability (chapter 17) -/

/-- R613, R614, R627, R629, R631, R632, R634: what the writes of the service objects do: the log, a test pass, a repair, the full self-test, the low-level store actions
and the availability counters, with the states that refuse them. -/
def Obligations.UpkeepWrites : Prop :=
  ∀ (s : State) (who : Requester),
    let writes (c : Instr) (ix sub : Nat) (val : Bytes) (u : State) : Prop := s.Writable who ix sub val → exec c s = .next (s.told ix sub u)
    let refuses (c : Instr) (ix sub : Nat) (val : Bytes) : Prop := s.Writable who ix sub val → exec c s = .next (answered .state [] s)
    let test (f : TestSt → TestSt) (u : State) : State := { u with test := f u.test }
    let service := s.modes.mode = .workshop ∧ debugLife s = true
    (service → writes (.logClear who) 0xF100 7 [1] { s with log := { lastEp := s.log.lastEp } }) ∧ (¬service → refuses (.logClear who) 0xF100 7 [1]) ∧
    (service → writes (.availabilityClear who) 0xF400 6 [1] { s with avail := { s.avail with service := 0, impaired := 0, outage := 0, offLaps := 0 } }) ∧
    (¬service → refuses (.availabilityClear who) 0xF400 6 [1]) ∧
    -- a test pass and a repair
    (∀ c : BitVec 8, let x := clusterOf s c.toNat
      (passOk s c.toNat = true → writes (.testNow who c) 0xF200 3 [c] (passBegin c.toNat s)) ∧ (passOk s c.toNat = false → refuses (.testNow who c) 0xF200 3 [c]) ∧
      (x.state = 4 → writes (.repairAgain who c) 0xF200 5 [c] (setCluster s c.toNat { x with repairDue := true })) ∧ (x.state ≠ 4 → refuses (.repairAgain who c) 0xF200 5 [c])) ∧
    (∀ c, passOk s c = true ↔ s.modes.mode = .perform ∧ s.adm.reserve = 1 ∧ s.adm.out = none ∧ s.modes.life ≠ 5 ∧ (clusterOf s c).state = 0 ∧
      ((viewOf s).inCluster c = [] ∨ ∃ p ∈ s.adm.plans, p.cluster = c)) ∧
    -- the full self-test
    (∀ mask : BitVec 16, let val := leBytes 2 mask.toNat
      let asked := (List.range 8).filter (fun i => mask.toNat.testBit i); let run := asked.filter (itemPermitted s.modes.life)
      let res := asked.foldl (fun t i => if itemPermitted s.modes.life i then t else Tbl.put 0 t i 4) ([] : Tbl Nat)
      let v := test (fun t => { t with items := run, item := res, full := if run = [] then 2 else 1 }) (odSet 0xF230 1 mask.toNat s)
      let u := if run.head? = some 4 then linkDown 1 (linkDown 0 v) else v
      (s.modes.mode ≠ .workshop → refuses (.selftestRun who mask) 0xF230 1 val) ∧
      (s.modes.mode = .workshop → s.test.full = 1 → s.Writable who 0xF230 1 val → exec (.selftestRun who mask) s = .next (answered .busy [] s)) ∧
      (s.modes.mode = .workshop → s.test.full ≠ 1 → writes (.selftestRun who mask) 0xF230 1 val
        (if run.head? = some 0 then (List.range 8).foldl (fun s c => sliceBegin c 0 (pollCluster c true s)) u else u))) ∧
    (s.test.full = 1 → ∀ j rest, s.test.items = j :: rest → writes (.selftestAbort who) 0xF230 4 [1]
      (test (fun t => { t with item := Tbl.put 0 t.item j 3, items := [], full := 3 }) ((List.range 8).foldl (fun s c => sliceStop c s) s))) ∧
    (s.test.full ≠ 1 → writes (.selftestAbort who) 0xF230 4 [1] s) ∧
    (∀ c, let t := sliceStop c s
      (Tbl.get 0 s.test.slice c = 0 → t = s) ∧
      (∀ j, Tbl.get 0 s.test.slice c = j + 1 → Tbl.get 0 t.test.slice c = 0 ∧ { t with test := s.test } = s ∧
        Tbl.get 0 t.test.results (24 * c + j) = BitVec.ofNat 32 (3 * 2 ^ 30 + (if Tbl.get 0 s.test.rep c = 0 then 0 else 2 ^ 26) + Tbl.get 0 s.test.runs c * 2 ^ 24))) ∧
    -- the low-level store actions on the page that OD F300.01 names
    (let p := od s 0xF300 1; let k := blockKey (pageDie p) (pagePlane p) (pageBlock p)
     (s.modes.mode ≠ .workshop → refuses (.storeRawRead who) 0xF300 3 [1] ∧ refuses (.storeDecodedRead who) 0xF300 3 [2] ∧ refuses (.storeBlockErase who) 0xF300 3 [3] ∧
       refuses (.storePageProgram who) 0xF300 3 [4] ∧ refuses (.storeBlockRetire who) 0xF300 3 [5]) ∧
     (s.modes.mode = .workshop →
       writes (.storeRawRead who) 0xF300 3 [1] (test (fun t => { t with page := rawPage s p, result := 0 }) s) ∧
       (∀ v n, Config.nandDecode (rawPage s p) = some (v, n) →
         writes (.storeDecodedRead who) 0xF300 3 [2] (test (fun t => { t with page := fitPage 16384 v, result := 0, bits := min 65535 n }) s)) ∧
       (Config.nandDecode (rawPage s p) = none → writes (.storeDecodedRead who) 0xF300 3 [2] (test (fun t => { t with result := 14 }) s)) ∧
       (blockOpen s k = false → refuses (.storeBlockErase who) 0xF300 3 [3] ∧ refuses (.storePageProgram who) 0xF300 3 [4] ∧ refuses (.storeBlockRetire who) 0xF300 3 [5]) ∧
       (blockOpen s k = true →
         (∃ u, writes (.storeBlockErase who) 0xF300 3 [3] u ∧ u.test.result = 0 ∧ ∀ j, j < 1536 → Tbl.get [] u.store.flash (p / 2048 * 2048 + j) = [0xFF]) ∧
         writes (.storePageProgram who) 0xF300 3 [4] (test (fun t => { t with result := 0 }) { s with store := { s.store with
           flash := Tbl.put [] s.store.flash p (fitPage 18432 s.test.page) } }) ∧
         writes (.storeBlockRetire who) 0xF300 3 [5] (test (fun t => { t with result := 0 }) (retireBlock (pageDie p) (pagePlane p) (pageBlock p) s)))))

/-- R608, R609, R613, R617, R620, R622 to R629, R631, R634: what scrubbers find, the slices of self-test and what their results bring about, the timers of tests and
availability, the archive of error records, and the restart of a quarantined cluster's convoys. -/
def Obligations.UpkeepEvents : Prop :=
  ∀ (s : State),
    -- scrubbing
    (∀ (id : Fin 14) unit bank a (bits : Fin 3), exec (.memoryScrub id unit bank a bits) s =
      .next (if bits = 0 then s else if bits = 1 then scrubGood id unit a s else scrubBad id unit bank a s)) ∧
    (∀ unit bank a,
      exec (.memoryScrub 1 unit bank a 1) s = .next (logCorrected 1 (unit % 64 / 8) 1 s) ∧
      exec (.memoryScrub 3 unit bank a 1) s = .next (logCorrected 3 (unit % 8) 1 s) ∧
      exec (.memoryScrub 8 unit bank a 2) s = .next (logRecord 336 2 0x0F 0xFF 0xFF (leBytes 4 a ++ [0, 0, 0, 0]) { s with cramUpset := Tbl.put false s.cramUpset (a / 4) true }) ∧
      (let c := unit % 8
       let b := (bank - 1) % 16 + 1
       exec (.memoryScrub 3 unit bank a 2) s = .next (
        logRecord (16 * c + 7) 1 0x03 c 0xFF (leBytes 1 3 ++ leBytes 1 b ++ leBytes 2 (a % 65536) ++ [0, 0, 0, 0]) { s with csmUpset := Tbl.put false s.csmUpset (csmKey c b (a % 65536)) true })) ∧
      (let k := unit % 64
       exec (.memoryScrub 5 unit bank a 2) s = .next (
        scrubRecord 5 0 (a % 512) (k / 8) (k % 8) (setCore s k { coreOf s k with lvu := { lvuOf s k with patchUpset := Tbl.put 0 (lvuOf s k).patchUpset (a % 512) 2 } }))) ∧
      (Config.dramStaging a = none →
        exec (.memoryScrub 12 unit bank a 2) s = .next (dramRecord a { s with dramUpset := Tbl.put false s.dramUpset (a / 8) true }))) ∧
    -- a slice ends
    (∀ (c : Fin 8) (n want sig good : BitVec 32) (us : Nat) (bad : List (Fin 256)) (j : Nat), Tbl.get 0 s.test.slice c = j + 1 →
      let runs := Tbl.get 0 s.test.runs c; let rep := Tbl.get 0 s.test.rep c; let key := 24 * c.val + j
      let word (r p : Nat) : BitVec 32 := BitVec.ofNat 32 (r * 2 ^ 30 + 2 ^ 29 + b2n (n == want) (2 ^ 28) + b2n (sig == good) (2 ^ 27) + (if p = 0 then 0 else 2 ^ 26) + runs * 2 ^ 24)
      let body : Bytes := leBytes 1 c ++ leBytes 1 j ++ leBytes 1 runs ++ [0] ++ leBytes 4 n.toNat ++ leBytes 4 want.toNat ++ leBytes 4 sig.toNat ++ leBytes 4 good.toNat ++ leBytes 4 us
      let x := clusterOf s c
      let exec_ := exec (.sliceDone c n want sig good us bad) s
      -- one that a micro-fault has cut, and one among others of a pass, a repair or a full self-test
      (c.val ∈ s.test.cut → exec_ = exec (.sliceBudgetExpiry c) s) ∧
      (c.val ∉ s.test.cut → ∃ t, exec_ = .next t ∧ t.test.last = body) ∧
      (c.val ∉ s.test.cut → n = want → sig = good → bad = [] ∨ memorySlice j = false → x.state = 2 ∨ x.state = 5 ∨ fullSlices s = true → j < 23 →
        ∃ t, exec_ = .next t ∧ Tbl.get 0 t.test.results key = word 1 rep ∧ t.test.last = body ∧ Tbl.get 0 t.test.slice c = j + 2 ∧ Tbl.get 0 t.test.runs c = 1) ∧
      (c.val ∉ s.test.cut → x.state ≠ 2 → x.state ≠ 5 → fullSlices s = false →
      (n = want → sig = good → bad = [] ∨ memorySlice j = false → ∃ t, exec_ = .next t ∧ Tbl.get 0 t.test.results key = word 1 rep ∧ t.test.last = body ∧
        Tbl.get 0 t.test.slice c = 0 ∧ Tbl.get 0 t.test.fuses c = min 32 (Tbl.get 0 s.test.fuses c + rep) ∧ t.evc = evcPulse (16 * c + 10) s.evc ∧ t.log = s.log) ∧
      ((n ≠ want ∨ sig ≠ good) ∧ (bad = [] ∨ memorySlice j = false) ∨
          memorySlice j = true ∧ bad ≠ [] ∧ (canMap s c (bad.map (·.val)) = false ∨ 3 ≤ runs) → ∃ t, exec_ = .next t ∧ Tbl.get 0 t.test.results key = word 2 rep ∧ t.test.last = body ∧
        t.log.newest = nextSeq s.log.newest) ∧
      (memorySlice j = true → bad ≠ [] → canMap s c (bad.map (·.val)) = true → runs < 3 → ∃ t, exec_ = .next t ∧ Tbl.get 0 t.test.results key = word 0 1 ∧ t.test.last = body ∧
        Tbl.get 0 t.test.runs c = runs + 1 ∧ Tbl.get 0 t.test.rep c = rep + bad.length ∧ Tbl.get 0 t.test.slice c = j + 1))) ∧
    (∀ (c : Fin 8) (n want sig good : BitVec 32) (us : Nat) (bad : List (Fin 256)),
      (∃ t, exec (.sliceBudgetExpiry c) s = .next t ∧ c.val ∉ t.test.cut) ∧
      (Tbl.get 0 s.test.slice c = 0 → c.val ∉ s.test.cut → exec (.sliceDone c n want sig good us bad) s = .next s) ∧
      (Tbl.get 0 s.test.slice c = 0 → exec (.sliceBudgetExpiry c) s = .next { s with test := { s.test with cut := s.test.cut.filter (· != c.val) } })) ∧
    (∀ (c : Fin 8) j, Tbl.get 0 s.test.slice c = j + 1 → Tbl.get 0 s.test.runs c < 3 → ∃ t, exec (.sliceBudgetExpiry c) s = .next t ∧
      Tbl.get 0 t.test.runs c = Tbl.get 0 s.test.runs c + 1 ∧ Tbl.get 0 t.test.slice c = j + 1 ∧
      Tbl.get 0 t.test.results (24 * c + j) = BitVec.ofNat 32 (3 * 2 ^ 30 + (if Tbl.get 0 s.test.rep c = 0 then 0 else 2 ^ 26) + Tbl.get 0 s.test.runs c * 2 ^ 24)) ∧
    (∀ (j : Fin 8) (r : Fin 3) rest, s.test.full = 1 → s.test.items = j.val :: rest → j.val ≠ 0 →
      ∃ t, exec (.selftestItemDone j r) s = .next t ∧ t.test = { s.test with item := Tbl.put 0 s.test.item j (r.val + 1), items := rest, full := if rest = [] then 2 else s.test.full } ∧
        (j.val ≠ 2 → j.val ≠ 7 → { t with test := s.test } = if rest.head? = some 4 then linkDown 1 (linkDown 0 s) else s) ∧ (j.val = 7 → r.val ≠ 2 → t.store.objects = [])) ∧
    (∀ (j : Fin 8) (r : Fin 3),
      (s.test.full ≠ 1 ∨ s.test.items.head? ≠ some j.val → exec (.selftestItemDone j r) s = .next s) ∧
      (s.test.full = 1 → s.test.items.head? = some 0 → exec (.selftestItemDone 0 r) s =
        .next (if (List.range 8).all (fun c => Tbl.get 0 s.test.slice c == 0) = true then itemEnds 3 s else s))) ∧
    -- timers
    (od s 0xF200 1 ≠ 0 → passOk s s.test.turn = true → exec .testPassTimer s = .next (passBegin s.test.turn s)) ∧
    (od s 0xF200 1 = 0 ∨ passOk s s.test.turn = false → exec .testPassTimer s = .next s) ∧
    exec .availabilityArchiveTimer s = .next { s with avail := { s.avail with saved := (s.avail.service, s.avail.impaired, s.avail.outage, s.avail.offLaps) } } ∧
    (s.modes.fatalDue = 0 → exec .fatalResetTimer s = .next s) ∧
    (s.modes.fatalDue ≠ 0 → exec .fatalResetTimer s = .next (warmReset true { s with now := max s.now (s.modes.fatalDue - 1) })) ∧
    -- the archive: CORRECTED records are due, and the others once their episode has closed
    (let l := s.log
     let due := l.ring.takeWhile (fun r => r.cls == 0 || (match l.ep with | some e => e.num != r.episode | none => true))
     let all := l.archive ++ due
     exec .recordArchive s = .next { s with log := { l with
       ring := l.ring.drop due.length, archive := all.drop (all.length - 1677721), archived := match due.getLast? with | some r => r.seq | none => l.archived } }) ∧
    -- a quarantined cluster
    (∀ c : Fin 8, (clusterOf s c).restartDue = false ∨ servingCluster s c ≠ [] ∨ firmwareHandle s = none → exec (.quarantineRestartCommit c) s = .next s) ∧
    (∀ c : Fin 8, let x := clusterOf s c
      x.restartDue = true → servingCluster s c = [] → (firmwareHandle s).isSome = true →
      let ms := restartPlaces c s
      (ms = [] → exec (.quarantineRestartCommit c) s = .next (restartOver c s)) ∧
      (ms ≠ [] → exec (.quarantineRestartCommit c) s = .next (firmwarePut
        { entries := placeEntries s.adm.load ms, clears := ms.map (·.1), exempt := true, ofCluster := c + 1,
          restarts := x.restarts.filterMap (fun r => (ms.find? (fun m => m.1 == r.ctx / 128)).map (fun m => { r with ctx := 128 * m.2.1 + r.ctx % 128 })) } s)))

/-! ### Start-up, resets, updates and the supply (chapters 16 and 18) -/

/-- R37, R38, R273, R382, R582 to R588, R593: the steps of Table 16.4, each once the steps before it are complete, with the failures of Table 16.5 that hold the module in
BOOT, quarantine clusters or send it to SAFE or MAINTAIN. -/
def Obligations.StartUpSteps : Prop :=
  ∀ (s : State),
    let modes (f : ModeSt → ModeSt) (u : State) : State := { u with modes := f u.modes }
    let done (x : StartStep) (u : State) : State := modes (fun m => { m with up := { m.up with done := m.up.done ++ [x] } }) u
    let at_ (t : Nat) : State := { s with now := max s.now (nsTicks t) }
    let fails (row cls cluster : Nat) (u : State) : State :=
      logRecord 0 cls 0x19 cluster 0xFF (leBytes 1 row ++ List.replicate 7 0) (modes (fun m => { m with up := { m.up with rows := m.up.rows ++ [row] } }) u)
    -- steps 2 to 5
    (∀ us, upReady s [] .power = true → s.evc.asleep = false →
      let up (u : State) : State := stampAt 0 us (done .power { u with supply := { u.supply with vout := 0 }, modes := { u.modes with rails := true } })
      (s.modes.up.wake = true → exec (.powerSequencingDone us) s = .next (up s)) ∧
      (s.modes.up.wake = false → exec (.powerSequencingDone us) s = .next (up { s with cram := [], cramUpset := [] }))) ∧
    (∀ us ticks, upReady s [.power] .pll = true →
      ∃ t, exec (.pllLock us ticks) s = .next t ∧ t.modes.mode = .boot ∧ t.modes.up.done = s.modes.up.done ++ [.pll] ∧ t.evc = evcPulse 294 s.evc ∧
        t.now = (if s.grid.fresh then 0 else nsTicks (nsOf s.now + ticks * 1000000000 / 32768)) ∧ drvOf t 0 = {} ∧
        t.net.p0.downAt = t.now + 1 ∧ t.net.p1.downAt = t.now + 1 ∧
        t.grid = { running := true, rate := s.modes.boot.rate, nLap := s.modes.boot.nLap, lap := if s.grid.fresh then 0 else s.grid.lap + 1, epoch := t.now,
                   epochLap := if s.grid.fresh then 0 else s.grid.lap + 1, fresh := false } ∧
        (Tbl.get 0 s.modes.up.times 1 = 0 → Tbl.get 0 t.modes.up.times 1 = min us 0xFFFFFFFE + 1)) ∧
    -- steps 6 and 7a
    (∀ t, upReady s [.pll] .stage2 = true →
      (s.modes.life = 5 → exec (.stage2LoadDone t) s = .next (bootHold (at_ t))) ∧
      (s.modes.life ≠ 5 → s.modes.up.wake = false →
        (∀ i, bootSlot s = (some i, s.modes.boot) → ∃ u, exec (.stage2LoadDone t) s = .next u ∧ u.modes.slot = i ∧ u.modes.boot = s.modes.boot ∧
          u.modes.up.done = s.modes.up.done ++ [.stage2] ∧ drvOf u 1 = {} ∧ drvOf u 2 = {} ∧ drvOf u 3 = {} ∧ drvOf u 0 = drvOf s 0) ∧
        (bootSlot s = (none, s.modes.boot) → exec (.stage2LoadDone t) s = .next (fails 1 2 0xFF (bootHold (at_ t)))))) ∧
    (∀ u : State, u.modes.pwrEn = true →
      bootHold u = modes (fun m => { m with faultN := some false, up := { m.up with hold := true } }) (linkDown 1 (linkDown 0 u))) ∧
    -- the roll call
    (∀ (st : Fin 13) (w : BitVec 32), s.modes.up.active = true → s.modes.up.hold = false → upDone s .stage2 = true → upDone s .sram = false → upDone s .rollCall = false →
      let u := modes (fun m => { m with words := Tbl.put 0 m.words st (~~~w) }) s
      ((∃ j, j < 13 ∧ Tbl.get 0 u.modes.words j = 0) → exec (.rollCallAnswer st w) s = .next u) ∧
      ((∀ j, j < 13 → Tbl.get 0 u.modes.words j ≠ 0) → exec (.rollCallAnswer st w) s = .next (rollCallEnds u))) ∧
    (upReady s [.stage2] .rollCall = true → exec .rollCallTimeout s = .next (rollCallEnds s)) ∧
    (∀ u : State,
      ((∀ j, j < 13 → stationOk u j = true) → rollCallEnds u = done .rollCall u) ∧
      ((∃ j, 8 ≤ j ∧ j < 13 ∧ stationOk u j = false) → rollCallEnds u = fails 3 2 0xFF (bootHold (done .rollCall u))) ∧
      (∀ c, c < 8 → (∀ j, j < 13 → (stationOk u j = false ↔ j = c)) → rollCallEnds u = quarantineAtStart 4 c (done .rollCall u))) ∧
    -- steps 7c to 7f
    (∀ t, upReady s [.stage2] .dram = true →
      exec (.dramTrainingDone t true) s = .next (stamp 3 (done .dram (at_ t))) ∧ exec (.dramTrainingDone t false) s = .next (fails 2 2 0xFF (bootHold (at_ t)))) ∧
    (upReady s [.stage2] .sram = true → (∀ j, j < 13 → stationOk s j = true → (rollWord s j).getLsbD 15 = true) →
      exec (.sramInitDone 0) s = .next (done .sram s) ∧ ∀ c, c < 8 → exec (.sramInitDone (BitVec.ofNat 8 (2 ^ c))) s = .next (quarantineAtStart 5 c (done .sram s))) ∧
    (upReady s [.sram] .patch = true →
      (memberGood s 3 = false → exec .patchLoadDone s = .next (memberFails 3 s)) ∧
      (memberGood s 3 = true → patchImage s = none → exec .patchLoadDone s = .next (done .patch s)) ∧
      (∀ p, memberGood s 3 = true → patchImage s = some p →
        let u := (List.range 64).foldl (fun u k => patchLoad p k u) s
        (patchImageOk p = true → (∀ k, k < 64 → patchTaken p u k = true) → exec .patchLoadDone s =
          .next (modes (fun m => { m with up := { m.up with image := some p } }) (done .patch u))) ∧
        (patchImageOk p = false → exec .patchLoadDone s = .next (logRecord 0 2 0x13 0xFF 0xFF [0xFF, 0, 0, 0, 0, 0, 0, 0]
          (modes (fun m => { m with up := { m.up with rows := m.up.rows ++ [6] } }) (done .patch (patchClear u))))))) ∧
    (∀ t, upReady s [.stage2] .store = true →
      let b := if s.modes.lastStart = 0 then addDose (at_ t) else at_ t
      let up (mounted : Bool) : State := stamp 4 (done .store { b with store := { b.store with mounted := mounted } })
      let row (n : Nat) (u : State) : State := modes (fun m => { m with up := { m.up with rows := m.up.rows ++ [n] } }) u
      exec (.storeMountDone t 0) s = .next (up true) ∧
      exec (.storeMountDone t 1) s = .next (logRecord 144 1 0x1C 0xFF 0xFF (List.replicate 8 0) (row 8 (up true))) ∧
      exec (.storeMountDone t 2) s = .next (logRecord 0 2 0x1D 0xFF 0xFF (List.replicate 8 0) (row 7 (up false)))) ∧
    -- step 8
    (s.modes.up.active = true → s.modes.up.hold = false → s.modes.resetN = true → s.modes.next = none →
      (∀ x ∈ [StartStep.stage2, .rollCall, .dram, .sram, .patch, .store], upDone s x = true) →
      (memberGood s 2 = false → exec .savedLoadCommit s = .next (memberFails 2 s)) ∧
      (memberGood s 2 = true →
        let d := loadDictionary s
        let ends (u : State) : Prop := exec .savedLoadCommit s = .next (modes (fun m => { m with next := some (startUpOutcome u), dueLap := edgeAfter2 u }) u)
        (∀ r, savedView d.1 d.2 = .ok r → ends (installLoad r.1 r.2 (spendAtStart d.2))) ∧
        (∀ f, savedView d.1 d.2 = .error f → ends (fails 10 1 0xFF (admissionRefuse 0xFFFF 3 f (spendAtStart d.2)))))) ∧
    (∀ u : State, let row (n : Nat) : Prop := n ∈ u.modes.up.rows; let m := u.modes
      (m.guardTrip = true → startUpOutcome u = (.safe, 5)) ∧
      (m.guardTrip = false →
        (row 6 → startUpOutcome u = (.safe, 3)) ∧ (¬row 6 → row 7 → startUpOutcome u = (.safe, 10)) ∧ (¬row 6 → ¬row 7 → row 10 → startUpOutcome u = (.safe, 4)) ∧
        (¬row 6 → ¬row 7 → ¬row 10 →
          (m.boot.toSafe = true → startUpOutcome u = (.safe, 8)) ∧
          (m.boot.toSafe = false →
            (∀ c, c < 8 → (clusterOf u c).state ≠ 0 → startUpOutcome u = (.maintain, 7)) ∧ ((∀ c, c < 8 → (clusterOf u c).state = 0) → startUpOutcome u = (.perform, 1))))))

/-- R446, R482, R582, R589 to R591, R595 to R603, R605, R642, R644, R645, R655: what the supply, PWR_EN, RESET_N, the thermal trip and the alarm bring about; what STANDBY and a warm
reset keep and lose; how an update is verified and activated, and how the life-cycle erase ends. -/
def Obligations.ResetsAndSupply : Prop :=
  ∀ (s : State),
    let m := s.modes
    let modes (x : ModeSt) : State := { s with modes := x }
    -- VIN, PWR_EN and RESET_N
    (m.mode = .noMode → m.vin = false →
      let u : State := { alwaysOnCleared s with modes := { (alwaysOnCleared s).modes with vin := true, pwrEn := true } }
      (m.resetN = true → exec .powerUp s = .next (drawNonces (startUp false false 0 u))) ∧ (m.resetN = false → exec .powerUp s = .next u)) ∧
    (m.pwrEn = false →
      let u := level 296 true (modes { m with pwrEn := true })
      (m.trip = true → m.cooled = true → exec .pwrEnRise s = .next (startUp false false 1 u)) ∧ (m.trip = false → exec .pwrEnRise s = .next u)) ∧
    (let u := level 296 false (modes { m with pwrEn := false })
     (m.entering = 0 → m.mode ∈ [.perform, .maintain, .safe, .workshop] ∨ (m.mode = .boot ∧ m.up.hold = true) → exec .pwrEnFall s = .next (standbyBegin 9 u)) ∧
     (m.entering ≠ 0 ∨ (m.mode = .boot ∧ m.up.hold = false) → exec .pwrEnFall s = .next u)) ∧
    (m.vin = true →
      (∃ t, exec .resetNAssert s = .next t ∧ t.modes.mode = .noMode ∧ t.modes.resetN = false ∧ t.modes.faultN = some (m.life != 5) ∧ t.now = 0 ∧ t.ctxs = [] ∧ t.cores = [] ∧ t.dram = [] ∧
        t.modes.boot = m.boot ∧ t.modes.life = m.life ∧ t.modes.rollback = m.rollback ∧ t.modes.warm = 0 ∧ t.modes.alarmOn = false ∧ t.dict.keys = s.dict.keys ∧ t.cram = s.cram) ∧
      (m.resetN = false →
        (m.pwrEn = true → exec .resetNRelease s = .next (drawNonces (startUp m.rails false 2 (modes { m with resetN := true })))) ∧
        (m.pwrEn = false → exec .resetNRelease s = .next { modes { m with resetN := true, mode := .standby, rails := false } with evc := standbyEvc true s.evc }))) ∧
    (∀ (rails wake : Bool) (cause : Nat) (u : State), startUp rails wake cause u = { u with modes := { u.modes with
      mode := .noMode, next := none, faultN := some (u.modes.life != 5), lastStart := cause, trip := false, cooled := false, holdUp := false,
      up := { active := true, wake := wake, done := if rails then [.power] else [] } } }) ∧
    -- a warm reset
    (∀ (e : Bool) (u : State), let t := warmReset e u
      t.modes.mode = .noMode ∧ t.modes.up = { active := true, done := [.power] } ∧ t.modes.lastStart = 3 ∧ t.modes.warm = min 65535 (u.modes.warm + 1) ∧
      t.modes.life = u.modes.life ∧ t.modes.boot = u.modes.boot ∧ t.modes.rollback = u.modes.rollback ∧ t.ctxs = [] ∧ t.cores = [] ∧ t.csm = [] ∧ t.dram = [] ∧ t.cram = u.cram ∧
      t.log.ring = u.log.ring ∧ t.dict.saved = u.dict.saved ∧ t.man = {} ∧ t.drv = State.reset.drv ∧ t.free = u.free + 2) ∧
    (m.guardDue ≠ 0 → exec .bootLoopGuardClear s = .next { modes { m with warmAt := [], guardDue := 0 } with now := max s.now (m.guardDue - 1) }) ∧
    (m.mode ≠ .perform → m.mode ≠ .maintain → ∀ x ∈ [Mode.perform, .maintain], guardAfter m.mode x s = s.now + nsTicks 60000000000 + 1) ∧
    (m.erasing = true → m.life ≠ 4 → exec .lifeCycleEraseDone s = .next (warmReset false { modes { m with erasing := false } with dict := { s.dict with keys := [] } })) ∧
    (m.erasing = true → m.life = 4 → ∃ t, exec .lifeCycleEraseDone s = .next t ∧ t.dict.keys = [] ∧ t.dict.saved = [] ∧ t.dict.savedOk = false ∧ t.store.objects = [] ∧
      t.modes.erasing = false ∧ t.modes.life = 4) ∧
    -- STANDBY
    (m.entering = 2 → ∃ t, exec .standbyEntryDone s = .next t ∧ t.modes.mode = .standby ∧ t.modes.cause = m.standbyCause ∧ t.modes.rails = false ∧ t.supply.vout = 2 ∧
      t.evc.asleep = true ∧ t.ctxs = [] ∧ t.cores = [] ∧ t.dram = [] ∧
      (odBool s 0xF020 1 = true → t.cram = s.cram ∧ (m.up.hold = false → t.modes.kept = some (persistSet s, s.adm.load))) ∧
      (odBool s 0xF020 1 = false → t.cram = [] ∧ t.log.ring = [] ∧ t.modes.kept = none)) ∧
    (m.alarmOn = true → exec .alarmExpiry s = .next (fire 295 { modes { m with alarmOn := false } with now := max s.now (nsTicks m.alarm) })) ∧
    -- the thermal trip and the supply
    (m.rails = true → m.holdUp = false → m.trip = false → ∃ t, exec .thermalTrip s = .next t ∧ t.modes.mode = .noMode ∧ t.modes.trip = true ∧ t.modes.cooled = false ∧
      t.modes.rails = false ∧ t.modes.faultN = some false ∧ t.supply.vout = 2 ∧ t.cram = [] ∧ t.evc.asleep = true) ∧
    (m.trip = true →
      (m.pwrEn = true → exec .thermalTripEnd s = .next (startUp false false 1 s)) ∧ (m.pwrEn = false → exec .thermalTripEnd s = .next (modes { m with cooled := true }))) ∧
    (m.vin = true →
      (m.mode = .standby → exec .vinLockout s = .next (powerLost (modes { m with vin := false }))) ∧
      (m.mode ≠ .standby → exec .vinLockout s = .next { modes { m with
          vin := false, mode := .noMode, next := none, guardDue := 0, entering := 0, holdUp := true, trip := false, up := {}, faultN := some false } with
        grid := { s.grid with running := false }, supply := { s.supply with vout := 2 } })) ∧
    (m.holdUp = true → exec .holdUpEnd s = .next (powerLost s)) ∧
    (∀ u : State, let t := powerLost u
      t.modes.mode = .noMode ∧ t.modes.rails = false ∧ t.modes.holdUp = false ∧ t.modes.faultN = none ∧ t.cram = [] ∧ t.log.ring = [] ∧ t.clus = [] ∧
      t.modes.boot = u.modes.boot ∧ t.modes.life = u.modes.life ∧ t.log.archive = u.log.archive ∧ t.dict.saved = u.dict.saved) ∧
    (∀ (vin : Nat) (temp junction : Int) (power : Nat) (vout : Fin 3),
      let asleep := m.mode = .standby ∨ m.mode = .noMode
      let hot := if asleep then s.supply.hot else odInt s 0xF030 6; let low := if asleep then s.supply.low else od s 0xF030 7
      let u : State := { s with supply := { s.supply with vin := vin, case_ := temp, junction := junction, power := power, vout := vout } }
      let a := if temp ≥ hot then level 339 true u else if temp < hot - 19 then level 339 false u else u
      exec (.supplyMonitorTick vin temp junction power vout) s = .next (if vin ≤ low then level 340 true a else if vin ≥ low + 100 then level 340 false a else a)) ∧
    -- updates
    (m.upd.state = 2 → let ok := pkgWhole m.rollback (slotPkg s (1 - m.slot))
      exec .fwVerifyDone s = .next (modes { m with upd := { m.upd with state := if ok then 3 else 4 } })) ∧
    (∀ d rest, m.upd.state = 5 → m.upd.left = d :: rest → ∀ k : Fin 4, k.val = d →
      (∀ f fs, rest = f :: fs → ∃ t, exec (.droverRestartReady k) s = .next t ∧ t.modes.upd.left = rest ∧ (f ≠ d → (drvOf t d).run = .running) ∧ (drvOf t f).run = .reset) ∧
      (rest = [] → m.entering ≠ 3 → ∃ t, exec (.droverRestartReady k) s = .next t ∧ t.modes.upd.state = 6 ∧ t.modes.upd.left = [] ∧ t.modes.slot = 1 - m.slot ∧
        t.modes.boot.active = 1 - m.slot ∧ t.modes.roles = modeRoles m.mode ∧ (drvOf t d).run = .running)) ∧
    (∀ d rest, m.upd.left = d :: rest → m.entering ≠ 3 → ∃ t, exec .activationReadyTimeout s = .next t ∧ t.modes.upd.state = 4 ∧ t.modes.upd.left = [] ∧ t.modes.roles = modeRoles m.mode ∧
      t.modes.slot = m.slot ∧ t.log.newest = nextSeq s.log.newest)
end

