-- ==== Sys2Proof/Laws/Tbl.lean ====
section
/-! SUPPORT. Laws of the sparse tables that every memory and register file is held in: what a read gives after a write, and
that every operation keeps the canonical form. -/

namespace Sys2Proof.Machine

@[simp] theorem Tbl.get_nil {α : Type} (d : α) (k : Nat) : Tbl.get d ([] : Tbl α) k = d := rfl

variable {α : Type} [DecidableEq α] {d : α}

/-- A canonical table above a bound reads as the default below it. -/
theorem Tbl.get_below {t : Tbl α} {b k : Nat} (h : Tbl.wfFrom d b t = true) (hk : k < b) : Tbl.get d t k = d := by
  induction t generalizing b with
  | nil => rfl
  | cons e t ih =>
    obtain ⟨j, v⟩ := e
    simp only [Tbl.wfFrom, Bool.and_eq_true, decide_eq_true_eq] at h
    have hj : j ≠ k := by omega
    simp only [Tbl.get, hj, if_false]
    exact ih h.2 (by omega)

/-- A table that is canonical above a bound is canonical above every lower one. -/
theorem Tbl.wfFrom_mono {t : Tbl α} {a b : Nat} (h : Tbl.wfFrom d b t = true) (hab : a ≤ b) : Tbl.wfFrom d a t = true := by
  cases t with
  | nil => rfl
  | cons e t =>
    obtain ⟨j, v⟩ := e
    simp only [Tbl.wfFrom, Bool.and_eq_true, decide_eq_true_eq] at h ⊢
    exact ⟨⟨by omega, h.1.2⟩, h.2⟩

theorem Tbl.wfFrom_enter {t : Tbl α} {b k : Nat} {v : α} (h : Tbl.wfFrom d b t = true) (hk : b ≤ k) (hv : v ≠ d) :
    Tbl.wfFrom d b (Tbl.enter t k v) = true := by
  induction t generalizing b with
  | nil => simp [Tbl.enter, Tbl.wfFrom, hv, hk]
  | cons e t ih =>
    obtain ⟨j, w⟩ := e
    simp only [Tbl.wfFrom, Bool.and_eq_true, decide_eq_true_eq] at h
    obtain ⟨⟨hb, hw⟩, ht⟩ := h
    simp only [Tbl.enter]
    split
    · simp only [Tbl.wfFrom, Bool.and_eq_true, decide_eq_true_eq]
      exact ⟨⟨hk, hv⟩, ⟨by omega, hw⟩, ht⟩
    · split
      · rename_i he
        subst he
        simp only [Tbl.wfFrom, Bool.and_eq_true, decide_eq_true_eq]
        exact ⟨⟨hk, hv⟩, ht⟩
      · simp only [Tbl.wfFrom, Bool.and_eq_true, decide_eq_true_eq]
        exact ⟨⟨hb, hw⟩, ih ht (by omega)⟩

/-- Leaving entries out keeps the canonical form. -/
theorem Tbl.wfFrom_filter {t : Tbl α} {b : Nat} (p : Nat × α → Bool) (h : Tbl.wfFrom d b t = true) :
    Tbl.wfFrom d b (t.filter p) = true := by
  induction t generalizing b with
  | nil => rfl
  | cons e t ih =>
    obtain ⟨j, v⟩ := e
    simp only [Tbl.wfFrom, Bool.and_eq_true, decide_eq_true_eq] at h
    simp only [List.filter]
    split
    · simp only [Tbl.wfFrom, Bool.and_eq_true, decide_eq_true_eq]
      exact ⟨h.1, ih h.2⟩
    · exact ih (Tbl.wfFrom_mono h.2 (by omega))

/-- A write keeps the canonical form. -/
theorem Tbl.wf_put {t : Tbl α} (k : Nat) (v : α) (h : Tbl.wf d t = true) : Tbl.wf d (Tbl.put d t k v) = true := by
  unfold Tbl.put
  split
  · exact Tbl.wfFrom_filter _ h
  · rename_i hv
    exact Tbl.wfFrom_enter h (Nat.zero_le k) hv

theorem Tbl.wf_putAll {t : Tbl α} (b : Nat) (vs : List α) (h : Tbl.wf d t = true) : Tbl.wf d (Tbl.putAll d t b vs) = true := by
  induction vs generalizing t b with
  | nil => exact h
  | cons v vs ih => exact ih (b + 1) (Tbl.wf_put b v h)

theorem Tbl.wf_upd {t : Tbl α} (k : Nat) (f : α → α) (h : Tbl.wf d t = true) : Tbl.wf d (Tbl.upd d t k f) = true :=
  Tbl.wf_put k _ h

theorem Tbl.wf_clear {t : Tbl α} (lo hi : Nat) (h : Tbl.wf d t = true) : Tbl.wf d (Tbl.clear t lo hi) = true :=
  Tbl.wfFrom_filter _ h

theorem Tbl.wf_drop {t : Tbl α} (k : Nat) (h : Tbl.wf d t = true) : Tbl.wf d (Tbl.drop t k) = true :=
  Tbl.wfFrom_filter _ h

/-- A key left out reads as the default, and every other key as before. -/
theorem Tbl.get_drop (t : Tbl α) (k i : Nat) :
    Tbl.get d (t.filter (fun e => e.1 != k)) i = if i = k then d else Tbl.get d t i := by
  induction t with
  | nil => simp
  | cons e t ih =>
    obtain ⟨j, w⟩ := e
    by_cases hj : j = k
    · subst hj
      simp only [bne_self_eq_false, Bool.false_eq_true, not_false_eq_true, List.filter_cons_of_neg, ih, Tbl.get]
      by_cases hi : i = j
      · simp [hi]
      · simp [hi, Ne.symm hi]
    · have : (j != k) = true := by simpa using hj
      simp only [List.filter_cons, this, if_true, Tbl.get, ih]
      by_cases hi : j = i
      · subst hi; simp [hj]
      · simp [hi]

theorem Tbl.get_enter (t : Tbl α) (k i : Nat) (v : α) : Tbl.get d (Tbl.enter t k v) i = if i = k then v else Tbl.get d t i := by
  induction t with
  | nil => simp [Tbl.enter, Tbl.get, eq_comm]
  | cons e t ih =>
    obtain ⟨j, w⟩ := e
    simp only [Tbl.enter]
    split
    · simp [Tbl.get, eq_comm]
    · split
      · rename_i he
        subst he
        simp only [Tbl.get, eq_comm]
        by_cases hi : k = i <;> simp [hi]
      · rename_i he
        simp only [Tbl.get, ih]
        by_cases hi : j = i
        · subst hi; simp [Ne.symm he]
        · simp [hi]

/-- A read after a write gives the value written at its place, and what it gave before elsewhere. -/
theorem Tbl.get_put (t : Tbl α) (k i : Nat) (v : α) : Tbl.get d (Tbl.put d t k v) i = if i = k then v else Tbl.get d t i := by
  unfold Tbl.put
  split
  · rename_i hv
    rw [Tbl.get_drop, hv]
  · exact Tbl.get_enter t k i v

@[simp] theorem Tbl.get_put_self (t : Tbl α) (k : Nat) (v : α) : Tbl.get d (Tbl.put d t k v) k = v := by
  rw [Tbl.get_put, if_pos rfl]

theorem Tbl.get_put_other (t : Tbl α) {k i : Nat} (v : α) (hi : i ≠ k) : Tbl.get d (Tbl.put d t k v) i = Tbl.get d t i := by
  rw [Tbl.get_put, if_neg hi]

/-- The second of two writes of one place stands. -/
theorem Tbl.put_put (t : Tbl α) (k : Nat) {v : α} (w : α) (hv : v ≠ d) :
    Tbl.put d (Tbl.put d t k v) k w = Tbl.put d t k w := by
  have key : ∀ t : Tbl α, (Tbl.enter t k v).filter (fun e => e.1 != k) = t.filter (fun e => e.1 != k) := by
    intro t
    induction t with
    | nil => simp [Tbl.enter]
    | cons e t ih =>
      obtain ⟨j, x⟩ := e
      simp only [Tbl.enter]
      split
      · simp
      · split
        · rename_i he; subst he; simp
        · simp [List.filter_cons, ih]
  have key2 : ∀ t : Tbl α, Tbl.enter (Tbl.enter t k v) k w = Tbl.enter t k w := by
    intro t
    induction t with
    | nil => simp [Tbl.enter]
    | cons e t ih =>
      obtain ⟨j, x⟩ := e
      by_cases h1 : k < j
      · simp [Tbl.enter, h1]
      · by_cases h2 : k = j
        · subst h2; simp [Tbl.enter]
        · simp [Tbl.enter, h1, h2, ih]
  unfold Tbl.put
  simp only [hv, if_false]
  split
  · exact key t
  · exact key2 t

/-- A list written from a key on reads back value by value; every other key reads as before. -/
theorem Tbl.get_putAll (t : Tbl α) (b : Nat) (vs : List α) (i : Nat) :
    Tbl.get d (Tbl.putAll d t b vs) i = if b ≤ i ∧ i < b + vs.length then vs.getD (i - b) d else Tbl.get d t i := by
  induction vs generalizing t b with
  | nil => simp [Tbl.putAll] <;> omega
  | cons v vs ih =>
    rw [Tbl.putAll, ih, Tbl.get_put]
    simp only [List.length_cons]
    by_cases h : i = b
    · subst h
      simp <;> omega
    · by_cases h1 : b + 1 ≤ i ∧ i < b + 1 + vs.length
      · rw [if_pos h1, if_pos (by omega)]
        have : i - b = i - (b + 1) + 1 := by omega
        rw [this, List.getD_cons_succ]
      · rw [if_neg h1, if_neg h, if_neg (by omega)]

end Sys2Proof.Machine
end

