-- ==== Sys2Proof/Laws/State.lean ====
section
/-! SUPPORT. What each named update of the state leaves in each of its fields, by computation, and what the named reads give
after the named writes. -/

namespace Sys2Proof.Machine

/-! advance -/

@[simp] theorem advance_pending (t : Nat) (s : State) : (advance t s).pending = s.pending := rfl
@[simp] theorem advance_free (t : Nat) (s : State) : (advance t s).free = s.free := rfl
@[simp] theorem advance_result (t : Nat) (s : State) : (advance t s).result = s.result := rfl
@[simp] theorem advance_now (t : Nat) (s : State) : (advance t s).now = max s.now t := rfl
@[simp] theorem advance_grid (t : Nat) (s : State) : (advance t s).grid = s.grid := rfl
@[simp] theorem advance_ctxs (t : Nat) (s : State) : (advance t s).ctxs = s.ctxs := rfl
@[simp] theorem advance_held (t : Nat) (s : State) : (advance t s).held = s.held := rfl
@[simp] theorem advance_starter (t : Nat) (s : State) : (advance t s).starter = s.starter := rfl
@[simp] theorem advance_adm (t : Nat) (s : State) : (advance t s).adm = s.adm := rfl
@[simp] theorem advance_relay (t : Nat) (s : State) : (advance t s).relay = s.relay := rfl
@[simp] theorem advance_man (t : Nat) (s : State) : (advance t s).man = s.man := rfl
@[simp] theorem advance_cores (t : Nat) (s : State) : (advance t s).cores = s.cores := rfl
@[simp] theorem advance_csm (t : Nat) (s : State) : (advance t s).csm = s.csm := rfl
@[simp] theorem advance_csmUpset (t : Nat) (s : State) : (advance t s).csmUpset = s.csmUpset := rfl
@[simp] theorem advance_dram (t : Nat) (s : State) : (advance t s).dram = s.dram := rfl
@[simp] theorem advance_evc (t : Nat) (s : State) : (advance t s).evc = s.evc := rfl
@[simp] theorem advance_log (t : Nat) (s : State) : (advance t s).log = s.log := rfl
@[simp] theorem advance_clus (t : Nat) (s : State) : (advance t s).clus = s.clus := rfl
@[simp] theorem advance_dict (t : Nat) (s : State) : (advance t s).dict = s.dict := rfl
@[simp] theorem advance_modes (t : Nat) (s : State) : (advance t s).modes = s.modes := rfl
@[simp] theorem advance_supply (t : Nat) (s : State) : (advance t s).supply = s.supply := rfl
@[simp] theorem advance_avail (t : Nat) (s : State) : (advance t s).avail = s.avail := rfl
@[simp] theorem advance_test (t : Nat) (s : State) : (advance t s).test = s.test := rfl
@[simp] theorem advance_store (t : Nat) (s : State) : (advance t s).store = s.store := rfl
@[simp] theorem advance_dramUpset (t : Nat) (s : State) : (advance t s).dramUpset = s.dramUpset := rfl
@[simp] theorem advance_drv (t : Nat) (s : State) : (advance t s).drv = s.drv := rfl
@[simp] theorem advance_cram (t : Nat) (s : State) : (advance t s).cram = s.cram := rfl
@[simp] theorem advance_cramUpset (t : Nat) (s : State) : (advance t s).cramUpset = s.cramUpset := rfl
@[simp] theorem advance_apps (t : Nat) (s : State) : (advance t s).apps = s.apps := rfl
@[simp] theorem advance_net (t : Nat) (s : State) : (advance t s).net = s.net := rfl
@[simp] theorem advance_audio (t : Nat) (s : State) : (advance t s).audio = s.audio := rfl
@[simp] theorem advance_overruns (t : Nat) (s : State) : (advance t s).overruns = s.overruns := rfl
@[simp] theorem advance_overLaps (t : Nat) (s : State) : (advance t s).overLaps = s.overLaps := rfl
@[simp] theorem advance_microFaults (t : Nat) (s : State) : (advance t s).microFaults = s.microFaults := rfl
@[simp] theorem advance_corrMicro (t : Nat) (s : State) : (advance t s).corrMicro = s.corrMicro := rfl
@[simp] theorem advance_sent (t : Nat) (s : State) : (advance t s).sent = s.sent := rfl

/-! setCore -/

@[simp] theorem setCore_pending (s : State) (k : Nat) (c : SigCore) : (setCore s k c).pending = s.pending := rfl
@[simp] theorem setCore_free (s : State) (k : Nat) (c : SigCore) : (setCore s k c).free = s.free := rfl
@[simp] theorem setCore_result (s : State) (k : Nat) (c : SigCore) : (setCore s k c).result = s.result := rfl
@[simp] theorem setCore_now (s : State) (k : Nat) (c : SigCore) : (setCore s k c).now = s.now := rfl
@[simp] theorem setCore_grid (s : State) (k : Nat) (c : SigCore) : (setCore s k c).grid = s.grid := rfl
@[simp] theorem setCore_ctxs (s : State) (k : Nat) (c : SigCore) : (setCore s k c).ctxs = s.ctxs := rfl
@[simp] theorem setCore_held (s : State) (k : Nat) (c : SigCore) : (setCore s k c).held = s.held := rfl
@[simp] theorem setCore_starter (s : State) (k : Nat) (c : SigCore) : (setCore s k c).starter = s.starter := rfl
@[simp] theorem setCore_adm (s : State) (k : Nat) (c : SigCore) : (setCore s k c).adm = s.adm := rfl
@[simp] theorem setCore_relay (s : State) (k : Nat) (c : SigCore) : (setCore s k c).relay = s.relay := rfl
@[simp] theorem setCore_man (s : State) (k : Nat) (c : SigCore) : (setCore s k c).man = s.man := rfl
@[simp] theorem setCore_cores (s : State) (k : Nat) (c : SigCore) : (setCore s k c).cores = Tbl.put {} s.cores k c := rfl
@[simp] theorem setCore_csm (s : State) (k : Nat) (c : SigCore) : (setCore s k c).csm = s.csm := rfl
@[simp] theorem setCore_csmUpset (s : State) (k : Nat) (c : SigCore) : (setCore s k c).csmUpset = s.csmUpset := rfl
@[simp] theorem setCore_dram (s : State) (k : Nat) (c : SigCore) : (setCore s k c).dram = s.dram := rfl
@[simp] theorem setCore_evc (s : State) (k : Nat) (c : SigCore) : (setCore s k c).evc = s.evc := rfl
@[simp] theorem setCore_log (s : State) (k : Nat) (c : SigCore) : (setCore s k c).log = s.log := rfl
@[simp] theorem setCore_clus (s : State) (k : Nat) (c : SigCore) : (setCore s k c).clus = s.clus := rfl
@[simp] theorem setCore_dict (s : State) (k : Nat) (c : SigCore) : (setCore s k c).dict = s.dict := rfl
@[simp] theorem setCore_modes (s : State) (k : Nat) (c : SigCore) : (setCore s k c).modes = s.modes := rfl
@[simp] theorem setCore_supply (s : State) (k : Nat) (c : SigCore) : (setCore s k c).supply = s.supply := rfl
@[simp] theorem setCore_avail (s : State) (k : Nat) (c : SigCore) : (setCore s k c).avail = s.avail := rfl
@[simp] theorem setCore_test (s : State) (k : Nat) (c : SigCore) : (setCore s k c).test = s.test := rfl
@[simp] theorem setCore_store (s : State) (k : Nat) (c : SigCore) : (setCore s k c).store = s.store := rfl
@[simp] theorem setCore_dramUpset (s : State) (k : Nat) (c : SigCore) : (setCore s k c).dramUpset = s.dramUpset := rfl
@[simp] theorem setCore_drv (s : State) (k : Nat) (c : SigCore) : (setCore s k c).drv = s.drv := rfl
@[simp] theorem setCore_cram (s : State) (k : Nat) (c : SigCore) : (setCore s k c).cram = s.cram := rfl
@[simp] theorem setCore_cramUpset (s : State) (k : Nat) (c : SigCore) : (setCore s k c).cramUpset = s.cramUpset := rfl
@[simp] theorem setCore_apps (s : State) (k : Nat) (c : SigCore) : (setCore s k c).apps = s.apps := rfl
@[simp] theorem setCore_net (s : State) (k : Nat) (c : SigCore) : (setCore s k c).net = s.net := rfl
@[simp] theorem setCore_audio (s : State) (k : Nat) (c : SigCore) : (setCore s k c).audio = s.audio := rfl
@[simp] theorem setCore_overruns (s : State) (k : Nat) (c : SigCore) : (setCore s k c).overruns = s.overruns := rfl
@[simp] theorem setCore_overLaps (s : State) (k : Nat) (c : SigCore) : (setCore s k c).overLaps = s.overLaps := rfl
@[simp] theorem setCore_microFaults (s : State) (k : Nat) (c : SigCore) : (setCore s k c).microFaults = s.microFaults := rfl
@[simp] theorem setCore_corrMicro (s : State) (k : Nat) (c : SigCore) : (setCore s k c).corrMicro = s.corrMicro := rfl
@[simp] theorem setCore_sent (s : State) (k : Nat) (c : SigCore) : (setCore s k c).sent = s.sent := rfl

/-! setCtx -/

@[simp] theorem setCtx_pending (s : State) (n : Nat) (c : Ctx) : (setCtx s n c).pending = s.pending := rfl
@[simp] theorem setCtx_free (s : State) (n : Nat) (c : Ctx) : (setCtx s n c).free = s.free := rfl
@[simp] theorem setCtx_result (s : State) (n : Nat) (c : Ctx) : (setCtx s n c).result = s.result := rfl
@[simp] theorem setCtx_now (s : State) (n : Nat) (c : Ctx) : (setCtx s n c).now = s.now := rfl
@[simp] theorem setCtx_grid (s : State) (n : Nat) (c : Ctx) : (setCtx s n c).grid = s.grid := rfl
@[simp] theorem setCtx_ctxs (s : State) (n : Nat) (c : Ctx) : (setCtx s n c).ctxs = Tbl.put {} s.ctxs n c := rfl
@[simp] theorem setCtx_held (s : State) (n : Nat) (c : Ctx) : (setCtx s n c).held = s.held := rfl
@[simp] theorem setCtx_starter (s : State) (n : Nat) (c : Ctx) : (setCtx s n c).starter = s.starter := rfl
@[simp] theorem setCtx_adm (s : State) (n : Nat) (c : Ctx) : (setCtx s n c).adm = s.adm := rfl
@[simp] theorem setCtx_relay (s : State) (n : Nat) (c : Ctx) : (setCtx s n c).relay = s.relay := rfl
@[simp] theorem setCtx_man (s : State) (n : Nat) (c : Ctx) : (setCtx s n c).man = s.man := rfl
@[simp] theorem setCtx_cores (s : State) (n : Nat) (c : Ctx) : (setCtx s n c).cores = s.cores := rfl
@[simp] theorem setCtx_csm (s : State) (n : Nat) (c : Ctx) : (setCtx s n c).csm = s.csm := rfl
@[simp] theorem setCtx_csmUpset (s : State) (n : Nat) (c : Ctx) : (setCtx s n c).csmUpset = s.csmUpset := rfl
@[simp] theorem setCtx_dram (s : State) (n : Nat) (c : Ctx) : (setCtx s n c).dram = s.dram := rfl
@[simp] theorem setCtx_evc (s : State) (n : Nat) (c : Ctx) : (setCtx s n c).evc = s.evc := rfl
@[simp] theorem setCtx_log (s : State) (n : Nat) (c : Ctx) : (setCtx s n c).log = s.log := rfl
@[simp] theorem setCtx_clus (s : State) (n : Nat) (c : Ctx) : (setCtx s n c).clus = s.clus := rfl
@[simp] theorem setCtx_dict (s : State) (n : Nat) (c : Ctx) : (setCtx s n c).dict = s.dict := rfl
@[simp] theorem setCtx_modes (s : State) (n : Nat) (c : Ctx) : (setCtx s n c).modes = s.modes := rfl
@[simp] theorem setCtx_supply (s : State) (n : Nat) (c : Ctx) : (setCtx s n c).supply = s.supply := rfl
@[simp] theorem setCtx_avail (s : State) (n : Nat) (c : Ctx) : (setCtx s n c).avail = s.avail := rfl
@[simp] theorem setCtx_test (s : State) (n : Nat) (c : Ctx) : (setCtx s n c).test = s.test := rfl
@[simp] theorem setCtx_store (s : State) (n : Nat) (c : Ctx) : (setCtx s n c).store = s.store := rfl
@[simp] theorem setCtx_dramUpset (s : State) (n : Nat) (c : Ctx) : (setCtx s n c).dramUpset = s.dramUpset := rfl
@[simp] theorem setCtx_drv (s : State) (n : Nat) (c : Ctx) : (setCtx s n c).drv = s.drv := rfl
@[simp] theorem setCtx_cram (s : State) (n : Nat) (c : Ctx) : (setCtx s n c).cram = s.cram := rfl
@[simp] theorem setCtx_cramUpset (s : State) (n : Nat) (c : Ctx) : (setCtx s n c).cramUpset = s.cramUpset := rfl
@[simp] theorem setCtx_apps (s : State) (n : Nat) (c : Ctx) : (setCtx s n c).apps = s.apps := rfl
@[simp] theorem setCtx_net (s : State) (n : Nat) (c : Ctx) : (setCtx s n c).net = s.net := rfl
@[simp] theorem setCtx_audio (s : State) (n : Nat) (c : Ctx) : (setCtx s n c).audio = s.audio := rfl
@[simp] theorem setCtx_overruns (s : State) (n : Nat) (c : Ctx) : (setCtx s n c).overruns = s.overruns := rfl
@[simp] theorem setCtx_overLaps (s : State) (n : Nat) (c : Ctx) : (setCtx s n c).overLaps = s.overLaps := rfl
@[simp] theorem setCtx_microFaults (s : State) (n : Nat) (c : Ctx) : (setCtx s n c).microFaults = s.microFaults := rfl
@[simp] theorem setCtx_corrMicro (s : State) (n : Nat) (c : Ctx) : (setCtx s n c).corrMicro = s.corrMicro := rfl
@[simp] theorem setCtx_sent (s : State) (n : Nat) (c : Ctx) : (setCtx s n c).sent = s.sent := rfl

/-! setCluster -/

@[simp] theorem setCluster_pending (s : State) (c : Nat) (x : ClusterSt) : (setCluster s c x).pending = s.pending := rfl
@[simp] theorem setCluster_free (s : State) (c : Nat) (x : ClusterSt) : (setCluster s c x).free = s.free := rfl
@[simp] theorem setCluster_result (s : State) (c : Nat) (x : ClusterSt) : (setCluster s c x).result = s.result := rfl
@[simp] theorem setCluster_now (s : State) (c : Nat) (x : ClusterSt) : (setCluster s c x).now = s.now := rfl
@[simp] theorem setCluster_grid (s : State) (c : Nat) (x : ClusterSt) : (setCluster s c x).grid = s.grid := rfl
@[simp] theorem setCluster_ctxs (s : State) (c : Nat) (x : ClusterSt) : (setCluster s c x).ctxs = s.ctxs := rfl
@[simp] theorem setCluster_held (s : State) (c : Nat) (x : ClusterSt) : (setCluster s c x).held = s.held := rfl
@[simp] theorem setCluster_starter (s : State) (c : Nat) (x : ClusterSt) : (setCluster s c x).starter = s.starter := rfl
@[simp] theorem setCluster_adm (s : State) (c : Nat) (x : ClusterSt) : (setCluster s c x).adm = s.adm := rfl
@[simp] theorem setCluster_relay (s : State) (c : Nat) (x : ClusterSt) : (setCluster s c x).relay = s.relay := rfl
@[simp] theorem setCluster_man (s : State) (c : Nat) (x : ClusterSt) : (setCluster s c x).man = s.man := rfl
@[simp] theorem setCluster_cores (s : State) (c : Nat) (x : ClusterSt) : (setCluster s c x).cores = s.cores := rfl
@[simp] theorem setCluster_csm (s : State) (c : Nat) (x : ClusterSt) : (setCluster s c x).csm = s.csm := rfl
@[simp] theorem setCluster_csmUpset (s : State) (c : Nat) (x : ClusterSt) : (setCluster s c x).csmUpset = s.csmUpset := rfl
@[simp] theorem setCluster_dram (s : State) (c : Nat) (x : ClusterSt) : (setCluster s c x).dram = s.dram := rfl
@[simp] theorem setCluster_evc (s : State) (c : Nat) (x : ClusterSt) : (setCluster s c x).evc = s.evc := rfl
@[simp] theorem setCluster_log (s : State) (c : Nat) (x : ClusterSt) : (setCluster s c x).log = s.log := rfl
@[simp] theorem setCluster_clus (s : State) (c : Nat) (x : ClusterSt) : (setCluster s c x).clus = Tbl.put {} s.clus c x := rfl
@[simp] theorem setCluster_dict (s : State) (c : Nat) (x : ClusterSt) : (setCluster s c x).dict = s.dict := rfl
@[simp] theorem setCluster_modes (s : State) (c : Nat) (x : ClusterSt) : (setCluster s c x).modes = s.modes := rfl
@[simp] theorem setCluster_supply (s : State) (c : Nat) (x : ClusterSt) : (setCluster s c x).supply = s.supply := rfl
@[simp] theorem setCluster_avail (s : State) (c : Nat) (x : ClusterSt) : (setCluster s c x).avail = s.avail := rfl
@[simp] theorem setCluster_test (s : State) (c : Nat) (x : ClusterSt) : (setCluster s c x).test = s.test := rfl
@[simp] theorem setCluster_store (s : State) (c : Nat) (x : ClusterSt) : (setCluster s c x).store = s.store := rfl
@[simp] theorem setCluster_dramUpset (s : State) (c : Nat) (x : ClusterSt) : (setCluster s c x).dramUpset = s.dramUpset := rfl
@[simp] theorem setCluster_drv (s : State) (c : Nat) (x : ClusterSt) : (setCluster s c x).drv = s.drv := rfl
@[simp] theorem setCluster_cram (s : State) (c : Nat) (x : ClusterSt) : (setCluster s c x).cram = s.cram := rfl
@[simp] theorem setCluster_cramUpset (s : State) (c : Nat) (x : ClusterSt) : (setCluster s c x).cramUpset = s.cramUpset := rfl
@[simp] theorem setCluster_apps (s : State) (c : Nat) (x : ClusterSt) : (setCluster s c x).apps = s.apps := rfl
@[simp] theorem setCluster_net (s : State) (c : Nat) (x : ClusterSt) : (setCluster s c x).net = s.net := rfl
@[simp] theorem setCluster_audio (s : State) (c : Nat) (x : ClusterSt) : (setCluster s c x).audio = s.audio := rfl
@[simp] theorem setCluster_overruns (s : State) (c : Nat) (x : ClusterSt) : (setCluster s c x).overruns = s.overruns := rfl
@[simp] theorem setCluster_overLaps (s : State) (c : Nat) (x : ClusterSt) : (setCluster s c x).overLaps = s.overLaps := rfl
@[simp] theorem setCluster_microFaults (s : State) (c : Nat) (x : ClusterSt) : (setCluster s c x).microFaults = s.microFaults := rfl
@[simp] theorem setCluster_corrMicro (s : State) (c : Nat) (x : ClusterSt) : (setCluster s c x).corrMicro = s.corrMicro := rfl
@[simp] theorem setCluster_sent (s : State) (c : Nat) (x : ClusterSt) : (setCluster s c x).sent = s.sent := rfl

/-! fire -/

@[simp] theorem fire_pending (n : Nat) (s : State) : (fire n s).pending = s.pending := rfl
@[simp] theorem fire_free (n : Nat) (s : State) : (fire n s).free = s.free := rfl
@[simp] theorem fire_result (n : Nat) (s : State) : (fire n s).result = s.result := rfl
@[simp] theorem fire_now (n : Nat) (s : State) : (fire n s).now = s.now := rfl
@[simp] theorem fire_grid (n : Nat) (s : State) : (fire n s).grid = s.grid := rfl
@[simp] theorem fire_ctxs (n : Nat) (s : State) : (fire n s).ctxs = s.ctxs := rfl
@[simp] theorem fire_held (n : Nat) (s : State) : (fire n s).held = s.held := rfl
@[simp] theorem fire_starter (n : Nat) (s : State) : (fire n s).starter = s.starter := rfl
@[simp] theorem fire_adm (n : Nat) (s : State) : (fire n s).adm = s.adm := rfl
@[simp] theorem fire_relay (n : Nat) (s : State) : (fire n s).relay = s.relay := rfl
@[simp] theorem fire_man (n : Nat) (s : State) : (fire n s).man = s.man := rfl
@[simp] theorem fire_cores (n : Nat) (s : State) : (fire n s).cores = s.cores := rfl
@[simp] theorem fire_csm (n : Nat) (s : State) : (fire n s).csm = s.csm := rfl
@[simp] theorem fire_csmUpset (n : Nat) (s : State) : (fire n s).csmUpset = s.csmUpset := rfl
@[simp] theorem fire_dram (n : Nat) (s : State) : (fire n s).dram = s.dram := rfl
@[simp] theorem fire_evc (n : Nat) (s : State) : (fire n s).evc = evcPulse n s.evc := rfl
@[simp] theorem fire_log (n : Nat) (s : State) : (fire n s).log = s.log := rfl
@[simp] theorem fire_clus (n : Nat) (s : State) : (fire n s).clus = s.clus := rfl
@[simp] theorem fire_dict (n : Nat) (s : State) : (fire n s).dict = s.dict := rfl
@[simp] theorem fire_modes (n : Nat) (s : State) : (fire n s).modes = s.modes := rfl
@[simp] theorem fire_supply (n : Nat) (s : State) : (fire n s).supply = s.supply := rfl
@[simp] theorem fire_avail (n : Nat) (s : State) : (fire n s).avail = s.avail := rfl
@[simp] theorem fire_test (n : Nat) (s : State) : (fire n s).test = s.test := rfl
@[simp] theorem fire_store (n : Nat) (s : State) : (fire n s).store = s.store := rfl
@[simp] theorem fire_dramUpset (n : Nat) (s : State) : (fire n s).dramUpset = s.dramUpset := rfl
@[simp] theorem fire_drv (n : Nat) (s : State) : (fire n s).drv = s.drv := rfl
@[simp] theorem fire_cram (n : Nat) (s : State) : (fire n s).cram = s.cram := rfl
@[simp] theorem fire_cramUpset (n : Nat) (s : State) : (fire n s).cramUpset = s.cramUpset := rfl
@[simp] theorem fire_apps (n : Nat) (s : State) : (fire n s).apps = s.apps := rfl
@[simp] theorem fire_net (n : Nat) (s : State) : (fire n s).net = s.net := rfl
@[simp] theorem fire_audio (n : Nat) (s : State) : (fire n s).audio = s.audio := rfl
@[simp] theorem fire_overruns (n : Nat) (s : State) : (fire n s).overruns = s.overruns := rfl
@[simp] theorem fire_overLaps (n : Nat) (s : State) : (fire n s).overLaps = s.overLaps := rfl
@[simp] theorem fire_microFaults (n : Nat) (s : State) : (fire n s).microFaults = s.microFaults := rfl
@[simp] theorem fire_corrMicro (n : Nat) (s : State) : (fire n s).corrMicro = s.corrMicro := rfl
@[simp] theorem fire_sent (n : Nat) (s : State) : (fire n s).sent = s.sent := rfl

/-! level -/

@[simp] theorem level_pending (n : Nat) (high : Bool) (s : State) : (level n high s).pending = s.pending := rfl
@[simp] theorem level_free (n : Nat) (high : Bool) (s : State) : (level n high s).free = s.free := rfl
@[simp] theorem level_result (n : Nat) (high : Bool) (s : State) : (level n high s).result = s.result := rfl
@[simp] theorem level_now (n : Nat) (high : Bool) (s : State) : (level n high s).now = s.now := rfl
@[simp] theorem level_grid (n : Nat) (high : Bool) (s : State) : (level n high s).grid = s.grid := rfl
@[simp] theorem level_ctxs (n : Nat) (high : Bool) (s : State) : (level n high s).ctxs = s.ctxs := rfl
@[simp] theorem level_held (n : Nat) (high : Bool) (s : State) : (level n high s).held = s.held := rfl
@[simp] theorem level_starter (n : Nat) (high : Bool) (s : State) : (level n high s).starter = s.starter := rfl
@[simp] theorem level_adm (n : Nat) (high : Bool) (s : State) : (level n high s).adm = s.adm := rfl
@[simp] theorem level_relay (n : Nat) (high : Bool) (s : State) : (level n high s).relay = s.relay := rfl
@[simp] theorem level_man (n : Nat) (high : Bool) (s : State) : (level n high s).man = s.man := rfl
@[simp] theorem level_cores (n : Nat) (high : Bool) (s : State) : (level n high s).cores = s.cores := rfl
@[simp] theorem level_csm (n : Nat) (high : Bool) (s : State) : (level n high s).csm = s.csm := rfl
@[simp] theorem level_csmUpset (n : Nat) (high : Bool) (s : State) : (level n high s).csmUpset = s.csmUpset := rfl
@[simp] theorem level_dram (n : Nat) (high : Bool) (s : State) : (level n high s).dram = s.dram := rfl
@[simp] theorem level_evc (n : Nat) (high : Bool) (s : State) : (level n high s).evc = evcLevel n high s.evc := rfl
@[simp] theorem level_log (n : Nat) (high : Bool) (s : State) : (level n high s).log = s.log := rfl
@[simp] theorem level_clus (n : Nat) (high : Bool) (s : State) : (level n high s).clus = s.clus := rfl
@[simp] theorem level_dict (n : Nat) (high : Bool) (s : State) : (level n high s).dict = s.dict := rfl
@[simp] theorem level_modes (n : Nat) (high : Bool) (s : State) : (level n high s).modes = s.modes := rfl
@[simp] theorem level_supply (n : Nat) (high : Bool) (s : State) : (level n high s).supply = s.supply := rfl
@[simp] theorem level_avail (n : Nat) (high : Bool) (s : State) : (level n high s).avail = s.avail := rfl
@[simp] theorem level_test (n : Nat) (high : Bool) (s : State) : (level n high s).test = s.test := rfl
@[simp] theorem level_store (n : Nat) (high : Bool) (s : State) : (level n high s).store = s.store := rfl
@[simp] theorem level_dramUpset (n : Nat) (high : Bool) (s : State) : (level n high s).dramUpset = s.dramUpset := rfl
@[simp] theorem level_drv (n : Nat) (high : Bool) (s : State) : (level n high s).drv = s.drv := rfl
@[simp] theorem level_cram (n : Nat) (high : Bool) (s : State) : (level n high s).cram = s.cram := rfl
@[simp] theorem level_cramUpset (n : Nat) (high : Bool) (s : State) : (level n high s).cramUpset = s.cramUpset := rfl
@[simp] theorem level_apps (n : Nat) (high : Bool) (s : State) : (level n high s).apps = s.apps := rfl
@[simp] theorem level_net (n : Nat) (high : Bool) (s : State) : (level n high s).net = s.net := rfl
@[simp] theorem level_audio (n : Nat) (high : Bool) (s : State) : (level n high s).audio = s.audio := rfl
@[simp] theorem level_overruns (n : Nat) (high : Bool) (s : State) : (level n high s).overruns = s.overruns := rfl
@[simp] theorem level_overLaps (n : Nat) (high : Bool) (s : State) : (level n high s).overLaps = s.overLaps := rfl
@[simp] theorem level_microFaults (n : Nat) (high : Bool) (s : State) : (level n high s).microFaults = s.microFaults := rfl
@[simp] theorem level_corrMicro (n : Nat) (high : Bool) (s : State) : (level n high s).corrMicro = s.corrMicro := rfl
@[simp] theorem level_sent (n : Nat) (high : Bool) (s : State) : (level n high s).sent = s.sent := rfl

/-! unlinkNote -/

@[simp] theorem unlinkNote_pending (n : Nat) (s : State) : (unlinkNote n s).pending = s.pending := rfl
@[simp] theorem unlinkNote_free (n : Nat) (s : State) : (unlinkNote n s).free = s.free := rfl
@[simp] theorem unlinkNote_result (n : Nat) (s : State) : (unlinkNote n s).result = s.result := rfl
@[simp] theorem unlinkNote_now (n : Nat) (s : State) : (unlinkNote n s).now = s.now := rfl
@[simp] theorem unlinkNote_grid (n : Nat) (s : State) : (unlinkNote n s).grid = s.grid := rfl
@[simp] theorem unlinkNote_ctxs (n : Nat) (s : State) : (unlinkNote n s).ctxs = s.ctxs := rfl
@[simp] theorem unlinkNote_held (n : Nat) (s : State) : (unlinkNote n s).held = s.held := rfl
@[simp] theorem unlinkNote_starter (n : Nat) (s : State) : (unlinkNote n s).starter = { s.starter with notes := s.starter.notes.filter (fun l => l.ctx != n) } := rfl
@[simp] theorem unlinkNote_adm (n : Nat) (s : State) : (unlinkNote n s).adm = s.adm := rfl
@[simp] theorem unlinkNote_relay (n : Nat) (s : State) : (unlinkNote n s).relay = s.relay := rfl
@[simp] theorem unlinkNote_man (n : Nat) (s : State) : (unlinkNote n s).man = s.man := rfl
@[simp] theorem unlinkNote_cores (n : Nat) (s : State) : (unlinkNote n s).cores = s.cores := rfl
@[simp] theorem unlinkNote_csm (n : Nat) (s : State) : (unlinkNote n s).csm = s.csm := rfl
@[simp] theorem unlinkNote_csmUpset (n : Nat) (s : State) : (unlinkNote n s).csmUpset = s.csmUpset := rfl
@[simp] theorem unlinkNote_dram (n : Nat) (s : State) : (unlinkNote n s).dram = s.dram := rfl
@[simp] theorem unlinkNote_evc (n : Nat) (s : State) : (unlinkNote n s).evc = s.evc := rfl
@[simp] theorem unlinkNote_log (n : Nat) (s : State) : (unlinkNote n s).log = s.log := rfl
@[simp] theorem unlinkNote_clus (n : Nat) (s : State) : (unlinkNote n s).clus = s.clus := rfl
@[simp] theorem unlinkNote_dict (n : Nat) (s : State) : (unlinkNote n s).dict = s.dict := rfl
@[simp] theorem unlinkNote_modes (n : Nat) (s : State) : (unlinkNote n s).modes = s.modes := rfl
@[simp] theorem unlinkNote_supply (n : Nat) (s : State) : (unlinkNote n s).supply = s.supply := rfl
@[simp] theorem unlinkNote_avail (n : Nat) (s : State) : (unlinkNote n s).avail = s.avail := rfl
@[simp] theorem unlinkNote_test (n : Nat) (s : State) : (unlinkNote n s).test = s.test := rfl
@[simp] theorem unlinkNote_store (n : Nat) (s : State) : (unlinkNote n s).store = s.store := rfl
@[simp] theorem unlinkNote_dramUpset (n : Nat) (s : State) : (unlinkNote n s).dramUpset = s.dramUpset := rfl
@[simp] theorem unlinkNote_drv (n : Nat) (s : State) : (unlinkNote n s).drv = s.drv := rfl
@[simp] theorem unlinkNote_cram (n : Nat) (s : State) : (unlinkNote n s).cram = s.cram := rfl
@[simp] theorem unlinkNote_cramUpset (n : Nat) (s : State) : (unlinkNote n s).cramUpset = s.cramUpset := rfl
@[simp] theorem unlinkNote_apps (n : Nat) (s : State) : (unlinkNote n s).apps = s.apps := rfl
@[simp] theorem unlinkNote_net (n : Nat) (s : State) : (unlinkNote n s).net = s.net := rfl
@[simp] theorem unlinkNote_audio (n : Nat) (s : State) : (unlinkNote n s).audio = s.audio := rfl
@[simp] theorem unlinkNote_overruns (n : Nat) (s : State) : (unlinkNote n s).overruns = s.overruns := rfl
@[simp] theorem unlinkNote_overLaps (n : Nat) (s : State) : (unlinkNote n s).overLaps = s.overLaps := rfl
@[simp] theorem unlinkNote_microFaults (n : Nat) (s : State) : (unlinkNote n s).microFaults = s.microFaults := rfl
@[simp] theorem unlinkNote_corrMicro (n : Nat) (s : State) : (unlinkNote n s).corrMicro = s.corrMicro := rfl
@[simp] theorem unlinkNote_sent (n : Nat) (s : State) : (unlinkNote n s).sent = s.sent := rfl

/-! dropHeld -/

@[simp] theorem dropHeld_pending (n : Nat) (s : State) : (dropHeld n s).pending = s.pending := rfl
@[simp] theorem dropHeld_free (n : Nat) (s : State) : (dropHeld n s).free = s.free := rfl
@[simp] theorem dropHeld_result (n : Nat) (s : State) : (dropHeld n s).result = s.result := rfl
@[simp] theorem dropHeld_now (n : Nat) (s : State) : (dropHeld n s).now = s.now := rfl
@[simp] theorem dropHeld_grid (n : Nat) (s : State) : (dropHeld n s).grid = s.grid := rfl
@[simp] theorem dropHeld_ctxs (n : Nat) (s : State) : (dropHeld n s).ctxs = s.ctxs := rfl
@[simp] theorem dropHeld_held (n : Nat) (s : State) : (dropHeld n s).held = s.held.filter (fun h => h.ctx != n) := rfl
@[simp] theorem dropHeld_starter (n : Nat) (s : State) : (dropHeld n s).starter = s.starter := rfl
@[simp] theorem dropHeld_adm (n : Nat) (s : State) : (dropHeld n s).adm = s.adm := rfl
@[simp] theorem dropHeld_relay (n : Nat) (s : State) : (dropHeld n s).relay = s.relay := rfl
@[simp] theorem dropHeld_man (n : Nat) (s : State) : (dropHeld n s).man = s.man := rfl
@[simp] theorem dropHeld_cores (n : Nat) (s : State) : (dropHeld n s).cores = s.cores := rfl
@[simp] theorem dropHeld_csm (n : Nat) (s : State) : (dropHeld n s).csm = s.csm := rfl
@[simp] theorem dropHeld_csmUpset (n : Nat) (s : State) : (dropHeld n s).csmUpset = s.csmUpset := rfl
@[simp] theorem dropHeld_dram (n : Nat) (s : State) : (dropHeld n s).dram = s.dram := rfl
@[simp] theorem dropHeld_evc (n : Nat) (s : State) : (dropHeld n s).evc = s.evc := rfl
@[simp] theorem dropHeld_log (n : Nat) (s : State) : (dropHeld n s).log = s.log := rfl
@[simp] theorem dropHeld_clus (n : Nat) (s : State) : (dropHeld n s).clus = s.clus := rfl
@[simp] theorem dropHeld_dict (n : Nat) (s : State) : (dropHeld n s).dict = s.dict := rfl
@[simp] theorem dropHeld_modes (n : Nat) (s : State) : (dropHeld n s).modes = s.modes := rfl
@[simp] theorem dropHeld_supply (n : Nat) (s : State) : (dropHeld n s).supply = s.supply := rfl
@[simp] theorem dropHeld_avail (n : Nat) (s : State) : (dropHeld n s).avail = s.avail := rfl
@[simp] theorem dropHeld_test (n : Nat) (s : State) : (dropHeld n s).test = s.test := rfl
@[simp] theorem dropHeld_store (n : Nat) (s : State) : (dropHeld n s).store = s.store := rfl
@[simp] theorem dropHeld_dramUpset (n : Nat) (s : State) : (dropHeld n s).dramUpset = s.dramUpset := rfl
@[simp] theorem dropHeld_drv (n : Nat) (s : State) : (dropHeld n s).drv = s.drv := rfl
@[simp] theorem dropHeld_cram (n : Nat) (s : State) : (dropHeld n s).cram = s.cram := rfl
@[simp] theorem dropHeld_cramUpset (n : Nat) (s : State) : (dropHeld n s).cramUpset = s.cramUpset := rfl
@[simp] theorem dropHeld_apps (n : Nat) (s : State) : (dropHeld n s).apps = s.apps := rfl
@[simp] theorem dropHeld_net (n : Nat) (s : State) : (dropHeld n s).net = s.net := rfl
@[simp] theorem dropHeld_audio (n : Nat) (s : State) : (dropHeld n s).audio = s.audio := rfl
@[simp] theorem dropHeld_overruns (n : Nat) (s : State) : (dropHeld n s).overruns = s.overruns := rfl
@[simp] theorem dropHeld_overLaps (n : Nat) (s : State) : (dropHeld n s).overLaps = s.overLaps := rfl
@[simp] theorem dropHeld_microFaults (n : Nat) (s : State) : (dropHeld n s).microFaults = s.microFaults := rfl
@[simp] theorem dropHeld_corrMicro (n : Nat) (s : State) : (dropHeld n s).corrMicro = s.corrMicro := rfl
@[simp] theorem dropHeld_sent (n : Nat) (s : State) : (dropHeld n s).sent = s.sent := rfl

/-! setObj -/

@[simp] theorem setObj_pending (s : State) (id : Nat) (o : SObj) : (setObj s id o).pending = s.pending := rfl
@[simp] theorem setObj_free (s : State) (id : Nat) (o : SObj) : (setObj s id o).free = s.free := rfl
@[simp] theorem setObj_result (s : State) (id : Nat) (o : SObj) : (setObj s id o).result = s.result := rfl
@[simp] theorem setObj_now (s : State) (id : Nat) (o : SObj) : (setObj s id o).now = s.now := rfl
@[simp] theorem setObj_grid (s : State) (id : Nat) (o : SObj) : (setObj s id o).grid = s.grid := rfl
@[simp] theorem setObj_ctxs (s : State) (id : Nat) (o : SObj) : (setObj s id o).ctxs = s.ctxs := rfl
@[simp] theorem setObj_held (s : State) (id : Nat) (o : SObj) : (setObj s id o).held = s.held := rfl
@[simp] theorem setObj_starter (s : State) (id : Nat) (o : SObj) : (setObj s id o).starter = s.starter := rfl
@[simp] theorem setObj_adm (s : State) (id : Nat) (o : SObj) : (setObj s id o).adm = s.adm := rfl
@[simp] theorem setObj_relay (s : State) (id : Nat) (o : SObj) : (setObj s id o).relay = s.relay := rfl
@[simp] theorem setObj_man (s : State) (id : Nat) (o : SObj) : (setObj s id o).man = s.man := rfl
@[simp] theorem setObj_cores (s : State) (id : Nat) (o : SObj) : (setObj s id o).cores = s.cores := rfl
@[simp] theorem setObj_csm (s : State) (id : Nat) (o : SObj) : (setObj s id o).csm = s.csm := rfl
@[simp] theorem setObj_csmUpset (s : State) (id : Nat) (o : SObj) : (setObj s id o).csmUpset = s.csmUpset := rfl
@[simp] theorem setObj_dram (s : State) (id : Nat) (o : SObj) : (setObj s id o).dram = s.dram := rfl
@[simp] theorem setObj_evc (s : State) (id : Nat) (o : SObj) : (setObj s id o).evc = s.evc := rfl
@[simp] theorem setObj_log (s : State) (id : Nat) (o : SObj) : (setObj s id o).log = s.log := rfl
@[simp] theorem setObj_clus (s : State) (id : Nat) (o : SObj) : (setObj s id o).clus = s.clus := rfl
@[simp] theorem setObj_dict (s : State) (id : Nat) (o : SObj) : (setObj s id o).dict = s.dict := rfl
@[simp] theorem setObj_modes (s : State) (id : Nat) (o : SObj) : (setObj s id o).modes = s.modes := rfl
@[simp] theorem setObj_supply (s : State) (id : Nat) (o : SObj) : (setObj s id o).supply = s.supply := rfl
@[simp] theorem setObj_avail (s : State) (id : Nat) (o : SObj) : (setObj s id o).avail = s.avail := rfl
@[simp] theorem setObj_test (s : State) (id : Nat) (o : SObj) : (setObj s id o).test = s.test := rfl
@[simp] theorem setObj_store (s : State) (id : Nat) (o : SObj) : (setObj s id o).store = { s.store with objects := Tbl.put {} s.store.objects id o } := rfl
@[simp] theorem setObj_dramUpset (s : State) (id : Nat) (o : SObj) : (setObj s id o).dramUpset = s.dramUpset := rfl
@[simp] theorem setObj_drv (s : State) (id : Nat) (o : SObj) : (setObj s id o).drv = s.drv := rfl
@[simp] theorem setObj_cram (s : State) (id : Nat) (o : SObj) : (setObj s id o).cram = s.cram := rfl
@[simp] theorem setObj_cramUpset (s : State) (id : Nat) (o : SObj) : (setObj s id o).cramUpset = s.cramUpset := rfl
@[simp] theorem setObj_apps (s : State) (id : Nat) (o : SObj) : (setObj s id o).apps = s.apps := rfl
@[simp] theorem setObj_net (s : State) (id : Nat) (o : SObj) : (setObj s id o).net = s.net := rfl
@[simp] theorem setObj_audio (s : State) (id : Nat) (o : SObj) : (setObj s id o).audio = s.audio := rfl
@[simp] theorem setObj_overruns (s : State) (id : Nat) (o : SObj) : (setObj s id o).overruns = s.overruns := rfl
@[simp] theorem setObj_overLaps (s : State) (id : Nat) (o : SObj) : (setObj s id o).overLaps = s.overLaps := rfl
@[simp] theorem setObj_microFaults (s : State) (id : Nat) (o : SObj) : (setObj s id o).microFaults = s.microFaults := rfl
@[simp] theorem setObj_corrMicro (s : State) (id : Nat) (o : SObj) : (setObj s id o).corrMicro = s.corrMicro := rfl
@[simp] theorem setObj_sent (s : State) (id : Nat) (o : SObj) : (setObj s id o).sent = s.sent := rfl

/-! setRing -/

@[simp] theorem setRing_pending (s : State) (r : Nat) (x : Ring) : (setRing s r x).pending = s.pending := rfl
@[simp] theorem setRing_free (s : State) (r : Nat) (x : Ring) : (setRing s r x).free = s.free := rfl
@[simp] theorem setRing_result (s : State) (r : Nat) (x : Ring) : (setRing s r x).result = s.result := rfl
@[simp] theorem setRing_now (s : State) (r : Nat) (x : Ring) : (setRing s r x).now = s.now := rfl
@[simp] theorem setRing_grid (s : State) (r : Nat) (x : Ring) : (setRing s r x).grid = s.grid := rfl
@[simp] theorem setRing_ctxs (s : State) (r : Nat) (x : Ring) : (setRing s r x).ctxs = s.ctxs := rfl
@[simp] theorem setRing_held (s : State) (r : Nat) (x : Ring) : (setRing s r x).held = s.held := rfl
@[simp] theorem setRing_starter (s : State) (r : Nat) (x : Ring) : (setRing s r x).starter = s.starter := rfl
@[simp] theorem setRing_adm (s : State) (r : Nat) (x : Ring) : (setRing s r x).adm = s.adm := rfl
@[simp] theorem setRing_relay (s : State) (r : Nat) (x : Ring) : (setRing s r x).relay = s.relay := rfl
@[simp] theorem setRing_man (s : State) (r : Nat) (x : Ring) : (setRing s r x).man = s.man := rfl
@[simp] theorem setRing_cores (s : State) (r : Nat) (x : Ring) : (setRing s r x).cores = s.cores := rfl
@[simp] theorem setRing_csm (s : State) (r : Nat) (x : Ring) : (setRing s r x).csm = s.csm := rfl
@[simp] theorem setRing_csmUpset (s : State) (r : Nat) (x : Ring) : (setRing s r x).csmUpset = s.csmUpset := rfl
@[simp] theorem setRing_dram (s : State) (r : Nat) (x : Ring) : (setRing s r x).dram = s.dram := rfl
@[simp] theorem setRing_evc (s : State) (r : Nat) (x : Ring) : (setRing s r x).evc = s.evc := rfl
@[simp] theorem setRing_log (s : State) (r : Nat) (x : Ring) : (setRing s r x).log = s.log := rfl
@[simp] theorem setRing_clus (s : State) (r : Nat) (x : Ring) : (setRing s r x).clus = s.clus := rfl
@[simp] theorem setRing_dict (s : State) (r : Nat) (x : Ring) : (setRing s r x).dict = s.dict := rfl
@[simp] theorem setRing_modes (s : State) (r : Nat) (x : Ring) : (setRing s r x).modes = s.modes := rfl
@[simp] theorem setRing_supply (s : State) (r : Nat) (x : Ring) : (setRing s r x).supply = s.supply := rfl
@[simp] theorem setRing_avail (s : State) (r : Nat) (x : Ring) : (setRing s r x).avail = s.avail := rfl
@[simp] theorem setRing_test (s : State) (r : Nat) (x : Ring) : (setRing s r x).test = s.test := rfl
@[simp] theorem setRing_store (s : State) (r : Nat) (x : Ring) : (setRing s r x).store = { s.store with rings := Tbl.put {} s.store.rings r x } := rfl
@[simp] theorem setRing_dramUpset (s : State) (r : Nat) (x : Ring) : (setRing s r x).dramUpset = s.dramUpset := rfl
@[simp] theorem setRing_drv (s : State) (r : Nat) (x : Ring) : (setRing s r x).drv = s.drv := rfl
@[simp] theorem setRing_cram (s : State) (r : Nat) (x : Ring) : (setRing s r x).cram = s.cram := rfl
@[simp] theorem setRing_cramUpset (s : State) (r : Nat) (x : Ring) : (setRing s r x).cramUpset = s.cramUpset := rfl
@[simp] theorem setRing_apps (s : State) (r : Nat) (x : Ring) : (setRing s r x).apps = s.apps := rfl
@[simp] theorem setRing_net (s : State) (r : Nat) (x : Ring) : (setRing s r x).net = s.net := rfl
@[simp] theorem setRing_audio (s : State) (r : Nat) (x : Ring) : (setRing s r x).audio = s.audio := rfl
@[simp] theorem setRing_overruns (s : State) (r : Nat) (x : Ring) : (setRing s r x).overruns = s.overruns := rfl
@[simp] theorem setRing_overLaps (s : State) (r : Nat) (x : Ring) : (setRing s r x).overLaps = s.overLaps := rfl
@[simp] theorem setRing_microFaults (s : State) (r : Nat) (x : Ring) : (setRing s r x).microFaults = s.microFaults := rfl
@[simp] theorem setRing_corrMicro (s : State) (r : Nat) (x : Ring) : (setRing s r x).corrMicro = s.corrMicro := rfl
@[simp] theorem setRing_sent (s : State) (r : Nat) (x : Ring) : (setRing s r x).sent = s.sent := rfl

/-! setApp -/

@[simp] theorem setApp_pending (s : State) (a : Nat) (x : App) : (setApp s a x).pending = s.pending := rfl
@[simp] theorem setApp_free (s : State) (a : Nat) (x : App) : (setApp s a x).free = s.free := rfl
@[simp] theorem setApp_result (s : State) (a : Nat) (x : App) : (setApp s a x).result = s.result := rfl
@[simp] theorem setApp_now (s : State) (a : Nat) (x : App) : (setApp s a x).now = s.now := rfl
@[simp] theorem setApp_grid (s : State) (a : Nat) (x : App) : (setApp s a x).grid = s.grid := rfl
@[simp] theorem setApp_ctxs (s : State) (a : Nat) (x : App) : (setApp s a x).ctxs = s.ctxs := rfl
@[simp] theorem setApp_held (s : State) (a : Nat) (x : App) : (setApp s a x).held = s.held := rfl
@[simp] theorem setApp_starter (s : State) (a : Nat) (x : App) : (setApp s a x).starter = s.starter := rfl
@[simp] theorem setApp_adm (s : State) (a : Nat) (x : App) : (setApp s a x).adm = s.adm := rfl
@[simp] theorem setApp_relay (s : State) (a : Nat) (x : App) : (setApp s a x).relay = s.relay := rfl
@[simp] theorem setApp_man (s : State) (a : Nat) (x : App) : (setApp s a x).man = s.man := rfl
@[simp] theorem setApp_cores (s : State) (a : Nat) (x : App) : (setApp s a x).cores = s.cores := rfl
@[simp] theorem setApp_csm (s : State) (a : Nat) (x : App) : (setApp s a x).csm = s.csm := rfl
@[simp] theorem setApp_csmUpset (s : State) (a : Nat) (x : App) : (setApp s a x).csmUpset = s.csmUpset := rfl
@[simp] theorem setApp_dram (s : State) (a : Nat) (x : App) : (setApp s a x).dram = s.dram := rfl
@[simp] theorem setApp_evc (s : State) (a : Nat) (x : App) : (setApp s a x).evc = s.evc := rfl
@[simp] theorem setApp_log (s : State) (a : Nat) (x : App) : (setApp s a x).log = s.log := rfl
@[simp] theorem setApp_clus (s : State) (a : Nat) (x : App) : (setApp s a x).clus = s.clus := rfl
@[simp] theorem setApp_dict (s : State) (a : Nat) (x : App) : (setApp s a x).dict = s.dict := rfl
@[simp] theorem setApp_modes (s : State) (a : Nat) (x : App) : (setApp s a x).modes = s.modes := rfl
@[simp] theorem setApp_supply (s : State) (a : Nat) (x : App) : (setApp s a x).supply = s.supply := rfl
@[simp] theorem setApp_avail (s : State) (a : Nat) (x : App) : (setApp s a x).avail = s.avail := rfl
@[simp] theorem setApp_test (s : State) (a : Nat) (x : App) : (setApp s a x).test = s.test := rfl
@[simp] theorem setApp_store (s : State) (a : Nat) (x : App) : (setApp s a x).store = s.store := rfl
@[simp] theorem setApp_dramUpset (s : State) (a : Nat) (x : App) : (setApp s a x).dramUpset = s.dramUpset := rfl
@[simp] theorem setApp_drv (s : State) (a : Nat) (x : App) : (setApp s a x).drv = s.drv := rfl
@[simp] theorem setApp_cram (s : State) (a : Nat) (x : App) : (setApp s a x).cram = s.cram := rfl
@[simp] theorem setApp_cramUpset (s : State) (a : Nat) (x : App) : (setApp s a x).cramUpset = s.cramUpset := rfl
@[simp] theorem setApp_apps (s : State) (a : Nat) (x : App) : (setApp s a x).apps = { s.apps with tbl := Tbl.put {} s.apps.tbl a x } := rfl
@[simp] theorem setApp_net (s : State) (a : Nat) (x : App) : (setApp s a x).net = s.net := rfl
@[simp] theorem setApp_audio (s : State) (a : Nat) (x : App) : (setApp s a x).audio = s.audio := rfl
@[simp] theorem setApp_overruns (s : State) (a : Nat) (x : App) : (setApp s a x).overruns = s.overruns := rfl
@[simp] theorem setApp_overLaps (s : State) (a : Nat) (x : App) : (setApp s a x).overLaps = s.overLaps := rfl
@[simp] theorem setApp_microFaults (s : State) (a : Nat) (x : App) : (setApp s a x).microFaults = s.microFaults := rfl
@[simp] theorem setApp_corrMicro (s : State) (a : Nat) (x : App) : (setApp s a x).corrMicro = s.corrMicro := rfl
@[simp] theorem setApp_sent (s : State) (a : Nat) (x : App) : (setApp s a x).sent = s.sent := rfl

/-! setMan -/

@[simp] theorem setMan_pending (s : State) (h : Nat) (m : Manifest) : (setMan s h m).pending = s.pending := rfl
@[simp] theorem setMan_free (s : State) (h : Nat) (m : Manifest) : (setMan s h m).free = s.free := rfl
@[simp] theorem setMan_result (s : State) (h : Nat) (m : Manifest) : (setMan s h m).result = s.result := rfl
@[simp] theorem setMan_now (s : State) (h : Nat) (m : Manifest) : (setMan s h m).now = s.now := rfl
@[simp] theorem setMan_grid (s : State) (h : Nat) (m : Manifest) : (setMan s h m).grid = s.grid := rfl
@[simp] theorem setMan_ctxs (s : State) (h : Nat) (m : Manifest) : (setMan s h m).ctxs = s.ctxs := rfl
@[simp] theorem setMan_held (s : State) (h : Nat) (m : Manifest) : (setMan s h m).held = s.held := rfl
@[simp] theorem setMan_starter (s : State) (h : Nat) (m : Manifest) : (setMan s h m).starter = s.starter := rfl
@[simp] theorem setMan_adm (s : State) (h : Nat) (m : Manifest) : (setMan s h m).adm = s.adm := rfl
@[simp] theorem setMan_relay (s : State) (h : Nat) (m : Manifest) : (setMan s h m).relay = s.relay := rfl
@[simp] theorem setMan_man (s : State) (h : Nat) (m : Manifest) : (setMan s h m).man = { s.man with tbl := Tbl.put {} s.man.tbl h m } := rfl
@[simp] theorem setMan_cores (s : State) (h : Nat) (m : Manifest) : (setMan s h m).cores = s.cores := rfl
@[simp] theorem setMan_csm (s : State) (h : Nat) (m : Manifest) : (setMan s h m).csm = s.csm := rfl
@[simp] theorem setMan_csmUpset (s : State) (h : Nat) (m : Manifest) : (setMan s h m).csmUpset = s.csmUpset := rfl
@[simp] theorem setMan_dram (s : State) (h : Nat) (m : Manifest) : (setMan s h m).dram = s.dram := rfl
@[simp] theorem setMan_evc (s : State) (h : Nat) (m : Manifest) : (setMan s h m).evc = s.evc := rfl
@[simp] theorem setMan_log (s : State) (h : Nat) (m : Manifest) : (setMan s h m).log = s.log := rfl
@[simp] theorem setMan_clus (s : State) (h : Nat) (m : Manifest) : (setMan s h m).clus = s.clus := rfl
@[simp] theorem setMan_dict (s : State) (h : Nat) (m : Manifest) : (setMan s h m).dict = s.dict := rfl
@[simp] theorem setMan_modes (s : State) (h : Nat) (m : Manifest) : (setMan s h m).modes = s.modes := rfl
@[simp] theorem setMan_supply (s : State) (h : Nat) (m : Manifest) : (setMan s h m).supply = s.supply := rfl
@[simp] theorem setMan_avail (s : State) (h : Nat) (m : Manifest) : (setMan s h m).avail = s.avail := rfl
@[simp] theorem setMan_test (s : State) (h : Nat) (m : Manifest) : (setMan s h m).test = s.test := rfl
@[simp] theorem setMan_store (s : State) (h : Nat) (m : Manifest) : (setMan s h m).store = s.store := rfl
@[simp] theorem setMan_dramUpset (s : State) (h : Nat) (m : Manifest) : (setMan s h m).dramUpset = s.dramUpset := rfl
@[simp] theorem setMan_drv (s : State) (h : Nat) (m : Manifest) : (setMan s h m).drv = s.drv := rfl
@[simp] theorem setMan_cram (s : State) (h : Nat) (m : Manifest) : (setMan s h m).cram = s.cram := rfl
@[simp] theorem setMan_cramUpset (s : State) (h : Nat) (m : Manifest) : (setMan s h m).cramUpset = s.cramUpset := rfl
@[simp] theorem setMan_apps (s : State) (h : Nat) (m : Manifest) : (setMan s h m).apps = s.apps := rfl
@[simp] theorem setMan_net (s : State) (h : Nat) (m : Manifest) : (setMan s h m).net = s.net := rfl
@[simp] theorem setMan_audio (s : State) (h : Nat) (m : Manifest) : (setMan s h m).audio = s.audio := rfl
@[simp] theorem setMan_overruns (s : State) (h : Nat) (m : Manifest) : (setMan s h m).overruns = s.overruns := rfl
@[simp] theorem setMan_overLaps (s : State) (h : Nat) (m : Manifest) : (setMan s h m).overLaps = s.overLaps := rfl
@[simp] theorem setMan_microFaults (s : State) (h : Nat) (m : Manifest) : (setMan s h m).microFaults = s.microFaults := rfl
@[simp] theorem setMan_corrMicro (s : State) (h : Nat) (m : Manifest) : (setMan s h m).corrMicro = s.corrMicro := rfl
@[simp] theorem setMan_sent (s : State) (h : Nat) (m : Manifest) : (setMan s h m).sent = s.sent := rfl

/-! onModes -/

@[simp] theorem onModes_pending (f : ModeSt → ModeSt) (s : State) : (onModes f s).pending = s.pending := rfl
@[simp] theorem onModes_free (f : ModeSt → ModeSt) (s : State) : (onModes f s).free = s.free := rfl
@[simp] theorem onModes_result (f : ModeSt → ModeSt) (s : State) : (onModes f s).result = s.result := rfl
@[simp] theorem onModes_now (f : ModeSt → ModeSt) (s : State) : (onModes f s).now = s.now := rfl
@[simp] theorem onModes_grid (f : ModeSt → ModeSt) (s : State) : (onModes f s).grid = s.grid := rfl
@[simp] theorem onModes_ctxs (f : ModeSt → ModeSt) (s : State) : (onModes f s).ctxs = s.ctxs := rfl
@[simp] theorem onModes_held (f : ModeSt → ModeSt) (s : State) : (onModes f s).held = s.held := rfl
@[simp] theorem onModes_starter (f : ModeSt → ModeSt) (s : State) : (onModes f s).starter = s.starter := rfl
@[simp] theorem onModes_adm (f : ModeSt → ModeSt) (s : State) : (onModes f s).adm = s.adm := rfl
@[simp] theorem onModes_relay (f : ModeSt → ModeSt) (s : State) : (onModes f s).relay = s.relay := rfl
@[simp] theorem onModes_man (f : ModeSt → ModeSt) (s : State) : (onModes f s).man = s.man := rfl
@[simp] theorem onModes_cores (f : ModeSt → ModeSt) (s : State) : (onModes f s).cores = s.cores := rfl
@[simp] theorem onModes_csm (f : ModeSt → ModeSt) (s : State) : (onModes f s).csm = s.csm := rfl
@[simp] theorem onModes_csmUpset (f : ModeSt → ModeSt) (s : State) : (onModes f s).csmUpset = s.csmUpset := rfl
@[simp] theorem onModes_dram (f : ModeSt → ModeSt) (s : State) : (onModes f s).dram = s.dram := rfl
@[simp] theorem onModes_evc (f : ModeSt → ModeSt) (s : State) : (onModes f s).evc = s.evc := rfl
@[simp] theorem onModes_log (f : ModeSt → ModeSt) (s : State) : (onModes f s).log = s.log := rfl
@[simp] theorem onModes_clus (f : ModeSt → ModeSt) (s : State) : (onModes f s).clus = s.clus := rfl
@[simp] theorem onModes_dict (f : ModeSt → ModeSt) (s : State) : (onModes f s).dict = s.dict := rfl
@[simp] theorem onModes_modes (f : ModeSt → ModeSt) (s : State) : (onModes f s).modes = f s.modes := rfl
@[simp] theorem onModes_supply (f : ModeSt → ModeSt) (s : State) : (onModes f s).supply = s.supply := rfl
@[simp] theorem onModes_avail (f : ModeSt → ModeSt) (s : State) : (onModes f s).avail = s.avail := rfl
@[simp] theorem onModes_test (f : ModeSt → ModeSt) (s : State) : (onModes f s).test = s.test := rfl
@[simp] theorem onModes_store (f : ModeSt → ModeSt) (s : State) : (onModes f s).store = s.store := rfl
@[simp] theorem onModes_dramUpset (f : ModeSt → ModeSt) (s : State) : (onModes f s).dramUpset = s.dramUpset := rfl
@[simp] theorem onModes_drv (f : ModeSt → ModeSt) (s : State) : (onModes f s).drv = s.drv := rfl
@[simp] theorem onModes_cram (f : ModeSt → ModeSt) (s : State) : (onModes f s).cram = s.cram := rfl
@[simp] theorem onModes_cramUpset (f : ModeSt → ModeSt) (s : State) : (onModes f s).cramUpset = s.cramUpset := rfl
@[simp] theorem onModes_apps (f : ModeSt → ModeSt) (s : State) : (onModes f s).apps = s.apps := rfl
@[simp] theorem onModes_net (f : ModeSt → ModeSt) (s : State) : (onModes f s).net = s.net := rfl
@[simp] theorem onModes_audio (f : ModeSt → ModeSt) (s : State) : (onModes f s).audio = s.audio := rfl
@[simp] theorem onModes_overruns (f : ModeSt → ModeSt) (s : State) : (onModes f s).overruns = s.overruns := rfl
@[simp] theorem onModes_overLaps (f : ModeSt → ModeSt) (s : State) : (onModes f s).overLaps = s.overLaps := rfl
@[simp] theorem onModes_microFaults (f : ModeSt → ModeSt) (s : State) : (onModes f s).microFaults = s.microFaults := rfl
@[simp] theorem onModes_corrMicro (f : ModeSt → ModeSt) (s : State) : (onModes f s).corrMicro = s.corrMicro := rfl
@[simp] theorem onModes_sent (f : ModeSt → ModeSt) (s : State) : (onModes f s).sent = s.sent := rfl

/-! setKeymap -/

@[simp] theorem setKeymap_pending (s : State) (m : Nat) (k : Keymap) : (setKeymap s m k).pending = s.pending := rfl
@[simp] theorem setKeymap_free (s : State) (m : Nat) (k : Keymap) : (setKeymap s m k).free = s.free := rfl
@[simp] theorem setKeymap_result (s : State) (m : Nat) (k : Keymap) : (setKeymap s m k).result = s.result := rfl
@[simp] theorem setKeymap_now (s : State) (m : Nat) (k : Keymap) : (setKeymap s m k).now = s.now := rfl
@[simp] theorem setKeymap_grid (s : State) (m : Nat) (k : Keymap) : (setKeymap s m k).grid = s.grid := rfl
@[simp] theorem setKeymap_ctxs (s : State) (m : Nat) (k : Keymap) : (setKeymap s m k).ctxs = s.ctxs := rfl
@[simp] theorem setKeymap_held (s : State) (m : Nat) (k : Keymap) : (setKeymap s m k).held = s.held := rfl
@[simp] theorem setKeymap_starter (s : State) (m : Nat) (k : Keymap) : (setKeymap s m k).starter = s.starter := rfl
@[simp] theorem setKeymap_adm (s : State) (m : Nat) (k : Keymap) : (setKeymap s m k).adm = s.adm := rfl
@[simp] theorem setKeymap_relay (s : State) (m : Nat) (k : Keymap) : (setKeymap s m k).relay = s.relay := rfl
@[simp] theorem setKeymap_man (s : State) (m : Nat) (k : Keymap) : (setKeymap s m k).man = s.man := rfl
@[simp] theorem setKeymap_cores (s : State) (m : Nat) (k : Keymap) : (setKeymap s m k).cores = s.cores := rfl
@[simp] theorem setKeymap_csm (s : State) (m : Nat) (k : Keymap) : (setKeymap s m k).csm = s.csm := rfl
@[simp] theorem setKeymap_csmUpset (s : State) (m : Nat) (k : Keymap) : (setKeymap s m k).csmUpset = s.csmUpset := rfl
@[simp] theorem setKeymap_dram (s : State) (m : Nat) (k : Keymap) : (setKeymap s m k).dram = s.dram := rfl
@[simp] theorem setKeymap_evc (s : State) (m : Nat) (k : Keymap) : (setKeymap s m k).evc = s.evc := rfl
@[simp] theorem setKeymap_log (s : State) (m : Nat) (k : Keymap) : (setKeymap s m k).log = s.log := rfl
@[simp] theorem setKeymap_clus (s : State) (m : Nat) (k : Keymap) : (setKeymap s m k).clus = s.clus := rfl
@[simp] theorem setKeymap_dict (s : State) (m : Nat) (k : Keymap) : (setKeymap s m k).dict = s.dict := rfl
@[simp] theorem setKeymap_modes (s : State) (m : Nat) (k : Keymap) : (setKeymap s m k).modes = s.modes := rfl
@[simp] theorem setKeymap_supply (s : State) (m : Nat) (k : Keymap) : (setKeymap s m k).supply = s.supply := rfl
@[simp] theorem setKeymap_avail (s : State) (m : Nat) (k : Keymap) : (setKeymap s m k).avail = s.avail := rfl
@[simp] theorem setKeymap_test (s : State) (m : Nat) (k : Keymap) : (setKeymap s m k).test = s.test := rfl
@[simp] theorem setKeymap_store (s : State) (m : Nat) (k : Keymap) : (setKeymap s m k).store = { s.store with keymaps := Tbl.put {} s.store.keymaps m k } := rfl
@[simp] theorem setKeymap_dramUpset (s : State) (m : Nat) (k : Keymap) : (setKeymap s m k).dramUpset = s.dramUpset := rfl
@[simp] theorem setKeymap_drv (s : State) (m : Nat) (k : Keymap) : (setKeymap s m k).drv = s.drv := rfl
@[simp] theorem setKeymap_cram (s : State) (m : Nat) (k : Keymap) : (setKeymap s m k).cram = s.cram := rfl
@[simp] theorem setKeymap_cramUpset (s : State) (m : Nat) (k : Keymap) : (setKeymap s m k).cramUpset = s.cramUpset := rfl
@[simp] theorem setKeymap_apps (s : State) (m : Nat) (k : Keymap) : (setKeymap s m k).apps = s.apps := rfl
@[simp] theorem setKeymap_net (s : State) (m : Nat) (k : Keymap) : (setKeymap s m k).net = s.net := rfl
@[simp] theorem setKeymap_audio (s : State) (m : Nat) (k : Keymap) : (setKeymap s m k).audio = s.audio := rfl
@[simp] theorem setKeymap_overruns (s : State) (m : Nat) (k : Keymap) : (setKeymap s m k).overruns = s.overruns := rfl
@[simp] theorem setKeymap_overLaps (s : State) (m : Nat) (k : Keymap) : (setKeymap s m k).overLaps = s.overLaps := rfl
@[simp] theorem setKeymap_microFaults (s : State) (m : Nat) (k : Keymap) : (setKeymap s m k).microFaults = s.microFaults := rfl
@[simp] theorem setKeymap_corrMicro (s : State) (m : Nat) (k : Keymap) : (setKeymap s m k).corrMicro = s.corrMicro := rfl
@[simp] theorem setKeymap_sent (s : State) (m : Nat) (k : Keymap) : (setKeymap s m k).sent = s.sent := rfl

/-! setSession -/

@[simp] theorem setSession_pending (s : State) (i : Nat) (x : Session) : (setSession s i x).pending = s.pending := rfl
@[simp] theorem setSession_free (s : State) (i : Nat) (x : Session) : (setSession s i x).free = s.free := rfl
@[simp] theorem setSession_result (s : State) (i : Nat) (x : Session) : (setSession s i x).result = s.result := rfl
@[simp] theorem setSession_now (s : State) (i : Nat) (x : Session) : (setSession s i x).now = s.now := rfl
@[simp] theorem setSession_grid (s : State) (i : Nat) (x : Session) : (setSession s i x).grid = s.grid := rfl
@[simp] theorem setSession_ctxs (s : State) (i : Nat) (x : Session) : (setSession s i x).ctxs = s.ctxs := rfl
@[simp] theorem setSession_held (s : State) (i : Nat) (x : Session) : (setSession s i x).held = s.held := rfl
@[simp] theorem setSession_starter (s : State) (i : Nat) (x : Session) : (setSession s i x).starter = s.starter := rfl
@[simp] theorem setSession_adm (s : State) (i : Nat) (x : Session) : (setSession s i x).adm = s.adm := rfl
@[simp] theorem setSession_relay (s : State) (i : Nat) (x : Session) : (setSession s i x).relay = s.relay := rfl
@[simp] theorem setSession_man (s : State) (i : Nat) (x : Session) : (setSession s i x).man = s.man := rfl
@[simp] theorem setSession_cores (s : State) (i : Nat) (x : Session) : (setSession s i x).cores = s.cores := rfl
@[simp] theorem setSession_csm (s : State) (i : Nat) (x : Session) : (setSession s i x).csm = s.csm := rfl
@[simp] theorem setSession_csmUpset (s : State) (i : Nat) (x : Session) : (setSession s i x).csmUpset = s.csmUpset := rfl
@[simp] theorem setSession_dram (s : State) (i : Nat) (x : Session) : (setSession s i x).dram = s.dram := rfl
@[simp] theorem setSession_evc (s : State) (i : Nat) (x : Session) : (setSession s i x).evc = s.evc := rfl
@[simp] theorem setSession_log (s : State) (i : Nat) (x : Session) : (setSession s i x).log = s.log := rfl
@[simp] theorem setSession_clus (s : State) (i : Nat) (x : Session) : (setSession s i x).clus = s.clus := rfl
@[simp] theorem setSession_dict (s : State) (i : Nat) (x : Session) : (setSession s i x).dict = s.dict := rfl
@[simp] theorem setSession_modes (s : State) (i : Nat) (x : Session) : (setSession s i x).modes = s.modes := rfl
@[simp] theorem setSession_supply (s : State) (i : Nat) (x : Session) : (setSession s i x).supply = s.supply := rfl
@[simp] theorem setSession_avail (s : State) (i : Nat) (x : Session) : (setSession s i x).avail = s.avail := rfl
@[simp] theorem setSession_test (s : State) (i : Nat) (x : Session) : (setSession s i x).test = s.test := rfl
@[simp] theorem setSession_store (s : State) (i : Nat) (x : Session) : (setSession s i x).store = { s.store with sessions := Tbl.put {} s.store.sessions i x } := rfl
@[simp] theorem setSession_dramUpset (s : State) (i : Nat) (x : Session) : (setSession s i x).dramUpset = s.dramUpset := rfl
@[simp] theorem setSession_drv (s : State) (i : Nat) (x : Session) : (setSession s i x).drv = s.drv := rfl
@[simp] theorem setSession_cram (s : State) (i : Nat) (x : Session) : (setSession s i x).cram = s.cram := rfl
@[simp] theorem setSession_cramUpset (s : State) (i : Nat) (x : Session) : (setSession s i x).cramUpset = s.cramUpset := rfl
@[simp] theorem setSession_apps (s : State) (i : Nat) (x : Session) : (setSession s i x).apps = s.apps := rfl
@[simp] theorem setSession_net (s : State) (i : Nat) (x : Session) : (setSession s i x).net = s.net := rfl
@[simp] theorem setSession_audio (s : State) (i : Nat) (x : Session) : (setSession s i x).audio = s.audio := rfl
@[simp] theorem setSession_overruns (s : State) (i : Nat) (x : Session) : (setSession s i x).overruns = s.overruns := rfl
@[simp] theorem setSession_overLaps (s : State) (i : Nat) (x : Session) : (setSession s i x).overLaps = s.overLaps := rfl
@[simp] theorem setSession_microFaults (s : State) (i : Nat) (x : Session) : (setSession s i x).microFaults = s.microFaults := rfl
@[simp] theorem setSession_corrMicro (s : State) (i : Nat) (x : Session) : (setSession s i x).corrMicro = s.corrMicro := rfl
@[simp] theorem setSession_sent (s : State) (i : Nat) (x : Session) : (setSession s i x).sent = s.sent := rfl

/-! setSuper -/

@[simp] theorem setSuper_pending (s : State) (k : Nat) (x : Superblock) : (setSuper s k x).pending = s.pending := rfl
@[simp] theorem setSuper_free (s : State) (k : Nat) (x : Superblock) : (setSuper s k x).free = s.free := rfl
@[simp] theorem setSuper_result (s : State) (k : Nat) (x : Superblock) : (setSuper s k x).result = s.result := rfl
@[simp] theorem setSuper_now (s : State) (k : Nat) (x : Superblock) : (setSuper s k x).now = s.now := rfl
@[simp] theorem setSuper_grid (s : State) (k : Nat) (x : Superblock) : (setSuper s k x).grid = s.grid := rfl
@[simp] theorem setSuper_ctxs (s : State) (k : Nat) (x : Superblock) : (setSuper s k x).ctxs = s.ctxs := rfl
@[simp] theorem setSuper_held (s : State) (k : Nat) (x : Superblock) : (setSuper s k x).held = s.held := rfl
@[simp] theorem setSuper_starter (s : State) (k : Nat) (x : Superblock) : (setSuper s k x).starter = s.starter := rfl
@[simp] theorem setSuper_adm (s : State) (k : Nat) (x : Superblock) : (setSuper s k x).adm = s.adm := rfl
@[simp] theorem setSuper_relay (s : State) (k : Nat) (x : Superblock) : (setSuper s k x).relay = s.relay := rfl
@[simp] theorem setSuper_man (s : State) (k : Nat) (x : Superblock) : (setSuper s k x).man = s.man := rfl
@[simp] theorem setSuper_cores (s : State) (k : Nat) (x : Superblock) : (setSuper s k x).cores = s.cores := rfl
@[simp] theorem setSuper_csm (s : State) (k : Nat) (x : Superblock) : (setSuper s k x).csm = s.csm := rfl
@[simp] theorem setSuper_csmUpset (s : State) (k : Nat) (x : Superblock) : (setSuper s k x).csmUpset = s.csmUpset := rfl
@[simp] theorem setSuper_dram (s : State) (k : Nat) (x : Superblock) : (setSuper s k x).dram = s.dram := rfl
@[simp] theorem setSuper_evc (s : State) (k : Nat) (x : Superblock) : (setSuper s k x).evc = s.evc := rfl
@[simp] theorem setSuper_log (s : State) (k : Nat) (x : Superblock) : (setSuper s k x).log = s.log := rfl
@[simp] theorem setSuper_clus (s : State) (k : Nat) (x : Superblock) : (setSuper s k x).clus = s.clus := rfl
@[simp] theorem setSuper_dict (s : State) (k : Nat) (x : Superblock) : (setSuper s k x).dict = s.dict := rfl
@[simp] theorem setSuper_modes (s : State) (k : Nat) (x : Superblock) : (setSuper s k x).modes = s.modes := rfl
@[simp] theorem setSuper_supply (s : State) (k : Nat) (x : Superblock) : (setSuper s k x).supply = s.supply := rfl
@[simp] theorem setSuper_avail (s : State) (k : Nat) (x : Superblock) : (setSuper s k x).avail = s.avail := rfl
@[simp] theorem setSuper_test (s : State) (k : Nat) (x : Superblock) : (setSuper s k x).test = s.test := rfl
@[simp] theorem setSuper_store (s : State) (k : Nat) (x : Superblock) : (setSuper s k x).store = { s.store with supers := Tbl.put {} s.store.supers k x } := rfl
@[simp] theorem setSuper_dramUpset (s : State) (k : Nat) (x : Superblock) : (setSuper s k x).dramUpset = s.dramUpset := rfl
@[simp] theorem setSuper_drv (s : State) (k : Nat) (x : Superblock) : (setSuper s k x).drv = s.drv := rfl
@[simp] theorem setSuper_cram (s : State) (k : Nat) (x : Superblock) : (setSuper s k x).cram = s.cram := rfl
@[simp] theorem setSuper_cramUpset (s : State) (k : Nat) (x : Superblock) : (setSuper s k x).cramUpset = s.cramUpset := rfl
@[simp] theorem setSuper_apps (s : State) (k : Nat) (x : Superblock) : (setSuper s k x).apps = s.apps := rfl
@[simp] theorem setSuper_net (s : State) (k : Nat) (x : Superblock) : (setSuper s k x).net = s.net := rfl
@[simp] theorem setSuper_audio (s : State) (k : Nat) (x : Superblock) : (setSuper s k x).audio = s.audio := rfl
@[simp] theorem setSuper_overruns (s : State) (k : Nat) (x : Superblock) : (setSuper s k x).overruns = s.overruns := rfl
@[simp] theorem setSuper_overLaps (s : State) (k : Nat) (x : Superblock) : (setSuper s k x).overLaps = s.overLaps := rfl
@[simp] theorem setSuper_microFaults (s : State) (k : Nat) (x : Superblock) : (setSuper s k x).microFaults = s.microFaults := rfl
@[simp] theorem setSuper_corrMicro (s : State) (k : Nat) (x : Superblock) : (setSuper s k x).corrMicro = s.corrMicro := rfl
@[simp] theorem setSuper_sent (s : State) (k : Nat) (x : Superblock) : (setSuper s k x).sent = s.sent := rfl

/-! setNetPort -/

@[simp] theorem setNetPort_pending (s : State) (p : Nat) (x : NetPort) : (setNetPort s p x).pending = s.pending := rfl
@[simp] theorem setNetPort_free (s : State) (p : Nat) (x : NetPort) : (setNetPort s p x).free = s.free := rfl
@[simp] theorem setNetPort_result (s : State) (p : Nat) (x : NetPort) : (setNetPort s p x).result = s.result := rfl
@[simp] theorem setNetPort_now (s : State) (p : Nat) (x : NetPort) : (setNetPort s p x).now = s.now := rfl
@[simp] theorem setNetPort_grid (s : State) (p : Nat) (x : NetPort) : (setNetPort s p x).grid = s.grid := rfl
@[simp] theorem setNetPort_ctxs (s : State) (p : Nat) (x : NetPort) : (setNetPort s p x).ctxs = s.ctxs := rfl
@[simp] theorem setNetPort_held (s : State) (p : Nat) (x : NetPort) : (setNetPort s p x).held = s.held := rfl
@[simp] theorem setNetPort_starter (s : State) (p : Nat) (x : NetPort) : (setNetPort s p x).starter = s.starter := rfl
@[simp] theorem setNetPort_adm (s : State) (p : Nat) (x : NetPort) : (setNetPort s p x).adm = s.adm := rfl
@[simp] theorem setNetPort_relay (s : State) (p : Nat) (x : NetPort) : (setNetPort s p x).relay = s.relay := rfl
@[simp] theorem setNetPort_man (s : State) (p : Nat) (x : NetPort) : (setNetPort s p x).man = s.man := rfl
@[simp] theorem setNetPort_cores (s : State) (p : Nat) (x : NetPort) : (setNetPort s p x).cores = s.cores := rfl
@[simp] theorem setNetPort_csm (s : State) (p : Nat) (x : NetPort) : (setNetPort s p x).csm = s.csm := rfl
@[simp] theorem setNetPort_csmUpset (s : State) (p : Nat) (x : NetPort) : (setNetPort s p x).csmUpset = s.csmUpset := rfl
@[simp] theorem setNetPort_dram (s : State) (p : Nat) (x : NetPort) : (setNetPort s p x).dram = s.dram := rfl
@[simp] theorem setNetPort_evc (s : State) (p : Nat) (x : NetPort) : (setNetPort s p x).evc = s.evc := rfl
@[simp] theorem setNetPort_log (s : State) (p : Nat) (x : NetPort) : (setNetPort s p x).log = s.log := rfl
@[simp] theorem setNetPort_clus (s : State) (p : Nat) (x : NetPort) : (setNetPort s p x).clus = s.clus := rfl
@[simp] theorem setNetPort_dict (s : State) (p : Nat) (x : NetPort) : (setNetPort s p x).dict = s.dict := rfl
@[simp] theorem setNetPort_modes (s : State) (p : Nat) (x : NetPort) : (setNetPort s p x).modes = s.modes := rfl
@[simp] theorem setNetPort_supply (s : State) (p : Nat) (x : NetPort) : (setNetPort s p x).supply = s.supply := rfl
@[simp] theorem setNetPort_avail (s : State) (p : Nat) (x : NetPort) : (setNetPort s p x).avail = s.avail := rfl
@[simp] theorem setNetPort_test (s : State) (p : Nat) (x : NetPort) : (setNetPort s p x).test = s.test := rfl
@[simp] theorem setNetPort_store (s : State) (p : Nat) (x : NetPort) : (setNetPort s p x).store = s.store := rfl
@[simp] theorem setNetPort_dramUpset (s : State) (p : Nat) (x : NetPort) : (setNetPort s p x).dramUpset = s.dramUpset := rfl
@[simp] theorem setNetPort_drv (s : State) (p : Nat) (x : NetPort) : (setNetPort s p x).drv = s.drv := rfl
@[simp] theorem setNetPort_cram (s : State) (p : Nat) (x : NetPort) : (setNetPort s p x).cram = s.cram := rfl
@[simp] theorem setNetPort_cramUpset (s : State) (p : Nat) (x : NetPort) : (setNetPort s p x).cramUpset = s.cramUpset := rfl
@[simp] theorem setNetPort_apps (s : State) (p : Nat) (x : NetPort) : (setNetPort s p x).apps = s.apps := rfl
@[simp] theorem setNetPort_net (s : State) (p : Nat) (x : NetPort) : (setNetPort s p x).net = if p = 0 then { s.net with p0 := x } else { s.net with p1 := x } := rfl
@[simp] theorem setNetPort_audio (s : State) (p : Nat) (x : NetPort) : (setNetPort s p x).audio = s.audio := rfl
@[simp] theorem setNetPort_overruns (s : State) (p : Nat) (x : NetPort) : (setNetPort s p x).overruns = s.overruns := rfl
@[simp] theorem setNetPort_overLaps (s : State) (p : Nat) (x : NetPort) : (setNetPort s p x).overLaps = s.overLaps := rfl
@[simp] theorem setNetPort_microFaults (s : State) (p : Nat) (x : NetPort) : (setNetPort s p x).microFaults = s.microFaults := rfl
@[simp] theorem setNetPort_corrMicro (s : State) (p : Nat) (x : NetPort) : (setNetPort s p x).corrMicro = s.corrMicro := rfl
@[simp] theorem setNetPort_sent (s : State) (p : Nat) (x : NetPort) : (setNetPort s p x).sent = s.sent := rfl

/-! emitFrame -/

@[simp] theorem emitFrame_pending (p : Nat) (k : FrameKind) (fs : List Nat) (s : State) : (emitFrame p k fs s).pending = s.pending := rfl
@[simp] theorem emitFrame_free (p : Nat) (k : FrameKind) (fs : List Nat) (s : State) : (emitFrame p k fs s).free = s.free := rfl
@[simp] theorem emitFrame_result (p : Nat) (k : FrameKind) (fs : List Nat) (s : State) : (emitFrame p k fs s).result = s.result := rfl
@[simp] theorem emitFrame_now (p : Nat) (k : FrameKind) (fs : List Nat) (s : State) : (emitFrame p k fs s).now = s.now := rfl
@[simp] theorem emitFrame_grid (p : Nat) (k : FrameKind) (fs : List Nat) (s : State) : (emitFrame p k fs s).grid = s.grid := rfl
@[simp] theorem emitFrame_ctxs (p : Nat) (k : FrameKind) (fs : List Nat) (s : State) : (emitFrame p k fs s).ctxs = s.ctxs := rfl
@[simp] theorem emitFrame_held (p : Nat) (k : FrameKind) (fs : List Nat) (s : State) : (emitFrame p k fs s).held = s.held := rfl
@[simp] theorem emitFrame_starter (p : Nat) (k : FrameKind) (fs : List Nat) (s : State) : (emitFrame p k fs s).starter = s.starter := rfl
@[simp] theorem emitFrame_adm (p : Nat) (k : FrameKind) (fs : List Nat) (s : State) : (emitFrame p k fs s).adm = s.adm := rfl
@[simp] theorem emitFrame_relay (p : Nat) (k : FrameKind) (fs : List Nat) (s : State) : (emitFrame p k fs s).relay = s.relay := rfl
@[simp] theorem emitFrame_man (p : Nat) (k : FrameKind) (fs : List Nat) (s : State) : (emitFrame p k fs s).man = s.man := rfl
@[simp] theorem emitFrame_cores (p : Nat) (k : FrameKind) (fs : List Nat) (s : State) : (emitFrame p k fs s).cores = s.cores := rfl
@[simp] theorem emitFrame_csm (p : Nat) (k : FrameKind) (fs : List Nat) (s : State) : (emitFrame p k fs s).csm = s.csm := rfl
@[simp] theorem emitFrame_csmUpset (p : Nat) (k : FrameKind) (fs : List Nat) (s : State) : (emitFrame p k fs s).csmUpset = s.csmUpset := rfl
@[simp] theorem emitFrame_dram (p : Nat) (k : FrameKind) (fs : List Nat) (s : State) : (emitFrame p k fs s).dram = s.dram := rfl
@[simp] theorem emitFrame_evc (p : Nat) (k : FrameKind) (fs : List Nat) (s : State) : (emitFrame p k fs s).evc = s.evc := rfl
@[simp] theorem emitFrame_log (p : Nat) (k : FrameKind) (fs : List Nat) (s : State) : (emitFrame p k fs s).log = s.log := rfl
@[simp] theorem emitFrame_clus (p : Nat) (k : FrameKind) (fs : List Nat) (s : State) : (emitFrame p k fs s).clus = s.clus := rfl
@[simp] theorem emitFrame_dict (p : Nat) (k : FrameKind) (fs : List Nat) (s : State) : (emitFrame p k fs s).dict = s.dict := rfl
@[simp] theorem emitFrame_modes (p : Nat) (k : FrameKind) (fs : List Nat) (s : State) : (emitFrame p k fs s).modes = s.modes := rfl
@[simp] theorem emitFrame_supply (p : Nat) (k : FrameKind) (fs : List Nat) (s : State) : (emitFrame p k fs s).supply = s.supply := rfl
@[simp] theorem emitFrame_avail (p : Nat) (k : FrameKind) (fs : List Nat) (s : State) : (emitFrame p k fs s).avail = s.avail := rfl
@[simp] theorem emitFrame_test (p : Nat) (k : FrameKind) (fs : List Nat) (s : State) : (emitFrame p k fs s).test = s.test := rfl
@[simp] theorem emitFrame_store (p : Nat) (k : FrameKind) (fs : List Nat) (s : State) : (emitFrame p k fs s).store = s.store := rfl
@[simp] theorem emitFrame_dramUpset (p : Nat) (k : FrameKind) (fs : List Nat) (s : State) : (emitFrame p k fs s).dramUpset = s.dramUpset := rfl
@[simp] theorem emitFrame_drv (p : Nat) (k : FrameKind) (fs : List Nat) (s : State) : (emitFrame p k fs s).drv = s.drv := rfl
@[simp] theorem emitFrame_cram (p : Nat) (k : FrameKind) (fs : List Nat) (s : State) : (emitFrame p k fs s).cram = s.cram := rfl
@[simp] theorem emitFrame_cramUpset (p : Nat) (k : FrameKind) (fs : List Nat) (s : State) : (emitFrame p k fs s).cramUpset = s.cramUpset := rfl
@[simp] theorem emitFrame_apps (p : Nat) (k : FrameKind) (fs : List Nat) (s : State) : (emitFrame p k fs s).apps = s.apps := rfl
@[simp] theorem emitFrame_net (p : Nat) (k : FrameKind) (fs : List Nat) (s : State) : (emitFrame p k fs s).net = s.net := rfl
@[simp] theorem emitFrame_audio (p : Nat) (k : FrameKind) (fs : List Nat) (s : State) : (emitFrame p k fs s).audio = s.audio := rfl
@[simp] theorem emitFrame_overruns (p : Nat) (k : FrameKind) (fs : List Nat) (s : State) : (emitFrame p k fs s).overruns = s.overruns := rfl
@[simp] theorem emitFrame_overLaps (p : Nat) (k : FrameKind) (fs : List Nat) (s : State) : (emitFrame p k fs s).overLaps = s.overLaps := rfl
@[simp] theorem emitFrame_microFaults (p : Nat) (k : FrameKind) (fs : List Nat) (s : State) : (emitFrame p k fs s).microFaults = s.microFaults := rfl
@[simp] theorem emitFrame_corrMicro (p : Nat) (k : FrameKind) (fs : List Nat) (s : State) : (emitFrame p k fs s).corrMicro = s.corrMicro := rfl
@[simp] theorem emitFrame_sent (p : Nat) (k : FrameKind) (fs : List Nat) (s : State) : (emitFrame p k fs s).sent = s.sent ++ [.frame p k fs] := rfl

/-! setListen -/

@[simp] theorem setListen_pending (s : State) (i : Nat) (x : StreamSt) : (setListen s i x).pending = s.pending := rfl
@[simp] theorem setListen_free (s : State) (i : Nat) (x : StreamSt) : (setListen s i x).free = s.free := rfl
@[simp] theorem setListen_result (s : State) (i : Nat) (x : StreamSt) : (setListen s i x).result = s.result := rfl
@[simp] theorem setListen_now (s : State) (i : Nat) (x : StreamSt) : (setListen s i x).now = s.now := rfl
@[simp] theorem setListen_grid (s : State) (i : Nat) (x : StreamSt) : (setListen s i x).grid = s.grid := rfl
@[simp] theorem setListen_ctxs (s : State) (i : Nat) (x : StreamSt) : (setListen s i x).ctxs = s.ctxs := rfl
@[simp] theorem setListen_held (s : State) (i : Nat) (x : StreamSt) : (setListen s i x).held = s.held := rfl
@[simp] theorem setListen_starter (s : State) (i : Nat) (x : StreamSt) : (setListen s i x).starter = s.starter := rfl
@[simp] theorem setListen_adm (s : State) (i : Nat) (x : StreamSt) : (setListen s i x).adm = s.adm := rfl
@[simp] theorem setListen_relay (s : State) (i : Nat) (x : StreamSt) : (setListen s i x).relay = s.relay := rfl
@[simp] theorem setListen_man (s : State) (i : Nat) (x : StreamSt) : (setListen s i x).man = s.man := rfl
@[simp] theorem setListen_cores (s : State) (i : Nat) (x : StreamSt) : (setListen s i x).cores = s.cores := rfl
@[simp] theorem setListen_csm (s : State) (i : Nat) (x : StreamSt) : (setListen s i x).csm = s.csm := rfl
@[simp] theorem setListen_csmUpset (s : State) (i : Nat) (x : StreamSt) : (setListen s i x).csmUpset = s.csmUpset := rfl
@[simp] theorem setListen_dram (s : State) (i : Nat) (x : StreamSt) : (setListen s i x).dram = s.dram := rfl
@[simp] theorem setListen_evc (s : State) (i : Nat) (x : StreamSt) : (setListen s i x).evc = s.evc := rfl
@[simp] theorem setListen_log (s : State) (i : Nat) (x : StreamSt) : (setListen s i x).log = s.log := rfl
@[simp] theorem setListen_clus (s : State) (i : Nat) (x : StreamSt) : (setListen s i x).clus = s.clus := rfl
@[simp] theorem setListen_dict (s : State) (i : Nat) (x : StreamSt) : (setListen s i x).dict = s.dict := rfl
@[simp] theorem setListen_modes (s : State) (i : Nat) (x : StreamSt) : (setListen s i x).modes = s.modes := rfl
@[simp] theorem setListen_supply (s : State) (i : Nat) (x : StreamSt) : (setListen s i x).supply = s.supply := rfl
@[simp] theorem setListen_avail (s : State) (i : Nat) (x : StreamSt) : (setListen s i x).avail = s.avail := rfl
@[simp] theorem setListen_test (s : State) (i : Nat) (x : StreamSt) : (setListen s i x).test = s.test := rfl
@[simp] theorem setListen_store (s : State) (i : Nat) (x : StreamSt) : (setListen s i x).store = s.store := rfl
@[simp] theorem setListen_dramUpset (s : State) (i : Nat) (x : StreamSt) : (setListen s i x).dramUpset = s.dramUpset := rfl
@[simp] theorem setListen_drv (s : State) (i : Nat) (x : StreamSt) : (setListen s i x).drv = s.drv := rfl
@[simp] theorem setListen_cram (s : State) (i : Nat) (x : StreamSt) : (setListen s i x).cram = s.cram := rfl
@[simp] theorem setListen_cramUpset (s : State) (i : Nat) (x : StreamSt) : (setListen s i x).cramUpset = s.cramUpset := rfl
@[simp] theorem setListen_apps (s : State) (i : Nat) (x : StreamSt) : (setListen s i x).apps = s.apps := rfl
@[simp] theorem setListen_net (s : State) (i : Nat) (x : StreamSt) : (setListen s i x).net = { s.net with listen := Tbl.put {} s.net.listen i x } := rfl
@[simp] theorem setListen_audio (s : State) (i : Nat) (x : StreamSt) : (setListen s i x).audio = s.audio := rfl
@[simp] theorem setListen_overruns (s : State) (i : Nat) (x : StreamSt) : (setListen s i x).overruns = s.overruns := rfl
@[simp] theorem setListen_overLaps (s : State) (i : Nat) (x : StreamSt) : (setListen s i x).overLaps = s.overLaps := rfl
@[simp] theorem setListen_microFaults (s : State) (i : Nat) (x : StreamSt) : (setListen s i x).microFaults = s.microFaults := rfl
@[simp] theorem setListen_corrMicro (s : State) (i : Nat) (x : StreamSt) : (setListen s i x).corrMicro = s.corrMicro := rfl
@[simp] theorem setListen_sent (s : State) (i : Nat) (x : StreamSt) : (setListen s i x).sent = s.sent := rfl

/-! avReply -/

@[simp] theorem avReply_pending (p : Nat) (acmp : Bool) (code : Nat) (st : AvStatus) (fs : List Nat) (s : State) : (avReply p acmp code st fs s).pending = s.pending := rfl
@[simp] theorem avReply_free (p : Nat) (acmp : Bool) (code : Nat) (st : AvStatus) (fs : List Nat) (s : State) : (avReply p acmp code st fs s).free = s.free := rfl
@[simp] theorem avReply_result (p : Nat) (acmp : Bool) (code : Nat) (st : AvStatus) (fs : List Nat) (s : State) : (avReply p acmp code st fs s).result = s.result := rfl
@[simp] theorem avReply_now (p : Nat) (acmp : Bool) (code : Nat) (st : AvStatus) (fs : List Nat) (s : State) : (avReply p acmp code st fs s).now = s.now := rfl
@[simp] theorem avReply_grid (p : Nat) (acmp : Bool) (code : Nat) (st : AvStatus) (fs : List Nat) (s : State) : (avReply p acmp code st fs s).grid = s.grid := rfl
@[simp] theorem avReply_ctxs (p : Nat) (acmp : Bool) (code : Nat) (st : AvStatus) (fs : List Nat) (s : State) : (avReply p acmp code st fs s).ctxs = s.ctxs := rfl
@[simp] theorem avReply_held (p : Nat) (acmp : Bool) (code : Nat) (st : AvStatus) (fs : List Nat) (s : State) : (avReply p acmp code st fs s).held = s.held := rfl
@[simp] theorem avReply_starter (p : Nat) (acmp : Bool) (code : Nat) (st : AvStatus) (fs : List Nat) (s : State) : (avReply p acmp code st fs s).starter = s.starter := rfl
@[simp] theorem avReply_adm (p : Nat) (acmp : Bool) (code : Nat) (st : AvStatus) (fs : List Nat) (s : State) : (avReply p acmp code st fs s).adm = s.adm := rfl
@[simp] theorem avReply_relay (p : Nat) (acmp : Bool) (code : Nat) (st : AvStatus) (fs : List Nat) (s : State) : (avReply p acmp code st fs s).relay = s.relay := rfl
@[simp] theorem avReply_man (p : Nat) (acmp : Bool) (code : Nat) (st : AvStatus) (fs : List Nat) (s : State) : (avReply p acmp code st fs s).man = s.man := rfl
@[simp] theorem avReply_cores (p : Nat) (acmp : Bool) (code : Nat) (st : AvStatus) (fs : List Nat) (s : State) : (avReply p acmp code st fs s).cores = s.cores := rfl
@[simp] theorem avReply_csm (p : Nat) (acmp : Bool) (code : Nat) (st : AvStatus) (fs : List Nat) (s : State) : (avReply p acmp code st fs s).csm = s.csm := rfl
@[simp] theorem avReply_csmUpset (p : Nat) (acmp : Bool) (code : Nat) (st : AvStatus) (fs : List Nat) (s : State) : (avReply p acmp code st fs s).csmUpset = s.csmUpset := rfl
@[simp] theorem avReply_dram (p : Nat) (acmp : Bool) (code : Nat) (st : AvStatus) (fs : List Nat) (s : State) : (avReply p acmp code st fs s).dram = s.dram := rfl
@[simp] theorem avReply_evc (p : Nat) (acmp : Bool) (code : Nat) (st : AvStatus) (fs : List Nat) (s : State) : (avReply p acmp code st fs s).evc = s.evc := rfl
@[simp] theorem avReply_log (p : Nat) (acmp : Bool) (code : Nat) (st : AvStatus) (fs : List Nat) (s : State) : (avReply p acmp code st fs s).log = s.log := rfl
@[simp] theorem avReply_clus (p : Nat) (acmp : Bool) (code : Nat) (st : AvStatus) (fs : List Nat) (s : State) : (avReply p acmp code st fs s).clus = s.clus := rfl
@[simp] theorem avReply_dict (p : Nat) (acmp : Bool) (code : Nat) (st : AvStatus) (fs : List Nat) (s : State) : (avReply p acmp code st fs s).dict = s.dict := rfl
@[simp] theorem avReply_modes (p : Nat) (acmp : Bool) (code : Nat) (st : AvStatus) (fs : List Nat) (s : State) : (avReply p acmp code st fs s).modes = s.modes := rfl
@[simp] theorem avReply_supply (p : Nat) (acmp : Bool) (code : Nat) (st : AvStatus) (fs : List Nat) (s : State) : (avReply p acmp code st fs s).supply = s.supply := rfl
@[simp] theorem avReply_avail (p : Nat) (acmp : Bool) (code : Nat) (st : AvStatus) (fs : List Nat) (s : State) : (avReply p acmp code st fs s).avail = s.avail := rfl
@[simp] theorem avReply_test (p : Nat) (acmp : Bool) (code : Nat) (st : AvStatus) (fs : List Nat) (s : State) : (avReply p acmp code st fs s).test = s.test := rfl
@[simp] theorem avReply_store (p : Nat) (acmp : Bool) (code : Nat) (st : AvStatus) (fs : List Nat) (s : State) : (avReply p acmp code st fs s).store = s.store := rfl
@[simp] theorem avReply_dramUpset (p : Nat) (acmp : Bool) (code : Nat) (st : AvStatus) (fs : List Nat) (s : State) : (avReply p acmp code st fs s).dramUpset = s.dramUpset := rfl
@[simp] theorem avReply_drv (p : Nat) (acmp : Bool) (code : Nat) (st : AvStatus) (fs : List Nat) (s : State) : (avReply p acmp code st fs s).drv = s.drv := rfl
@[simp] theorem avReply_cram (p : Nat) (acmp : Bool) (code : Nat) (st : AvStatus) (fs : List Nat) (s : State) : (avReply p acmp code st fs s).cram = s.cram := rfl
@[simp] theorem avReply_cramUpset (p : Nat) (acmp : Bool) (code : Nat) (st : AvStatus) (fs : List Nat) (s : State) : (avReply p acmp code st fs s).cramUpset = s.cramUpset := rfl
@[simp] theorem avReply_apps (p : Nat) (acmp : Bool) (code : Nat) (st : AvStatus) (fs : List Nat) (s : State) : (avReply p acmp code st fs s).apps = s.apps := rfl
@[simp] theorem avReply_net (p : Nat) (acmp : Bool) (code : Nat) (st : AvStatus) (fs : List Nat) (s : State) : (avReply p acmp code st fs s).net = s.net := rfl
@[simp] theorem avReply_audio (p : Nat) (acmp : Bool) (code : Nat) (st : AvStatus) (fs : List Nat) (s : State) : (avReply p acmp code st fs s).audio = s.audio := rfl
@[simp] theorem avReply_overruns (p : Nat) (acmp : Bool) (code : Nat) (st : AvStatus) (fs : List Nat) (s : State) : (avReply p acmp code st fs s).overruns = s.overruns := rfl
@[simp] theorem avReply_overLaps (p : Nat) (acmp : Bool) (code : Nat) (st : AvStatus) (fs : List Nat) (s : State) : (avReply p acmp code st fs s).overLaps = s.overLaps := rfl
@[simp] theorem avReply_microFaults (p : Nat) (acmp : Bool) (code : Nat) (st : AvStatus) (fs : List Nat) (s : State) : (avReply p acmp code st fs s).microFaults = s.microFaults := rfl
@[simp] theorem avReply_corrMicro (p : Nat) (acmp : Bool) (code : Nat) (st : AvStatus) (fs : List Nat) (s : State) : (avReply p acmp code st fs s).corrMicro = s.corrMicro := rfl
@[simp] theorem avReply_sent (p : Nat) (acmp : Bool) (code : Nat) (st : AvStatus) (fs : List Nat) (s : State) : (avReply p acmp code st fs s).sent = s.sent ++ [.avdecc p acmp code st fs] := rfl

/-! onAudio -/

@[simp] theorem onAudio_pending (f : Audio → Audio) (s : State) : (onAudio f s).pending = s.pending := rfl
@[simp] theorem onAudio_free (f : Audio → Audio) (s : State) : (onAudio f s).free = s.free := rfl
@[simp] theorem onAudio_result (f : Audio → Audio) (s : State) : (onAudio f s).result = s.result := rfl
@[simp] theorem onAudio_now (f : Audio → Audio) (s : State) : (onAudio f s).now = s.now := rfl
@[simp] theorem onAudio_grid (f : Audio → Audio) (s : State) : (onAudio f s).grid = s.grid := rfl
@[simp] theorem onAudio_ctxs (f : Audio → Audio) (s : State) : (onAudio f s).ctxs = s.ctxs := rfl
@[simp] theorem onAudio_held (f : Audio → Audio) (s : State) : (onAudio f s).held = s.held := rfl
@[simp] theorem onAudio_starter (f : Audio → Audio) (s : State) : (onAudio f s).starter = s.starter := rfl
@[simp] theorem onAudio_adm (f : Audio → Audio) (s : State) : (onAudio f s).adm = s.adm := rfl
@[simp] theorem onAudio_relay (f : Audio → Audio) (s : State) : (onAudio f s).relay = s.relay := rfl
@[simp] theorem onAudio_man (f : Audio → Audio) (s : State) : (onAudio f s).man = s.man := rfl
@[simp] theorem onAudio_cores (f : Audio → Audio) (s : State) : (onAudio f s).cores = s.cores := rfl
@[simp] theorem onAudio_csm (f : Audio → Audio) (s : State) : (onAudio f s).csm = s.csm := rfl
@[simp] theorem onAudio_csmUpset (f : Audio → Audio) (s : State) : (onAudio f s).csmUpset = s.csmUpset := rfl
@[simp] theorem onAudio_dram (f : Audio → Audio) (s : State) : (onAudio f s).dram = s.dram := rfl
@[simp] theorem onAudio_evc (f : Audio → Audio) (s : State) : (onAudio f s).evc = s.evc := rfl
@[simp] theorem onAudio_log (f : Audio → Audio) (s : State) : (onAudio f s).log = s.log := rfl
@[simp] theorem onAudio_clus (f : Audio → Audio) (s : State) : (onAudio f s).clus = s.clus := rfl
@[simp] theorem onAudio_dict (f : Audio → Audio) (s : State) : (onAudio f s).dict = s.dict := rfl
@[simp] theorem onAudio_modes (f : Audio → Audio) (s : State) : (onAudio f s).modes = s.modes := rfl
@[simp] theorem onAudio_supply (f : Audio → Audio) (s : State) : (onAudio f s).supply = s.supply := rfl
@[simp] theorem onAudio_avail (f : Audio → Audio) (s : State) : (onAudio f s).avail = s.avail := rfl
@[simp] theorem onAudio_test (f : Audio → Audio) (s : State) : (onAudio f s).test = s.test := rfl
@[simp] theorem onAudio_store (f : Audio → Audio) (s : State) : (onAudio f s).store = s.store := rfl
@[simp] theorem onAudio_dramUpset (f : Audio → Audio) (s : State) : (onAudio f s).dramUpset = s.dramUpset := rfl
@[simp] theorem onAudio_drv (f : Audio → Audio) (s : State) : (onAudio f s).drv = s.drv := rfl
@[simp] theorem onAudio_cram (f : Audio → Audio) (s : State) : (onAudio f s).cram = s.cram := rfl
@[simp] theorem onAudio_cramUpset (f : Audio → Audio) (s : State) : (onAudio f s).cramUpset = s.cramUpset := rfl
@[simp] theorem onAudio_apps (f : Audio → Audio) (s : State) : (onAudio f s).apps = s.apps := rfl
@[simp] theorem onAudio_net (f : Audio → Audio) (s : State) : (onAudio f s).net = s.net := rfl
@[simp] theorem onAudio_audio (f : Audio → Audio) (s : State) : (onAudio f s).audio = f s.audio := rfl
@[simp] theorem onAudio_overruns (f : Audio → Audio) (s : State) : (onAudio f s).overruns = s.overruns := rfl
@[simp] theorem onAudio_overLaps (f : Audio → Audio) (s : State) : (onAudio f s).overLaps = s.overLaps := rfl
@[simp] theorem onAudio_microFaults (f : Audio → Audio) (s : State) : (onAudio f s).microFaults = s.microFaults := rfl
@[simp] theorem onAudio_corrMicro (f : Audio → Audio) (s : State) : (onAudio f s).corrMicro = s.corrMicro := rfl
@[simp] theorem onAudio_sent (f : Audio → Audio) (s : State) : (onAudio f s).sent = s.sent := rfl

/-! onEvc -/

@[simp] theorem onEvc_pending (s : State) (f : Evc → Evc) : (onEvc s f).pending = s.pending := rfl
@[simp] theorem onEvc_free (s : State) (f : Evc → Evc) : (onEvc s f).free = s.free := rfl
@[simp] theorem onEvc_result (s : State) (f : Evc → Evc) : (onEvc s f).result = s.result := rfl
@[simp] theorem onEvc_now (s : State) (f : Evc → Evc) : (onEvc s f).now = s.now := rfl
@[simp] theorem onEvc_grid (s : State) (f : Evc → Evc) : (onEvc s f).grid = s.grid := rfl
@[simp] theorem onEvc_ctxs (s : State) (f : Evc → Evc) : (onEvc s f).ctxs = s.ctxs := rfl
@[simp] theorem onEvc_held (s : State) (f : Evc → Evc) : (onEvc s f).held = s.held := rfl
@[simp] theorem onEvc_starter (s : State) (f : Evc → Evc) : (onEvc s f).starter = s.starter := rfl
@[simp] theorem onEvc_adm (s : State) (f : Evc → Evc) : (onEvc s f).adm = s.adm := rfl
@[simp] theorem onEvc_relay (s : State) (f : Evc → Evc) : (onEvc s f).relay = s.relay := rfl
@[simp] theorem onEvc_man (s : State) (f : Evc → Evc) : (onEvc s f).man = s.man := rfl
@[simp] theorem onEvc_cores (s : State) (f : Evc → Evc) : (onEvc s f).cores = s.cores := rfl
@[simp] theorem onEvc_csm (s : State) (f : Evc → Evc) : (onEvc s f).csm = s.csm := rfl
@[simp] theorem onEvc_csmUpset (s : State) (f : Evc → Evc) : (onEvc s f).csmUpset = s.csmUpset := rfl
@[simp] theorem onEvc_dram (s : State) (f : Evc → Evc) : (onEvc s f).dram = s.dram := rfl
@[simp] theorem onEvc_evc (s : State) (f : Evc → Evc) : (onEvc s f).evc = f s.evc := rfl
@[simp] theorem onEvc_log (s : State) (f : Evc → Evc) : (onEvc s f).log = s.log := rfl
@[simp] theorem onEvc_clus (s : State) (f : Evc → Evc) : (onEvc s f).clus = s.clus := rfl
@[simp] theorem onEvc_dict (s : State) (f : Evc → Evc) : (onEvc s f).dict = s.dict := rfl
@[simp] theorem onEvc_modes (s : State) (f : Evc → Evc) : (onEvc s f).modes = s.modes := rfl
@[simp] theorem onEvc_supply (s : State) (f : Evc → Evc) : (onEvc s f).supply = s.supply := rfl
@[simp] theorem onEvc_avail (s : State) (f : Evc → Evc) : (onEvc s f).avail = s.avail := rfl
@[simp] theorem onEvc_test (s : State) (f : Evc → Evc) : (onEvc s f).test = s.test := rfl
@[simp] theorem onEvc_store (s : State) (f : Evc → Evc) : (onEvc s f).store = s.store := rfl
@[simp] theorem onEvc_dramUpset (s : State) (f : Evc → Evc) : (onEvc s f).dramUpset = s.dramUpset := rfl
@[simp] theorem onEvc_drv (s : State) (f : Evc → Evc) : (onEvc s f).drv = s.drv := rfl
@[simp] theorem onEvc_cram (s : State) (f : Evc → Evc) : (onEvc s f).cram = s.cram := rfl
@[simp] theorem onEvc_cramUpset (s : State) (f : Evc → Evc) : (onEvc s f).cramUpset = s.cramUpset := rfl
@[simp] theorem onEvc_apps (s : State) (f : Evc → Evc) : (onEvc s f).apps = s.apps := rfl
@[simp] theorem onEvc_net (s : State) (f : Evc → Evc) : (onEvc s f).net = s.net := rfl
@[simp] theorem onEvc_audio (s : State) (f : Evc → Evc) : (onEvc s f).audio = s.audio := rfl
@[simp] theorem onEvc_overruns (s : State) (f : Evc → Evc) : (onEvc s f).overruns = s.overruns := rfl
@[simp] theorem onEvc_overLaps (s : State) (f : Evc → Evc) : (onEvc s f).overLaps = s.overLaps := rfl
@[simp] theorem onEvc_microFaults (s : State) (f : Evc → Evc) : (onEvc s f).microFaults = s.microFaults := rfl
@[simp] theorem onEvc_corrMicro (s : State) (f : Evc → Evc) : (onEvc s f).corrMicro = s.corrMicro := rfl
@[simp] theorem onEvc_sent (s : State) (f : Evc → Evc) : (onEvc s f).sent = s.sent := rfl

/-! setDrv -/

@[simp] theorem setDrv_pending (s : State) (d : Nat) (x : Drover) : (setDrv s d x).pending = s.pending := rfl
@[simp] theorem setDrv_free (s : State) (d : Nat) (x : Drover) : (setDrv s d x).free = s.free := rfl
@[simp] theorem setDrv_result (s : State) (d : Nat) (x : Drover) : (setDrv s d x).result = s.result := rfl
@[simp] theorem setDrv_now (s : State) (d : Nat) (x : Drover) : (setDrv s d x).now = s.now := rfl
@[simp] theorem setDrv_grid (s : State) (d : Nat) (x : Drover) : (setDrv s d x).grid = s.grid := rfl
@[simp] theorem setDrv_ctxs (s : State) (d : Nat) (x : Drover) : (setDrv s d x).ctxs = s.ctxs := rfl
@[simp] theorem setDrv_held (s : State) (d : Nat) (x : Drover) : (setDrv s d x).held = s.held := rfl
@[simp] theorem setDrv_starter (s : State) (d : Nat) (x : Drover) : (setDrv s d x).starter = s.starter := rfl
@[simp] theorem setDrv_adm (s : State) (d : Nat) (x : Drover) : (setDrv s d x).adm = s.adm := rfl
@[simp] theorem setDrv_relay (s : State) (d : Nat) (x : Drover) : (setDrv s d x).relay = s.relay := rfl
@[simp] theorem setDrv_man (s : State) (d : Nat) (x : Drover) : (setDrv s d x).man = s.man := rfl
@[simp] theorem setDrv_cores (s : State) (d : Nat) (x : Drover) : (setDrv s d x).cores = s.cores := rfl
@[simp] theorem setDrv_csm (s : State) (d : Nat) (x : Drover) : (setDrv s d x).csm = s.csm := rfl
@[simp] theorem setDrv_csmUpset (s : State) (d : Nat) (x : Drover) : (setDrv s d x).csmUpset = s.csmUpset := rfl
@[simp] theorem setDrv_dram (s : State) (d : Nat) (x : Drover) : (setDrv s d x).dram = s.dram := rfl
@[simp] theorem setDrv_evc (s : State) (d : Nat) (x : Drover) : (setDrv s d x).evc = s.evc := rfl
@[simp] theorem setDrv_log (s : State) (d : Nat) (x : Drover) : (setDrv s d x).log = s.log := rfl
@[simp] theorem setDrv_clus (s : State) (d : Nat) (x : Drover) : (setDrv s d x).clus = s.clus := rfl
@[simp] theorem setDrv_dict (s : State) (d : Nat) (x : Drover) : (setDrv s d x).dict = s.dict := rfl
@[simp] theorem setDrv_modes (s : State) (d : Nat) (x : Drover) : (setDrv s d x).modes = s.modes := rfl
@[simp] theorem setDrv_supply (s : State) (d : Nat) (x : Drover) : (setDrv s d x).supply = s.supply := rfl
@[simp] theorem setDrv_avail (s : State) (d : Nat) (x : Drover) : (setDrv s d x).avail = s.avail := rfl
@[simp] theorem setDrv_test (s : State) (d : Nat) (x : Drover) : (setDrv s d x).test = s.test := rfl
@[simp] theorem setDrv_store (s : State) (d : Nat) (x : Drover) : (setDrv s d x).store = s.store := rfl
@[simp] theorem setDrv_dramUpset (s : State) (d : Nat) (x : Drover) : (setDrv s d x).dramUpset = s.dramUpset := rfl
@[simp] theorem setDrv_drv (s : State) (d : Nat) (x : Drover) : (setDrv s d x).drv = Tbl.put {} s.drv d x := rfl
@[simp] theorem setDrv_cram (s : State) (d : Nat) (x : Drover) : (setDrv s d x).cram = s.cram := rfl
@[simp] theorem setDrv_cramUpset (s : State) (d : Nat) (x : Drover) : (setDrv s d x).cramUpset = s.cramUpset := rfl
@[simp] theorem setDrv_apps (s : State) (d : Nat) (x : Drover) : (setDrv s d x).apps = s.apps := rfl
@[simp] theorem setDrv_net (s : State) (d : Nat) (x : Drover) : (setDrv s d x).net = s.net := rfl
@[simp] theorem setDrv_audio (s : State) (d : Nat) (x : Drover) : (setDrv s d x).audio = s.audio := rfl
@[simp] theorem setDrv_overruns (s : State) (d : Nat) (x : Drover) : (setDrv s d x).overruns = s.overruns := rfl
@[simp] theorem setDrv_overLaps (s : State) (d : Nat) (x : Drover) : (setDrv s d x).overLaps = s.overLaps := rfl
@[simp] theorem setDrv_microFaults (s : State) (d : Nat) (x : Drover) : (setDrv s d x).microFaults = s.microFaults := rfl
@[simp] theorem setDrv_corrMicro (s : State) (d : Nat) (x : Drover) : (setDrv s d x).corrMicro = s.corrMicro := rfl
@[simp] theorem setDrv_sent (s : State) (d : Nat) (x : Drover) : (setDrv s d x).sent = s.sent := rfl

/-! onTest -/

@[simp] theorem onTest_pending (f : TestSt → TestSt) (s : State) : (onTest f s).pending = s.pending := rfl
@[simp] theorem onTest_free (f : TestSt → TestSt) (s : State) : (onTest f s).free = s.free := rfl
@[simp] theorem onTest_result (f : TestSt → TestSt) (s : State) : (onTest f s).result = s.result := rfl
@[simp] theorem onTest_now (f : TestSt → TestSt) (s : State) : (onTest f s).now = s.now := rfl
@[simp] theorem onTest_grid (f : TestSt → TestSt) (s : State) : (onTest f s).grid = s.grid := rfl
@[simp] theorem onTest_ctxs (f : TestSt → TestSt) (s : State) : (onTest f s).ctxs = s.ctxs := rfl
@[simp] theorem onTest_held (f : TestSt → TestSt) (s : State) : (onTest f s).held = s.held := rfl
@[simp] theorem onTest_starter (f : TestSt → TestSt) (s : State) : (onTest f s).starter = s.starter := rfl
@[simp] theorem onTest_adm (f : TestSt → TestSt) (s : State) : (onTest f s).adm = s.adm := rfl
@[simp] theorem onTest_relay (f : TestSt → TestSt) (s : State) : (onTest f s).relay = s.relay := rfl
@[simp] theorem onTest_man (f : TestSt → TestSt) (s : State) : (onTest f s).man = s.man := rfl
@[simp] theorem onTest_cores (f : TestSt → TestSt) (s : State) : (onTest f s).cores = s.cores := rfl
@[simp] theorem onTest_csm (f : TestSt → TestSt) (s : State) : (onTest f s).csm = s.csm := rfl
@[simp] theorem onTest_csmUpset (f : TestSt → TestSt) (s : State) : (onTest f s).csmUpset = s.csmUpset := rfl
@[simp] theorem onTest_dram (f : TestSt → TestSt) (s : State) : (onTest f s).dram = s.dram := rfl
@[simp] theorem onTest_evc (f : TestSt → TestSt) (s : State) : (onTest f s).evc = s.evc := rfl
@[simp] theorem onTest_log (f : TestSt → TestSt) (s : State) : (onTest f s).log = s.log := rfl
@[simp] theorem onTest_clus (f : TestSt → TestSt) (s : State) : (onTest f s).clus = s.clus := rfl
@[simp] theorem onTest_dict (f : TestSt → TestSt) (s : State) : (onTest f s).dict = s.dict := rfl
@[simp] theorem onTest_modes (f : TestSt → TestSt) (s : State) : (onTest f s).modes = s.modes := rfl
@[simp] theorem onTest_supply (f : TestSt → TestSt) (s : State) : (onTest f s).supply = s.supply := rfl
@[simp] theorem onTest_avail (f : TestSt → TestSt) (s : State) : (onTest f s).avail = s.avail := rfl
@[simp] theorem onTest_test (f : TestSt → TestSt) (s : State) : (onTest f s).test = f s.test := rfl
@[simp] theorem onTest_store (f : TestSt → TestSt) (s : State) : (onTest f s).store = s.store := rfl
@[simp] theorem onTest_dramUpset (f : TestSt → TestSt) (s : State) : (onTest f s).dramUpset = s.dramUpset := rfl
@[simp] theorem onTest_drv (f : TestSt → TestSt) (s : State) : (onTest f s).drv = s.drv := rfl
@[simp] theorem onTest_cram (f : TestSt → TestSt) (s : State) : (onTest f s).cram = s.cram := rfl
@[simp] theorem onTest_cramUpset (f : TestSt → TestSt) (s : State) : (onTest f s).cramUpset = s.cramUpset := rfl
@[simp] theorem onTest_apps (f : TestSt → TestSt) (s : State) : (onTest f s).apps = s.apps := rfl
@[simp] theorem onTest_net (f : TestSt → TestSt) (s : State) : (onTest f s).net = s.net := rfl
@[simp] theorem onTest_audio (f : TestSt → TestSt) (s : State) : (onTest f s).audio = s.audio := rfl
@[simp] theorem onTest_overruns (f : TestSt → TestSt) (s : State) : (onTest f s).overruns = s.overruns := rfl
@[simp] theorem onTest_overLaps (f : TestSt → TestSt) (s : State) : (onTest f s).overLaps = s.overLaps := rfl
@[simp] theorem onTest_microFaults (f : TestSt → TestSt) (s : State) : (onTest f s).microFaults = s.microFaults := rfl
@[simp] theorem onTest_corrMicro (f : TestSt → TestSt) (s : State) : (onTest f s).corrMicro = s.corrMicro := rfl
@[simp] theorem onTest_sent (f : TestSt → TestSt) (s : State) : (onTest f s).sent = s.sent := rfl

/-! answered -/

@[simp] theorem answered_pending (st : Status) (body : Bytes) (s : State) : (answered st body s).pending = s.pending := rfl
@[simp] theorem answered_free (st : Status) (body : Bytes) (s : State) : (answered st body s).free = s.free := rfl
@[simp] theorem answered_result (st : Status) (body : Bytes) (s : State) : (answered st body s).result = s.result := rfl
@[simp] theorem answered_now (st : Status) (body : Bytes) (s : State) : (answered st body s).now = s.now := rfl
@[simp] theorem answered_grid (st : Status) (body : Bytes) (s : State) : (answered st body s).grid = s.grid := rfl
@[simp] theorem answered_ctxs (st : Status) (body : Bytes) (s : State) : (answered st body s).ctxs = s.ctxs := rfl
@[simp] theorem answered_held (st : Status) (body : Bytes) (s : State) : (answered st body s).held = s.held := rfl
@[simp] theorem answered_starter (st : Status) (body : Bytes) (s : State) : (answered st body s).starter = s.starter := rfl
@[simp] theorem answered_adm (st : Status) (body : Bytes) (s : State) : (answered st body s).adm = s.adm := rfl
@[simp] theorem answered_relay (st : Status) (body : Bytes) (s : State) : (answered st body s).relay = s.relay := rfl
@[simp] theorem answered_man (st : Status) (body : Bytes) (s : State) : (answered st body s).man = s.man := rfl
@[simp] theorem answered_cores (st : Status) (body : Bytes) (s : State) : (answered st body s).cores = s.cores := rfl
@[simp] theorem answered_csm (st : Status) (body : Bytes) (s : State) : (answered st body s).csm = s.csm := rfl
@[simp] theorem answered_csmUpset (st : Status) (body : Bytes) (s : State) : (answered st body s).csmUpset = s.csmUpset := rfl
@[simp] theorem answered_dram (st : Status) (body : Bytes) (s : State) : (answered st body s).dram = s.dram := rfl
@[simp] theorem answered_evc (st : Status) (body : Bytes) (s : State) : (answered st body s).evc = s.evc := rfl
@[simp] theorem answered_log (st : Status) (body : Bytes) (s : State) : (answered st body s).log = s.log := rfl
@[simp] theorem answered_clus (st : Status) (body : Bytes) (s : State) : (answered st body s).clus = s.clus := rfl
@[simp] theorem answered_dict (st : Status) (body : Bytes) (s : State) : (answered st body s).dict = { s.dict with last := st, lastBody := body } := rfl
@[simp] theorem answered_modes (st : Status) (body : Bytes) (s : State) : (answered st body s).modes = s.modes := rfl
@[simp] theorem answered_supply (st : Status) (body : Bytes) (s : State) : (answered st body s).supply = s.supply := rfl
@[simp] theorem answered_avail (st : Status) (body : Bytes) (s : State) : (answered st body s).avail = s.avail := rfl
@[simp] theorem answered_test (st : Status) (body : Bytes) (s : State) : (answered st body s).test = s.test := rfl
@[simp] theorem answered_store (st : Status) (body : Bytes) (s : State) : (answered st body s).store = s.store := rfl
@[simp] theorem answered_dramUpset (st : Status) (body : Bytes) (s : State) : (answered st body s).dramUpset = s.dramUpset := rfl
@[simp] theorem answered_drv (st : Status) (body : Bytes) (s : State) : (answered st body s).drv = s.drv := rfl
@[simp] theorem answered_cram (st : Status) (body : Bytes) (s : State) : (answered st body s).cram = s.cram := rfl
@[simp] theorem answered_cramUpset (st : Status) (body : Bytes) (s : State) : (answered st body s).cramUpset = s.cramUpset := rfl
@[simp] theorem answered_apps (st : Status) (body : Bytes) (s : State) : (answered st body s).apps = s.apps := rfl
@[simp] theorem answered_net (st : Status) (body : Bytes) (s : State) : (answered st body s).net = s.net := rfl
@[simp] theorem answered_audio (st : Status) (body : Bytes) (s : State) : (answered st body s).audio = s.audio := rfl
@[simp] theorem answered_overruns (st : Status) (body : Bytes) (s : State) : (answered st body s).overruns = s.overruns := rfl
@[simp] theorem answered_overLaps (st : Status) (body : Bytes) (s : State) : (answered st body s).overLaps = s.overLaps := rfl
@[simp] theorem answered_microFaults (st : Status) (body : Bytes) (s : State) : (answered st body s).microFaults = s.microFaults := rfl
@[simp] theorem answered_corrMicro (st : Status) (body : Bytes) (s : State) : (answered st body s).corrMicro = s.corrMicro := rfl
@[simp] theorem answered_sent (st : Status) (body : Bytes) (s : State) : (answered st body s).sent = s.sent := rfl

/-! setSemOwner -/

@[simp] theorem setSemOwner_pending (i : Nat) (v : Nat) (s : State) : (setSemOwner i v s).pending = s.pending := rfl
@[simp] theorem setSemOwner_free (i : Nat) (v : Nat) (s : State) : (setSemOwner i v s).free = s.free := rfl
@[simp] theorem setSemOwner_result (i : Nat) (v : Nat) (s : State) : (setSemOwner i v s).result = s.result := rfl
@[simp] theorem setSemOwner_now (i : Nat) (v : Nat) (s : State) : (setSemOwner i v s).now = s.now := rfl
@[simp] theorem setSemOwner_grid (i : Nat) (v : Nat) (s : State) : (setSemOwner i v s).grid = s.grid := rfl
@[simp] theorem setSemOwner_ctxs (i : Nat) (v : Nat) (s : State) : (setSemOwner i v s).ctxs = s.ctxs := rfl
@[simp] theorem setSemOwner_held (i : Nat) (v : Nat) (s : State) : (setSemOwner i v s).held = s.held := rfl
@[simp] theorem setSemOwner_starter (i : Nat) (v : Nat) (s : State) : (setSemOwner i v s).starter = s.starter := rfl
@[simp] theorem setSemOwner_adm (i : Nat) (v : Nat) (s : State) : (setSemOwner i v s).adm = s.adm := rfl
@[simp] theorem setSemOwner_relay (i : Nat) (v : Nat) (s : State) : (setSemOwner i v s).relay = s.relay := rfl
@[simp] theorem setSemOwner_man (i : Nat) (v : Nat) (s : State) : (setSemOwner i v s).man = s.man := rfl
@[simp] theorem setSemOwner_cores (i : Nat) (v : Nat) (s : State) : (setSemOwner i v s).cores = s.cores := rfl
@[simp] theorem setSemOwner_csm (i : Nat) (v : Nat) (s : State) : (setSemOwner i v s).csm = s.csm := rfl
@[simp] theorem setSemOwner_csmUpset (i : Nat) (v : Nat) (s : State) : (setSemOwner i v s).csmUpset = s.csmUpset := rfl
@[simp] theorem setSemOwner_dram (i : Nat) (v : Nat) (s : State) : (setSemOwner i v s).dram = s.dram := rfl
@[simp] theorem setSemOwner_evc (i : Nat) (v : Nat) (s : State) : (setSemOwner i v s).evc = s.evc := rfl
@[simp] theorem setSemOwner_log (i : Nat) (v : Nat) (s : State) : (setSemOwner i v s).log = s.log := rfl
@[simp] theorem setSemOwner_clus (i : Nat) (v : Nat) (s : State) : (setSemOwner i v s).clus = s.clus := rfl
@[simp] theorem setSemOwner_dict (i : Nat) (v : Nat) (s : State) : (setSemOwner i v s).dict = s.dict := rfl
@[simp] theorem setSemOwner_modes (i : Nat) (v : Nat) (s : State) : (setSemOwner i v s).modes = s.modes := rfl
@[simp] theorem setSemOwner_supply (i : Nat) (v : Nat) (s : State) : (setSemOwner i v s).supply = s.supply := rfl
@[simp] theorem setSemOwner_avail (i : Nat) (v : Nat) (s : State) : (setSemOwner i v s).avail = s.avail := rfl
@[simp] theorem setSemOwner_test (i : Nat) (v : Nat) (s : State) : (setSemOwner i v s).test = s.test := rfl
@[simp] theorem setSemOwner_store (i : Nat) (v : Nat) (s : State) : (setSemOwner i v s).store = s.store := rfl
@[simp] theorem setSemOwner_dramUpset (i : Nat) (v : Nat) (s : State) : (setSemOwner i v s).dramUpset = s.dramUpset := rfl
@[simp] theorem setSemOwner_drv (i : Nat) (v : Nat) (s : State) : (setSemOwner i v s).drv = s.drv := rfl
@[simp] theorem setSemOwner_cram (i : Nat) (v : Nat) (s : State) : (setSemOwner i v s).cram = s.cram := rfl
@[simp] theorem setSemOwner_cramUpset (i : Nat) (v : Nat) (s : State) : (setSemOwner i v s).cramUpset = s.cramUpset := rfl
@[simp] theorem setSemOwner_apps (i : Nat) (v : Nat) (s : State) : (setSemOwner i v s).apps = { s.apps with semOwner := Tbl.put 0 s.apps.semOwner i v } := rfl
@[simp] theorem setSemOwner_net (i : Nat) (v : Nat) (s : State) : (setSemOwner i v s).net = s.net := rfl
@[simp] theorem setSemOwner_audio (i : Nat) (v : Nat) (s : State) : (setSemOwner i v s).audio = s.audio := rfl
@[simp] theorem setSemOwner_overruns (i : Nat) (v : Nat) (s : State) : (setSemOwner i v s).overruns = s.overruns := rfl
@[simp] theorem setSemOwner_overLaps (i : Nat) (v : Nat) (s : State) : (setSemOwner i v s).overLaps = s.overLaps := rfl
@[simp] theorem setSemOwner_microFaults (i : Nat) (v : Nat) (s : State) : (setSemOwner i v s).microFaults = s.microFaults := rfl
@[simp] theorem setSemOwner_corrMicro (i : Nat) (v : Nat) (s : State) : (setSemOwner i v s).corrMicro = s.corrMicro := rfl
@[simp] theorem setSemOwner_sent (i : Nat) (v : Nat) (s : State) : (setSemOwner i v s).sent = s.sent := rfl

/-! setAppSubs -/

@[simp] theorem setAppSubs_pending (l : List AppSub) (s : State) : (setAppSubs l s).pending = s.pending := rfl
@[simp] theorem setAppSubs_free (l : List AppSub) (s : State) : (setAppSubs l s).free = s.free := rfl
@[simp] theorem setAppSubs_result (l : List AppSub) (s : State) : (setAppSubs l s).result = s.result := rfl
@[simp] theorem setAppSubs_now (l : List AppSub) (s : State) : (setAppSubs l s).now = s.now := rfl
@[simp] theorem setAppSubs_grid (l : List AppSub) (s : State) : (setAppSubs l s).grid = s.grid := rfl
@[simp] theorem setAppSubs_ctxs (l : List AppSub) (s : State) : (setAppSubs l s).ctxs = s.ctxs := rfl
@[simp] theorem setAppSubs_held (l : List AppSub) (s : State) : (setAppSubs l s).held = s.held := rfl
@[simp] theorem setAppSubs_starter (l : List AppSub) (s : State) : (setAppSubs l s).starter = s.starter := rfl
@[simp] theorem setAppSubs_adm (l : List AppSub) (s : State) : (setAppSubs l s).adm = s.adm := rfl
@[simp] theorem setAppSubs_relay (l : List AppSub) (s : State) : (setAppSubs l s).relay = s.relay := rfl
@[simp] theorem setAppSubs_man (l : List AppSub) (s : State) : (setAppSubs l s).man = s.man := rfl
@[simp] theorem setAppSubs_cores (l : List AppSub) (s : State) : (setAppSubs l s).cores = s.cores := rfl
@[simp] theorem setAppSubs_csm (l : List AppSub) (s : State) : (setAppSubs l s).csm = s.csm := rfl
@[simp] theorem setAppSubs_csmUpset (l : List AppSub) (s : State) : (setAppSubs l s).csmUpset = s.csmUpset := rfl
@[simp] theorem setAppSubs_dram (l : List AppSub) (s : State) : (setAppSubs l s).dram = s.dram := rfl
@[simp] theorem setAppSubs_evc (l : List AppSub) (s : State) : (setAppSubs l s).evc = s.evc := rfl
@[simp] theorem setAppSubs_log (l : List AppSub) (s : State) : (setAppSubs l s).log = s.log := rfl
@[simp] theorem setAppSubs_clus (l : List AppSub) (s : State) : (setAppSubs l s).clus = s.clus := rfl
@[simp] theorem setAppSubs_dict (l : List AppSub) (s : State) : (setAppSubs l s).dict = s.dict := rfl
@[simp] theorem setAppSubs_modes (l : List AppSub) (s : State) : (setAppSubs l s).modes = s.modes := rfl
@[simp] theorem setAppSubs_supply (l : List AppSub) (s : State) : (setAppSubs l s).supply = s.supply := rfl
@[simp] theorem setAppSubs_avail (l : List AppSub) (s : State) : (setAppSubs l s).avail = s.avail := rfl
@[simp] theorem setAppSubs_test (l : List AppSub) (s : State) : (setAppSubs l s).test = s.test := rfl
@[simp] theorem setAppSubs_store (l : List AppSub) (s : State) : (setAppSubs l s).store = s.store := rfl
@[simp] theorem setAppSubs_dramUpset (l : List AppSub) (s : State) : (setAppSubs l s).dramUpset = s.dramUpset := rfl
@[simp] theorem setAppSubs_drv (l : List AppSub) (s : State) : (setAppSubs l s).drv = s.drv := rfl
@[simp] theorem setAppSubs_cram (l : List AppSub) (s : State) : (setAppSubs l s).cram = s.cram := rfl
@[simp] theorem setAppSubs_cramUpset (l : List AppSub) (s : State) : (setAppSubs l s).cramUpset = s.cramUpset := rfl
@[simp] theorem setAppSubs_apps (l : List AppSub) (s : State) : (setAppSubs l s).apps = { s.apps with subs := l } := rfl
@[simp] theorem setAppSubs_net (l : List AppSub) (s : State) : (setAppSubs l s).net = s.net := rfl
@[simp] theorem setAppSubs_audio (l : List AppSub) (s : State) : (setAppSubs l s).audio = s.audio := rfl
@[simp] theorem setAppSubs_overruns (l : List AppSub) (s : State) : (setAppSubs l s).overruns = s.overruns := rfl
@[simp] theorem setAppSubs_overLaps (l : List AppSub) (s : State) : (setAppSubs l s).overLaps = s.overLaps := rfl
@[simp] theorem setAppSubs_microFaults (l : List AppSub) (s : State) : (setAppSubs l s).microFaults = s.microFaults := rfl
@[simp] theorem setAppSubs_corrMicro (l : List AppSub) (s : State) : (setAppSubs l s).corrMicro = s.corrMicro := rfl
@[simp] theorem setAppSubs_sent (l : List AppSub) (s : State) : (setAppSubs l s).sent = s.sent := rfl

/-! Reads after writes -/

@[simp] theorem coreOf_setCore (s : State) (k j : Nat) (x : SigCore) : coreOf (setCore s k x) j = if j = k then x else coreOf s j :=
  Tbl.get_put _ k j x

@[simp] theorem ctxOf_setCtx (s : State) (k j : Nat) (x : Ctx) : ctxOf (setCtx s k x) j = if j = k then x else ctxOf s j :=
  Tbl.get_put _ k j x

@[simp] theorem clusterOf_setCluster (s : State) (k j : Nat) (x : ClusterSt) : clusterOf (setCluster s k x) j = if j = k then x else clusterOf s j :=
  Tbl.get_put _ k j x

@[simp] theorem drvOf_setDrv (s : State) (k j : Nat) (x : Drover) : drvOf (setDrv s k x) j = if j = k then x else drvOf s j :=
  Tbl.get_put _ k j x

@[simp] theorem manOf_setMan (s : State) (k j : Nat) (x : Manifest) : manOf (setMan s k x) j = if j = k then x else manOf s j :=
  Tbl.get_put _ k j x

@[simp] theorem appOf_setApp (s : State) (k j : Nat) (x : App) : appOf (setApp s k x) j = if j = k then x else appOf s j :=
  Tbl.get_put _ k j x

@[simp] theorem objOf_setObj (s : State) (k j : Nat) (x : SObj) : objOf (setObj s k x) j = if j = k then x else objOf s j :=
  Tbl.get_put _ k j x

@[simp] theorem ringOf_setRing (s : State) (k j : Nat) (x : Ring) : ringOf (setRing s k x) j = if j = k then x else ringOf s j :=
  Tbl.get_put _ k j x

@[simp] theorem keymapOf_setKeymap (s : State) (k j : Nat) (x : Keymap) : keymapOf (setKeymap s k x) j = if j = k then x else keymapOf s j :=
  Tbl.get_put _ k j x

@[simp] theorem sessionOf_setSession (s : State) (k j : Nat) (x : Session) : sessionOf (setSession s k x) j = if j = k then x else sessionOf s j :=
  Tbl.get_put _ k j x

@[simp] theorem superOf_setSuper (s : State) (k j : Nat) (x : Superblock) : superOf (setSuper s k x) j = if j = k then x else superOf s j :=
  Tbl.get_put _ k j x

end Sys2Proof.Machine
end

