-- ==== Sys2Proof/Laws/Drover.lean ====
section
/-! SUPPORT. What the shared operations of the Drover instructions do: one lemma for each. -/

namespace Sys2Proof.Machine

@[simp] theorem drvOf_updDrv (s : State) (d e : Nat) (f : Drover → Drover) :
    drvOf (updDrv s d f) e = if e = d then f (drvOf s d) else drvOf s e := by
  unfold updDrv
  rw [drvOf_setDrv]

/-- A core whose fetch queue holds something is not the core of reset. -/
theorem Drover.queue_ne {x : Drover} (h : x.queue ≠ []) : x ≠ {} := by
  rintro rfl
  exact h rfl

theorem setDrv_setDrv (s : State) (d : Nat) {x : Drover} (y : Drover) (h : x ≠ {}) :
    setDrv (setDrv s d x) d y = setDrv s d y := by
  unfold setDrv
  rw [Tbl.put_put _ _ _ h]

theorem updDrv_setDrv (s : State) (d : Nat) {x : Drover} (f : Drover → Drover) (h : x ≠ {}) :
    updDrv (setDrv s d x) d f = setDrv s d (f x) := by
  unfold updDrv
  rw [drvOf_setDrv, if_pos rfl, setDrv_setDrv s d _ h]

theorem State.Issues.queue {s : State} {d : Nat} {w : BitVec 32} (h : s.Issues d w) : fetchQueue (drvOf s d) ≠ [] := by
  intro hq
  have := h.fetched
  rw [hq] at this
  exact absurd this (by simp)

/-- A core issues the instruction of its word, if that has no exception of its own. -/
theorem drvStep_issues {o : DrvOp} {eff : Nat → Drover → DrvWord → State → State} {d : Nat} {s : State} {w : BitVec 32}
    (h : s.Issues d w) (ho : drvDecode ⟨w⟩ = some o) (hc : drvCheck s (drvOf s d) o ⟨w⟩ = none) :
    drvStep o eff d s = eff d (drvOf s d) ⟨w⟩ (setDrv s d { drvOf s d with queue := fetchQueue (drvOf s d) }) := by
  have hq : drvAt s d = .instr o ⟨w⟩ := by
    unfold drvAt
    dsimp only
    have hf := h.fetched
    rw [h.granted]
    cases hl : fetchQueue (drvOf s d) with
    | nil => rw [hl] at hf; exact absurd hf (by simp)
    | cons e t =>
      rw [hl] at hf
      simp only [List.head?_cons, Option.map_some, Option.some.injEq] at hf
      simp only [hf, ho, hc]
  unfold drvStep
  simp only [h.free, h.due, hq, Bool.not_true, Bool.false_eq_true, if_false, if_true]

/-- An instruction with an exception of its own takes it. -/
theorem drvStep_raises {o : DrvOp} {eff : Nat → Drover → DrvWord → State → State} {d : Nat} {s : State} {w : BitVec 32}
    {k : Nat} {epc esr efa : BitVec 32} (h : s.Issues d w) (ho : drvDecode ⟨w⟩ = some o)
    (hc : drvCheck s (drvOf s d) o ⟨w⟩ = some (k, epc, esr, efa)) : drvStep o eff d s = drvRaise d k epc esr efa s := by
  have hf := h.fetched
  cases hl : fetchQueue (drvOf s d) with
  | nil => rw [hl] at hf; exact absurd hf (by simp)
  | cons e t =>
    rw [hl] at hf
    simp only [List.head?_cons, Option.map_some, Option.some.injEq] at hf
    have hq : drvAt s d = .except k epc esr efa := by
      unfold drvAt
      dsimp only
      rw [h.granted]
      simp only [hl, hf, ho, hc]
    have hp : drvOpAt s d = some o := by
      unfold drvOpAt
      simp only [hl, hf, ho]
    unfold drvStep
    simp only [h.free, h.due, hq, hp, Bool.not_true, Bool.false_eq_true, if_false, true_or, or_true, if_true]

/-- A register instruction writes its register and goes on. -/
theorem drvNext_issues {s : State} {d : Nat} {w : BitVec 32} (h : s.Issues d w) (f : Drover → Drover) :
    drvNext d f (setDrv s d { drvOf s d with queue := fetchQueue (drvOf s d) }) =
      setDrv s d ((f { drvOf s d with queue := fetchQueue (drvOf s d) }).retire ((drvOf s d).pc + 4)) := by
  unfold drvNext
  rw [updDrv_setDrv _ _ _ (Drover.queue_ne h.queue)]

theorem Drover.setReg_retire (x : Drover) (n : Nat) (v pc : BitVec 32) : (x.setReg n v).retire pc = (x.retire pc).setReg n v := by
  unfold Drover.setReg
  split
  · rfl
  · split <;> rfl

theorem Drover.retire_queue (x : Drover) (pc : BitVec 32) : ({ x with queue := fetchQueue x } : Drover).retire pc = x.past pc := rfl

theorem effR_issues {s : State} {d : Nat} {w : BitVec 32} (h : s.Issues d w) (f : BitVec 32 → BitVec 32 → BitVec 32) :
    effR f d (drvOf s d) ⟨w⟩ (setDrv s d { drvOf s d with queue := fetchQueue (drvOf s d) }) =
      s.wrote d (DrvWord.ra ⟨w⟩) (f ((drvOf s d).reg (DrvWord.rb ⟨w⟩)) ((drvOf s d).reg (DrvWord.rc ⟨w⟩))) := by
  unfold effR State.wrote
  rw [drvNext_issues h, Drover.setReg_retire, Drover.retire_queue]

theorem effI_issues {s : State} {d : Nat} {w : BitVec 32} (h : s.Issues d w) (f : BitVec 32 → DrvWord → BitVec 32) :
    effI f d (drvOf s d) ⟨w⟩ (setDrv s d { drvOf s d with queue := fetchQueue (drvOf s d) }) =
      s.wrote d (DrvWord.ra ⟨w⟩) (f ((drvOf s d).reg (DrvWord.rb ⟨w⟩)) ⟨w⟩) := by
  unfold effI State.wrote
  rw [drvNext_issues h, Drover.setReg_retire, Drover.retire_queue]

/-- The one register that an instruction writes reads as written, W0 as 0, and every other register as before. -/
theorem Drover.reg_setReg (x : Drover) (k n : Nat) (v : BitVec 32) :
    (x.setReg k v).reg n = if n = k ∧ k ≠ 0 then v else x.reg n := by
  unfold Drover.reg Drover.setReg
  by_cases hk : k = 0
  · subst hk; simp
  · by_cases h30 : k = 30
    · subst h30
      by_cases hn : n = 30
      · subst hn; simp
      · by_cases h0 : n = 0 <;> simp [hn, h0]
    · by_cases hn : n = k
      · subst hn; simp [hk, h30]
      · by_cases h0 : n = 0
        · simp [h0]; omega
        · by_cases h : n = 30
          · subst h; simp [hk, h30, hn]
          · simp [hk, h30, hn, h0, h, Tbl.get_put]

end Sys2Proof.Machine
end

