-- ==== Sys2Proof/Laws/Kept.lean ====
section
/-! SUPPORT. What no command changes or breaks: the queue of commands, the life-cycle state but forward, the claims of the
event concentrator and the canonical form of the memories. One lemma for each shared operation says that it keeps them. -/

namespace Sys2Proof.Machine

/-- What every operation over the state keeps. -/
structure Kept (qq : List Instr) (ll : Nat) (s : State) : Prop where
  pending : s.pending = qq
  life    : ll ≤ s.modes.life
  claims  : s.evc.ClaimsOk
  mem     : s.MemOk

/-- The same of what a command answers. -/
def KeptOut (qq : List Instr) (ll : Nat) (o : Out) : Prop := ∀ t, o = .next t → Kept qq ll t

def KeptOpt (qq : List Instr) (ll : Nat) (o : Option State) : Prop := ∀ t, o = some t → Kept qq ll t

def KeptExc {ε : Type} (qq : List Instr) (ll : Nat) (o : Except ε State) : Prop := ∀ t, o = .ok t → Kept qq ll t

variable {qq : List Instr} {ll : Nat} {α β γ ε : Type}

theorem KeptOut.next {s : State} (h : Kept qq ll s) : KeptOut qq ll (.next s) := by
  intro t e; cases e; exact h

theorem KeptOpt.none : KeptOpt qq ll none := by
  intro t e; cases e

theorem KeptOpt.some {s : State} (h : Kept qq ll s) : KeptOpt qq ll (some s) := by
  intro t e; cases e; exact h

theorem KeptExc.error {e : ε} : KeptExc qq ll (.error e : Except ε State) := by
  intro t e; cases e

theorem KeptExc.ok {s : State} (h : Kept qq ll s) : KeptExc qq ll (.ok s : Except ε State) := by
  intro t e; cases e; exact h

theorem KeptOpt.get {o : Option State} {t : State} (e : o = Option.some t) (h : KeptOpt qq ll o) : Kept qq ll t := h t e

theorem KeptExc.get {o : Except ε State} {t : State} (e : o = .ok t) (h : KeptExc qq ll o) : Kept qq ll t := h t e

theorem kept_snd {x : α × State} {a : α} {t : State} (e : x = (a, t)) (h : Kept qq ll x.2) : Kept qq ll t := by
  subst e; exact h

theorem kept_fst {x : State × α} {a : α} {t : State} (e : x = (t, a)) (h : Kept qq ll x.1) : Kept qq ll t := by
  subst e; exact h

theorem kept_trd {x : α × β × State} {a : α} {b : β} {t : State} (e : x = (a, b, t)) (h : Kept qq ll x.2.2) : Kept qq ll t := by
  subst e; exact h

/-- A state named by a let is shown to be kept once. -/
theorem kept_have {s : State} {p : Prop} (h : Kept qq ll s) (hp : Kept qq ll s → p) : p := hp h

/-- The same of an effect that may be none of a group's. -/
def KeptRes (qq : List Instr) (ll : Nat) (o : Option (Status × State)) : Prop := ∀ r, o = some r → Kept qq ll r.2

theorem KeptRes.none : KeptRes qq ll none := by
  intro r e; cases e

theorem KeptRes.some {r : Status × State} (h : Kept qq ll r.2) : KeptRes qq ll (some r) := by
  intro t e; cases e; exact h

theorem KeptRes.get {o : Option (Status × State)} {r : Status × State} (e : o = Option.some r) (h : KeptRes qq ll o) :
    Kept qq ll r.2 := h r e

theorem KeptRes.ite {c : Prop} [Decidable c] {a b : Option (Status × State)} (ha : KeptRes qq ll a) (hb : KeptRes qq ll b) :
    KeptRes qq ll (if c then a else b) := by
  split
  · exact ha
  · exact hb

theorem kept_ite {c : Prop} [Decidable c] {a b : State} (ha : Kept qq ll a) (hb : Kept qq ll b) :
    Kept qq ll (if c then a else b) := by
  split
  · exact ha
  · exact hb

theorem kept_ite_snd {c : Prop} [Decidable c] {a b : α × State} (ha : Kept qq ll a.2) (hb : Kept qq ll b.2) :
    Kept qq ll (if c then a else b).2 := by
  split
  · exact ha
  · exact hb

theorem kept_foldl {f : State → α → State} {as : List α} {s : State} (hf : ∀ s a, Kept qq ll s → Kept qq ll (f s a))
    (h : Kept qq ll s) : Kept qq ll (as.foldl f s) := by
  induction as generalizing s with
  | nil => exact h
  | cons a as ih => exact ih (hf s a h)

theorem kept_foldl_fst {f : State × β → α → State × β} {as : List α} {x : State × β}
    (hf : ∀ x a, Kept qq ll x.1 → Kept qq ll (f x a).1) (h : Kept qq ll x.1) : Kept qq ll (as.foldl f x).1 := by
  induction as generalizing x with
  | nil => exact h
  | cons a as ih => exact ih (hf x a h)

/-- An update of fields that the invariant does not speak of. -/
theorem Kept.upd {s : State} 
    {a0 : List Instr} {a1 : Nat} {a2 : Nat} {a3 : Nat} {a4 : Grid} {a5 : Tbl Ctx} {a6 : List HeldWrite} {a7 : Starter} {a8 : Admission} {a9 : Relay} {a10 : Manifests} {a11 : Tbl SigCore} {a12 : Tbl (BitVec 24)} {a13 : Tbl Bool} {a14 : Tbl Byte} {a15 : Evc} {a16 : ErrLog} {a17 : Tbl ClusterSt} {a18 : Dict} {a19 : ModeSt} {a20 : Supply} {a21 : Avail} {a22 : TestSt} {a23 : Store} {a24 : Tbl Bool} {a25 : Tbl Drover} {a26 : Tbl Byte} {a27 : Tbl Bool} {a28 : Apps} {a29 : Net} {a30 : Audio} {a31 : Tbl Nat} {a32 : Nat} {a33 : Nat} {a34 : Nat} {a35 : List Emission}
    (h : Kept qq ll s) (hp : a0 = s.pending) (hl : s.modes.life ≤ a19.life) (he : s.evc.ClaimsOk → a15.ClaimsOk)
    (hd : Tbl.wf 0 s.dram = true → Tbl.wf 0 a14 = true)
    (hc : Tbl.wf 0 s.cram = true → Tbl.wf 0 a26 = true) (hm : Tbl.wf 0 s.csm = true → Tbl.wf 0 a12 = true) : Kept qq ll (State.mk a0 a1 a2 a3 a4 a5 a6 a7 a8 a9 a10 a11 a12 a13 a14 a15 a16 a17 a18 a19 a20 a21 a22 a23 a24 a25 a26 a27 a28 a29 a30 a31 a32 a33 a34 a35) := by
  refine ⟨hp.trans h.pending, Nat.le_trans h.life hl, he h.claims, ⟨?_, ?_, ?_⟩⟩
  · exact hd h.mem.dram
  · exact hc h.mem.cram
  · exact hm h.mem.csm

/-! ### The event concentrator -/

theorem Tbl.mem_put {d : α} [DecidableEq α] {t : Tbl α} {k : Nat} {v : α} {x : Nat × α} (h : x ∈ Tbl.put d t k v) :
    x ∈ t ∨ x = (k, v) := by
  have key : ∀ t : Tbl α, x ∈ Tbl.enter t k v → x ∈ t ∨ x = (k, v) := by
    intro t
    induction t with
    | nil => simp [Tbl.enter]
    | cons e t ih =>
      obtain ⟨j, w⟩ := e
      simp only [Tbl.enter]
      split
      · simp only [List.mem_cons]
        rintro (h | h | h) <;> simp [h]
      · split
        · simp only [List.mem_cons]
          rintro (h | h) <;> simp [h]
        · simp only [List.mem_cons]
          rintro (h | h)
          · simp [h]
          · rcases ih h with h | h <;> simp [h]
  unfold Tbl.put at h
  split at h
  · exact .inl (List.mem_filter.mp h).1
  · exact key t h

theorem Tbl.mem_of_get {d : α} {t : Tbl α} {k : Nat} (h : Tbl.get d t k ≠ d) : (k, Tbl.get d t k) ∈ t := by
  induction t with
  | nil => exact absurd rfl h
  | cons e t ih =>
    obtain ⟨j, w⟩ := e
    simp only [Tbl.get] at h ⊢
    split
    · rename_i he; subst he; exact List.mem_cons_self
    · rename_i he
      simp only [he, if_false] at h
      exact List.mem_cons_of_mem _ (ih h)

theorem Evc.ClaimsOk.of_src {e f : Evc} (h : e.ClaimsOk) (hs : f.src = e.src) : f.ClaimsOk := by
  constructor
  · rw [hs]; exact h.canonical
  · rw [hs]; exact h.exist
  · rw [hs]; exact h.alone

/-- An entry that is active is in the list. -/
theorem evcSrc_mem {e : Evc} {n : Nat} (h : (evcSrc e n).act = true) : (n, evcSrc e n) ∈ e.src := by
  refine Tbl.mem_of_get (d := ({} : EvcSrc)) ?_
  intro he
  simp only [evcSrc] at h
  rw [he] at h
  exact absurd h (by decide)

/-- A source's entry is replaced by one that is active for the same owner only where it was active for it. -/
theorem Evc.ClaimsOk.put {e : Evc} {n : Nat} {x : EvcSrc} (h : e.ClaimsOk)
    (hx : x.act = true → (evcSrc e n).act = true ∧ (evcSrc e n).owner = x.owner) : (evcPut e n x).ClaimsOk := by
  have key : ∀ y ∈ (evcPut e n x).src, y.2.act = true → ∃ z ∈ e.src, z.1 = y.1 ∧ z.2.act = true ∧ z.2.owner = y.2.owner := by
    intro y hy ha
    rcases Tbl.mem_put hy with hy | hy
    · exact ⟨y, hy, rfl, ha, rfl⟩
    · subst hy
      obtain ⟨h1, h2⟩ := hx ha
      exact ⟨_, evcSrc_mem h1, rfl, h1, h2⟩
  refine ⟨Tbl.wf_put n x h.canonical, ?_, ?_⟩
  · intro y hy ha
    obtain ⟨z, hz, e1, za, -⟩ := key y hy ha
    exact e1 ▸ h.exist z hz za
  · intro a ha b hb aa ba ho
    obtain ⟨z, hz, e1, za, zo⟩ := key a ha aa
    obtain ⟨w, hw, e2, wa, wo⟩ := key b hb ba
    rw [← e1, ← e2]
    exact h.alone z hz w hw za wa (by rw [zo, wo, ho])

theorem EvcSrc.settle_act (x : EvcSrc) : x.settle.act = x.act := by
  unfold EvcSrc.settle EvcSrc.fire; split <;> rfl

theorem EvcSrc.settle_owner (x : EvcSrc) : x.settle.owner = x.owner := by
  unfold EvcSrc.settle EvcSrc.fire; split <;> rfl

theorem evcPulse_claims {e : Evc} (n : Nat) (h : e.ClaimsOk) : (evcPulse n e).ClaimsOk := by
  unfold evcPulse
  split
  · refine h.put ?_
    unfold EvcSrc.fire
    intro ha
    repeat' split at ha
    all_goals (first | exact ⟨ha, by repeat' split <;> rfl⟩ | exact ⟨ha, by (repeat' split) <;> first | rfl | contradiction⟩)
  · exact h

theorem evcLevel_claims {e : Evc} (n : Nat) (high : Bool) (h : e.ClaimsOk) : (evcLevel n high e).ClaimsOk := by
  unfold evcLevel
  split
  · refine h.put ?_
    intro ha
    have key : ∀ y : EvcSrc, y.act = (evcSrc e n).act → y.owner = (evcSrc e n).owner → ∀ b c : Bool,
        (if b then (if c then y.fire else y).settle else y).act = (evcSrc e n).act ∧
        (if b then (if c then y.fire else y).settle else y).owner = (evcSrc e n).owner := by
      intro y h1 h2 b c
      cases b <;> cases c <;> simp [EvcSrc.settle_act, EvcSrc.settle_owner, EvcSrc.fire, h1, h2]
    have k := key { evcSrc e n with inp := high } rfl rfl (evcLive e n)
      ((evcSrc e n).trig && (if 200 ≤ n ∧ n ≤ 215 then high != (evcSrc e n).inp else high && !(evcSrc e n).inp))
    exact ⟨k.1 ▸ ha, k.2.symm⟩
  · exact h

theorem Evc.start_idle : ∀ x ∈ Evc.start.src, x.2.act = false := by decide

theorem Evc.start_claims : Evc.start.ClaimsOk := by
  refine ⟨by decide, ?_, ?_⟩
  · intro x hx ha
    rw [Evc.start_idle x hx] at ha
    exact absurd ha Bool.false_ne_true
  · intro x hx y _ ha
    rw [Evc.start_idle x hx] at ha
    exact absurd ha Bool.false_ne_true

theorem Kept.evc {s : State} {e : Evc} (h : Kept qq ll s) (he : s.evc.ClaimsOk → e.ClaimsOk) : Kept qq ll { s with evc := e } :=
  Kept.upd h rfl (Nat.le_refl _) he (fun h => h) (fun h => h) (fun h => h)

theorem fire_kept {s : State} (n : Nat) (h : Kept qq ll s) : Kept qq ll (fire n s) := h.evc (evcPulse_claims n)

theorem level_kept {s : State} (n : Nat) (high : Bool) (h : Kept qq ll s) : Kept qq ll (level n high s) := h.evc (evcLevel_claims n high)

end Sys2Proof.Machine
end

