-- ==== Sys2Proof/Laws/KeptOps.lean ====
section
/-! SUPPORT. The operations of Machine/Ops.lean keep what Kept names. -/

namespace Sys2Proof.Machine

variable {qq : List Instr} {ll : Nat}

theorem takeFree_kept (s : State) (hk : Kept qq ll s) : Kept qq ll (takeFree s).2 := by
  unfold takeFree
  repeat' first
    | with_reducible assumption
    | refine Kept.upd ?_ rfl (Nat.le_refl _) (fun h => h) (fun h => h) (fun h => h) (fun h => h)

theorem advance_kept (t : Nat) (s : State) (hk : Kept qq ll s) : Kept qq ll (advance t s) := by
  unfold advance
  repeat' first
    | with_reducible assumption
    | refine Kept.upd ?_ rfl (Nat.le_refl _) (fun h => h) (fun h => h) (fun h => h) (fun h => h)

theorem setCore_kept (s : State) (k : Nat) (c : SigCore) (hk : Kept qq ll s) : Kept qq ll (setCore s k c) := by
  unfold setCore
  repeat' first
    | with_reducible assumption
    | refine Kept.upd ?_ rfl (Nat.le_refl _) (fun h => h) (fun h => h) (fun h => h) (fun h => h)

theorem updCore_kept (s : State) (k : Nat) (f : SigCore → SigCore) (hk : Kept qq ll s) : Kept qq ll (updCore s k f) := by
  unfold updCore
  repeat' first
    | with_reducible assumption
    | with_reducible apply setCore_kept

theorem setCtx_kept (s : State) (n : Nat) (c : Ctx) (hk : Kept qq ll s) : Kept qq ll (setCtx s n c) := by
  unfold setCtx
  repeat' first
    | with_reducible assumption
    | refine Kept.upd ?_ rfl (Nat.le_refl _) (fun h => h) (fun h => h) (fun h => h) (fun h => h)

theorem updCtx_kept (s : State) (n : Nat) (f : Ctx → Ctx) (hk : Kept qq ll s) : Kept qq ll (updCtx s n f) := by
  unfold updCtx
  repeat' first
    | with_reducible assumption
    | with_reducible apply setCtx_kept

theorem setCluster_kept (s : State) (c : Nat) (x : ClusterSt) (hk : Kept qq ll s) : Kept qq ll (setCluster s c x) := by
  unfold setCluster
  repeat' first
    | with_reducible assumption
    | refine Kept.upd ?_ rfl (Nat.le_refl _) (fun h => h) (fun h => h) (fun h => h) (fun h => h)

theorem sliceStop_kept (c : Nat) (s : State) (hk : Kept qq ll s) : Kept qq ll (sliceStop c s) := by
  unfold sliceStop
  repeat' first
    | with_reducible assumption
    | split
    | refine Kept.upd ?_ rfl (Nat.le_refl _) (fun h => h) (fun h => h) (fun h => h) (fun h => h)

theorem sliceCut_kept (c : Nat) (s : State) (hk : Kept qq ll s) : Kept qq ll (sliceCut c s) := by
  unfold sliceCut
  repeat' first
    | with_reducible assumption
    | with_reducible refine kept_ite ?_ ?_
    | refine Kept.upd ?_ rfl (Nat.le_refl _) (fun h => h) (fun h => h) (fun h => h) (fun h => h)

theorem passEnds_kept (c : Nat) (s : State) (hk : Kept qq ll s) : Kept qq ll (passEnds c s) := by
  unfold passEnds
  repeat' first
    | with_reducible assumption
    | with_reducible refine kept_ite ?_ ?_
    | refine Kept.upd ?_ rfl (Nat.le_refl _) (fun h => h) (fun h => h) (fun h => h) (fun h => h)

theorem stopSlices_kept (s : State) (hk : Kept qq ll s) : Kept qq ll (stopSlices s) := by
  unfold stopSlices
  repeat' first
    | with_reducible assumption
    | with_reducible refine kept_foldl (fun _ _ _ => ?_) ?_
    | with_reducible apply passEnds_kept
    | with_reducible apply sliceStop_kept
    | with_reducible apply setCluster_kept
    | with_reducible refine kept_ite ?_ ?_

theorem escalate_kept (cls : Nat) (cluster : Nat) (seen : Bool) (s : State) (hk : Kept qq ll s) : Kept qq ll (escalate cls cluster seen s) := by
  unfold escalate
  repeat' first
    | with_reducible assumption
    | lift_lets
    | (intro t; refine kept_have (qq := qq) (ll := ll) (s := t) ?_ (fun _ => ?_); dsimp -zeta only [t]; rotate_left; clear_value t)
    | with_reducible apply level_kept
    | with_reducible apply passEnds_kept
    | with_reducible apply stopSlices_kept
    | split
    | intro _
    | refine Kept.upd ?_ rfl (Nat.le_refl _) (fun h => h) (fun h => h) (fun h => h) (fun h => h)

theorem logRecord_kept (source : Nat) (cls : Nat) (code : Nat) (cluster : Nat) (unit : Nat) (detail : Bytes) (s : State) (hk : Kept qq ll s) : Kept qq ll (logRecord source cls code cluster unit detail s) := by
  unfold logRecord
  repeat' first
    | with_reducible assumption
    | lift_lets
    | (intro t; refine kept_have (qq := qq) (ll := ll) (s := t) ?_ (fun _ => ?_); dsimp -zeta only [t]; rotate_left; clear_value t)
    | with_reducible apply fire_kept
    | with_reducible apply escalate_kept
    | with_reducible refine kept_ite ?_ ?_
    | intro _
    | refine kept_fst (by assumption) ?_
    | refine Kept.upd ?_ rfl (Nat.le_refl _) (fun h => h) (fun h => h) (fun h => h) (fun h => h)

theorem logCorrectedAt_kept (id : Nat) (place : Nat) (cluster : Nat) (n : Nat) (s : State) (hk : Kept qq ll s) : Kept qq ll (logCorrectedAt id place cluster n s) := by
  unfold logCorrectedAt
  repeat' first
    | with_reducible assumption
    | with_reducible apply logRecord_kept
    | with_reducible apply fire_kept
    | with_reducible refine kept_ite ?_ ?_
    | refine Kept.upd ?_ rfl (Nat.le_refl _) (fun h => h) (fun h => h) (fun h => h) (fun h => h)

theorem logCorrected_kept (id : Nat) (cluster : Nat) (n : Nat) (s : State) (hk : Kept qq ll s) : Kept qq ll (logCorrected id cluster n s) := by
  unfold logCorrected
  repeat' first
    | with_reducible assumption
    | with_reducible apply logCorrectedAt_kept

theorem dramWrite_kept (a : Nat) (bs : Bytes) (s : State) (hk : Kept qq ll s) : Kept qq ll (dramWrite a bs s) :=
  ⟨hk.pending, hk.life, hk.claims, ⟨Tbl.wf_putAll a bs hk.mem.dram, hk.mem.cram, hk.mem.csm⟩⟩

theorem cramRecord_kept (a : Nat) (s : State) (hk : Kept qq ll s) : Kept qq ll (cramRecord a s) := by
  unfold cramRecord
  repeat' first
    | with_reducible assumption
    | with_reducible apply logRecord_kept

theorem dramRecord_kept (a : Nat) (s : State) (hk : Kept qq ll s) : Kept qq ll (dramRecord a s) := by
  unfold dramRecord
  repeat' first
    | with_reducible assumption
    | with_reducible apply logRecord_kept

theorem unlinkNote_kept (n : Nat) (s : State) (hk : Kept qq ll s) : Kept qq ll (unlinkNote n s) := by
  unfold unlinkNote
  repeat' first
    | with_reducible assumption
    | refine Kept.upd ?_ rfl (Nat.le_refl _) (fun h => h) (fun h => h) (fun h => h) (fun h => h)

theorem dropHeld_kept (n : Nat) (s : State) (hk : Kept qq ll s) : Kept qq ll (dropHeld n s) := by
  unfold dropHeld
  repeat' first
    | with_reducible assumption
    | refine Kept.upd ?_ rfl (Nat.le_refl _) (fun h => h) (fun h => h) (fun h => h) (fun h => h)

theorem poison_kept (n : Nat) (s : State) (hk : Kept qq ll s) : Kept qq ll (poison n s) := by
  unfold poison
  repeat' first
    | with_reducible assumption
    | split
    | refine Kept.upd ?_ rfl (Nat.le_refl _) (fun h => h) (fun h => h) (fun h => h) (fun h => h)

theorem poisonAll_kept (ns : List Nat) (s : State) (hk : Kept qq ll s) : Kept qq ll (poisonAll ns s) := by
  unfold poisonAll
  repeat' first
    | with_reducible assumption
    | with_reducible refine kept_foldl (fun _ _ _ => ?_) ?_
    | with_reducible apply poison_kept

end Sys2Proof.Machine
end

