-- ==== Sys2Proof/Laws/KeptSigMem.lean ====
section
/-! SUPPORT. The operations of Machine/SigMem.lean keep what Kept names. -/

namespace Sys2Proof.Machine

variable {qq : List Instr} {ll : Nat}

theorem memLoad_kept (s : State) (k : Nat) (yport : Bool) (bank : Nat) (p : Nat) (hk : Kept qq ll s) : Kept qq ll (memLoad s k yport bank p).2 := by
  unfold memLoad
  repeat' first
    | with_reducible assumption
    | with_reducible apply logRecord_kept
    | with_reducible apply poison_kept
    | with_reducible apply dramRecord_kept
    | with_reducible apply takeFree_kept
    | with_reducible refine kept_ite_snd ?_ ?_

theorem memStore_kept (s : State) (k : Nat) (yport : Bool) (bank : Nat) (p : Nat) (x : BitVec 24) (hk : Kept qq ll s) : Kept qq ll (memStore s k yport bank p x) := by
  unfold memStore
  repeat' first
    | with_reducible assumption
    | with_reducible apply dramWrite_kept
    | with_reducible refine kept_ite ?_ ?_
    | refine Kept.upd ?_ rfl (Nat.le_refl _) (fun h => h) (fun h => h) (fun h => h) (by first | exact fun h => h | exact Tbl.wf_put _ _)

end Sys2Proof.Machine
end

