-- ==== Sys2Proof/Laws/KeptSigCore.lean ====
section
/-! SUPPORT. The operations of Machine/SigCore.lean keep what Kept names. -/

namespace Sys2Proof.Machine

variable {qq : List Instr} {ll : Nat}

theorem memPass_kept (s : State) (k : Nat) (r : ClassRegs) (b : Bundle) (hk : Kept qq ll s) : Kept qq ll (memPass s k r b).1 := by
  unfold memPass
  lift_lets
  intro ms bankOf loads
  have hl : Kept qq ll loads.1 := by
    refine kept_foldl_fst (fun x a hx => ?_) hk
    dsimp only
    split
    · exact memLoad_kept _ _ _ _ _ hx
    · exact hx
  intro tapd stored
  have hs : Kept qq ll stored.1 := by
    refine kept_foldl_fst (fun x a hx => ?_) hl
    dsimp only
    split
    · exact memStore_kept _ _ _ _ _ _ hx
    · exact hx
  exact kept_foldl (fun _ _ hx => memStore_kept _ _ _ _ _ _ hx) hs

theorem raiseFault_kept (s : State) (k : Nat) (f : PendingFault) (hk : Kept qq ll s) : Kept qq ll (raiseFault s k f) := by
  unfold raiseFault
  repeat' first
    | with_reducible assumption
    | with_reducible apply updCore_kept

theorem executeBundle_kept (s : State) (k : Nat) (b : Bundle) (annulled : Bool) (hk : Kept qq ll s) : Kept qq ll (executeBundle s k b annulled).1 := by
  unfold executeBundle
  repeat' first
    | with_reducible assumption
    | with_reducible apply setCore_kept
    | with_reducible apply memPass_kept
    | split

end Sys2Proof.Machine
end

