-- ==== Sys2Proof/Laws/KeptLvuExec.lean ====
section
/-! SUPPORT. The operations of Machine/LvuExec.lean keep what Kept names. -/

namespace Sys2Proof.Machine

variable {qq : List Instr} {ll : Nat}

theorem updLvu_kept (s : State) (k : Nat) (f : Lvu → Lvu) (hk : Kept qq ll s) : Kept qq ll (updLvu s k f) := by
  unfold updLvu
  repeat' first
    | with_reducible assumption
    | with_reducible apply updCore_kept

theorem lcsCorrected_kept (k : Nat) (n : Nat) (s : State) (hk : Kept qq ll s) : Kept qq ll (lcsCorrected k n s) := by
  unfold lcsCorrected
  repeat' first
    | with_reducible assumption
    | with_reducible apply logCorrected_kept
    | refine Kept.upd ?_ rfl (Nat.le_refl _) (fun h => h) (fun h => h) (fun h => h) (fun h => h)

theorem LvuRun.into_kept (r : LvuRun) (k : Nat) (s : State) (hk : Kept qq ll s) : Kept qq ll (r.into k s) := by
  unfold LvuRun.into
  repeat' first
    | with_reducible assumption
    | with_reducible apply setCore_kept
    | refine Kept.upd ?_ rfl (Nat.le_refl _) (fun h => h) (fun h => h) (fun h => h) (fun h => h)

theorem lvuEnd_kept (k : Nat) (o : LvuOp) (r : LvuRun) (s : State) (hk : Kept qq ll s) : Kept qq ll (lvuEnd k o r s) := by
  unfold lvuEnd
  repeat' first
    | with_reducible assumption
    | with_reducible apply setCore_kept
    | refine Kept.upd ?_ rfl (Nat.le_refl _) (fun h => h) (fun h => h) (fun h => h) (fun h => h)

theorem lvuCompleteFrom_kept (a k : Nat) (o : LvuOp) (s : State) (hk : Kept qq ll s) : Kept qq ll (lvuCompleteFrom a k o s) := by
  unfold lvuCompleteFrom
  repeat' first
    | with_reducible assumption
    | with_reducible apply lvuEnd_kept

theorem lvuComplete_kept (k : Nat) (o : LvuOp) (s : State) (hk : Kept qq ll s) : Kept qq ll (lvuComplete k o s) := by
  unfold lvuComplete
  repeat' first
    | with_reducible assumption
    | with_reducible apply lvuEnd_kept

theorem stopCore_kept (k : Nat) (cause : Nat) (f : PendingFault) (s : State) (hk : Kept qq ll s) : Kept qq ll (stopCore k cause f s) := by
  unfold stopCore
  repeat' first
    | with_reducible assumption
    | with_reducible apply poisonAll_kept
    | with_reducible apply setCore_kept

theorem lvuMicroFault_kept (k : Nat) (cause : Nat) (code : Nat) (upc : Nat) (s : State) (hk : Kept qq ll s) : Kept qq ll (lvuMicroFault k cause code upc s) := by
  unfold lvuMicroFault
  repeat' first
    | with_reducible assumption
    | with_reducible refine kept_ite ?_ ?_
    | with_reducible apply sliceCut_kept
    | with_reducible apply logRecord_kept
    | with_reducible apply stopCore_kept
    | with_reducible apply setCore_kept
    | refine Kept.upd ?_ rfl (Nat.le_refl _) (fun h => h) (fun h => h) (fun h => h) (fun h => h)

theorem microInto_kept (k : Nat) (r : LvuRun) (s : State) (hk : Kept qq ll s) : Kept qq ll (microInto k r s) := by
  unfold microInto
  repeat' first
    | with_reducible assumption
    | with_reducible refine kept_ite ?_ ?_
    | with_reducible apply lcsCorrected_kept
    | with_reducible apply LvuRun.into_kept

theorem lvuFrame_kept (k : Nat) (o : LvuOp) (r : LvuRun) (m : Micro) (s : State) (hk : Kept qq ll s) : Kept qq ll (lvuFrame k o r m s) := by
  unfold lvuFrame
  repeat' first
    | with_reducible assumption
    | with_reducible apply updCore_kept
    | with_reducible apply microInto_kept

theorem microEnd_kept (k : Nat) (o : LvuOp) (e : MicroEnd × LvuRun × Micro) (s : State) (hk : Kept qq ll s) : Kept qq ll (microEnd k o e s) := by
  unfold microEnd
  lift_lets
  intros
  split
  all_goals
    repeat' first
      | with_reducible assumption
      | with_reducible apply updLvu_kept
      | with_reducible apply lvuMicroFault_kept
      | with_reducible apply lvuFrame_kept
      | with_reducible apply lvuEnd_kept
      | with_reducible apply microInto_kept

theorem lvuRunOp_kept (vop : Nat) (k : Nat) (s : State) (hk : Kept qq ll s) : Kept qq ll (lvuRunOp vop k s) := by
  unfold lvuRunOp
  repeat' first
    | with_reducible assumption
    | lift_lets
    | with_reducible apply lvuComplete_kept
    | with_reducible apply lvuCompleteFrom_kept
    | with_reducible apply microEnd_kept
    | split
    | intro _

theorem lvuInterrupt_kept (k : Nat) (o : LvuOp) (done : Bool) (s : State) (hk : Kept qq ll s) : Kept qq ll (lvuInterrupt k o done s) := by
  unfold lvuInterrupt
  repeat' first
    | with_reducible assumption
    | lift_lets
    | with_reducible apply lvuCompleteFrom_kept
    | with_reducible apply lvuFrame_kept
    | with_reducible apply microEnd_kept
    | split
    | intro _

theorem lvuResume_kept (k : Nat) (s : State) (hk : Kept qq ll s) : Kept qq ll (lvuResume k s) := by
  unfold lvuResume
  repeat' first
    | with_reducible assumption
    | with_reducible apply lvuMicroFault_kept
    | with_reducible refine kept_ite ?_ ?_
    | refine Kept.upd ?_ rfl (Nat.le_refl _) (fun h => h) (fun h => h) (fun h => h) (fun h => h)

theorem lcsPload_kept (k : Nat) (on : Bool) (s : State) (hk : Kept qq ll s) : Kept qq ll (lcsPload k on s) := by
  unfold lcsPload
  repeat' first
    | with_reducible assumption
    | with_reducible apply updLvu_kept
    | with_reducible refine kept_ite ?_ ?_

theorem lcsPen_kept (k : Nat) (on : Bool) (s : State) (hk : Kept qq ll s) : Kept qq ll (lcsPen k on s) := by
  unfold lcsPen
  repeat' first
    | with_reducible assumption
    | with_reducible apply updLvu_kept
    | with_reducible refine kept_ite ?_ ?_

theorem lcsPoll_kept (k : Nat) (on : Bool) (s : State) (hk : Kept qq ll s) : Kept qq ll (lcsPoll k on s) := by
  unfold lcsPoll
  repeat' first
    | with_reducible assumption
    | with_reducible apply updLvu_kept

theorem lcsStop_kept (k : Nat) (s : State) (hk : Kept qq ll s) : Kept qq ll (lcsStop k s) := by
  unfold lcsStop
  repeat' first
    | with_reducible assumption
    | with_reducible apply updLvu_kept
    | with_reducible refine kept_ite ?_ ?_

theorem lcsResume_kept (k : Nat) (s : State) (hk : Kept qq ll s) : Kept qq ll (lcsResume k s) := by
  unfold lcsResume
  repeat' first
    | with_reducible assumption
    | with_reducible apply lvuResume_kept
    | with_reducible refine kept_ite ?_ ?_

theorem lcsDiscard_kept (k : Nat) (s : State) (hk : Kept qq ll s) : Kept qq ll (lcsDiscard k s) := by
  unfold lcsDiscard
  repeat' first
    | with_reducible assumption
    | with_reducible apply updCore_kept
    | with_reducible refine kept_ite ?_ ?_

theorem lcsPrdata_kept (k : Nat) (i : Nat) (v : Nat) (s : State) (hk : Kept qq ll s) : Kept qq ll (lcsPrdata k i v s) := by
  unfold lcsPrdata
  repeat' first
    | with_reducible assumption
    | with_reducible apply updLvu_kept
    | with_reducible refine kept_ite ?_ ?_

theorem lcsCommit_kept (k : Nat) (v : Nat) (s : State) (hk : Kept qq ll s) : Kept qq ll (lcsCommit k v s) := by
  unfold lcsCommit
  repeat' first
    | with_reducible assumption
    | with_reducible apply updLvu_kept
    | with_reducible refine kept_ite ?_ ?_

theorem lcsPmatch_kept (k : Nat) (i : Nat) (v : Nat) (s : State) (hk : Kept qq ll s) : Kept qq ll (lcsPmatch k i v s) := by
  unfold lcsPmatch
  repeat' first
    | with_reducible assumption
    | with_reducible apply updLvu_kept
    | with_reducible refine kept_ite ?_ ?_

theorem lcsWrite_kept (k : Nat) (off : Nat) (v : Nat) (s : State) (hk : Kept qq ll s) : Kept qq ll (lcsWrite k off v s) := by
  unfold lcsWrite
  repeat' first
    | with_reducible assumption
    | with_reducible apply lcsPoll_kept
    | with_reducible apply lcsPen_kept
    | with_reducible apply lcsPload_kept
    | with_reducible apply lcsStop_kept
    | with_reducible apply lcsResume_kept
    | with_reducible apply lcsDiscard_kept
    | with_reducible apply updLvu_kept
    | with_reducible apply lcsPrdata_kept
    | with_reducible apply lcsCommit_kept
    | with_reducible apply lcsPmatch_kept
    | with_reducible refine kept_ite ?_ ?_

theorem lcsCorrRead_kept (k : Nat) (s : State) (hk : Kept qq ll s) : Kept qq ll (lcsCorrRead k s).2 := by
  unfold lcsCorrRead
  repeat' first
    | with_reducible assumption
    | with_reducible apply updLvu_kept

theorem lcsRead_kept (k : Nat) (off : Nat) (s : State) (hk : Kept qq ll s) : Kept qq ll (lcsRead k off s).2 := by
  unfold lcsRead
  repeat' first
    | with_reducible assumption
    | with_reducible apply lcsCorrRead_kept
    | with_reducible refine kept_ite_snd ?_ ?_

end Sys2Proof.Machine
end

