-- ==== Sys2Proof/Laws/KeptOdTable.lean ====
section
/-! SUPPORT. The operations of Machine/OdTable.lean keep what Kept names. -/

namespace Sys2Proof.Machine

variable {qq : List Instr} {ll : Nat}

theorem odPut_kept (ix : Nat) (sub : Nat) (v : Bytes) (s : State) (hk : Kept qq ll s) : Kept qq ll (odPut ix sub v s) := by
  unfold odPut
  repeat' first
    | with_reducible assumption
    | refine Kept.upd ?_ rfl (Nat.le_refl _) (fun h => h) (fun h => h) (fun h => h) (fun h => h)

theorem odSet_kept (ix : Nat) (sub : Nat) (v : Nat) (s : State) (hk : Kept qq ll s) : Kept qq ll (odSet ix sub v s) := by
  unfold odSet
  repeat' first
    | with_reducible assumption
    | with_reducible apply odPut_kept
    | split

end Sys2Proof.Machine
end

