-- ==== Sys2Proof/Laws/KeptStream.lean ====
section
/-! SUPPORT. The operations of Machine/Stream.lean keep what Kept names. -/

namespace Sys2Proof.Machine

variable {qq : List Instr} {ll : Nat}

theorem setObj_kept (s : State) (id : Nat) (o : SObj) (hk : Kept qq ll s) : Kept qq ll (setObj s id o) := by
  unfold setObj
  repeat' first
    | with_reducible assumption
    | refine Kept.upd ?_ rfl (Nat.le_refl _) (fun h => h) (fun h => h) (fun h => h) (fun h => h)

theorem setRing_kept (s : State) (r : Nat) (x : Ring) (hk : Kept qq ll s) : Kept qq ll (setRing s r x) := by
  unfold setRing
  repeat' first
    | with_reducible assumption
    | refine Kept.upd ?_ rfl (Nat.le_refl _) (fun h => h) (fun h => h) (fun h => h) (fun h => h)

theorem fillWindow_kept (core : Nat) (base : Nat) (nLap : Nat) (k : Kernel) (e : Nat) (s : State) (ring : Nat) (hk : Kept qq ll s) : Kept qq ll (fillWindow core base nLap k e s ring) := by
  unfold fillWindow
  repeat' first
    | with_reducible assumption
    | with_reducible apply fire_kept
    | with_reducible apply logRecord_kept
    | with_reducible refine kept_ite ?_ ?_
    | refine Kept.upd ?_ rfl (Nat.le_refl _) (fun h => h) (fun h => h) (fun h => h) (by first | exact fun h => h | exact Tbl.wf_put _ _)

theorem advanceWord_kept (nLap : Nat) (k : Kernel) (s : State) (ctx : Nat) (hk : Kept qq ll s) : Kept qq ll (advanceWord nLap k s ctx) := by
  unfold advanceWord
  repeat' first
    | with_reducible assumption
    | with_reducible refine kept_ite ?_ ?_
    | refine Kept.upd ?_ rfl (Nat.le_refl _) (fun h => h) (fun h => h) (fun h => h) (fun h => h)

theorem closeStream_kept (ctx : Nat) (s : State) (hk : Kept qq ll s) : Kept qq ll (closeStream ctx s) := by
  unfold closeStream
  repeat' first
    | with_reducible assumption
    | with_reducible apply setRing_kept
    | with_reducible refine kept_ite ?_ ?_

theorem freeDeleted_kept (s : State) (hk : Kept qq ll s) : Kept qq ll (freeDeleted s) := by
  unfold freeDeleted
  repeat' first
    | with_reducible assumption
    | refine Kept.upd ?_ rfl (Nat.le_refl _) (fun h => h) (fun h => h) (fun h => h) (fun h => h)

end Sys2Proof.Machine
end

