-- ==== Sys2Proof/Laws/KeptSigFlow.lean ====
section
/-! SUPPORT. The operations of Machine/SigFlow.lean keep what Kept names. -/

namespace Sys2Proof.Machine

variable {qq : List Instr} {ll : Nat}

theorem headerLoad_kept (slot : Nat) (s : State) (hk : Kept qq ll s) : Kept qq ll (headerLoad slot s) := by
  unfold headerLoad
  repeat' first
    | with_reducible assumption
    | with_reducible refine kept_foldl (fun _ _ _ => ?_) ?_
    | with_reducible apply setCtx_kept

theorem convoyUpsets_kept (slot : Nat) (k : Nat) (s : State) (hk : Kept qq ll s) : Kept qq ll (convoyUpsets slot k s) := by
  unfold convoyUpsets
  repeat' first
    | with_reducible assumption
    | with_reducible refine kept_foldl (fun _ _ _ => ?_) ?_
    | with_reducible apply logRecord_kept
    | with_reducible apply poison_kept
    | split

theorem loadInto_kept (bufB : Bool) (k : Nat) (slot : Nat) (s : State) (hk : Kept qq ll s) : Kept qq ll (loadInto bufB k slot s) := by
  unfold loadInto
  repeat' first
    | with_reducible assumption
    | lift_lets
    | (intro t; refine kept_have (qq := qq) (ll := ll) (s := t) ?_ (fun _ => ?_); dsimp -zeta only [t]; rotate_left; clear_value t)
    | with_reducible refine kept_foldl (fun _ _ _ => ?_) ?_
    | with_reducible apply convoyUpsets_kept
    | with_reducible apply headerLoad_kept
    | with_reducible apply setCore_kept
    | with_reducible apply fillWindow_kept
    | with_reducible refine kept_ite ?_ ?_
    | split
    | intro _
    | refine Kept.upd ?_ rfl (Nat.le_refl _) (fun h => h) (fun h => h) (fun h => h) (fun h => h)

theorem loadConvoy_kept (k : Nat) (slot : Nat) (s : State) (hk : Kept qq ll s) : Kept qq ll (loadConvoy k slot s) := by
  unfold loadConvoy
  repeat' first
    | with_reducible assumption
    | with_reducible apply updCore_kept
    | with_reducible apply loadInto_kept
    | intro _
    | refine Kept.upd ?_ rfl (Nat.le_refl _) (fun h => h) (fun h => h) (fun h => h) (fun h => h)

theorem loadAhead_kept (k : Nat) (s : State) (hk : Kept qq ll s) : Kept qq ll (loadAhead k s) := by
  unfold loadAhead
  repeat' first
    | with_reducible assumption
    | lift_lets
    | (intro t; refine kept_have (qq := qq) (ll := ll) (s := t) ?_ (fun _ => ?_); dsimp -zeta only [t]; rotate_left; clear_value t)
    | with_reducible apply updCore_kept
    | with_reducible apply loadInto_kept
    | with_reducible apply setCore_kept
    | split
    | intro _
    | refine Kept.upd ?_ rfl (Nat.le_refl _) (fun h => h) (fun h => h) (fun h => h) (fun h => h)

theorem onMix_kept (f : Mixers → Mixers) (s : State) (hk : Kept qq ll s) : Kept qq ll (onMix f s) := by
  unfold onMix
  repeat' first
    | with_reducible assumption
    | refine Kept.upd ?_ rfl (Nat.le_refl _) (fun h => h) (fun h => h) (fun h => h) (fun h => h)

theorem deliverEdges_kept (slot : Nat) (s : State) (hk : Kept qq ll s) : Kept qq ll (deliverEdges slot s) := by
  unfold deliverEdges
  repeat' first
    | with_reducible assumption
    | lift_lets
    | (intro t; refine kept_have (qq := qq) (ll := ll) (s := t) ?_ (fun _ => ?_); dsimp -zeta only [t]; rotate_left; clear_value t)
    | with_reducible refine kept_foldl (fun _ _ _ => ?_) ?_
    | with_reducible refine kept_foldl_fst (fun _ _ _ => ?_) ?_
    | intro _
    | refine Kept.upd ?_ rfl (Nat.le_refl _) (fun h => h) (fun h => h) (fun h => h) (by first | exact fun h => h | exact Tbl.wf_put _ _)

theorem feedEdges_kept (slot : Nat) (s : State) (hk : Kept qq ll s) : Kept qq ll (feedEdges slot s) := by
  unfold feedEdges
  repeat' first
    | with_reducible assumption
    | lift_lets
    | (intro t; refine kept_have (qq := qq) (ll := ll) (s := t) ?_ (fun _ => ?_); dsimp -zeta only [t]; rotate_left; clear_value t)
    | with_reducible apply onMix_kept
    | intro _
    | refine Kept.upd ?_ rfl (Nat.le_refl _) (fun h => h) (fun h => h) (fun h => h) (fun h => h)

theorem zeroFeed_kept (k : Nat) (slot : Nat) (s : State) (hk : Kept qq ll s) : Kept qq ll (zeroFeed k slot s) := by
  unfold zeroFeed
  repeat' first
    | with_reducible assumption
    | lift_lets
    | (intro t; refine kept_have (qq := qq) (ll := ll) (s := t) ?_ (fun _ => ?_); dsimp -zeta only [t]; rotate_left; clear_value t)
    | with_reducible refine kept_foldl (fun _ _ _ => ?_) ?_
    | with_reducible refine kept_foldl_fst (fun _ _ _ => ?_) ?_
    | with_reducible apply updCore_kept
    | with_reducible refine kept_ite ?_ ?_
    | split
    | intro _
    | refine Kept.upd ?_ rfl (Nat.le_refl _) (fun h => h) (fun h => h) (fun h => h) (fun h => h)

theorem beginConvoy_kept (k : Nat) (slot : Nat) (s0 : State) (hk : Kept qq ll s0) : Kept qq ll (beginConvoy k slot s0) := by
  unfold beginConvoy
  repeat' first
    | with_reducible assumption
    | lift_lets
    | (intro t; refine kept_have (qq := qq) (ll := ll) (s := t) ?_ (fun _ => ?_); dsimp -zeta only [t]; rotate_left; clear_value t)
    | with_reducible apply zeroFeed_kept
    | with_reducible apply deliverEdges_kept
    | with_reducible apply onMix_kept
    | with_reducible apply loadAhead_kept
    | with_reducible apply setCore_kept
    | with_reducible refine kept_ite ?_ ?_
    | split
    | intro _
    | refine Kept.upd ?_ rfl (Nat.le_refl _) (fun h => h) (fun h => h) (fun h => h) (fun h => h)

theorem endOrder_kept (k : Nat) (s : State) (hk : Kept qq ll s) : Kept qq ll (endOrder k s) := by
  unfold endOrder
  repeat' first
    | with_reducible assumption
    | with_reducible apply updCore_kept

theorem dispatchNext_kept (k : Nat) (s : State) (hk : Kept qq ll s) : Kept qq ll (dispatchNext k s) := by
  unfold dispatchNext
  repeat' first
    | with_reducible assumption
    | lift_lets
    | (intro t; refine kept_have (qq := qq) (ll := ll) (s := t) ?_ (fun _ => ?_); dsimp -zeta only [t]; rotate_left; clear_value t)
    | with_reducible apply endOrder_kept
    | with_reducible apply setCore_kept
    | with_reducible apply beginConvoy_kept
    | with_reducible apply loadConvoy_kept
    | with_reducible refine kept_ite ?_ ?_
    | split
    | intro _
    | refine Kept.upd ?_ rfl (Nat.le_refl _) (fun h => h) (fun h => h) (fun h => h) (fun h => h)

theorem released_kept (n : Nat) (s : State) (hk : Kept qq ll s) : Kept qq ll (released n s) := by
  unfold released
  repeat' first
    | with_reducible assumption
    | with_reducible apply dropHeld_kept
    | with_reducible apply unlinkNote_kept
    | with_reducible apply closeStream_kept

theorem candWrite_kept (n : Nat) (s : State) (hk : Kept qq ll s) : Kept qq ll (candWrite n s) := by
  unfold candWrite
  repeat' first
    | with_reducible assumption
    | lift_lets
    | (intro t; refine kept_have (qq := qq) (ll := ll) (s := t) ?_ (fun _ => ?_); dsimp -zeta only [t]; rotate_left; clear_value t)
    | split
    | intro _
    | refine Kept.upd ?_ rfl (Nat.le_refl _) (fun h => h) (fun h => h) (fun h => h) (fun h => h)

theorem writeBack_kept (k : Nat) (slot : Nat) (s : State) (hk : Kept qq ll s) : Kept qq ll (writeBack k slot s) := by
  unfold writeBack
  repeat' first
    | with_reducible assumption
    | lift_lets
    | (intro t; refine kept_have (qq := qq) (ll := ll) (s := t) ?_ (fun _ => ?_); dsimp -zeta only [t]; rotate_left; clear_value t)
    | with_reducible refine kept_foldl (fun _ _ _ => ?_) ?_
    | with_reducible apply setCtx_kept
    | with_reducible apply candWrite_kept
    | with_reducible apply released_kept
    | with_reducible refine kept_ite ?_ ?_
    | split
    | intro _

theorem unmask_kept (slot : Nat) (s : State) (hk : Kept qq ll s) : Kept qq ll (unmask slot s) := by
  unfold unmask
  repeat' first
    | with_reducible assumption
    | with_reducible apply onMix_kept
    | intro _
    | refine Kept.upd ?_ rfl (Nat.le_refl _) (fun h => h) (fun h => h) (fun h => h) (fun h => h)

theorem endConvoy_kept (k : Nat) (s : State) (hk : Kept qq ll s) : Kept qq ll (endConvoy k s) := by
  unfold endConvoy
  repeat' first
    | with_reducible assumption
    | lift_lets
    | (intro t; refine kept_have (qq := qq) (ll := ll) (s := t) ?_ (fun _ => ?_); dsimp -zeta only [t]; rotate_left; clear_value t)
    | with_reducible refine kept_foldl (fun _ _ _ => ?_) ?_
    | with_reducible apply setCore_kept
    | with_reducible apply updCore_kept
    | with_reducible apply feedEdges_kept
    | with_reducible apply unmask_kept
    | with_reducible apply advanceWord_kept
    | with_reducible apply freeDeleted_kept
    | with_reducible apply writeBack_kept
    | with_reducible refine kept_ite ?_ ?_
    | split
    | intro _
    | refine Kept.upd ?_ rfl (Nat.le_refl _) (fun h => h) (fun h => h) (fun h => h) (fun h => h)

theorem enterFast_kept (k : Nat) (r : StartRec) (rest : List StartRec) (s : State) (hk : Kept qq ll s) : Kept qq ll (enterFast k r rest s) := by
  unfold enterFast
  repeat' first
    | with_reducible assumption
    | with_reducible apply setCore_kept

theorem leaveFast_kept (k : Nat) (s : State) (hk : Kept qq ll s) : Kept qq ll (leaveFast k s) := by
  unfold leaveFast
  repeat' first
    | with_reducible assumption
    | with_reducible apply updCore_kept
    | with_reducible apply lvuResume_kept
    | with_reducible apply dispatchNext_kept
    | with_reducible refine kept_ite ?_ ?_

theorem nextStart_kept (k : Nat) (s : State) (hk : Kept qq ll s) : Kept qq ll (nextStart k s) := by
  unfold nextStart
  repeat' first
    | with_reducible assumption
    | lift_lets
    | with_reducible apply enterFast_kept
    | with_reducible apply leaveFast_kept
    | with_reducible apply setCore_kept
    | split
    | intro _

theorem endStart_kept (k : Nat) (s : State) (hk : Kept qq ll s) : Kept qq ll (endStart k s) := by
  unfold endStart
  repeat' first
    | with_reducible assumption
    | lift_lets
    | with_reducible apply setCore_kept
    | with_reducible apply nextStart_kept
    | with_reducible apply updCtx_kept
    | with_reducible apply updCore_kept
    | split
    | intro _

theorem skipFault_kept (k : Nat) (s : State) (hk : Kept qq ll s) : Kept qq ll (skipFault k s) := by
  unfold skipFault
  repeat' first
    | with_reducible assumption
    | lift_lets
    | (intro t; refine kept_have (qq := qq) (ll := ll) (s := t) ?_ (fun _ => ?_); dsimp -zeta only [t]; rotate_left; clear_value t)
    | with_reducible apply updCore_kept
    | with_reducible apply poisonAll_kept
    | with_reducible apply setCore_kept
    | with_reducible apply nextStart_kept
    | with_reducible refine kept_ite ?_ ?_
    | split
    | intro _
    | refine Kept.upd ?_ rfl (Nat.le_refl _) (fun h => h) (fun h => h) (fun h => h) (fun h => h)

theorem returnFault_kept (k : Nat) (s : State) (hk : Kept qq ll s) : Kept qq ll (returnFault k s) := by
  unfold returnFault
  repeat' first
    | with_reducible assumption
    | lift_lets
    | (intro t; refine kept_have (qq := qq) (ll := ll) (s := t) ?_ (fun _ => ?_); dsimp -zeta only [t]; rotate_left; clear_value t)
    | with_reducible apply setCore_kept
    | with_reducible refine kept_ite ?_ ?_
    | split
    | intro _
    | refine Kept.upd ?_ rfl (Nat.le_refl _) (fun h => h) (fun h => h) (fun h => h) (fun h => h)

theorem defaultHandler_kept (k : Nat) (s : State) (hk : Kept qq ll s) : Kept qq ll (defaultHandler k s) := by
  unfold defaultHandler
  repeat' first
    | with_reducible assumption
    | with_reducible apply poisonAll_kept
    | with_reducible apply logRecord_kept
    | with_reducible apply skipFault_kept

theorem faultEntry_kept (k : Nat) (s : State) (hk : Kept qq ll s) : Kept qq ll (faultEntry k s) := by
  unfold faultEntry
  repeat' first
    | with_reducible assumption
    | lift_lets
    | (intro t; refine kept_have (qq := qq) (ll := ll) (s := t) ?_ (fun _ => ?_); dsimp -zeta only [t]; rotate_left; clear_value t)
    | with_reducible apply stopCore_kept
    | with_reducible apply updLvu_kept
    | with_reducible apply logRecord_kept
    | with_reducible apply setCore_kept
    | with_reducible apply defaultHandler_kept
    | with_reducible refine kept_ite ?_ ?_
    | split
    | intro _
    | refine Kept.upd ?_ rfl (Nat.le_refl _) (fun h => h) (fun h => h) (fun h => h) (fun h => h)

theorem bundleReturn_kept (k : Nat) (b : Bundle) (s : State) (hk : Kept qq ll s) : Kept qq ll (bundleReturn k b s) := by
  unfold bundleReturn
  repeat' first
    | with_reducible assumption
    | with_reducible apply endStart_kept
    | with_reducible apply returnFault_kept
    | with_reducible apply skipFault_kept
    | split

theorem bundleIssue_kept (k : Nat) (s : State) (hk : Kept qq ll s) : Kept qq ll (bundleIssue k s) := by
  unfold bundleIssue
  repeat' first
    | with_reducible assumption
    | lift_lets
    | (intro t; refine kept_have (qq := qq) (ll := ll) (s := t) ?_ (fun _ => ?_); dsimp -zeta only [t]; rotate_left; clear_value t)
    | with_reducible apply nextStart_kept
    | with_reducible apply setCore_kept
    | with_reducible apply raiseFault_kept
    | with_reducible apply executeBundle_kept
    | with_reducible apply updCore_kept
    | with_reducible apply bundleReturn_kept
    | with_reducible refine kept_ite ?_ ?_
    | split
    | intro _
    | refine Kept.upd ?_ rfl (Nat.le_refl _) (fun h => h) (fun h => h) (fun h => h) (fun h => h)

end Sys2Proof.Machine
end

