-- ==== Sys2Proof/Laws/KeptSignal.lean ====
section
/-! SUPPORT. The operations of Machine/Signal.lean keep what Kept names. -/

namespace Sys2Proof.Machine

variable {qq : List Instr} {ll : Nat}

theorem execBundleIssue_kept (k : Fin 64) (s : State) (hk : Kept qq ll s) : KeptOut qq ll (execBundleIssue k s) := by
  unfold execBundleIssue
  repeat' first
    | with_reducible assumption
    | with_reducible refine KeptOut.next ?_
    | with_reducible apply bundleIssue_kept

theorem execFaultEntry_kept (k : Fin 64) (s : State) (hk : Kept qq ll s) : KeptOut qq ll (execFaultEntry k s) := by
  unfold execFaultEntry
  repeat' first
    | with_reducible assumption
    | with_reducible refine KeptOut.next ?_
    | with_reducible apply faultEntry_kept

theorem execHeaderRowLoad_kept (k : Fin 64) (s : State) (hk : Kept qq ll s) : KeptOut qq ll (execHeaderRowLoad k s) := by
  unfold execHeaderRowLoad
  repeat' first
    | with_reducible assumption
    | with_reducible refine KeptOut.next ?_
    | with_reducible apply loadConvoy_kept
    | with_reducible apply setCore_kept
    | split

theorem execStartPhase_kept (k : Fin 64) (s : State) (hk : Kept qq ll s) : KeptOut qq ll (execStartPhase k s) := by
  unfold execStartPhase
  repeat' first
    | with_reducible assumption
    | with_reducible refine KeptOut.next ?_
    | with_reducible apply nextStart_kept
    | with_reducible apply setCore_kept
    | with_reducible refine kept_ite ?_ ?_

theorem execConvoyDispatch_kept (k : Fin 64) (s : State) (hk : Kept qq ll s) : KeptOut qq ll (execConvoyDispatch k s) := by
  unfold execConvoyDispatch
  repeat' first
    | with_reducible assumption
    | with_reducible refine KeptOut.next ?_
    | with_reducible apply dispatchNext_kept
    | with_reducible apply endConvoy_kept
    | with_reducible refine kept_ite ?_ ?_

theorem execVld_kept (k : Fin 64) (s : State) (hk : Kept qq ll s) : KeptOut qq ll (execVld k s) := by
  unfold execVld
  repeat' first
    | with_reducible assumption
    | with_reducible refine KeptOut.next ?_
    | with_reducible apply lvuRunOp_kept

theorem execVst_kept (k : Fin 64) (s : State) (hk : Kept qq ll s) : KeptOut qq ll (execVst k s) := by
  unfold execVst
  repeat' first
    | with_reducible assumption
    | with_reducible refine KeptOut.next ?_
    | with_reducible apply lvuRunOp_kept

theorem execVldff_kept (k : Fin 64) (s : State) (hk : Kept qq ll s) : KeptOut qq ll (execVldff k s) := by
  unfold execVldff
  repeat' first
    | with_reducible assumption
    | with_reducible refine KeptOut.next ?_
    | with_reducible apply lvuRunOp_kept

theorem execVtab_kept (k : Fin 64) (s : State) (hk : Kept qq ll s) : KeptOut qq ll (execVtab k s) := by
  unfold execVtab
  repeat' first
    | with_reducible assumption
    | with_reducible refine KeptOut.next ?_
    | with_reducible apply lvuRunOp_kept

theorem execVtabi_kept (k : Fin 64) (s : State) (hk : Kept qq ll s) : KeptOut qq ll (execVtabi k s) := by
  unfold execVtabi
  repeat' first
    | with_reducible assumption
    | with_reducible refine KeptOut.next ?_
    | with_reducible apply lvuRunOp_kept

theorem execVadd_kept (k : Fin 64) (s : State) (hk : Kept qq ll s) : KeptOut qq ll (execVadd k s) := by
  unfold execVadd
  repeat' first
    | with_reducible assumption
    | with_reducible refine KeptOut.next ?_
    | with_reducible apply lvuRunOp_kept

theorem execVsub_kept (k : Fin 64) (s : State) (hk : Kept qq ll s) : KeptOut qq ll (execVsub k s) := by
  unfold execVsub
  repeat' first
    | with_reducible assumption
    | with_reducible refine KeptOut.next ?_
    | with_reducible apply lvuRunOp_kept

theorem execVmul_kept (k : Fin 64) (s : State) (hk : Kept qq ll s) : KeptOut qq ll (execVmul k s) := by
  unfold execVmul
  repeat' first
    | with_reducible assumption
    | with_reducible refine KeptOut.next ?_
    | with_reducible apply lvuRunOp_kept

theorem execVmac_kept (k : Fin 64) (s : State) (hk : Kept qq ll s) : KeptOut qq ll (execVmac k s) := by
  unfold execVmac
  repeat' first
    | with_reducible assumption
    | with_reducible refine KeptOut.next ?_
    | with_reducible apply lvuRunOp_kept

theorem execVmsu_kept (k : Fin 64) (s : State) (hk : Kept qq ll s) : KeptOut qq ll (execVmsu k s) := by
  unfold execVmsu
  repeat' first
    | with_reducible assumption
    | with_reducible refine KeptOut.next ?_
    | with_reducible apply lvuRunOp_kept

theorem execVclra_kept (k : Fin 64) (s : State) (hk : Kept qq ll s) : KeptOut qq ll (execVclra k s) := by
  unfold execVclra
  repeat' first
    | with_reducible assumption
    | with_reducible refine KeptOut.next ?_
    | with_reducible apply lvuRunOp_kept

theorem execVrnd_kept (k : Fin 64) (s : State) (hk : Kept qq ll s) : KeptOut qq ll (execVrnd k s) := by
  unfold execVrnd
  repeat' first
    | with_reducible assumption
    | with_reducible refine KeptOut.next ?_
    | with_reducible apply lvuRunOp_kept

theorem execVmov_kept (k : Fin 64) (s : State) (hk : Kept qq ll s) : KeptOut qq ll (execVmov k s) := by
  unfold execVmov
  repeat' first
    | with_reducible assumption
    | with_reducible refine KeptOut.next ?_
    | with_reducible apply lvuRunOp_kept

theorem execVshl_kept (k : Fin 64) (s : State) (hk : Kept qq ll s) : KeptOut qq ll (execVshl k s) := by
  unfold execVshl
  repeat' first
    | with_reducible assumption
    | with_reducible refine KeptOut.next ?_
    | with_reducible apply lvuRunOp_kept

theorem execVshr_kept (k : Fin 64) (s : State) (hk : Kept qq ll s) : KeptOut qq ll (execVshr k s) := by
  unfold execVshr
  repeat' first
    | with_reducible assumption
    | with_reducible refine KeptOut.next ?_
    | with_reducible apply lvuRunOp_kept

theorem execVmin_kept (k : Fin 64) (s : State) (hk : Kept qq ll s) : KeptOut qq ll (execVmin k s) := by
  unfold execVmin
  repeat' first
    | with_reducible assumption
    | with_reducible refine KeptOut.next ?_
    | with_reducible apply lvuRunOp_kept

theorem execVmax_kept (k : Fin 64) (s : State) (hk : Kept qq ll s) : KeptOut qq ll (execVmax k s) := by
  unfold execVmax
  repeat' first
    | with_reducible assumption
    | with_reducible refine KeptOut.next ?_
    | with_reducible apply lvuRunOp_kept

theorem execVabs_kept (k : Fin 64) (s : State) (hk : Kept qq ll s) : KeptOut qq ll (execVabs k s) := by
  unfold execVabs
  repeat' first
    | with_reducible assumption
    | with_reducible refine KeptOut.next ?_
    | with_reducible apply lvuRunOp_kept

theorem execVneg_kept (k : Fin 64) (s : State) (hk : Kept qq ll s) : KeptOut qq ll (execVneg k s) := by
  unfold execVneg
  repeat' first
    | with_reducible assumption
    | with_reducible refine KeptOut.next ?_
    | with_reducible apply lvuRunOp_kept

theorem execVsplat_kept (k : Fin 64) (s : State) (hk : Kept qq ll s) : KeptOut qq ll (execVsplat k s) := by
  unfold execVsplat
  repeat' first
    | with_reducible assumption
    | with_reducible refine KeptOut.next ?_
    | with_reducible apply lvuRunOp_kept

theorem execVsetl_kept (k : Fin 64) (s : State) (hk : Kept qq ll s) : KeptOut qq ll (execVsetl k s) := by
  unfold execVsetl
  repeat' first
    | with_reducible assumption
    | with_reducible refine KeptOut.next ?_
    | with_reducible apply lvuRunOp_kept

theorem execVsetg_kept (k : Fin 64) (s : State) (hk : Kept qq ll s) : KeptOut qq ll (execVsetg k s) := by
  unfold execVsetg
  repeat' first
    | with_reducible assumption
    | with_reducible refine KeptOut.next ?_
    | with_reducible apply lvuRunOp_kept

theorem execVsett_kept (k : Fin 64) (s : State) (hk : Kept qq ll s) : KeptOut qq ll (execVsett k s) := by
  unfold execVsett
  repeat' first
    | with_reducible assumption
    | with_reducible refine KeptOut.next ?_
    | with_reducible apply lvuRunOp_kept

theorem execVfir_kept (k : Fin 64) (s : State) (hk : Kept qq ll s) : KeptOut qq ll (execVfir k s) := by
  unfold execVfir
  repeat' first
    | with_reducible assumption
    | with_reducible refine KeptOut.next ?_
    | with_reducible apply lvuRunOp_kept

theorem execVbiq_kept (k : Fin 64) (s : State) (hk : Kept qq ll s) : KeptOut qq ll (execVbiq k s) := by
  unfold execVbiq
  repeat' first
    | with_reducible assumption
    | with_reducible refine KeptOut.next ?_
    | with_reducible apply lvuRunOp_kept

theorem execVsvf_kept (k : Fin 64) (s : State) (hk : Kept qq ll s) : KeptOut qq ll (execVsvf k s) := by
  unfold execVsvf
  repeat' first
    | with_reducible assumption
    | with_reducible refine KeptOut.next ?_
    | with_reducible apply lvuRunOp_kept

theorem execVintp_kept (k : Fin 64) (s : State) (hk : Kept qq ll s) : KeptOut qq ll (execVintp k s) := by
  unfold execVintp
  repeat' first
    | with_reducible assumption
    | with_reducible refine KeptOut.next ?_
    | with_reducible apply lvuRunOp_kept

theorem execVosc_kept (k : Fin 64) (s : State) (hk : Kept qq ll s) : KeptOut qq ll (execVosc k s) := by
  unfold execVosc
  repeat' first
    | with_reducible assumption
    | with_reducible refine KeptOut.next ?_
    | with_reducible apply lvuRunOp_kept

theorem execVenv_kept (k : Fin 64) (s : State) (hk : Kept qq ll s) : KeptOut qq ll (execVenv k s) := by
  unfold execVenv
  repeat' first
    | with_reducible assumption
    | with_reducible refine KeptOut.next ?_
    | with_reducible apply lvuRunOp_kept

theorem execVmix_kept (k : Fin 64) (s : State) (hk : Kept qq ll s) : KeptOut qq ll (execVmix k s) := by
  unfold execVmix
  repeat' first
    | with_reducible assumption
    | with_reducible refine KeptOut.next ?_
    | with_reducible apply lvuRunOp_kept

theorem execVdly_kept (k : Fin 64) (s : State) (hk : Kept qq ll s) : KeptOut qq ll (execVdly k s) := by
  unfold execVdly
  repeat' first
    | with_reducible assumption
    | with_reducible refine KeptOut.next ?_
    | with_reducible apply lvuRunOp_kept

theorem execVfft4_kept (k : Fin 64) (s : State) (hk : Kept qq ll s) : KeptOut qq ll (execVfft4 k s) := by
  unfold execVfft4
  repeat' first
    | with_reducible assumption
    | with_reducible refine KeptOut.next ?_
    | with_reducible apply lvuRunOp_kept

theorem execVcmul_kept (k : Fin 64) (s : State) (hk : Kept qq ll s) : KeptOut qq ll (execVcmul k s) := by
  unfold execVcmul
  repeat' first
    | with_reducible assumption
    | with_reducible refine KeptOut.next ?_
    | with_reducible apply lvuRunOp_kept

theorem execMicroTrap_kept (k : Fin 64) (done : Bool) (s : State) (hk : Kept qq ll s) : KeptOut qq ll (execMicroTrap k done s) := by
  unfold execMicroTrap
  repeat' first
    | with_reducible assumption
    | lift_lets
    | (intro t; refine kept_have (qq := qq) (ll := ll) (s := t) ?_ (fun _ => ?_); dsimp -zeta only [t]; rotate_left; clear_value t)
    | with_reducible refine KeptOut.next ?_
    | with_reducible apply updCore_kept
    | with_reducible apply lvuInterrupt_kept
    | with_reducible apply updLvu_kept
    | with_reducible apply nextStart_kept
    | with_reducible refine kept_ite ?_ ?_
    | split
    | intro _
    | refine Kept.upd ?_ rfl (Nat.le_refl _) (fun h => h) (fun h => h) (fun h => h) (fun h => h)

theorem execLvuStopTaken_kept (k : Fin 64) (done : Bool) (s : State) (hk : Kept qq ll s) : KeptOut qq ll (execLvuStopTaken k done s) := by
  unfold execLvuStopTaken
  repeat' first
    | with_reducible assumption
    | lift_lets
    | (intro t; refine kept_have (qq := qq) (ll := ll) (s := t) ?_ (fun _ => ?_); dsimp -zeta only [t]; rotate_left; clear_value t)
    | with_reducible refine KeptOut.next ?_
    | with_reducible apply lvuInterrupt_kept
    | with_reducible apply updLvu_kept
    | with_reducible refine kept_ite ?_ ?_
    | split
    | intro _
    | refine Kept.upd ?_ rfl (Nat.le_refl _) (fun h => h) (fun h => h) (fun h => h) (fun h => h)

theorem execPatchRamScrub_kept (k : Fin 64) (w : Fin 512) (bits : Fin 3) (s : State) (hk : Kept qq ll s) : KeptOut qq ll (execPatchRamScrub k w bits s) := by
  unfold execPatchRamScrub
  repeat' first
    | with_reducible assumption
    | with_reducible refine KeptOut.next ?_
    | with_reducible apply lcsCorrected_kept
    | with_reducible apply logRecord_kept
    | with_reducible apply updLvu_kept
    | with_reducible refine kept_ite ?_ ?_

theorem execLcsctlStop_kept (k : Fin 64) (s : State) (hk : Kept qq ll s) : KeptOut qq ll (execLcsctlStop k s) := by
  unfold execLcsctlStop
  repeat' first
    | with_reducible assumption
    | with_reducible refine KeptOut.next ?_
    | with_reducible apply lcsStop_kept

theorem execLcsctlResume_kept (k : Fin 64) (s : State) (hk : Kept qq ll s) : KeptOut qq ll (execLcsctlResume k s) := by
  unfold execLcsctlResume
  repeat' first
    | with_reducible assumption
    | with_reducible refine KeptOut.next ?_
    | with_reducible apply lcsResume_kept

theorem execLcsctlDiscard_kept (k : Fin 64) (s : State) (hk : Kept qq ll s) : KeptOut qq ll (execLcsctlDiscard k s) := by
  unfold execLcsctlDiscard
  repeat' first
    | with_reducible assumption
    | with_reducible refine KeptOut.next ?_
    | with_reducible apply lcsDiscard_kept

theorem execLcsctlPload_kept (k : Fin 64) (on : Bool) (s : State) (hk : Kept qq ll s) : KeptOut qq ll (execLcsctlPload k on s) := by
  unfold execLcsctlPload
  repeat' first
    | with_reducible assumption
    | with_reducible refine KeptOut.next ?_
    | with_reducible apply lcsPload_kept

theorem execLcsctlPen_kept (k : Fin 64) (on : Bool) (s : State) (hk : Kept qq ll s) : KeptOut qq ll (execLcsctlPen k on s) := by
  unfold execLcsctlPen
  repeat' first
    | with_reducible assumption
    | with_reducible refine KeptOut.next ?_
    | with_reducible apply lcsPen_kept

theorem execLcsctlPoll_kept (k : Fin 64) (on : Bool) (s : State) (hk : Kept qq ll s) : KeptOut qq ll (execLcsctlPoll k on s) := by
  unfold execLcsctlPoll
  repeat' first
    | with_reducible assumption
    | with_reducible refine KeptOut.next ?_
    | with_reducible apply lcsPoll_kept

theorem execPrdata4Commit_kept (k : Fin 64) (v : BitVec 32) (s : State) (hk : Kept qq ll s) : KeptOut qq ll (execPrdata4Commit k v s) := by
  unfold execPrdata4Commit
  repeat' first
    | with_reducible assumption
    | with_reducible refine KeptOut.next ?_
    | with_reducible apply lcsCommit_kept

theorem execCorrRead_kept (k : Fin 64) (s : State) (hk : Kept qq ll s) : KeptOut qq ll (execCorrRead k s) := by
  unfold execCorrRead
  repeat' first
    | with_reducible assumption
    | with_reducible refine KeptOut.next ?_
    | refine Kept.upd ?_ rfl (Nat.le_refl _) (fun h => h) (fun h => h) (fun h => h) (fun h => h)

end Sys2Proof.Machine
end

