-- ==== Sys2Proof/Laws/KeptStarter.lean ====
section
/-! SUPPORT. The operations of Machine/Starter.lean keep what Kept names. -/

namespace Sys2Proof.Machine

variable {qq : List Instr} {ll : Nat}

theorem refuseEvent_kept (time : Nat) (e : Ev) (reason : Nat) (pool : Nat) (s : State) (hk : Kept qq ll s) : Kept qq ll (refuseEvent time e reason pool s) := by
  unfold refuseEvent
  repeat' first
    | with_reducible assumption
    | with_reducible apply fire_kept
    | refine Kept.upd ?_ rfl (Nat.le_refl _) (fun h => h) (fun h => h) (fun h => h) (fun h => h)

theorem bumpCopies_kept (cluster : Nat) (at_ : Nat) (s : State) (hk : Kept qq ll s) : Kept qq ll (bumpCopies cluster at_ s) := by
  unfold bumpCopies
  repeat' first
    | with_reducible assumption
    | with_reducible refine kept_ite ?_ ?_
    | refine Kept.upd ?_ rfl (Nat.le_refl _) (fun h => h) (fun h => h) (fun h => h) (fun h => h)

theorem releaseVoice_kept (l : Nat) (relk : BitVec 6) (n : Nat) (s : State) (hk : Kept qq ll s) : Kept qq ll (releaseVoice l relk n s) := by
  unfold releaseVoice
  repeat' first
    | with_reducible assumption
    | with_reducible refine kept_ite ?_ ?_
    | refine Kept.upd ?_ rfl (Nat.le_refl _) (fun h => h) (fun h => h) (fun h => h) (fun h => h)

theorem releaseKey_kept (l : Nat) (at_ : Nat) (e : Ev) (s : State) (hk : Kept qq ll s) : Kept qq ll (releaseKey l at_ e s) := by
  unfold releaseKey
  repeat' first
    | with_reducible assumption
    | with_reducible refine kept_foldl (fun _ _ _ => ?_) ?_
    | with_reducible apply bumpCopies_kept
    | with_reducible apply releaseVoice_kept

theorem endHold_kept (l : Nat) (relk : BitVec 6) (p : Nat) (s : State) (hk : Kept qq ll s) : Kept qq ll (endHold l relk p s) := by
  unfold endHold
  repeat' first
    | with_reducible assumption
    | with_reducible refine kept_ite ?_ ?_
    | refine Kept.upd ?_ rfl (Nat.le_refl _) (fun h => h) (fun h => h) (fun h => h) (fun h => h)

theorem ruleReleases_kept (l : Nat) (at_ : Nat) (e : Ev) (s : State) (r : Nat) (hk : Kept qq ll s) : Kept qq ll (ruleReleases l at_ e s r) := by
  unfold ruleReleases
  repeat' first
    | with_reducible assumption
    | with_reducible refine kept_foldl (fun _ _ _ => ?_) ?_
    | with_reducible apply releaseKey_kept
    | with_reducible apply endHold_kept
    | split
    | refine Kept.upd ?_ rfl (Nat.le_refl _) (fun h => h) (fun h => h) (fun h => h) (fun h => h)

theorem stealVoice_kept (l : Nat) (p : Nat) (n : Nat) (s : State) (hk : Kept qq ll s) : Kept qq ll (stealVoice l p n s) := by
  unfold stealVoice
  repeat' first
    | with_reducible assumption
    | refine Kept.upd ?_ rfl (Nat.le_refl _) (fun h => h) (fun h => h) (fun h => h) (fun h => h)

theorem drawVoice_kept (e : Ev) (l : Nat) (v : Voice) (ring : Option Nat) (k : Nat) (n : Nat) (s : State) (hk : Kept qq ll s) : Kept qq ll (drawVoice e l v ring k n s) := by
  unfold drawVoice
  repeat' first
    | with_reducible assumption
    | refine Kept.upd ?_ rfl (Nat.le_refl _) (fun h => h) (fun h => h) (fun h => h) (fun h => h)

theorem placeVoice_kept (e : Ev) (l : Nat) (at_ : Nat) (v : Voice) (s : State) (hk : Kept qq ll s) : KeptExc qq ll (placeVoice e l at_ v s) := by
  unfold placeVoice
  repeat' first
    | with_reducible assumption
    | lift_lets
    | with_reducible exact KeptExc.error
    | with_reducible refine KeptExc.ok ?_
    | with_reducible apply bumpCopies_kept
    | with_reducible apply drawVoice_kept
    | with_reducible apply stealVoice_kept
    | split
    | intro _

theorem placeAll_kept (e : Ev) (l at_ : Nat) (vs : List Voice) (s : State) (hk : Kept qq ll s) :
    KeptExc qq ll (placeAll e l at_ vs s) := by
  induction vs generalizing s with
  | nil => exact KeptExc.ok hk
  | cons v vs ih =>
    unfold placeAll
    split
    · rename_i t ht
      exact ih t (KeptExc.get ht (placeVoice_kept e l at_ v s hk))
    · exact KeptExc.error

theorem tryStarts_kept (e : Ev) (l : Nat) (at_ : Nat) (vs : List Voice) (s : State) (hk : Kept qq ll s) : KeptExc qq ll (tryStarts e l at_ vs s) := by
  unfold tryStarts
  repeat' first
    | with_reducible assumption
    | lift_lets
    | with_reducible exact KeptExc.error
    | with_reducible refine KeptExc.ok ?_
    | with_reducible apply placeAll_kept
    | split
    | intro _
    | refine KeptExc.get (by assumption) ?_
    | refine Kept.upd ?_ rfl (Nat.le_refl _) (fun h => h) (fun h => h) (fun h => h) (fun h => h)

theorem occupyIssue_kept (e : Ev) (n : Nat) (s : State) (hk : Kept qq ll s) : Kept qq ll (occupyIssue e n s) := by
  unfold occupyIssue
  repeat' first
    | with_reducible assumption
    | refine Kept.upd ?_ rfl (Nat.le_refl _) (fun h => h) (fun h => h) (fun h => h) (fun h => h)

theorem actOnEvent_kept (e : Ev) (s : State) (hk : Kept qq ll s) : Kept qq ll (actOnEvent e s) := by
  unfold actOnEvent
  extract_lets l rules vs at_ src s1 src2 s2 s3
  have h1 : Kept qq ll s1 := Kept.upd hk rfl (Nat.le_refl _) (fun h => h) (fun h => h) (fun h => h) (fun h => h)
  have h2 : Kept qq ll s2 := kept_foldl (fun _ _ h => ruleReleases_kept _ _ _ _ _ h) h1
  refine kept_ite (occupyIssue_kept _ _ _ ?_) (occupyIssue_kept _ _ _ ?_)
  · exact Kept.upd (s := s1) h1 rfl (Nat.le_refl _) (fun h => h) (fun h => h) (fun h => h) (fun h => h)
  · dsimp -zeta only [s3]
    split
    · rename_i ht
      split at ht
      · cases ht
      · exact KeptExc.get ht (tryStarts_kept _ _ _ _ _ h2)
    · exact refuseEvent_kept _ _ _ _ _ h2

theorem starterEvent_kept (e0 : Ev) (req : Option Nat) (s0 : State) (hk : Kept qq ll s0) : Kept qq ll (starterEvent e0 req s0) := by
  unfold starterEvent
  repeat' first
    | with_reducible assumption
    | with_reducible apply actOnEvent_kept
    | with_reducible apply fire_kept
    | with_reducible apply refuseEvent_kept
    | with_reducible refine kept_ite ?_ ?_
    | split
    | refine Kept.upd ?_ rfl (Nat.le_refl _) (fun h => h) (fun h => h) (fun h => h) (fun h => h)

theorem wakeEvents_kept (s : State) (hk : Kept qq ll s) : Kept qq ll (wakeEvents s) := by
  unfold wakeEvents
  repeat' first
    | with_reducible assumption
    | with_reducible refine kept_foldl (fun _ _ _ => ?_) ?_
    | with_reducible apply actOnEvent_kept
    | refine Kept.upd ?_ rfl (Nat.le_refl _) (fun h => h) (fun h => h) (fun h => h) (fun h => h)

theorem recordArrives_kept (r : StartRec) (s : State) (hk : Kept qq ll s) : Kept qq ll (recordArrives r s) := by
  unfold recordArrives
  repeat' first
    | with_reducible assumption
    | refine Kept.upd ?_ rfl (Nat.le_refl _) (fun h => h) (fun h => h) (fun h => h) (fun h => h)

theorem copyEnds_kept (cluster : Nat) (s : State) (hk : Kept qq ll s) : Kept qq ll (copyEnds cluster s) := by
  unfold copyEnds
  split
  · exact hk
  · extract_lets s1 src s2
    have h1 : Kept qq ll s1 := kept_ite hk (updCtx_kept _ _ _ hk)
    have h2 : Kept qq ll s2 := Kept.upd (s := s1) h1 rfl (Nat.le_refl _) (fun h => h) (fun h => h) (fun h => h) (fun h => h)
    exact kept_ite h2 (updCore_kept _ _ _ h2)

theorem execStarterEvent_kept (scls : Fin 7) (chan : BitVec 4) (note : BitVec 8) (vel : BitVec 16) (etype : Fin 6) (entry : Nat) (split : Nat) (req : Option Nat) (s : State) (hk : Kept qq ll s) : KeptOut qq ll (execStarterEvent scls chan note vel etype entry split req s) := by
  unfold execStarterEvent
  repeat' first
    | with_reducible assumption
    | with_reducible refine KeptOut.next ?_
    | with_reducible apply starterEvent_kept

theorem execStartRecordArrival_kept (c : Fin 8) (s : State) (hk : Kept qq ll s) : KeptOut qq ll (execStartRecordArrival c s) := by
  unfold execStartRecordArrival
  repeat' first
    | with_reducible assumption
    | with_reducible refine KeptOut.next ?_
    | split
    | refine Kept.upd ?_ rfl (Nat.le_refl _) (fun h => h) (fun h => h) (fun h => h) (fun h => h)

theorem execTemplateCopyEnd_kept (c : Fin 8) (s : State) (hk : Kept qq ll s) : KeptOut qq ll (execTemplateCopyEnd c s) := by
  unfold execTemplateCopyEnd
  repeat' first
    | with_reducible assumption
    | with_reducible refine KeptOut.next ?_
    | with_reducible apply copyEnds_kept

end Sys2Proof.Machine
end

