-- ==== Sys2Proof/Laws/KeptAdmission.lean ====
section
/-! SUPPORT. The operations of Machine/Admission.lean keep what Kept names. -/

namespace Sys2Proof.Machine

variable {qq : List Instr} {ll : Nat}

theorem admissionRefuse_kept (entry : Nat) (requester : Nat) (f : Fail) (s : State) (hk : Kept qq ll s) : Kept qq ll (admissionRefuse entry requester f s) := by
  unfold admissionRefuse
  repeat' first
    | with_reducible assumption
    | with_reducible apply fire_kept
    | refine Kept.upd ?_ rfl (Nat.le_refl _) (fun h => h) (fun h => h) (fun h => h) (fun h => h)

theorem admissionAccept_kept (s : State) (hk : Kept qq ll s) : Kept qq ll (admissionAccept s) := by
  unfold admissionAccept
  repeat' first
    | with_reducible assumption
    | refine Kept.upd ?_ rfl (Nat.le_refl _) (fun h => h) (fun h => h) (fun h => h) (fun h => h)

theorem bankRefused_kept (vs : List View) (f : Fail) (s : State) (hk : Kept qq ll s) : Kept qq ll (bankRefused vs f s) := by
  unfold bankRefused
  repeat' first
    | with_reducible assumption
    | with_reducible apply logRecord_kept
    | with_reducible refine kept_ite ?_ ?_
    | split

theorem armBank_kept (bs : Option (List Burst)) (s : State) (hk : Kept qq ll s) : Kept qq ll (armBank bs s) := by
  unfold armBank
  repeat' first
    | with_reducible assumption
    | with_reducible refine kept_ite ?_ ?_
    | split
    | refine Kept.upd ?_ rfl (Nat.le_refl _) (fun h => h) (fun h => h) (fun h => h) (fun h => h)

theorem restageManifests_kept (s : State) (hk : Kept qq ll s) : Kept qq ll (restageManifests s) := by
  unfold restageManifests
  repeat' first
    | with_reducible assumption
    | with_reducible refine kept_ite ?_ ?_
    | split
    | intro _
    | refine Kept.upd ?_ rfl (Nat.le_refl _) (fun h => h) (fun h => h) (fun h => h) (fun h => h)

theorem restage_kept (s : State) (hk : Kept qq ll s) : Kept qq ll (restage s) := by
  unfold restage
  repeat' first
    | with_reducible assumption
    | with_reducible apply restageManifests_kept
    | with_reducible apply armBank_kept

theorem replan_kept (s : State) (hk : Kept qq ll s) : Kept qq ll (replan s) := by
  unfold replan
  repeat' first
    | with_reducible assumption
    | refine Kept.upd ?_ rfl (Nat.le_refl _) (fun h => h) (fun h => h) (fun h => h) (fun h => h)

theorem trimPlans_kept (s : State) (hk : Kept qq ll s) : Kept qq ll (trimPlans s) := by
  unfold trimPlans
  repeat' first
    | with_reducible assumption
    | refine Kept.upd ?_ rfl (Nat.le_refl _) (fun h => h) (fun h => h) (fun h => h) (fun h => h)

theorem holdReserve_kept (s : State) (hk : Kept qq ll s) : Kept qq ll (holdReserve s) := by
  unfold holdReserve
  repeat' first
    | with_reducible assumption
    | with_reducible apply restage_kept
    | with_reducible apply replan_kept
    | refine Kept.upd ?_ rfl (Nat.le_refl _) (fun h => h) (fun h => h) (fun h => h) (fun h => h)

theorem reserveWrite_kept (on : Bool) (requester : Nat) (s : State) (hk : Kept qq ll s) : Kept qq ll (reserveWrite on requester s).1 := by
  unfold reserveWrite
  repeat' first
    | with_reducible assumption
    | with_reducible apply admissionRefuse_kept
    | split
    | refine Kept.upd ?_ rfl (Nat.le_refl _) (fun h => h) (fun h => h) (fun h => h) (fun h => h)

end Sys2Proof.Machine
end

