-- ==== Sys2Proof/Laws/KeptAppCore.lean ====
section
/-! SUPPORT. The operations of Machine/AppCore.lean keep what Kept names. -/

namespace Sys2Proof.Machine

variable {qq : List Instr} {ll : Nat}

theorem setApp_kept (s : State) (a : Nat) (x : App) (hk : Kept qq ll s) : Kept qq ll (setApp s a x) := by
  unfold setApp
  repeat' first
    | with_reducible assumption
    | refine Kept.upd ?_ rfl (Nat.le_refl _) (fun h => h) (fun h => h) (fun h => h) (fun h => h)

theorem updApp_kept (s : State) (a : Nat) (f : App → App) (hk : Kept qq ll s) : Kept qq ll (updApp s a f) := by
  unfold updApp
  repeat' first
    | with_reducible assumption
    | with_reducible apply setApp_kept

theorem appRet_kept (a : Nat) (st : Status) (out : List Nat) (s : State) (hk : Kept qq ll s) : Kept qq ll (appRet a st out s) := by
  unfold appRet
  repeat' first
    | with_reducible assumption
    | with_reducible apply updApp_kept
    | with_reducible refine kept_ite ?_ ?_

theorem appSend_kept (a : Nat) (m : AppMsg) (s : State) (hk : Kept qq ll s) : Kept qq ll (appSend a m s) := by
  unfold appSend
  repeat' first
    | with_reducible assumption
    | with_reducible apply updApp_kept

theorem appResult_kept (h : Nat) (body : Bytes) (s : State) (hk : Kept qq ll s) : Kept qq ll (appResult h body s) := by
  unfold appResult
  repeat' first
    | with_reducible assumption
    | split
    | refine Kept.upd ?_ rfl (Nat.le_refl _) (fun h => h) (fun h => h) (fun h => h) (fun h => h)

theorem boundClaim_kept (w : Nat) (s : State) (hk : Kept qq ll s) : Kept qq ll (boundClaim w s) := by
  unfold boundClaim
  repeat' first
    | with_reducible assumption
    | with_reducible apply appSend_kept
    | split

end Sys2Proof.Machine
end

