-- ==== Sys2Proof/Laws/KeptPorts.lean ====
section
/-! SUPPORT. The operations of Machine/Ports.lean keep what Kept names. -/

namespace Sys2Proof.Machine

variable {qq : List Instr} {ll : Nat}

theorem setPort_kept (s : State) (p : Port) (x : PortSt) (hk : Kept qq ll s) : Kept qq ll (setPort s p x) := by
  unfold setPort
  repeat' first
    | with_reducible assumption
    | split
    | refine Kept.upd ?_ rfl (Nat.le_refl _) (fun h => h) (fun h => h) (fun h => h) (fun h => h)

theorem updPort_kept (s : State) (p : Port) (f : PortSt → PortSt) (hk : Kept qq ll s) : Kept qq ll (updPort s p f) := by
  unfold updPort
  repeat' first
    | with_reducible assumption
    | with_reducible apply setPort_kept

theorem portCount_kept (p : Port) (i : Nat) (s : State) (hk : Kept qq ll s) : Kept qq ll (portCount p i s) := by
  unfold portCount
  repeat' first
    | with_reducible assumption
    | with_reducible apply updPort_kept

theorem buildMsg_kept (p : Port) (plain : Bool) (msg : Nat) (seq : Nat) (flags : Nat) (status : Nat) (token : Nat) (body : Bytes) (s : State) (hk : Kept qq ll s) : Kept qq ll (buildMsg p plain msg seq flags status token body s).2 := by
  unfold buildMsg
  repeat' first
    | with_reducible assumption
    | with_reducible apply updPort_kept
    | with_reducible refine kept_ite_snd ?_ ?_

theorem startHold_kept (p : Port) (s : State) (hk : Kept qq ll s) : Kept qq ll (startHold p s) := by
  unfold startHold
  repeat' first
    | with_reducible assumption
    | with_reducible apply updPort_kept

theorem sendQueue_kept (p : Port) (s : State) (hk : Kept qq ll s) : Kept qq ll (sendQueue p s) := by
  unfold sendQueue
  repeat' first
    | with_reducible assumption
    | with_reducible apply startHold_kept
    | with_reducible apply setPort_kept
    | with_reducible refine kept_ite ?_ ?_
    | refine Kept.upd ?_ rfl (Nat.le_refl _) (fun h => h) (fun h => h) (fun h => h) (fun h => h)

theorem pushOut_kept (p : Port) (m : OutMsg) (s : State) (hk : Kept qq ll s) : Kept qq ll (pushOut p m s) := by
  unfold pushOut
  repeat' first
    | with_reducible assumption
    | with_reducible apply setPort_kept
    | with_reducible apply sendQueue_kept
    | with_reducible refine kept_ite ?_ ?_

theorem sendReply_kept (p : Port) (plain : Bool) (msg : Nat) (seq : Nat) (token : Nat) (st : Status) (body : Bytes) (s : State) (hk : Kept qq ll s) : Kept qq ll (sendReply p plain msg seq token st body s) := by
  unfold sendReply
  repeat' first
    | with_reducible assumption
    | with_reducible apply buildMsg_kept
    | with_reducible apply updPort_kept
    | with_reducible apply pushOut_kept
    | refine Kept.upd ?_ rfl (Nat.le_refl _) (fun h => h) (fun h => h) (fun h => h) (fun h => h)

theorem sendPlain_kept (p : Port) (plain : Bool) (msg : Nat) (seq : Nat) (token : Nat) (st : Status) (s : State) (hk : Kept qq ll s) : Kept qq ll (sendPlain p plain msg seq token st s) := by
  have h := buildMsg_kept p plain msg seq 1 st.code token [] s hk
  unfold sendPlain
  exact pushOut_kept _ _ _ (Kept.upd h rfl (Nat.le_refl _) (fun h => h) (fun h => h) (fun h => h) (fun h => h))

theorem notifyMsg_kept (p : Port) (body : Bytes) (s : State) (hk : Kept qq ll s) : Kept qq ll (notifyMsg p body s).2 := by
  unfold notifyMsg
  repeat' first
    | with_reducible assumption
    | with_reducible apply buildMsg_kept
    | with_reducible apply updPort_kept

theorem notifyResult_kept (p : Port) (handle : Nat) (code : Nat) (lc : Nat) (tau : Nat) (s : State) (hk : Kept qq ll s) : Kept qq ll (notifyResult p handle code lc tau s) := by
  unfold notifyResult
  repeat' first
    | with_reducible assumption
    | with_reducible apply notifyMsg_kept
    | with_reducible apply pushOut_kept

theorem notifyValue_kept (p : Port) (id : Nat) (ix : Nat) (sub : Nat) (val : Bytes) (s : State) (hk : Kept qq ll s) : Kept qq ll (notifyValue p id ix sub val s) := by
  unfold notifyValue
  repeat' first
    | with_reducible assumption
    | with_reducible apply notifyMsg_kept
    | with_reducible apply pushOut_kept

theorem semTake_kept (who : Requester) (i : Nat) (s : State) (hk : Kept qq ll s) : Kept qq ll (semTake who i s).2 := by
  unfold semTake
  repeat' first
    | with_reducible assumption
    | with_reducible refine kept_ite_snd ?_ ?_
    | refine Kept.upd ?_ rfl (Nat.le_refl _) (fun h => h) (fun h => h) (fun h => h) (fun h => h)

theorem semGive_kept (who : Requester) (i : Nat) (s : State) (hk : Kept qq ll s) : Kept qq ll (semGive who i s).2 := by
  unfold semGive
  repeat' first
    | with_reducible assumption
    | with_reducible refine kept_ite_snd ?_ ?_
    | refine Kept.upd ?_ rfl (Nat.le_refl _) (fun h => h) (fun h => h) (fun h => h) (fun h => h)

theorem freeSems_kept (owner : Nat) (s : State) (hk : Kept qq ll s) : Kept qq ll (freeSems owner s) := by
  unfold freeSems
  repeat' first
    | with_reducible assumption
    | with_reducible apply fire_kept
    | with_reducible refine kept_ite ?_ ?_
    | refine Kept.upd ?_ rfl (Nat.le_refl _) (fun h => h) (fun h => h) (fun h => h) (fun h => h)

end Sys2Proof.Machine
end

