-- ==== Sys2Proof/Laws/KeptManCore.lean ====
section
/-! SUPPORT. The operations of Machine/ManCore.lean keep what Kept names. -/

namespace Sys2Proof.Machine

variable {qq : List Instr} {ll : Nat}

theorem setMan_kept (s : State) (h : Nat) (m : Manifest) (hk : Kept qq ll s) : Kept qq ll (setMan s h m) := by
  unfold setMan
  repeat' first
    | with_reducible assumption
    | refine Kept.upd ?_ rfl (Nat.le_refl _) (fun h => h) (fun h => h) (fun h => h) (fun h => h)

theorem endManifest_kept (h : Nat) (code : Nat) (reason : Nat) (entry : Nat) (lc : Nat) (tau : Nat) (s : State) (hk : Kept qq ll s) : Kept qq ll (endManifest h code reason entry lc tau s) := by
  unfold endManifest
  repeat' first
    | with_reducible assumption
    | refine Kept.upd ?_ rfl (Nat.le_refl _) (fun h => h) (fun h => h) (fun h => h) (fun h => h)

theorem avAnswer_kept (h : Nat) (code : Nat) (s : State) (hk : Kept qq ll s) : Kept qq ll (avAnswer h code s) := by
  unfold avAnswer
  repeat' first
    | with_reducible assumption
    | split
    | refine Kept.upd ?_ rfl (Nat.le_refl _) (fun h => h) (fun h => h) (fun h => h) (fun h => h)

theorem notifyEnd_kept (h : Nat) (code : Nat) (lc : Nat) (tau : Nat) (s : State) (hk : Kept qq ll s) : Kept qq ll (notifyEnd h code lc tau s) := by
  unfold notifyEnd
  repeat' first
    | with_reducible assumption
    | with_reducible apply fire_kept
    | with_reducible apply notifyResult_kept
    | with_reducible apply appResult_kept
    | with_reducible apply avAnswer_kept
    | split

theorem openManifest_kept (who : Requester) (s : State) (hk : Kept qq ll s) : Kept qq ll (openManifest who s).2.2 := by
  unfold openManifest
  repeat' first
    | with_reducible assumption
    | with_reducible apply setMan_kept
    | split

theorem addManifest_kept (who : Requester) (h : Nat) (b : Bytes) (s : State) (hk : Kept qq ll s) : Kept qq ll (addManifest who h b s).2.2 := by
  unfold addManifest
  repeat' first
    | with_reducible assumption
    | lift_lets
    | with_reducible apply setMan_kept
    | with_reducible apply endManifest_kept
    | split
    | intro _

theorem queueCommit_kept (h : Nat) (s : State) (hk : Kept qq ll s) : Kept qq ll (queueCommit h s) := by
  unfold queueCommit
  repeat' first
    | with_reducible assumption
    | with_reducible refine kept_ite ?_ ?_
    | split
    | intro _
    | refine Kept.upd ?_ rfl (Nat.le_refl _) (fun h => h) (fun h => h) (fun h => h) (fun h => h)

theorem commitManifest_kept (who : Requester) (h : Nat) (timed : Option Nat) (reply : Option (Nat × Nat)) (s : State) (hk : Kept qq ll s) : Kept qq ll (commitManifest who h timed reply s).2 := by
  unfold commitManifest
  repeat' first
    | with_reducible assumption
    | with_reducible apply setMan_kept
    | with_reducible apply queueCommit_kept
    | with_reducible refine kept_ite_snd ?_ ?_
    | with_reducible refine kept_ite ?_ ?_
    | split
    | refine Kept.upd ?_ rfl (Nat.le_refl _) (fun h => h) (fun h => h) (fun h => h) (fun h => h)

theorem landAborted_kept (n : Nat) (lc : Nat) (s : State) (hk : Kept qq ll s) : Kept qq ll (landAborted n lc s) := by
  unfold landAborted
  repeat' first
    | with_reducible assumption
    | refine Kept.upd ?_ rfl (Nat.le_refl _) (fun h => h) (fun h => h) (fun h => h) (fun h => h)

theorem restoreParams_kept (m : Manifest) (s : State) (hk : Kept qq ll s) : Kept qq ll (restoreParams m s) := by
  unfold restoreParams
  repeat' first
    | with_reducible assumption
    | with_reducible refine kept_foldl (fun _ _ _ => ?_) ?_
    | with_reducible apply updCtx_kept
    | with_reducible apply landAborted_kept

theorem gridAborted_kept (m : Manifest) (s : State) (hk : Kept qq ll s) : Kept qq ll (gridAborted m s) := by
  unfold gridAborted
  repeat' first
    | with_reducible assumption
    | with_reducible apply restageManifests_kept
    | with_reducible refine kept_ite ?_ ?_
    | split
    | intro _

theorem abortManifest_kept (who : Requester) (h : Nat) (s : State) (hk : Kept qq ll s) : Kept qq ll (abortManifest who h s).2 := by
  unfold abortManifest
  repeat' first
    | with_reducible assumption
    | lift_lets
    | (intro t; refine kept_have (qq := qq) (ll := ll) (s := t) ?_ (fun _ => ?_); dsimp -zeta only [t]; rotate_left; clear_value t)
    | with_reducible apply restoreParams_kept
    | with_reducible apply gridAborted_kept
    | split
    | intro _
    | refine Kept.upd ?_ rfl (Nat.le_refl _) (fun h => h) (fun h => h) (fun h => h) (fun h => h)

theorem firmwarePut_kept (m : Manifest) (s : State) (hk : Kept qq ll s) : Kept qq ll (firmwarePut m s) := by
  unfold firmwarePut
  repeat' first
    | with_reducible assumption
    | with_reducible refine kept_foldl (fun _ _ _ => ?_) ?_
    | with_reducible apply setMan_kept
    | with_reducible apply queueCommit_kept
    | split
    | intro _
    | refine Kept.upd ?_ rfl (Nat.le_refl _) (fun h => h) (fun h => h) (fun h => h) (fun h => h)

theorem firmwareManifest_kept (es : List MEntry) (s : State) (hk : Kept qq ll s) : Kept qq ll (firmwareManifest es s) := by
  unfold firmwareManifest
  repeat' first
    | with_reducible assumption
    | with_reducible apply firmwarePut_kept

theorem abortOpen_kept (p : Port) (s : State) (hk : Kept qq ll s) : Kept qq ll (abortOpen p s) := by
  unfold abortOpen
  repeat' first
    | with_reducible assumption
    | with_reducible refine kept_foldl (fun _ _ _ => ?_) ?_
    | with_reducible apply logRecord_kept
    | with_reducible apply endManifest_kept
    | with_reducible refine kept_ite ?_ ?_

theorem dropReplies_kept (p : Port) (s : State) (hk : Kept qq ll s) : Kept qq ll (dropReplies p s) := by
  unfold dropReplies
  repeat' first
    | with_reducible assumption
    | refine Kept.upd ?_ rfl (Nat.le_refl _) (fun h => h) (fun h => h) (fun h => h) (fun h => h)

theorem resetPort_kept (p : Port) (s : State) (hk : Kept qq ll s) : Kept qq ll (resetPort p s) := by
  unfold resetPort
  repeat' first
    | with_reducible assumption
    | with_reducible apply abortOpen_kept
    | with_reducible apply freeSems_kept
    | with_reducible apply updPort_kept
    | with_reducible apply portCount_kept
    | with_reducible apply fire_kept
    | with_reducible apply dropReplies_kept
    | intro _
    | refine Kept.upd ?_ rfl (Nat.le_refl _) (fun h => h) (fun h => h) (fun h => h) (fun h => h)

end Sys2Proof.Machine
end

