-- ==== Sys2Proof/Laws/KeptAppEnd.lean ====
section
/-! SUPPORT. The operations of Machine/AppEnd.lean keep what Kept names. -/

namespace Sys2Proof.Machine

variable {qq : List Instr} {ll : Nat}

theorem appManifests_kept (a : Nat) (s : State) (hk : Kept qq ll s) : Kept qq ll (appManifests a s) := by
  unfold appManifests
  repeat' first
    | with_reducible assumption
    | with_reducible refine kept_foldl (fun _ _ _ => ?_) ?_
    | with_reducible apply endManifest_kept
    | with_reducible refine kept_ite ?_ ?_

theorem appSems_kept (a : Nat) (s : State) (hk : Kept qq ll s) : Kept qq ll (appSems a s) := by
  unfold appSems
  repeat' first
    | with_reducible assumption
    | with_reducible apply fire_kept
    | with_reducible refine kept_ite ?_ ?_
    | refine Kept.upd ?_ rfl (Nat.le_refl _) (fun h => h) (fun h => h) (fun h => h) (fun h => h)

theorem endApp_kept (a : Nat) (cause : Nat) (s : State) (hk : Kept qq ll s) : Kept qq ll (endApp a cause s) := by
  unfold endApp
  repeat' first
    | with_reducible assumption
    | with_reducible apply appSems_kept
    | with_reducible apply appManifests_kept
    | with_reducible refine kept_ite ?_ ?_
    | refine Kept.upd ?_ rfl (Nat.le_refl _) (fun h => h) (fun h => h) (fun h => h) (fun h => h)

theorem endAllApps_kept (s : State) (hk : Kept qq ll s) : Kept qq ll (endAllApps s) := by
  unfold endAllApps
  repeat' first
    | with_reducible assumption
    | with_reducible refine kept_foldl (fun _ _ _ => ?_) ?_
    | with_reducible apply endApp_kept

theorem appFault_kept (d : Nat) (priv : Nat) (k : Nat) (frame : Bytes) (s : State) (hk : Kept qq ll s) : Kept qq ll (appFault d priv k frame s) := by
  unfold appFault
  repeat' first
    | with_reducible assumption
    | with_reducible apply updApp_kept
    | with_reducible apply endApp_kept
    | with_reducible apply appRet_kept
    | with_reducible refine kept_ite ?_ ?_
    | split
    | intro _
    | refine Kept.upd ?_ rfl (Nat.le_refl _) (fun h => h) (fun h => h) (fun h => h) (fun h => h)

end Sys2Proof.Machine
end

