-- ==== Sys2Proof/Laws/KeptAppRun.lean ====
section
/-! SUPPORT. The operations of Machine/AppRun.lean keep what Kept names. -/

namespace Sys2Proof.Machine

variable {qq : List Instr} {ll : Nat}

theorem appInstall_kept (a : Nat) (s : State) (hk : Kept qq ll s) : Kept qq ll (appInstall a s).2 := by
  unfold appInstall
  repeat' first
    | with_reducible assumption
    | with_reducible apply setApp_kept
    | with_reducible refine kept_ite_snd ?_ ?_

theorem appRemove_kept (a : Nat) (s : State) (hk : Kept qq ll s) : Kept qq ll (appRemove a s).2 := by
  unfold appRemove
  repeat' first
    | with_reducible assumption
    | with_reducible apply setApp_kept
    | with_reducible refine kept_ite_snd ?_ ?_

theorem appSchedule_kept (s : State) (hk : Kept qq ll s) : Kept qq ll (appSchedule s) := by
  unfold appSchedule
  repeat' first
    | with_reducible assumption
    | with_reducible refine kept_foldl (fun _ _ _ => ?_) ?_
    | split
    | refine Kept.upd ?_ rfl (Nat.le_refl _) (fun h => h) (fun h => h) (fun h => h) (fun h => h)

theorem appYield_kept (a : Nat) (s : State) (hk : Kept qq ll s) : Kept qq ll (appYield a s) := by
  unfold appYield
  repeat' first
    | with_reducible assumption
    | with_reducible apply appSchedule_kept
    | refine Kept.upd ?_ rfl (Nat.le_refl _) (fun h => h) (fun h => h) (fun h => h) (fun h => h)

theorem appStart_kept (a : Nat) (s : State) (hk : Kept qq ll s) : Kept qq ll (appStart a s) := by
  unfold appStart
  repeat' first
    | with_reducible assumption
    | with_reducible apply appSchedule_kept
    | with_reducible apply setApp_kept
    | with_reducible refine kept_ite ?_ ?_

theorem appRun_kept (a : Nat) (v : Nat) (s : State) (hk : Kept qq ll s) : Kept qq ll (appRun a v s).2 := by
  unfold appRun
  repeat' first
    | with_reducible assumption
    | with_reducible apply appStart_kept
    | with_reducible apply appSchedule_kept
    | with_reducible apply endApp_kept
    | with_reducible refine kept_ite_snd ?_ ?_

theorem appAutostart_kept (s : State) (hk : Kept qq ll s) : Kept qq ll (appAutostart s) := by
  unfold appAutostart
  repeat' first
    | with_reducible assumption
    | with_reducible refine kept_foldl (fun _ _ _ => ?_) ?_
    | with_reducible apply appStart_kept
    | with_reducible refine kept_ite ?_ ?_

theorem appDraft_kept (a : Nat) (off : Nat) (v : Bytes) (s : State) (hk : Kept qq ll s) : Kept qq ll (appDraft a off v s).2 := by
  unfold appDraft
  repeat' first
    | with_reducible assumption
    | with_reducible apply setApp_kept
    | with_reducible refine kept_ite_snd ?_ ?_

theorem appStatus_kept (a : Nat) (r : Status × State) (hk : Kept qq ll r.2) : Kept qq ll (appStatus a r).2 := by
  show Kept qq ll (updApp r.2 a (fun x => { x with status := r.1.code }))
  exact updApp_kept r.2 a _ hk

end Sys2Proof.Machine
end

