-- ==== Sys2Proof/Laws/KeptBootChain.lean ====
section
/-! SUPPORT. The operations of Machine/BootChain.lean keep what Kept names. -/

namespace Sys2Proof.Machine

variable {qq : List Instr} {ll : Nat}

theorem onModes_kept (f : ModeSt → ModeSt) (s : State) (hk : Kept qq ll s) (hf : s.modes.life ≤ (f s.modes).life) :
    Kept qq ll (onModes f s) := by
  unfold onModes
  exact Kept.upd hk rfl hf (fun h => h) (fun h => h) (fun h => h) (fun h => h)

theorem onBoot_kept (f : BootRec → BootRec) (s : State) (hk : Kept qq ll s) : Kept qq ll (onBoot f s) := by
  unfold onBoot
  repeat' first
    | with_reducible assumption
    | with_reducible apply onModes_kept
    | exact Nat.le_refl _

theorem bootWrite_kept (f : BootRec → BootRec) (s : State) (hk : Kept qq ll s) : Kept qq ll (bootWrite f s) := by
  unfold bootWrite
  repeat' first
    | with_reducible assumption
    | with_reducible apply onBoot_kept

theorem patchLoadWord_kept (k : Nat) (v : Nat) (s : State) (hk : Kept qq ll s) : Kept qq ll (patchLoadWord k v s) := by
  unfold patchLoadWord
  repeat' first
    | with_reducible assumption
    | with_reducible refine kept_foldl (fun _ _ _ => ?_) ?_
    | with_reducible apply lcsWrite_kept

theorem patchLoad_kept (p : Bytes) (k : Nat) (s : State) (hk : Kept qq ll s) : Kept qq ll (patchLoad p k s) := by
  unfold patchLoad
  repeat' first
    | with_reducible assumption
    | with_reducible refine kept_foldl (fun _ _ _ => ?_) ?_
    | with_reducible apply lcsWrite_kept
    | with_reducible apply patchLoadWord_kept

theorem patchClear_kept (s : State) (hk : Kept qq ll s) : Kept qq ll (patchClear s) := by
  unfold patchClear
  repeat' first
    | with_reducible assumption
    | with_reducible refine kept_foldl (fun _ _ _ => ?_) ?_
    | with_reducible apply updLvu_kept

end Sys2Proof.Machine
end

