-- ==== Sys2Proof/Laws/KeptStore.lean ====
section
/-! SUPPORT. The operations of Machine/Store.lean keep what Kept names. -/

namespace Sys2Proof.Machine

variable {qq : List Instr} {ll : Nat}

theorem streamOpen_kept (ring : Nat) (obj : Nat) (ctx : Nat) (s : State) (hk : Kept qq ll s) : Kept qq ll (streamOpen ring obj ctx s) := by
  unfold streamOpen
  repeat' first
    | with_reducible assumption
    | with_reducible apply setRing_kept

theorem opsBegin_kept (s : State) (hk : Kept qq ll s) : Kept qq ll (opsBegin s) := by
  unfold opsBegin
  repeat' first
    | with_reducible assumption
    | with_reducible refine kept_foldl (fun _ _ _ => ?_) ?_
    | with_reducible refine kept_foldl_fst (fun _ _ _ => ?_) ?_
    | with_reducible apply takeFree_kept
    | with_reducible refine kept_ite ?_ ?_
    | split
    | intro _
    | refine Kept.upd ?_ rfl (Nat.le_refl _) (fun h => h) (fun h => h) (fun h => h) (fun h => h)

theorem opEnds_kept (die : Nat) (plane : Nat) (s : State) (hk : Kept qq ll s) : Kept qq ll (opEnds die plane s) := by
  unfold opEnds
  repeat' first
    | with_reducible assumption
    | with_reducible refine kept_ite ?_ ?_
    | split
    | refine Kept.upd ?_ rfl (Nat.le_refl _) (fun h => h) (fun h => h) (fun h => h) (fun h => h)

theorem sendReads_kept (s : State) (hk : Kept qq ll s) : Kept qq ll (sendReads s) := by
  unfold sendReads
  repeat' first
    | with_reducible assumption
    | with_reducible refine kept_foldl (fun _ _ _ => ?_) ?_
    | with_reducible refine kept_foldl_fst (fun _ _ _ => ?_) ?_
    | with_reducible refine kept_ite ?_ ?_
    | split
    | intro _
    | refine Kept.upd ?_ rfl (Nat.le_refl _) (fun h => h) (fun h => h) (fun h => h) (fun h => h)

theorem issueRead_kept (ring : Nat) (s : State) (hk : Kept qq ll s) : Kept qq ll (issueRead ring s) := by
  unfold issueRead
  repeat' first
    | with_reducible assumption
    | with_reducible apply sendReads_kept
    | refine Kept.upd ?_ rfl (Nat.le_refl _) (fun h => h) (fun h => h) (fun h => h) (fun h => h)

theorem ringFill_kept (ring : Nat) (s : State) (hk : Kept qq ll s) : Kept qq ll (ringFill ring s) := by
  unfold ringFill
  repeat' first
    | with_reducible assumption
    | with_reducible apply setRing_kept
    | with_reducible apply issueRead_kept
    | with_reducible refine kept_ite ?_ ?_
    | split
    | refine Kept.upd ?_ rfl (Nat.le_refl _) (fun h => h) (fun h => h) (fun h => h) (fun h => h)

theorem setBlock_kept (s : State) (k : Nat) (b : Block) (hk : Kept qq ll s) : Kept qq ll (setBlock s k b) := by
  unfold setBlock
  repeat' first
    | with_reducible assumption
    | refine Kept.upd ?_ rfl (Nat.le_refl _) (fun h => h) (fun h => h) (fun h => h) (fun h => h)

theorem retireBlock_kept (die : Nat) (plane : Nat) (block : Nat) (s : State) (hk : Kept qq ll s) : Kept qq ll (retireBlock die plane block s) := by
  unfold retireBlock
  repeat' first
    | with_reducible assumption
    | with_reducible apply fire_kept
    | with_reducible refine kept_ite ?_ ?_
    | refine Kept.upd ?_ rfl (Nat.le_refl _) (fun h => h) (fun h => h) (fun h => h) (fun h => h)

theorem countRead_kept (page : Nat) (s : State) (die : Nat) (hk : Kept qq ll s) : Kept qq ll (countRead page s die) := by
  unfold countRead
  repeat' first
    | with_reducible assumption
    | with_reducible apply fire_kept
    | with_reducible apply setBlock_kept
    | with_reducible refine kept_ite ?_ ?_
    | split
    | refine Kept.upd ?_ rfl (Nat.le_refl _) (fun h => h) (fun h => h) (fun h => h) (fun h => h)

theorem uncorrectablePage_kept (page : Nat) (s : State) (hk : Kept qq ll s) : Kept qq ll (uncorrectablePage page s) := by
  unfold uncorrectablePage
  repeat' first
    | with_reducible assumption
    | with_reducible apply logRecord_kept
    | with_reducible apply retireBlock_kept
    | with_reducible refine kept_ite ?_ ?_
    | refine Kept.upd ?_ rfl (Nat.le_refl _) (fun h => h) (fun h => h) (fun h => h) (fun h => h)

theorem leavesQueue_kept (ring : Option Nat) (s : State) (hk : Kept qq ll s) : Kept qq ll (leavesQueue ring s) := by
  unfold leavesQueue
  repeat' first
    | with_reducible assumption
    | with_reducible apply sendReads_kept
    | split
    | intro _
    | refine Kept.upd ?_ rfl (Nat.le_refl _) (fun h => h) (fun h => h) (fun h => h) (fun h => h)

theorem pageReadDone_kept (ring : Option Nat) (frames : Nat) (outcome : Nat) (page : Nat) (s : State) (hk : Kept qq ll s) : Kept qq ll (pageReadDone ring frames outcome page s) := by
  unfold pageReadDone
  repeat' first
    | with_reducible assumption
    | with_reducible refine kept_foldl (fun _ _ _ => ?_) ?_
    | with_reducible apply opsBegin_kept
    | with_reducible apply countRead_kept
    | with_reducible apply leavesQueue_kept
    | with_reducible apply uncorrectablePage_kept
    | with_reducible apply setRing_kept
    | with_reducible refine kept_ite ?_ ?_
    | split
    | intro _
    | refine Kept.upd ?_ rfl (Nat.le_refl _) (fun h => h) (fun h => h) (fun h => h) (fun h => h)

theorem consumption_kept (ring : Nat) (s : State) (hk : Kept qq ll s) : Kept qq ll (consumption ring s) := by
  unfold consumption
  repeat' first
    | with_reducible assumption
    | with_reducible apply setRing_kept
    | with_reducible refine kept_ite ?_ ?_

theorem setKeymap_kept (s : State) (m : Nat) (k : Keymap) (hk : Kept qq ll s) : Kept qq ll (setKeymap s m k) := by
  unfold setKeymap
  repeat' first
    | with_reducible assumption
    | refine Kept.upd ?_ rfl (Nat.le_refl _) (fun h => h) (fun h => h) (fun h => h) (fun h => h)

theorem reloadKeymaps_kept (s : State) (hk : Kept qq ll s) : Kept qq ll (reloadKeymaps s) := by
  unfold reloadKeymaps
  repeat' first
    | with_reducible assumption
    | with_reducible refine kept_foldl (fun _ _ _ => ?_) ?_
    | with_reducible apply fire_kept
    | with_reducible apply setKeymap_kept
    | with_reducible refine kept_ite ?_ ?_

theorem headResident_kept (id : Nat) (s : State) (hk : Kept qq ll s) : Kept qq ll (headResident id s) := by
  unfold headResident
  repeat' first
    | with_reducible assumption
    | with_reducible apply reloadKeymaps_kept
    | with_reducible apply fire_kept
    | with_reducible refine kept_ite ?_ ?_
    | refine Kept.upd ?_ rfl (Nat.le_refl _) (fun h => h) (fun h => h) (fun h => h) (fun h => h)

theorem populateHeads_kept (s : State) (hk : Kept qq ll s) : Kept qq ll (populateHeads s) := by
  unfold populateHeads
  repeat' first
    | with_reducible assumption
    | refine Kept.upd ?_ rfl (Nat.le_refl _) (fun h => h) (fun h => h) (fun h => h) (fun h => h)

theorem keymapWrite_kept (m : Nat) (v : Bytes) (s : State) (hk : Kept qq ll s) : Kept qq ll (keymapWrite m v s).2 := by
  unfold keymapWrite
  repeat' first
    | with_reducible assumption
    | with_reducible apply setKeymap_kept
    | with_reducible apply odPut_kept
    | with_reducible refine kept_ite_snd ?_ ?_

theorem prefixCopyDone_kept (m : Nat) (s : State) (hk : Kept qq ll s) : Kept qq ll (prefixCopyDone m s) := by
  unfold prefixCopyDone
  repeat' first
    | with_reducible assumption
    | with_reducible apply fire_kept
    | with_reducible refine kept_ite ?_ ?_
    | refine Kept.upd ?_ rfl (Nat.le_refl _) (fun h => h) (fun h => h) (fun h => h) (fun h => h)

theorem setSession_kept (s : State) (i : Nat) (x : Session) (hk : Kept qq ll s) : Kept qq ll (setSession s i x) := by
  unfold setSession
  repeat' first
    | with_reducible assumption
    | refine Kept.upd ?_ rfl (Nat.le_refl _) (fun h => h) (fun h => h) (fun h => h) (fun h => h)

theorem importOpen_kept (i : Nat) (v : Bytes) (s : State) (hk : Kept qq ll s) : Kept qq ll (importOpen i v s).2 := by
  unfold importOpen
  repeat' first
    | with_reducible assumption
    | with_reducible apply setObj_kept
    | with_reducible apply setSession_kept
    | with_reducible refine kept_ite_snd ?_ ?_

theorem importAppend_kept (i : Nat) (off : Nat) (v : Bytes) (s : State) (hk : Kept qq ll s) : Kept qq ll (importAppend i off v s).2 := by
  unfold importAppend
  repeat' first
    | with_reducible assumption
    | with_reducible apply setSession_kept
    | with_reducible refine kept_ite_snd ?_ ?_

theorem endSession_kept (i : Nat) (state : Nat) (st : Status) (s : State) (hk : Kept qq ll s) : Kept qq ll (endSession i state st s) := by
  unfold endSession
  repeat' first
    | with_reducible assumption
    | with_reducible apply fire_kept
    | with_reducible apply setSession_kept

theorem freeObject_kept (id : Nat) (s : State) (hk : Kept qq ll s) : Kept qq ll (freeObject id s) := by
  unfold freeObject
  repeat' first
    | with_reducible assumption
    | refine Kept.upd ?_ rfl (Nat.le_refl _) (fun h => h) (fun h => h) (fun h => h) (fun h => h)

theorem importCommit_kept (i : Nat) (s : State) (hk : Kept qq ll s) : Kept qq ll (importCommit i s).2 := by
  unfold importCommit
  repeat' first
    | with_reducible assumption
    | lift_lets
    | (intro t; refine kept_have (qq := qq) (ll := ll) (s := t) ?_ (fun _ => ?_); dsimp -zeta only [t]; rotate_left; clear_value t)
    | with_reducible apply opsBegin_kept
    | with_reducible apply setSession_kept
    | with_reducible apply setObj_kept
    | with_reducible apply freeObject_kept
    | with_reducible apply endSession_kept
    | with_reducible refine kept_ite_snd ?_ ?_
    | with_reducible refine kept_ite ?_ ?_
    | split
    | intro _
    | refine Kept.upd ?_ rfl (Nat.le_refl _) (fun h => h) (fun h => h) (fun h => h) (fun h => h)

theorem importAbort_kept (i : Nat) (s : State) (hk : Kept qq ll s) : Kept qq ll (importAbort i s).2 := by
  unfold importAbort
  repeat' first
    | with_reducible assumption
    | with_reducible apply freeObject_kept
    | with_reducible apply endSession_kept
    | with_reducible refine kept_ite_snd ?_ ?_

theorem importProgrammed_kept (i : Nat) (s : State) (hk : Kept qq ll s) : Kept qq ll (importProgrammed i s) := by
  unfold importProgrammed
  repeat' first
    | with_reducible assumption
    | with_reducible apply endSession_kept
    | with_reducible apply setObj_kept
    | with_reducible refine kept_ite ?_ ?_

theorem objectDelete_kept (id : Nat) (s : State) (hk : Kept qq ll s) : Kept qq ll (objectDelete id s).2 := by
  unfold objectDelete
  repeat' first
    | with_reducible assumption
    | with_reducible apply freeDeleted_kept
    | with_reducible apply setObj_kept
    | with_reducible refine kept_ite_snd ?_ ?_

theorem setService_kept (v : Nat) (s : State) (hk : Kept qq ll s) : Kept qq ll (setService v s) := by
  unfold setService
  repeat' first
    | with_reducible assumption
    | with_reducible apply fire_kept
    | with_reducible refine kept_ite ?_ ?_
    | refine Kept.upd ?_ rfl (Nat.le_refl _) (fun h => h) (fun h => h) (fun h => h) (fun h => h)

theorem streamingWrite_kept (v : Nat) (s : State) (hk : Kept qq ll s) : Kept qq ll (streamingWrite v s).2 := by
  unfold streamingWrite
  repeat' first
    | with_reducible assumption
    | with_reducible apply setService_kept
    | with_reducible refine kept_ite ?_ ?_
    | with_reducible refine kept_ite_snd ?_ ?_
    | refine Kept.upd ?_ rfl (Nat.le_refl _) (fun h => h) (fun h => h) (fun h => h) (fun h => h)

theorem stealStreams_kept (s : State) (hk : Kept qq ll s) : Kept qq ll (stealStreams s) := by
  unfold stealStreams
  repeat' first
    | with_reducible assumption
    | refine Kept.upd ?_ rfl (Nat.le_refl _) (fun h => h) (fun h => h) (fun h => h) (fun h => h)

theorem drainTimeout_kept (s : State) (hk : Kept qq ll s) : Kept qq ll (drainTimeout s) := by
  unfold drainTimeout
  repeat' first
    | with_reducible assumption
    | with_reducible apply setService_kept
    | with_reducible apply stealStreams_kept
    | with_reducible apply advance_kept
    | with_reducible refine kept_ite ?_ ?_

theorem streamingResumed_kept (s : State) (hk : Kept qq ll s) : Kept qq ll (streamingResumed s) := by
  unfold streamingResumed
  repeat' first
    | with_reducible assumption
    | with_reducible apply setService_kept
    | with_reducible refine kept_ite ?_ ?_
    | split
    | refine Kept.upd ?_ rfl (Nat.le_refl _) (fun h => h) (fun h => h) (fun h => h) (fun h => h)

theorem setSuper_kept (s : State) (k : Nat) (x : Superblock) (hk : Kept qq ll s) : Kept qq ll (setSuper s k x) := by
  unfold setSuper
  repeat' first
    | with_reducible assumption
    | refine Kept.upd ?_ rfl (Nat.le_refl _) (fun h => h) (fun h => h) (fun h => h) (fun h => h)

theorem prepSettle_kept (s : State) (hk : Kept qq ll s) : Kept qq ll (prepSettle s) := by
  unfold prepSettle
  repeat' first
    | with_reducible assumption
    | with_reducible apply fire_kept
    | with_reducible refine kept_ite ?_ ?_
    | refine Kept.upd ?_ rfl (Nat.le_refl _) (fun h => h) (fun h => h) (fun h => h) (fun h => h)

theorem programEnds_kept (die : Nat) (plane : Nat) (block : Nat) (ok : Bool) (last : Bool) (s : State) (hk : Kept qq ll s) : Kept qq ll (programEnds die plane block ok last s) := by
  unfold programEnds
  repeat' first
    | with_reducible assumption
    | with_reducible apply retireBlock_kept
    | with_reducible apply setSuper_kept
    | with_reducible apply prepSettle_kept
    | with_reducible refine kept_ite ?_ ?_
    | split
    | refine Kept.upd ?_ rfl (Nat.le_refl _) (fun h => h) (fun h => h) (fun h => h) (fun h => h)

theorem programDone_kept (die : Nat) (plane : Nat) (block : Nat) (ok : Bool) (last : Bool) (s : State) (hk : Kept qq ll s) : Kept qq ll (programDone die plane block ok last s) := by
  unfold programDone
  repeat' first
    | with_reducible assumption
    | with_reducible apply opsBegin_kept
    | with_reducible apply programEnds_kept
    | with_reducible apply opEnds_kept

theorem eraseEnds_kept (die : Nat) (plane : Nat) (block : Nat) (ok : Bool) (s : State) (hk : Kept qq ll s) : Kept qq ll (eraseEnds die plane block ok s) := by
  unfold eraseEnds
  repeat' first
    | with_reducible assumption
    | with_reducible apply retireBlock_kept
    | with_reducible apply setBlock_kept
    | with_reducible apply setSuper_kept
    | with_reducible refine kept_ite ?_ ?_
    | split
    | intro _
    | refine Kept.upd ?_ rfl (Nat.le_refl _) (fun h => h) (fun h => h) (fun h => h) (fun h => h)

theorem eraseDone_kept (die : Nat) (plane : Nat) (block : Nat) (ok : Bool) (s : State) (hk : Kept qq ll s) : Kept qq ll (eraseDone die plane block ok s) := by
  unfold eraseDone
  repeat' first
    | with_reducible assumption
    | with_reducible apply opsBegin_kept
    | with_reducible apply eraseEnds_kept
    | with_reducible apply opEnds_kept

theorem doseTick_kept (temp : Int) (s : State) (hk : Kept qq ll s) : Kept qq ll (doseTick temp s) := by
  unfold doseTick
  repeat' first
    | with_reducible assumption
    | with_reducible refine kept_foldl (fun _ _ _ => ?_) ?_
    | with_reducible refine kept_foldl_fst (fun _ _ _ => ?_) ?_
    | with_reducible apply opsBegin_kept
    | with_reducible apply fire_kept
    | with_reducible refine kept_ite ?_ ?_
    | split
    | intro _
    | refine Kept.upd ?_ rfl (Nat.le_refl _) (fun h => h) (fun h => h) (fun h => h) (fun h => h)

theorem prepare_kept (s : State) (hk : Kept qq ll s) : Kept qq ll (prepare s) := by
  unfold prepare
  repeat' first
    | with_reducible assumption
    | with_reducible apply opsBegin_kept
    | with_reducible apply prepSettle_kept
    | with_reducible refine kept_ite ?_ ?_
    | split
    | intro _
    | refine Kept.upd ?_ rfl (Nat.le_refl _) (fun h => h) (fun h => h) (fun h => h) (fun h => h)

theorem execStreamOpen_kept (ring : Fin 4096) (obj : Fin 1048576) (ctx : Fin 16384) (s : State) (hk : Kept qq ll s) : KeptOut qq ll (execStreamOpen ring obj ctx s) := by
  unfold execStreamOpen
  repeat' first
    | with_reducible assumption
    | with_reducible refine KeptOut.next ?_
    | with_reducible apply streamOpen_kept

theorem execRingFillRead_kept (ring : Fin 4096) (s : State) (hk : Kept qq ll s) : KeptOut qq ll (execRingFillRead ring s) := by
  unfold execRingFillRead
  repeat' first
    | with_reducible assumption
    | with_reducible refine KeptOut.next ?_
    | with_reducible apply ringFill_kept

theorem execPageReadDone_kept (ring : Option (Fin 4096)) (frames : Nat) (outcome : Fin 4) (page : BitVec 27) (s : State) (hk : Kept qq ll s) : KeptOut qq ll (execPageReadDone ring frames outcome page s) := by
  unfold execPageReadDone
  repeat' first
    | with_reducible assumption
    | with_reducible refine KeptOut.next ?_
    | with_reducible apply pageReadDone_kept

theorem execConsumptionReport_kept (ring : Fin 4096) (s : State) (hk : Kept qq ll s) : KeptOut qq ll (execConsumptionReport ring s) := by
  unfold execConsumptionReport
  repeat' first
    | with_reducible assumption
    | with_reducible refine KeptOut.next ?_
    | with_reducible apply consumption_kept

theorem execNandProgramDone_kept (die : Fin 8) (plane : Fin 4) (block : Fin 1366) (ok : Bool) (last : Bool) (s : State) (hk : Kept qq ll s) : KeptOut qq ll (execNandProgramDone die plane block ok last s) := by
  unfold execNandProgramDone
  repeat' first
    | with_reducible assumption
    | with_reducible refine KeptOut.next ?_
    | with_reducible apply programDone_kept

theorem execNandEraseDone_kept (die : Fin 8) (plane : Fin 4) (block : Fin 1366) (ok : Bool) (s : State) (hk : Kept qq ll s) : KeptOut qq ll (execNandEraseDone die plane block ok s) := by
  unfold execNandEraseDone
  repeat' first
    | with_reducible assumption
    | with_reducible refine KeptOut.next ?_
    | with_reducible apply eraseDone_kept

theorem execDoseTick_kept (temp : Int) (s : State) (hk : Kept qq ll s) : KeptOut qq ll (execDoseTick temp s) := by
  unfold execDoseTick
  repeat' first
    | with_reducible assumption
    | with_reducible refine KeptOut.next ?_
    | with_reducible apply doseTick_kept

theorem execImportProgramDone_kept (i : Fin 3) (s : State) (hk : Kept qq ll s) : KeptOut qq ll (execImportProgramDone i s) := by
  unfold execImportProgramDone
  repeat' first
    | with_reducible assumption
    | with_reducible refine KeptOut.next ?_
    | with_reducible apply importProgrammed_kept

theorem execStreamingDrainTimeout_kept (s : State) (hk : Kept qq ll s) : KeptOut qq ll (execStreamingDrainTimeout s) := by
  unfold execStreamingDrainTimeout
  repeat' first
    | with_reducible assumption
    | with_reducible refine KeptOut.next ?_
    | with_reducible apply drainTimeout_kept

end Sys2Proof.Machine
end

