-- ==== Sys2Proof/Laws/KeptEvcOps.lean ====
section
/-! SUPPORT. The operations of Machine/EvcOps.lean keep what Kept names. -/

namespace Sys2Proof.Machine

variable {qq : List Instr} {ll : Nat}

/-- No entry is active for a Drover that holds no claim. -/
theorem heldBy_none {e : Evc} {d : Nat} (h : e.ClaimsOk) (hd : heldBy e d = 0x3FF) {x : Nat × EvcSrc} (hx : x ∈ e.src)
    (ha : x.2.act = true) : x.2.owner ≠ d := by
  intro ho
  unfold heldBy at hd
  split at hd
  · rename_i y hy
    have hm := List.mem_of_find?_eq_some hy
    have hp := List.find?_some hy
    simp only [Bool.and_eq_true] at hp
    have := h.exist y hm hp.1
    rw [hd] at this
    exact absurd this (by decide)
  · rename_i hn
    have := List.find?_eq_none.mp hn x hx
    simp [ha, ho] at this

theorem claimSource_claims {e : Evc} (now d n : Nat) (h : e.ClaimsOk) (hd : heldBy e d = 0x3FF) (hn : evcExists n = true) :
    (claimSource now d n e).2.ClaimsOk := by
  have key : (evcPut e n { evcSrc e n with act := true, owner := d, pend := false, count := 0 }).ClaimsOk := by
    refine ⟨Tbl.wf_put _ _ h.canonical, ?_, ?_⟩
    · intro x hx ha
      rcases Tbl.mem_put hx with hx | hx
      · exact h.exist x hx ha
      · subst hx; exact hn
    · intro x hx y hy xa ya ho
      rcases Tbl.mem_put hx with hx | hx <;> rcases Tbl.mem_put hy with hy | hy
      · exact h.alone x hx y hy xa ya ho
      · subst hy; exact absurd ho (heldBy_none h hd hx xa)
      · subst hx; exact absurd ho.symm (heldBy_none h hd hy ya)
      · subst hx; subst hy; rfl
  unfold claimSource startHoldoff
  dsimp only
  split
  · exact key
  · exact key.of_src rfl

theorem evcClaimLow_claims {e : Evc} (now d : Nat) (h : e.ClaimsOk) : (evcClaimLow now d e).2.ClaimsOk := by
  unfold evcClaimLow
  split
  · exact h
  · rename_i hd
    split
    · rename_i n ns hn
      have hm : n ∈ deliverables e d := by rw [hn]; exact List.mem_cons_self
      have := (List.mem_filter.mp hm).2
      unfold deliverable at this
      simp only [Bool.and_eq_true] at this
      exact claimSource_claims now d n h (by simpa using hd) this.1.1.1.1.1.1
    · exact h

theorem evcClaimOf_claims {e : Evc} (now d n : Nat) (h : e.ClaimsOk) : (evcClaimOf now d n e).2.ClaimsOk := by
  unfold evcClaimOf
  split
  · rename_i hd
    have := hd.2
    unfold deliverable at this
    simp only [Bool.and_eq_true] at this
    exact claimSource_claims now d n h hd.1 this.1.1.1.1.1.1
  · exact h

theorem evcFinish_claims {e : Evc} (d n : Nat) (h : e.ClaimsOk) : (evcFinish d n e).ClaimsOk := by
  unfold evcFinish
  dsimp only
  split
  · refine h.put ?_
    intro ha
    rw [EvcSrc.settle_act] at ha
    exact absurd ha Bool.false_ne_true
  · exact h.of_src rfl

theorem evcSetPend_claims {e : Evc} (n : Nat) (h : e.ClaimsOk) : (evcSetPend n e).ClaimsOk := by
  unfold evcSetPend
  split
  · exact h.put (fun a => ⟨a, rfl⟩)
  · exact h

theorem evcClrPend_claims {e : Evc} (n : Nat) (h : e.ClaimsOk) : (evcClrPend n e).ClaimsOk := by
  unfold evcClrPend
  split
  · refine h.put (fun a => ?_)
    rw [EvcSrc.settle_act] at a
    exact ⟨a, by rw [EvcSrc.settle_owner]⟩
  · exact h

theorem evcHoldoff_claims {e : Evc} (g : Nat) (v : BitVec 16) (h : e.ClaimsOk) : (evcHoldoff g v e).ClaimsOk := by
  unfold evcHoldoff
  dsimp only
  split <;> exact h.of_src rfl

theorem evcTimer_claims {e : Evc} (now n : Nat) (v : BitVec 32) (h : e.ClaimsOk) : (evcTimer now n v e).ClaimsOk := h.of_src rfl

theorem srcCfgWrite_claims {e : Evc} (n : Nat) (v : BitVec 32) (h : e.ClaimsOk) : (srcCfgWrite n v e).ClaimsOk := by
  unfold srcCfgWrite
  split
  · exact h
  · dsimp only
    refine h.put (fun a => ?_)
    constructor
    · revert a; split <;> split <;> simp [EvcSrc.settle_act]
    · split <;> split <;> simp [EvcSrc.settle_owner]

theorem claims_ite {c : Prop} [Decidable c] {a b : Nat × Evc} (ha : a.2.ClaimsOk) (hb : b.2.ClaimsOk) :
    (if c then a else b).2.ClaimsOk := by
  split
  · exact ha
  · exact hb

theorem evcRead_claims {e : Evc} (now d off : Nat) (h : e.ClaimsOk) : (evcRead now d off e).2.ClaimsOk := by
  unfold evcRead
  exact claims_ite h (claims_ite h (claims_ite h (claims_ite h (claims_ite h (claims_ite h (claims_ite h (claims_ite h
    (claims_ite (evcClaimLow_claims _ _ h) (claims_ite h (claims_ite (h.of_src rfl) (claims_ite h (claims_ite h
    (claims_ite (evcClaimOf_claims _ _ _ h) h)))))))))))))

theorem evcWrite_claims {e : Evc} (now d off : Nat) (v : BitVec 32) (h : e.ClaimsOk) : (evcWrite now d off v e).ClaimsOk := by
  unfold evcWrite
  repeat' first
    | exact srcCfgWrite_claims _ _ h
    | exact evcHoldoff_claims _ _ h
    | exact evcSetPend_claims _ h
    | exact evcClrPend_claims _ h
    | exact evcFinish_claims _ _ h
    | exact h.of_src rfl
    | split

/-- Entries are changed one by one, each keeping its key, none becoming the default and none gaining a claim. -/
theorem Tbl.wfFrom_map {α : Type} [DecidableEq α] {d : α} {t : Tbl α} {b : Nat} (f : Nat × α → Nat × α) (h : Tbl.wfFrom d b t = true)
    (hf : ∀ x, (f x).1 = x.1 ∧ (x.2 ≠ d → (f x).2 ≠ d)) : Tbl.wfFrom d b (t.map f) = true := by
  induction t generalizing b with
  | nil => rfl
  | cons e t ih =>
    obtain ⟨j, v⟩ := e
    simp only [Tbl.wfFrom, Bool.and_eq_true, decide_eq_true_eq] at h
    have h1 := hf (j, v)
    rcases hfe : f (j, v) with ⟨j', v'⟩
    rw [hfe] at h1
    simp only [List.map, hfe, Tbl.wfFrom, Bool.and_eq_true, decide_eq_true_eq]
    obtain ⟨rfl, h2⟩ := h1
    exact ⟨⟨h.1.1, h2 h.1.2⟩, ih h.2⟩

/-- Entries are changed and those that become the default are left out. -/
theorem Tbl.wfFrom_mapFilter {α : Type} [DecidableEq α] {d : α} {t : Tbl α} {b : Nat} (f : Nat × α → Nat × α)
    (h : Tbl.wfFrom d b t = true) (hf : ∀ x, (f x).1 = x.1) :
    Tbl.wfFrom d b ((t.map f).filter (fun x => x.2 != d)) = true := by
  induction t generalizing b with
  | nil => rfl
  | cons e t ih =>
    obtain ⟨j, v⟩ := e
    simp only [Tbl.wfFrom, Bool.and_eq_true, decide_eq_true_eq] at h
    have h1 := hf (j, v)
    rcases hfe : f (j, v) with ⟨j', v'⟩
    rw [hfe] at h1
    dsimp only at h1
    subst h1
    simp only [List.map, hfe, List.filter]
    split
    · rename_i hv
      simp only [Tbl.wfFrom, Bool.and_eq_true, decide_eq_true_eq]
      exact ⟨⟨h.1.1, by simpa using hv⟩, ih h.2⟩
    · exact ih (Tbl.wfFrom_mono h.2 (by omega))

theorem EvcSrc.settle_ne {x : EvcSrc} (h : x ≠ {}) : x.settle ≠ {} := by
  unfold EvcSrc.settle
  split
  · intro he
    have : x.fire.pend = false := by rw [he]
    simp [EvcSrc.fire] at this
  · exact h

theorem evcSleep_claims {e : Evc} (h : e.ClaimsOk) : (evcSleep e).ClaimsOk := by
  have idle : ∀ x ∈ (evcSleep e).src, x.2.act = false := by
    intro x hx
    obtain ⟨y, -, rfl⟩ := List.mem_map.mp hx
    dsimp only
    split
    · rfl
    · rename_i hy; simpa using hy
  refine ⟨Tbl.wfFrom_map _ h.canonical ?_, ?_, ?_⟩
  · intro x
    dsimp only
    split
    · refine ⟨rfl, fun _ he => ?_⟩
      have hp := congrArg EvcSrc.pend he
      exact absurd hp.symm Bool.false_ne_true
    · exact ⟨rfl, fun h => h⟩
  · intro x hx ha; rw [idle x hx] at ha; exact absurd ha (by decide)
  · intro x hx y _ ha; rw [idle x hx] at ha; exact absurd ha (by decide)

theorem evcWake_claims {e : Evc} (now : Nat) (h : e.ClaimsOk) : (evcWake now e).ClaimsOk := by
  refine ⟨Tbl.wfFrom_map _ h.canonical (fun x => ⟨rfl, EvcSrc.settle_ne⟩), ?_, ?_⟩
  · intro x hx ha
    obtain ⟨y, hy, rfl⟩ := List.mem_map.mp hx
    exact h.exist y hy (by simpa [EvcSrc.settle_act] using ha)
  · intro x hx z hz xa za ho
    obtain ⟨y, hy, rfl⟩ := List.mem_map.mp hx
    obtain ⟨w, hw, rfl⟩ := List.mem_map.mp hz
    simp only [EvcSrc.settle_act, EvcSrc.settle_owner] at xa za ho
    exact h.alone y hy w hw xa za ho

theorem onEvc_kept (s : State) (f : Evc → Evc) (hk : Kept qq ll s) (hf : s.evc.ClaimsOk → (f s.evc).ClaimsOk) :
    Kept qq ll (onEvc s f) := hk.evc hf

theorem execEvcSourceFire_kept (n : Fin 512) (high : Bool) (s : State) (hk : Kept qq ll s) : KeptOut qq ll (execEvcSourceFire n high s) := by
  unfold execEvcSourceFire
  repeat' first
    | with_reducible assumption
    | with_reducible refine KeptOut.next ?_
    | with_reducible apply level_kept
    | with_reducible refine kept_ite ?_ ?_

theorem execEvcClaim_kept (d : Fin 4) (s : State) (hk : Kept qq ll s) : KeptOut qq ll (execEvcClaim d s) := by
  unfold execEvcClaim
  exact KeptOut.next (boundClaim_kept _ _ (Kept.upd hk rfl (Nat.le_refl _) (evcClaimLow_claims _ _) (fun h => h) (fun h => h) (fun h => h)))

theorem execClspec_kept (d : Fin 4) (n : BitVec 10) (s : State) (hk : Kept qq ll s) : KeptOut qq ll (execClspec d n s) := by
  unfold execClspec
  exact KeptOut.next (boundClaim_kept _ _ (Kept.upd hk rfl (Nat.le_refl _) (evcClaimOf_claims _ _ _) (fun h => h) (fun h => h) (fun h => h)))

theorem execEvcComplete_kept (d : Fin 4) (v : BitVec 32) (s : State) (hk : Kept qq ll s) : KeptOut qq ll (execEvcComplete d v s) :=
  KeptOut.next (onEvc_kept s _ hk (evcFinish_claims _ _))

theorem execSetpend_kept (v : BitVec 32) (s : State) (hk : Kept qq ll s) : KeptOut qq ll (execSetpend v s) :=
  KeptOut.next (onEvc_kept s _ hk (evcSetPend_claims _))

theorem execClrpend_kept (v : BitVec 32) (s : State) (hk : Kept qq ll s) : KeptOut qq ll (execClrpend v s) :=
  KeptOut.next (onEvc_kept s _ hk (evcClrPend_claims _))

theorem execHoldoffExpiry_kept (g : Fin 32) (s : State) (hk : Kept qq ll s) : KeptOut qq ll (execHoldoffExpiry g s) := by
  unfold execHoldoffExpiry
  refine KeptOut.next ?_
  split
  · exact hk
  · exact onEvc_kept _ _ (advance_kept _ _ hk) (fun h => h.of_src rfl)

theorem execHoldoffWrite_kept (g : Fin 32) (v : BitVec 16) (s : State) (hk : Kept qq ll s) : KeptOut qq ll (execHoldoffWrite g v s) :=
  KeptOut.next (onEvc_kept s _ hk (evcHoldoff_claims _ _))

theorem execGeneralTimerExpiry_kept (n : Fin 4) (s : State) (hk : Kept qq ll s) :
    KeptOut qq ll (execGeneralTimerExpiry n s) := by
  unfold execGeneralTimerExpiry
  refine KeptOut.next ?_
  split
  · exact hk
  · exact fire_kept _ (onEvc_kept _ _ (advance_kept _ _ hk) (fun h => h.of_src rfl))

theorem execTmrldWrite_kept (n : Fin 4) (v : BitVec 32) (s : State) (hk : Kept qq ll s) : KeptOut qq ll (execTmrldWrite n v s) :=
  KeptOut.next (onEvc_kept s _ hk (evcTimer_claims _ _ _))

theorem execStrayRead_kept (d : Fin 4) (s : State) (hk : Kept qq ll s) : KeptOut qq ll (execStrayRead d s) := by
  unfold execStrayRead
  exact KeptOut.next (Kept.upd hk rfl (Nat.le_refl _) (evcRead_claims _ _ _) (fun h => h) (fun h => h) (fun h => h))

end Sys2Proof.Machine
end

