-- ==== Sys2Proof/Laws/KeptDrvCtl.lean ====
section
/-! SUPPORT. The operations of Machine/DrvCtl.lean keep what Kept names. -/

namespace Sys2Proof.Machine

variable {qq : List Instr} {ll : Nat}

theorem setDrv_kept (s : State) (d : Nat) (x : Drover) (hk : Kept qq ll s) : Kept qq ll (setDrv s d x) := by
  unfold setDrv
  repeat' first
    | with_reducible assumption
    | refine Kept.upd ?_ rfl (Nat.le_refl _) (fun h => h) (fun h => h) (fun h => h) (fun h => h)

theorem updDrv_kept (s : State) (d : Nat) (f : Drover → Drover) (hk : Kept qq ll s) : Kept qq ll (updDrv s d f) := by
  unfold updDrv
  repeat' first
    | with_reducible assumption
    | with_reducible apply setDrv_kept

theorem checkstop_kept (d : Nat) (desc : Nat) (efa : BitVec 32) (s : State) (hk : Kept qq ll s) : Kept qq ll (checkstop d desc efa s) := by
  unfold checkstop
  repeat' first
    | with_reducible assumption
    | with_reducible apply logRecord_kept
    | with_reducible apply setDrv_kept

theorem supervisorMoves_kept (d : Nat) (s : State) (hk : Kept qq ll s) : Kept qq ll (supervisorMoves d s) := by
  unfold supervisorMoves
  repeat' first
    | with_reducible assumption
    | split
    | refine Kept.upd ?_ rfl (Nat.le_refl _) (fun h => h) (fun h => h) (fun h => h) (fun h => h)

theorem evcRelease_claims {e : Evc} (d : Nat) (h : e.ClaimsOk) : (evcRelease d e).ClaimsOk := by
  have back : ∀ x ∈ (evcRelease d e).src, x.2.act = true → x ∈ e.src := by
    intro x hx ha
    obtain ⟨y, hy, rfl⟩ := List.mem_map.mp (List.mem_filter.mp hx).1
    dsimp only at ha ⊢
    split at ha
    · rw [EvcSrc.settle_act] at ha; exact absurd ha Bool.false_ne_true
    · rename_i hc; rw [if_neg hc]; exact hy
  refine ⟨?_, fun x hx ha => h.exist x (back x hx ha) ha, fun x hx y hy xa ya ho =>
    h.alone x (back x hx xa) y (back y hy ya) xa ya ho⟩
  exact Tbl.wfFrom_mapFilter _ h.canonical (fun x => by dsimp only; split <;> rfl)

theorem drvReset_kept (d why : Nat) (s : State) (hk : Kept qq ll s) : Kept qq ll (drvReset d why s) := by
  unfold drvReset
  exact logRecord_kept _ _ _ _ _ _ _ (setDrv_kept _ _ _ (supervisorMoves_kept _ _ (hk.evc (evcRelease_claims d))))

theorem drvCtlWrite_kept (d : Nat) (hold : Bool) (rst : Bool) (s : State) (hk : Kept qq ll s) : Kept qq ll (drvCtlWrite d hold rst s) := by
  unfold drvCtlWrite
  repeat' first
    | with_reducible assumption
    | with_reducible apply setDrv_kept
    | with_reducible apply drvReset_kept
    | with_reducible refine kept_ite ?_ ?_

theorem drvKick_kept (d : Nat) (v : Nat) (s : State) (hk : Kept qq ll s) : Kept qq ll (drvKick d v s) := by
  unfold drvKick
  repeat' first
    | with_reducible assumption
    | with_reducible apply updDrv_kept
    | with_reducible refine kept_ite ?_ ?_

theorem drvBlockWrite_kept (e : Nat) (p : Nat) (d : Nat) (off : Nat) (v : Nat) (s : State) (hk : Kept qq ll s) : Kept qq ll (drvBlockWrite e p d off v s) := by
  unfold drvBlockWrite
  repeat' first
    | with_reducible assumption
    | with_reducible apply drvCtlWrite_kept
    | with_reducible apply updDrv_kept
    | with_reducible apply drvKick_kept
    | with_reducible refine kept_ite ?_ ?_
    | split

theorem clusterRead_kept (k : Nat) (off : Nat) (s : State) (hk : Kept qq ll s) : Kept qq ll (clusterRead k off s).2 := by
  unfold clusterRead
  repeat' first
    | with_reducible assumption
    | with_reducible apply lcsRead_kept
    | with_reducible refine kept_ite_snd ?_ ?_

theorem clusterWrite_kept (k off : Nat) (v : BitVec 32) (s : State) (hk : Kept qq ll s) : Kept qq ll (clusterWrite k off v s) := by
  have hu : ∀ (b : Bool) (f : SigCore → SigCore), Kept qq ll (if b then updCore s k f else s) :=
    fun b f => kept_ite (updCore_kept _ _ _ hk) hk
  unfold clusterWrite
  exact kept_ite (lcsWrite_kept _ _ _ _ hk) (kept_ite (hu _ _) (kept_ite (hu _ _) (kept_ite (hu _ _) (kept_ite (hu _ _)
    (kept_ite (updCore_kept _ _ _ hk) (kept_ite (hu _ _) (kept_ite (kept_ite (updCore_kept _ _ _ hk) hk)
    (kept_ite (hu _ _) hk))))))))

theorem semReq_kept (v : Nat) (s : State) (hk : Kept qq ll s) : Kept qq ll (semReq v s) := by
  unfold semReq
  repeat' first
    | with_reducible assumption
    | with_reducible apply semTake_kept
    | with_reducible apply semGive_kept
    | split
    | refine Kept.upd ?_ rfl (Nat.le_refl _) (fun h => h) (fun h => h) (fun h => h) (fun h => h)

theorem devRead_kept (d a : Nat) (s : State) (hk : Kept qq ll s) : Kept qq ll (devRead d a s).2 := by
  have he : ∀ o, Kept qq ll { s with evc := (evcRead s.now d o s.evc).2 } := fun o => hk.evc (evcRead_claims _ _ _)
  unfold devRead
  refine kept_ite_snd ?_ (kept_ite_snd hk (kept_ite_snd hk (kept_ite_snd (kept_ite_snd (clusterRead_kept _ _ _ hk) hk) hk)))
  dsimp only
  split
  · exact boundClaim_kept _ _ (he _)
  · exact he _

theorem devWrite_kept (d p a : Nat) (v : BitVec 32) (s : State) (hk : Kept qq ll s) : Kept qq ll (devWrite d p a v s) := by
  unfold devWrite
  exact kept_ite (hk.evc (evcWrite_claims _ _ _ _)) (kept_ite (semReq_kept _ _ hk) (kept_ite (drvBlockWrite_kept _ _ _ _ _ _ hk)
    (kept_ite (kept_ite (clusterWrite_kept _ _ _ _ hk) hk) hk)))

theorem execWdkick_kept (d : Fin 4) (v : BitVec 32) (s : State) (hk : Kept qq ll s) : KeptOut qq ll (execWdkick d v s) := by
  unfold execWdkick
  repeat' first
    | with_reducible assumption
    | with_reducible refine KeptOut.next ?_
    | with_reducible apply drvKick_kept

theorem execDrvctlHold_kept (e : Fin 4) (d : Fin 4) (on : Bool) (s : State) (hk : Kept qq ll s) : KeptOut qq ll (execDrvctlHold e d on s) := by
  unfold execDrvctlHold
  repeat' first
    | with_reducible assumption
    | with_reducible refine KeptOut.next ?_
    | with_reducible apply drvCtlWrite_kept
    | with_reducible refine kept_ite ?_ ?_

theorem execDrvctlReset_kept (e : Fin 4) (d : Fin 4) (hold : Bool) (s : State) (hk : Kept qq ll s) : KeptOut qq ll (execDrvctlReset e d hold s) := by
  unfold execDrvctlReset
  repeat' first
    | with_reducible assumption
    | with_reducible refine KeptOut.next ?_
    | with_reducible apply drvCtlWrite_kept
    | with_reducible refine kept_ite ?_ ?_

theorem execCheckstopTimerExpiry_kept (d : Fin 4) (s : State) (hk : Kept qq ll s) : KeptOut qq ll (execCheckstopTimerExpiry d s) := by
  unfold execCheckstopTimerExpiry
  repeat' first
    | with_reducible assumption
    | with_reducible refine KeptOut.next ?_
    | with_reducible apply drvReset_kept
    | with_reducible apply advance_kept
    | with_reducible refine kept_ite ?_ ?_

theorem execSemreqTake_kept (i : Fin 32) (s : State) (hk : Kept qq ll s) : KeptOut qq ll (execSemreqTake i s) := by
  unfold execSemreqTake
  repeat' first
    | with_reducible assumption
    | with_reducible refine KeptOut.next ?_
    | with_reducible apply semReq_kept

theorem execSemreqGive_kept (i : Fin 32) (s : State) (hk : Kept qq ll s) : KeptOut qq ll (execSemreqGive i s) := by
  unfold execSemreqGive
  repeat' first
    | with_reducible assumption
    | with_reducible refine KeptOut.next ?_
    | with_reducible apply semReq_kept

theorem execRegisterWrite_kept (d : Fin 4) (a : BitVec 32) (v : BitVec 32) (s : State) (hk : Kept qq ll s) : KeptOut qq ll (execRegisterWrite d a v s) := by
  unfold execRegisterWrite
  repeat' first
    | with_reducible assumption
    | with_reducible refine KeptOut.next ?_
    | with_reducible apply devWrite_kept

end Sys2Proof.Machine
end

