-- ==== Sys2Proof/Laws/KeptNet.lean ====
section
/-! SUPPORT. The operations of Machine/Net.lean keep what Kept names. -/

namespace Sys2Proof.Machine

variable {qq : List Instr} {ll : Nat}

theorem setNetPort_kept (s : State) (p : Nat) (x : NetPort) (hk : Kept qq ll s) : Kept qq ll (setNetPort s p x) := by
  unfold setNetPort
  repeat' first
    | with_reducible assumption
    | refine Kept.upd ?_ rfl (Nat.le_refl _) (fun h => h) (fun h => h) (fun h => h) (fun h => h)

theorem updNetPort_kept (s : State) (p : Nat) (f : NetPort → NetPort) (hk : Kept qq ll s) : Kept qq ll (updNetPort s p f) := by
  unfold updNetPort
  repeat' first
    | with_reducible assumption
    | with_reducible apply setNetPort_kept

theorem emitFrame_kept (p : Nat) (k : FrameKind) (fs : List Nat) (s : State) (hk : Kept qq ll s) : Kept qq ll (emitFrame p k fs s) := by
  unfold emitFrame
  repeat' first
    | with_reducible assumption
    | refine Kept.upd ?_ rfl (Nat.le_refl _) (fun h => h) (fun h => h) (fun h => h) (fun h => h)

theorem rxFrame_kept (p : Nat) (s : State) (hk : Kept qq ll s) : Kept qq ll (rxFrame p s) := by
  unfold rxFrame
  repeat' first
    | with_reducible assumption
    | with_reducible apply updNetPort_kept
    | with_reducible refine kept_ite ?_ ?_
    | split
    | intro _
    | refine Kept.upd ?_ rfl (Nat.le_refl _) (fun h => h) (fun h => h) (fun h => h) (fun h => h)

theorem atNs_kept (t : Nat) (s : State) (hk : Kept qq ll s) : Kept qq ll (atNs t s) := by
  unfold atNs
  repeat' first
    | with_reducible assumption
    | with_reducible apply advance_kept

theorem declareTalker_kept (p : Nat) (i : Nat) (on : Bool) (s : State) (hk : Kept qq ll s) : Kept qq ll (declareTalker p i on s) := by
  unfold declareTalker
  repeat' first
    | with_reducible assumption
    | with_reducible apply emitFrame_kept
    | split

theorem declareListener_kept (p : Nat) (i : Nat) (on : Bool) (s : State) (hk : Kept qq ll s) : Kept qq ll (declareListener p i on s) := by
  unfold declareListener
  repeat' first
    | with_reducible assumption
    | with_reducible apply emitFrame_kept

theorem startClaim_kept (p : Nat) (s : State) (hk : Kept qq ll s) : Kept qq ll (startClaim p s) := by
  unfold startClaim
  repeat' first
    | with_reducible assumption
    | with_reducible apply emitFrame_kept
    | with_reducible apply setNetPort_kept
    | with_reducible refine kept_ite ?_ ?_

theorem declareAll_kept (p : Nat) (s : State) (hk : Kept qq ll s) : Kept qq ll (declareAll p s) := by
  unfold declareAll
  repeat' first
    | with_reducible assumption
    | with_reducible refine kept_foldl (fun _ _ _ => ?_) ?_
    | with_reducible apply declareTalker_kept
    | with_reducible apply declareListener_kept
    | with_reducible refine kept_ite ?_ ?_

theorem streamsChanged_kept (s : State) (hk : Kept qq ll s) : Kept qq ll (streamsChanged s) := by
  unfold streamsChanged
  repeat' first
    | with_reducible assumption
    | with_reducible refine kept_foldl (fun _ _ _ => ?_) ?_
    | with_reducible apply declareAll_kept
    | with_reducible apply startClaim_kept
    | with_reducible refine kept_ite ?_ ?_

theorem withdrawOld_kept (old : State) (s : State) (hk : Kept qq ll s) : Kept qq ll (withdrawOld old s) := by
  unfold withdrawOld
  repeat' first
    | with_reducible assumption
    | with_reducible refine kept_foldl (fun _ _ _ => ?_) ?_
    | with_reducible apply emitFrame_kept
    | with_reducible refine kept_ite ?_ ?_
    | split
    | intro _

theorem sendSync_kept (p : Nat) (s : State) (hk : Kept qq ll s) : Kept qq ll (sendSync p s) := by
  unfold sendSync
  repeat' first
    | with_reducible assumption
    | with_reducible apply emitFrame_kept
    | with_reducible apply setNetPort_kept
    | with_reducible refine kept_ite ?_ ?_

theorem sendAnnounce_kept (p : Nat) (s : State) (hk : Kept qq ll s) : Kept qq ll (sendAnnounce p s) := by
  unfold sendAnnounce
  repeat' first
    | with_reducible assumption
    | with_reducible apply setNetPort_kept
    | with_reducible apply emitFrame_kept
    | with_reducible refine kept_ite ?_ ?_

theorem sendPdelay_kept (p : Nat) (s : State) (hk : Kept qq ll s) : Kept qq ll (sendPdelay p s) := by
  unfold sendPdelay
  repeat' first
    | with_reducible assumption
    | with_reducible apply setNetPort_kept
    | with_reducible apply emitFrame_kept
    | with_reducible refine kept_ite ?_ ?_

theorem execGptpSyncTimer_kept (t : Nat) (s : State) (hk : Kept qq ll s) : KeptOut qq ll (execGptpSyncTimer t s) := by
  unfold execGptpSyncTimer
  repeat' first
    | with_reducible assumption
    | with_reducible refine KeptOut.next ?_
    | with_reducible apply sendSync_kept
    | with_reducible apply atNs_kept

theorem execGptpAnnounceTimer_kept (t : Nat) (s : State) (hk : Kept qq ll s) : KeptOut qq ll (execGptpAnnounceTimer t s) := by
  unfold execGptpAnnounceTimer
  repeat' first
    | with_reducible assumption
    | with_reducible refine KeptOut.next ?_
    | with_reducible apply sendAnnounce_kept
    | with_reducible apply atNs_kept

theorem execPdelayReqTimer_kept (t : Nat) (s : State) (hk : Kept qq ll s) : KeptOut qq ll (execPdelayReqTimer t s) := by
  unfold execPdelayReqTimer
  repeat' first
    | with_reducible assumption
    | with_reducible refine KeptOut.next ?_
    | with_reducible apply sendPdelay_kept
    | with_reducible apply atNs_kept

theorem execPdelayReqReceive_kept (p : Fin 2) (seq : BitVec 16) (t : Nat) (s : State) (hk : Kept qq ll s) : KeptOut qq ll (execPdelayReqReceive p seq t s) := by
  unfold execPdelayReqReceive
  repeat' first
    | with_reducible assumption
    | with_reducible refine KeptOut.next ?_
    | with_reducible apply rxFrame_kept
    | with_reducible apply atNs_kept
    | with_reducible apply emitFrame_kept
    | with_reducible refine kept_ite ?_ ?_
    | split

theorem execPdelayRespReceive_kept (p : Fin 2) (delay : Nat) (s : State) (hk : Kept qq ll s) : KeptOut qq ll (execPdelayRespReceive p delay s) := by
  unfold execPdelayRespReceive
  repeat' first
    | with_reducible assumption
    | with_reducible refine KeptOut.next ?_
    | with_reducible apply rxFrame_kept
    | with_reducible apply setNetPort_kept
    | with_reducible refine kept_ite ?_ ?_
    | split
    | refine Kept.upd ?_ rfl (Nat.le_refl _) (fun h => h) (fun h => h) (fun h => h) (fun h => h)

theorem execForeignAnnounce_kept (p : Fin 2) (s : State) (hk : Kept qq ll s) : KeptOut qq ll (execForeignAnnounce p s) := by
  unfold execForeignAnnounce
  repeat' first
    | with_reducible assumption
    | with_reducible refine KeptOut.next ?_
    | with_reducible apply fire_kept
    | with_reducible refine kept_ite ?_ ?_
    | refine Kept.upd ?_ rfl (Nat.le_refl _) (fun h => h) (fun h => h) (fun h => h) (fun h => h)

theorem execForeignSync_kept (p : Fin 2) (s : State) (hk : Kept qq ll s) : KeptOut qq ll (execForeignSync p s) := by
  unfold execForeignSync
  repeat' first
    | with_reducible assumption
    | with_reducible refine KeptOut.next ?_
    | with_reducible apply rxFrame_kept
    | with_reducible refine kept_ite ?_ ?_
    | split
    | refine Kept.upd ?_ rfl (Nat.le_refl _) (fun h => h) (fun h => h) (fun h => h) (fun h => h)

theorem setAddr_kept (p : Nat) (addr : Nat) (mask : Nat) (gw : Nat) (origin : Nat) (s : State) (hk : Kept qq ll s) : Kept qq ll (setAddr p addr mask gw origin s) := by
  unfold setAddr
  repeat' first
    | with_reducible assumption
    | with_reducible apply setNetPort_kept
    | with_reducible apply fire_kept
    | with_reducible refine kept_ite ?_ ?_

theorem linkLocal_kept (p : Nat) (s : State) (hk : Kept qq ll s) : Kept qq ll (linkLocal p s) := by
  unfold linkLocal
  repeat' first
    | with_reducible assumption
    | with_reducible apply takeFree_kept
    | with_reducible apply setAddr_kept

theorem ipStart_kept (p : Nat) (s : State) (hk : Kept qq ll s) : Kept qq ll (ipStart p s) := by
  unfold ipStart
  repeat' first
    | with_reducible assumption
    | with_reducible apply setAddr_kept
    | with_reducible apply emitFrame_kept
    | with_reducible apply linkLocal_kept
    | with_reducible refine kept_ite ?_ ?_
    | split

theorem execDhcpLease_kept (p : Fin 2) (addr : BitVec 32) (mask : BitVec 32) (gw : BitVec 32) (s : State) (hk : Kept qq ll s) : KeptOut qq ll (execDhcpLease p addr mask gw s) := by
  unfold execDhcpLease
  repeat' first
    | with_reducible assumption
    | with_reducible refine KeptOut.next ?_
    | with_reducible apply setAddr_kept
    | with_reducible apply rxFrame_kept
    | with_reducible refine kept_ite ?_ ?_
    | split

theorem execDhcpFallbackTimer_kept (p : Fin 2) (s : State) (hk : Kept qq ll s) : KeptOut qq ll (execDhcpFallbackTimer p s) := by
  unfold execDhcpFallbackTimer
  repeat' first
    | with_reducible assumption
    | with_reducible refine KeptOut.next ?_
    | with_reducible apply linkLocal_kept
    | with_reducible apply advance_kept
    | with_reducible refine kept_ite ?_ ?_
    | split

theorem execDhcpRetryTimer_kept (p : Fin 2) (s : State) (hk : Kept qq ll s) : KeptOut qq ll (execDhcpRetryTimer p s) := by
  unfold execDhcpRetryTimer
  repeat' first
    | with_reducible assumption
    | with_reducible refine KeptOut.next ?_
    | with_reducible apply emitFrame_kept
    | with_reducible refine kept_ite ?_ ?_

theorem execDhcpLeaseExpiry_kept (p : Fin 2) (s : State) (hk : Kept qq ll s) : KeptOut qq ll (execDhcpLeaseExpiry p s) := by
  unfold execDhcpLeaseExpiry
  repeat' first
    | with_reducible assumption
    | with_reducible refine KeptOut.next ?_
    | with_reducible apply setAddr_kept
    | with_reducible refine kept_ite ?_ ?_

theorem execArpRequest_kept (p : Fin 2) (target : BitVec 32) (s : State) (hk : Kept qq ll s) : KeptOut qq ll (execArpRequest p target s) := by
  unfold execArpRequest
  repeat' first
    | with_reducible assumption
    | with_reducible refine KeptOut.next ?_
    | with_reducible apply rxFrame_kept
    | with_reducible apply emitFrame_kept
    | with_reducible refine kept_ite ?_ ?_
    | split

theorem execIcmpEchoRequest_kept (p : Fin 2) (target : BitVec 32) (fragment : Bool) (data : List (BitVec 8)) (s : State) (hk : Kept qq ll s) : KeptOut qq ll (execIcmpEchoRequest p target fragment data s) := by
  unfold execIcmpEchoRequest
  repeat' first
    | with_reducible assumption
    | with_reducible refine KeptOut.next ?_
    | with_reducible apply rxFrame_kept
    | with_reducible apply updNetPort_kept
    | with_reducible apply emitFrame_kept
    | with_reducible refine kept_ite ?_ ?_
    | split
    | intro _
    | refine Kept.upd ?_ rfl (Nat.le_refl _) (fun h => h) (fun h => h) (fun h => h) (fun h => h)

theorem execPauseFrameReceive_kept (p : Fin 2) (s : State) (hk : Kept qq ll s) : KeptOut qq ll (execPauseFrameReceive p s) := by
  unfold execPauseFrameReceive
  repeat' first
    | with_reducible assumption
    | with_reducible refine KeptOut.next ?_
    | with_reducible apply setNetPort_kept
    | with_reducible refine kept_ite ?_ ?_

theorem linkUp_kept (p : Nat) (speed : Nat) (s : State) (hk : Kept qq ll s) : Kept qq ll (linkUp p speed s) := by
  unfold linkUp
  repeat' first
    | with_reducible assumption
    | with_reducible apply setNetPort_kept
    | with_reducible apply sendPdelay_kept
    | with_reducible apply sendAnnounce_kept
    | with_reducible apply fire_kept
    | with_reducible apply ipStart_kept
    | with_reducible apply declareAll_kept
    | with_reducible apply startClaim_kept

theorem linkDown_kept (p : Nat) (s : State) (hk : Kept qq ll s) : Kept qq ll (linkDown p s) := by
  unfold linkDown
  repeat' first
    | with_reducible assumption
    | with_reducible apply fire_kept
    | with_reducible apply setNetPort_kept
    | with_reducible refine kept_ite ?_ ?_

theorem execLinkUp_kept (p : Fin 2) (speed : Fin 3) (t : Nat) (s : State) (hk : Kept qq ll s) : KeptOut qq ll (execLinkUp p speed t s) := by
  unfold execLinkUp
  repeat' first
    | with_reducible assumption
    | with_reducible refine KeptOut.next ?_
    | with_reducible apply atNs_kept
    | with_reducible apply linkUp_kept
    | with_reducible refine kept_ite ?_ ?_

theorem execLinkDown_kept (p : Fin 2) (t : Nat) (s : State) (hk : Kept qq ll s) : KeptOut qq ll (execLinkDown p t s) := by
  unfold execLinkDown
  repeat' first
    | with_reducible assumption
    | with_reducible refine KeptOut.next ?_
    | with_reducible apply linkDown_kept
    | with_reducible apply atNs_kept

theorem execMsrpRegistration_kept (p : Fin 2) (talker : Bool) (i : Fin 257) (on : Bool) (s0 : State) (hk : Kept qq ll s0) : KeptOut qq ll (execMsrpRegistration p talker i on s0) := by
  unfold execMsrpRegistration
  repeat' first
    | with_reducible assumption
    | with_reducible refine KeptOut.next ?_
    | with_reducible apply rxFrame_kept
    | with_reducible apply fire_kept
    | with_reducible apply setNetPort_kept
    | with_reducible apply declareListener_kept
    | with_reducible refine kept_ite ?_ ?_
    | split
    | refine Kept.upd ?_ rfl (Nat.le_refl _) (fun h => h) (fun h => h) (fun h => h) (fun h => h)

theorem execMaapClaimDone_kept (p : Fin 2) (base : BitVec 48) (s : State) (hk : Kept qq ll s) : KeptOut qq ll (execMaapClaimDone p base s) := by
  unfold execMaapClaimDone
  repeat' first
    | with_reducible assumption
    | with_reducible refine KeptOut.next ?_
    | with_reducible refine kept_foldl (fun _ _ _ => ?_) ?_
    | with_reducible apply emitFrame_kept
    | with_reducible apply setNetPort_kept
    | with_reducible apply declareTalker_kept
    | with_reducible refine kept_ite ?_ ?_

theorem execMaapConflict_kept (p : Fin 2) (s : State) (hk : Kept qq ll s) : KeptOut qq ll (execMaapConflict p s) := by
  unfold execMaapConflict
  repeat' first
    | with_reducible assumption
    | with_reducible refine KeptOut.next ?_
    | with_reducible refine kept_foldl (fun _ _ _ => ?_) ?_
    | with_reducible apply declareTalker_kept
    | with_reducible apply fire_kept
    | with_reducible apply startClaim_kept
    | with_reducible apply setNetPort_kept
    | with_reducible refine kept_ite ?_ ?_

theorem execMaapProbeReceive_kept (p : Fin 2) (addr : BitVec 48) (count : BitVec 16) (s0 : State) (hk : Kept qq ll s0) : KeptOut qq ll (execMaapProbeReceive p addr count s0) := by
  unfold execMaapProbeReceive
  repeat' first
    | with_reducible assumption
    | with_reducible refine KeptOut.next ?_
    | with_reducible apply rxFrame_kept
    | with_reducible apply emitFrame_kept
    | with_reducible refine kept_ite ?_ ?_
    | split

theorem execAafTalkerPacket_kept (i : Fin 256) (s : State) (hk : Kept qq ll s) : KeptOut qq ll (execAafTalkerPacket i s) := by
  unfold execAafTalkerPacket
  repeat' first
    | with_reducible assumption
    | with_reducible refine KeptOut.next ?_
    | with_reducible refine kept_foldl (fun _ _ _ => ?_) ?_
    | with_reducible refine kept_ite ?_ ?_
    | refine Kept.upd ?_ rfl (Nat.le_refl _) (fun h => h) (fun h => h) (fun h => h) (fun h => h)

theorem setListen_kept (s : State) (i : Nat) (x : StreamSt) (hk : Kept qq ll s) : Kept qq ll (setListen s i x) := by
  unfold setListen
  repeat' first
    | with_reducible assumption
    | refine Kept.upd ?_ rfl (Nat.le_refl _) (fun h => h) (fun h => h) (fun h => h) (fun h => h)

theorem execAafReceive_kept (p : Fin 2) (i : Fin 256) (fmt : Nat) (rate : Nat) (ch : Nat) (stamp : BitVec 32) (rtag : Option (BitVec 16)) (t : Nat) (samples : List (BitVec 32)) (s0 : State) (hk : Kept qq ll s0) : KeptOut qq ll (execAafReceive p i fmt rate ch stamp rtag t samples s0) := by
  unfold execAafReceive
  repeat' first
    | with_reducible assumption
    | with_reducible refine KeptOut.next ?_
    | with_reducible apply rxFrame_kept
    | with_reducible apply atNs_kept
    | with_reducible apply setListen_kept
    | with_reducible apply fire_kept
    | with_reducible refine kept_ite ?_ ?_
    | split
    | refine Kept.upd ?_ rfl (Nat.le_refl _) (fun h => h) (fun h => h) (fun h => h) (fun h => h)

theorem execFrerResetTimer_kept (i : Fin 256) (s : State) (hk : Kept qq ll s) : KeptOut qq ll (execFrerResetTimer i s) := by
  unfold execFrerResetTimer
  repeat' first
    | with_reducible assumption
    | with_reducible refine KeptOut.next ?_
    | with_reducible apply setListen_kept
    | with_reducible apply advance_kept
    | with_reducible refine kept_ite ?_ ?_
    | split
    | refine Kept.upd ?_ rfl (Nat.le_refl _) (fun h => h) (fun h => h) (fun h => h) (fun h => h)

theorem execCrfPdu_kept (s : State) (hk : Kept qq ll s) : KeptOut qq ll (execCrfPdu s) := by
  unfold execCrfPdu
  repeat' first
    | with_reducible assumption
    | with_reducible refine KeptOut.next ?_
    | with_reducible refine kept_foldl (fun _ _ _ => ?_) ?_
    | with_reducible refine kept_ite ?_ ?_
    | refine Kept.upd ?_ rfl (Nat.le_refl _) (fun h => h) (fun h => h) (fun h => h) (fun h => h)

theorem noteEvent_kept (scls : Nat) (t : Nat) (r : Nat × Nat × Nat × Nat × Option Nat) (s : State) (hk : Kept qq ll s) : Kept qq ll (noteEvent scls t r s) := by
  unfold noteEvent
  repeat' first
    | with_reducible assumption
    | with_reducible apply starterEvent_kept

theorem execNoteFrameReceive_kept (p : Fin 2) (id : BitVec 64) (msgs : List (List (BitVec 8))) (t : Nat) (s : State) (hk : Kept qq ll s) : KeptOut qq ll (execNoteFrameReceive p id msgs t s) := by
  unfold execNoteFrameReceive
  repeat' first
    | with_reducible assumption
    | with_reducible refine KeptOut.next ?_
    | with_reducible refine kept_foldl (fun _ _ _ => ?_) ?_
    | with_reducible apply rxFrame_kept
    | with_reducible apply atNs_kept
    | with_reducible apply noteEvent_kept
    | with_reducible refine kept_ite ?_ ?_
    | split
    | intro _
    | refine Kept.upd ?_ rfl (Nat.le_refl _) (fun h => h) (fun h => h) (fun h => h) (fun h => h)

theorem avReply_kept (p : Nat) (acmp : Bool) (code : Nat) (st : AvStatus) (fs : List Nat) (s : State) (hk : Kept qq ll s) : Kept qq ll (avReply p acmp code st fs s) := by
  unfold avReply
  repeat' first
    | with_reducible assumption
    | refine Kept.upd ?_ rfl (Nat.le_refl _) (fun h => h) (fun h => h) (fun h => h) (fun h => h)

theorem avMsg_kept (p : Nat) (f : State → State) (s : State) (hk : Kept qq ll s) (hf : ∀ t, Kept qq ll t → Kept qq ll (f t)) : Kept qq ll (avMsg p f s) := by
  unfold avMsg
  repeat' first
    | with_reducible assumption
    | with_reducible refine hf _ ?_
    | with_reducible apply fire_kept
    | with_reducible apply rxFrame_kept
    | with_reducible refine kept_ite ?_ ?_
    | split

theorem avChange_kept (p : Nat) (acmp : Bool) (code : Nat) (ws : List (Nat × Nat × Bytes)) (s : State) (hk : Kept qq ll s) : Kept qq ll (avChange p acmp code ws s) := by
  unfold avChange
  repeat' first
    | with_reducible assumption
    | with_reducible apply avReply_kept
    | with_reducible apply firmwareManifest_kept
    | with_reducible refine kept_ite ?_ ?_
    | split
    | intro _
    | refine Kept.upd ?_ rfl (Nat.le_refl _) (fun h => h) (fun h => h) (fun h => h) (fun h => h)

theorem adpAvailable_kept (p : Nat) (s : State) (hk : Kept qq ll s) : Kept qq ll (adpAvailable p s) := by
  unfold adpAvailable
  repeat' first
    | with_reducible assumption
    | with_reducible apply emitFrame_kept
    | with_reducible refine kept_ite ?_ ?_

theorem execAdpAvailableTimer_kept (t : Nat) (s : State) (hk : Kept qq ll s) : KeptOut qq ll (execAdpAvailableTimer t s) := by
  unfold execAdpAvailableTimer
  repeat' first
    | with_reducible assumption
    | with_reducible refine KeptOut.next ?_
    | with_reducible apply adpAvailable_kept
    | refine Kept.upd ?_ rfl (Nat.le_refl _) (fun h => h) (fun h => h) (fun h => h) (fun h => h)

theorem execEntityDiscover_kept (p : Fin 2) (s : State) (hk : Kept qq ll s) : KeptOut qq ll (execEntityDiscover p s) := by
  unfold execEntityDiscover
  repeat' first
    | with_reducible assumption
    | with_reducible refine KeptOut.next ?_
    | with_reducible apply avMsg_kept
    | with_reducible apply adpAvailable_kept

theorem execConnectRx_kept (p : Fin 2) (i : Fin 256) (id : BitVec 64) (dest : BitVec 64) (vlan : BitVec 16) (s : State) (hk : Kept qq ll s) : KeptOut qq ll (execConnectRx p i id dest vlan s) := by
  unfold execConnectRx
  repeat' first
    | with_reducible assumption
    | with_reducible refine KeptOut.next ?_
    | with_reducible apply avMsg_kept
    | with_reducible apply avChange_kept

theorem execDisconnectRx_kept (p : Fin 2) (i : Fin 256) (s : State) (hk : Kept qq ll s) : KeptOut qq ll (execDisconnectRx p i s) := by
  unfold execDisconnectRx
  repeat' first
    | with_reducible assumption
    | with_reducible refine KeptOut.next ?_
    | with_reducible apply avMsg_kept
    | with_reducible apply avChange_kept

theorem execConnectTx_kept (p : Fin 2) (i : Fin 256) (s : State) (hk : Kept qq ll s) : KeptOut qq ll (execConnectTx p i s) := by
  unfold execConnectTx
  repeat' first
    | with_reducible assumption
    | with_reducible refine KeptOut.next ?_
    | with_reducible apply avMsg_kept
    | with_reducible apply avChange_kept

theorem execDisconnectTx_kept (p : Fin 2) (i : Fin 256) (s : State) (hk : Kept qq ll s) : KeptOut qq ll (execDisconnectTx p i s) := by
  unfold execDisconnectTx
  repeat' first
    | with_reducible assumption
    | with_reducible refine KeptOut.next ?_
    | with_reducible apply avMsg_kept
    | with_reducible apply avChange_kept

theorem execGetRxState_kept (p : Fin 2) (i : Fin 256) (s : State) (hk : Kept qq ll s) : KeptOut qq ll (execGetRxState p i s) := by
  unfold execGetRxState
  repeat' first
    | with_reducible assumption
    | with_reducible refine KeptOut.next ?_
    | with_reducible apply avMsg_kept
    | with_reducible apply avReply_kept
    | intro _

theorem execGetTxState_kept (p : Fin 2) (i : Fin 257) (s : State) (hk : Kept qq ll s) : KeptOut qq ll (execGetTxState p i s) := by
  unfold execGetTxState
  repeat' first
    | with_reducible assumption
    | with_reducible refine KeptOut.next ?_
    | with_reducible apply avMsg_kept
    | with_reducible apply avReply_kept
    | intro _

theorem execGetTxConnection_kept (p : Fin 2) (i : Fin 257) (s : State) (hk : Kept qq ll s) : KeptOut qq ll (execGetTxConnection p i s) := by
  unfold execGetTxConnection
  repeat' first
    | with_reducible assumption
    | with_reducible refine KeptOut.next ?_
    | with_reducible apply avMsg_kept
    | with_reducible apply avReply_kept
    | intro _

theorem execAcquireEntity_kept (p : Fin 2) (s : State) (hk : Kept qq ll s) : KeptOut qq ll (execAcquireEntity p s) := by
  unfold execAcquireEntity
  repeat' first
    | with_reducible assumption
    | with_reducible refine KeptOut.next ?_
    | with_reducible apply avMsg_kept
    | with_reducible apply avReply_kept

theorem execLockEntity_kept (p : Fin 2) (s : State) (hk : Kept qq ll s) : KeptOut qq ll (execLockEntity p s) := by
  unfold execLockEntity
  repeat' first
    | with_reducible assumption
    | with_reducible refine KeptOut.next ?_
    | with_reducible apply avMsg_kept
    | with_reducible apply avReply_kept

theorem execEntityAvailable_kept (p : Fin 2) (s : State) (hk : Kept qq ll s) : KeptOut qq ll (execEntityAvailable p s) := by
  unfold execEntityAvailable
  repeat' first
    | with_reducible assumption
    | with_reducible refine KeptOut.next ?_
    | with_reducible apply avMsg_kept
    | with_reducible apply avReply_kept

theorem execReadDescriptor_kept (p : Fin 2) (kind : Fin 10) (ix : BitVec 16) (s : State) (hk : Kept qq ll s) : KeptOut qq ll (execReadDescriptor p kind ix s) := by
  unfold execReadDescriptor
  repeat' first
    | with_reducible assumption
    | with_reducible refine KeptOut.next ?_
    | with_reducible apply avMsg_kept
    | with_reducible apply avReply_kept
    | with_reducible refine kept_ite ?_ ?_
    | split
    | intro _

theorem execGetStreamFormat_kept (p : Fin 2) (out : Bool) (i : Fin 256) (s : State) (hk : Kept qq ll s) : KeptOut qq ll (execGetStreamFormat p out i s) := by
  unfold execGetStreamFormat
  repeat' first
    | with_reducible assumption
    | with_reducible refine KeptOut.next ?_
    | with_reducible apply avMsg_kept
    | with_reducible apply avReply_kept
    | intro _

theorem execSetStreamFormat_kept (p : Fin 2) (out : Bool) (i : Fin 256) (rate : Fin 6) (ch : BitVec 8) (s : State) (hk : Kept qq ll s) : KeptOut qq ll (execSetStreamFormat p out i rate ch s) := by
  unfold execSetStreamFormat
  repeat' first
    | with_reducible assumption
    | with_reducible refine KeptOut.next ?_
    | with_reducible apply avMsg_kept
    | with_reducible apply avReply_kept
    | with_reducible apply avChange_kept
    | with_reducible refine kept_ite ?_ ?_
    | split
    | intro _

theorem execGetStreamInfo_kept (p : Fin 2) (out : Bool) (i : Fin 256) (s : State) (hk : Kept qq ll s) : KeptOut qq ll (execGetStreamInfo p out i s) := by
  unfold execGetStreamInfo
  repeat' first
    | with_reducible assumption
    | with_reducible refine KeptOut.next ?_
    | with_reducible apply avMsg_kept
    | with_reducible apply avReply_kept
    | with_reducible refine kept_ite ?_ ?_
    | split
    | intro _

theorem execGetSamplingRate_kept (p : Fin 2) (s : State) (hk : Kept qq ll s) : KeptOut qq ll (execGetSamplingRate p s) := by
  unfold execGetSamplingRate
  repeat' first
    | with_reducible assumption
    | with_reducible refine KeptOut.next ?_
    | with_reducible apply avMsg_kept
    | with_reducible apply avReply_kept
    | intro _

theorem execGetClockSource_kept (p : Fin 2) (s : State) (hk : Kept qq ll s) : KeptOut qq ll (execGetClockSource p s) := by
  unfold execGetClockSource
  repeat' first
    | with_reducible assumption
    | with_reducible refine KeptOut.next ?_
    | with_reducible apply avMsg_kept
    | with_reducible apply avReply_kept

theorem execGetAvbInfo_kept (p : Fin 2) (i : Fin 2) (s : State) (hk : Kept qq ll s) : KeptOut qq ll (execGetAvbInfo p i s) := by
  unfold execGetAvbInfo
  repeat' first
    | with_reducible assumption
    | with_reducible refine KeptOut.next ?_
    | with_reducible apply avMsg_kept
    | with_reducible apply avReply_kept
    | intro _

theorem execGetCounters_kept (p : Fin 2) (out : Bool) (i : Fin 256) (s : State) (hk : Kept qq ll s) : KeptOut qq ll (execGetCounters p out i s) := by
  unfold execGetCounters
  repeat' first
    | with_reducible assumption
    | lift_lets
    | (intro t; refine kept_have (qq := qq) (ll := ll) (s := t) ?_ (fun _ => ?_); dsimp -zeta only [t]; rotate_left; clear_value t)
    | with_reducible refine KeptOut.next ?_
    | with_reducible apply avMsg_kept
    | with_reducible apply avReply_kept
    | with_reducible refine kept_ite ?_ ?_
    | split
    | intro _

theorem execRegisterUnsolicitedNotification_kept (p : Fin 2) (ctl : BitVec 64) (s : State) (hk : Kept qq ll s) : KeptOut qq ll (execRegisterUnsolicitedNotification p ctl s) := by
  unfold execRegisterUnsolicitedNotification
  repeat' first
    | with_reducible assumption
    | with_reducible refine KeptOut.next ?_
    | with_reducible apply avMsg_kept
    | with_reducible apply avReply_kept
    | with_reducible refine kept_ite ?_ ?_
    | split
    | intro _
    | refine Kept.upd ?_ rfl (Nat.le_refl _) (fun h => h) (fun h => h) (fun h => h) (fun h => h)

theorem execDeregisterUnsolicitedNotification_kept (p : Fin 2) (ctl : BitVec 64) (s : State) (hk : Kept qq ll s) : KeptOut qq ll (execDeregisterUnsolicitedNotification p ctl s) := by
  unfold execDeregisterUnsolicitedNotification
  repeat' first
    | with_reducible assumption
    | with_reducible refine KeptOut.next ?_
    | with_reducible apply avMsg_kept
    | with_reducible apply avReply_kept
    | intro _
    | refine Kept.upd ?_ rfl (Nat.le_refl _) (fun h => h) (fun h => h) (fun h => h) (fun h => h)

theorem execGetName_kept (p : Fin 2) (s : State) (hk : Kept qq ll s) : KeptOut qq ll (execGetName p s) := by
  unfold execGetName
  repeat' first
    | with_reducible assumption
    | with_reducible refine KeptOut.next ?_
    | with_reducible apply avMsg_kept
    | with_reducible apply avReply_kept
    | intro _

theorem execSetName_kept (p : Fin 2) (name : List (BitVec 8)) (s : State) (hk : Kept qq ll s) : KeptOut qq ll (execSetName p name s) := by
  unfold execSetName
  repeat' first
    | with_reducible assumption
    | with_reducible refine KeptOut.next ?_
    | with_reducible apply avMsg_kept
    | with_reducible apply avChange_kept

theorem execSetSamplingRate_kept (p : Fin 2) (s : State) (hk : Kept qq ll s) : KeptOut qq ll (execSetSamplingRate p s) := by
  unfold execSetSamplingRate
  repeat' first
    | with_reducible assumption
    | with_reducible refine KeptOut.next ?_
    | with_reducible apply avMsg_kept
    | with_reducible apply avReply_kept

theorem execSetClockSource_kept (p : Fin 2) (s : State) (hk : Kept qq ll s) : KeptOut qq ll (execSetClockSource p s) := by
  unfold execSetClockSource
  repeat' first
    | with_reducible assumption
    | with_reducible refine KeptOut.next ?_
    | with_reducible apply avMsg_kept
    | with_reducible apply avReply_kept

theorem execAecpUnsupportedCommand_kept (p : Fin 2) (code : BitVec 16) (s : State) (hk : Kept qq ll s) : KeptOut qq ll (execAecpUnsupportedCommand p code s) := by
  unfold execAecpUnsupportedCommand
  repeat' first
    | with_reducible assumption
    | with_reducible refine KeptOut.next ?_
    | with_reducible apply avMsg_kept
    | with_reducible apply avReply_kept

theorem speedsWrite_kept (p : Nat) (s : State) (hk : Kept qq ll s) : Kept qq ll (speedsWrite p s) := by
  unfold speedsWrite
  repeat' first
    | with_reducible assumption
    | with_reducible apply linkDown_kept

theorem ppsTick_kept (s : State) (hk : Kept qq ll s) : Kept qq ll (ppsTick s) := by
  unfold ppsTick
  repeat' first
    | with_reducible assumption
    | with_reducible apply fire_kept
    | with_reducible refine kept_ite ?_ ?_
    | split
    | refine Kept.upd ?_ rfl (Nat.le_refl _) (fun h => h) (fun h => h) (fun h => h) (fun h => h)

theorem setTime_kept (t : Nat) (s : State) (hk : Kept qq ll s) : Kept qq ll (setTime t s) := by
  unfold setTime
  repeat' first
    | with_reducible assumption
    | refine Kept.upd ?_ rfl (Nat.le_refl _) (by first | exact fun h => h | exact fun h => h.of_src rfl | exact fun h => h.put (fun a => ⟨a, rfl⟩)) (fun h => h) (fun h => h) (fun h => h)

end Sys2Proof.Machine
end

