-- ==== Sys2Proof/Laws/KeptInputs.lean ====
section
/-! SUPPORT. The operations of Machine/Inputs.lean keep what Kept names. -/

namespace Sys2Proof.Machine

variable {qq : List Instr} {ll : Nat}

theorem onAudio_kept (f : Audio → Audio) (s : State) (hk : Kept qq ll s) : Kept qq ll (onAudio f s) := by
  unfold onAudio
  repeat' first
    | with_reducible assumption
    | refine Kept.upd ?_ rfl (Nat.le_refl _) (fun h => h) (fun h => h) (fun h => h) (fun h => h)

theorem onUsb_kept (f : Usb → Usb) (s : State) (hk : Kept qq ll s) : Kept qq ll (onUsb f s) := by
  unfold onUsb
  repeat' first
    | with_reducible assumption
    | with_reducible apply onAudio_kept

theorem takeListeners_kept (n : Nat) (k : Nat) (s : State) (hk : Kept qq ll s) : Kept qq ll (takeListeners n k s) := by
  unfold takeListeners
  repeat' first
    | with_reducible assumption
    | with_reducible refine kept_foldl (fun _ _ _ => ?_) ?_
    | with_reducible apply fire_kept
    | split
    | refine Kept.upd ?_ rfl (Nat.le_refl _) (fun h => h) (fun h => h) (fun h => h) (fun h => h)

theorem takeUsb_kept (n : Nat) (k : Nat) (s : State) (hk : Kept qq ll s) : Kept qq ll (takeUsb n k s) := by
  unfold takeUsb
  repeat' first
    | with_reducible assumption
    | with_reducible refine kept_foldl (fun _ _ _ => ?_) ?_
    | with_reducible apply onAudio_kept
    | with_reducible apply fire_kept
    | with_reducible apply onUsb_kept
    | split

theorem tdmBoundary_kept (s : State) (hk : Kept qq ll s) : Kept qq ll (tdmBoundary s) := by
  unfold tdmBoundary
  repeat' first
    | with_reducible assumption
    | with_reducible apply onAudio_kept

theorem wclkEdge_kept (s : State) (hk : Kept qq ll s) : Kept qq ll (wclkEdge s) := by
  unfold wclkEdge
  repeat' first
    | with_reducible assumption
    | with_reducible apply onAudio_kept
    | intro _
    | refine Kept.upd ?_ rfl (Nat.le_refl _) (fun h => h) (fun h => h) (fun h => h) (fun h => h)

theorem putInputs_kept (k : Nat) (line : List Int) (tdm : List (BitVec 24)) (s : State) (hk : Kept qq ll s) : Kept qq ll (putInputs k line tdm s) := by
  unfold putInputs
  repeat' first
    | with_reducible assumption
    | with_reducible apply onAudio_kept

theorem execSampleInstant_kept (line : List Int) (tdm : List (BitVec 24)) (s : State) (hk : Kept qq ll s) : KeptOut qq ll (execSampleInstant line tdm s) := by
  unfold execSampleInstant
  repeat' first
    | with_reducible assumption
    | with_reducible refine KeptOut.next ?_
    | with_reducible refine kept_foldl (fun _ _ _ => ?_) ?_
    | with_reducible apply wclkEdge_kept
    | with_reducible apply ppsTick_kept
    | with_reducible apply tdmBoundary_kept
    | with_reducible apply advance_kept
    | with_reducible apply onAudio_kept
    | with_reducible apply takeUsb_kept
    | with_reducible apply takeListeners_kept
    | with_reducible apply putInputs_kept
    | with_reducible refine kept_ite ?_ ?_
    | split
    | intro _
    | refine Kept.upd ?_ rfl (Nat.le_refl _) (fun h => h) (fun h => h) (fun h => h) (fun h => h)

theorem rangeWrite_kept (i : Nat) (s : State) (hk : Kept qq ll s) : Kept qq ll (rangeWrite i s) := by
  unfold rangeWrite
  repeat' first
    | with_reducible assumption
    | with_reducible apply onAudio_kept

theorem muteWrite_kept (i : Nat) (v : Nat) (s : State) (hk : Kept qq ll s) : Kept qq ll (muteWrite i v s) := by
  unfold muteWrite
  repeat' first
    | with_reducible assumption
    | with_reducible apply onAudio_kept

theorem volumeWrite_kept (i : Nat) (v : Int) (s : State) (hk : Kept qq ll s) : Kept qq ll (volumeWrite i v s) := by
  unfold volumeWrite
  repeat' first
    | with_reducible assumption
    | with_reducible apply onAudio_kept

theorem eventAt_kept (entry : Nat) (scls : Nat) (chan : Nat) (note : Nat) (vel : Nat) (etype : Nat) (t : Nat) (s : State) (hk : Kept qq ll s) : Kept qq ll (eventAt entry scls chan note vel etype t s) := by
  unfold eventAt
  repeat' first
    | with_reducible assumption
    | with_reducible apply starterEvent_kept
    | with_reducible refine kept_ite ?_ ?_
    | split

theorem inputEvent_kept (scls : Nat) (chan : Nat) (note : Nat) (vel : Nat) (etype : Nat) (t : Nat) (s : State) (hk : Kept qq ll s) : Kept qq ll (inputEvent scls chan note vel etype t s) := by
  unfold inputEvent
  repeat' first
    | with_reducible assumption
    | with_reducible apply eventAt_kept

theorem countMove_kept (src : Nat) (t : Nat) (s : State) (hk : Kept qq ll s) : Kept qq ll (countMove src t s).2 := by
  unfold countMove
  repeat' first
    | with_reducible assumption
    | with_reducible apply fire_kept
    | with_reducible apply onAudio_kept
    | with_reducible refine kept_ite_snd ?_ ?_

theorem setKeySt_kept (s : State) (k : Nat) (x : KeySt) (hk : Kept qq ll s) : Kept qq ll (setKeySt s k x) := by
  unfold setKeySt
  repeat' first
    | with_reducible assumption
    | with_reducible apply onAudio_kept

theorem setContact_kept (s : State) (x : Nat) (c : Contact) (hk : Kept qq ll s) : Kept qq ll (setContact s x c) := by
  unfold setContact
  repeat' first
    | with_reducible assumption
    | with_reducible apply onAudio_kept

theorem execKeyScanSample_kept (k : Nat) (closed : List (Fin 640)) (s : State) (hk : Kept qq ll s) : KeptOut qq ll (execKeyScanSample k closed s) := by
  unfold execKeyScanSample
  repeat' first
    | with_reducible assumption
    | with_reducible refine KeptOut.next ?_
    | with_reducible refine kept_foldl (fun _ _ _ => ?_) ?_
    | with_reducible apply setContact_kept
    | with_reducible apply atNs_kept
    | with_reducible apply onAudio_kept
    | with_reducible refine kept_ite ?_ ?_

theorem keyEvent_kept (k : Nat) (etype : Nat) (vel : Nat) (t : Nat) (s : State) (hk : Kept qq ll s) : Kept qq ll (keyEvent k etype vel t s) := by
  unfold keyEvent
  repeat' first
    | with_reducible assumption
    | with_reducible apply eventAt_kept
    | with_reducible apply onAudio_kept
    | with_reducible refine kept_ite ?_ ?_
    | split
    | intro _
    | refine Kept.upd ?_ rfl (Nat.le_refl _) (fun h => h) (fun h => h) (fun h => h) (fun h => h)

theorem keyEnd_kept (k : Nat) (etype : Nat) (t : Nat) (s : State) (hk : Kept qq ll s) : Kept qq ll (keyEnd k etype t s) := by
  unfold keyEnd
  repeat' first
    | with_reducible assumption
    | with_reducible apply inputEvent_kept

theorem keyContact_kept (k : Nat) (role : Nat) (closed : Bool) (seen : Nat) (t : Nat) (s : State) (hk : Kept qq ll s) : Kept qq ll (keyContact k role closed seen t s) := by
  unfold keyContact
  repeat' first
    | with_reducible assumption
    | with_reducible apply keyEvent_kept
    | with_reducible apply setKeySt_kept
    | with_reducible refine kept_ite ?_ ?_

theorem keyMove_kept (k : Nat) (role : Nat) (closed : Bool) (seen : Nat) (t : Nat) (s : State) (hk : Kept qq ll s) : Kept qq ll (keyMove k role closed seen t s) := by
  unfold keyMove
  repeat' first
    | with_reducible assumption
    | with_reducible apply keyContact_kept
    | with_reducible apply setKeySt_kept
    | with_reducible refine kept_ite ?_ ?_
    | split

theorem keySilence_kept (x : Nat) (t : Nat) (s : State) (hk : Kept qq ll s) : Kept qq ll (keySilence x t s) := by
  unfold keySilence
  repeat' first
    | with_reducible assumption
    | with_reducible refine kept_foldl (fun _ _ _ => ?_) ?_
    | with_reducible apply keyEvent_kept
    | with_reducible apply setKeySt_kept
    | with_reducible refine kept_ite ?_ ?_

theorem execContactAccepted_kept (x : Fin 640) (s : State) (hk : Kept qq ll s) : KeptOut qq ll (execContactAccepted x s) := by
  unfold execContactAccepted
  repeat' first
    | with_reducible assumption
    | with_reducible refine KeptOut.next ?_
    | with_reducible refine kept_foldl (fun _ _ _ => ?_) ?_
    | with_reducible refine kept_foldl_fst (fun _ _ _ => ?_) ?_
    | with_reducible apply atNs_kept
    | with_reducible apply setContact_kept
    | with_reducible apply countMove_kept
    | with_reducible apply keySilence_kept
    | with_reducible apply keyMove_kept
    | with_reducible refine kept_ite ?_ ?_
    | split
    | intro _
    | refine Kept.upd ?_ rfl (Nat.le_refl _) (fun h => h) (fun h => h) (fun h => h) (fun h => h)

theorem keepKey_kept (ix : Nat) (sub : Nat) (s : State) (hk : Kept qq ll s) : Kept qq ll (keepKey ix sub s) := by
  unfold keepKey
  repeat' first
    | with_reducible assumption
    | with_reducible apply onAudio_kept
    | split

theorem keysAtEdge_kept (s : State) (hk : Kept qq ll s) : Kept qq ll (keysAtEdge s) := by
  unfold keysAtEdge
  repeat' first
    | with_reducible assumption
    | with_reducible refine kept_foldl (fun _ _ _ => ?_) ?_
    | with_reducible refine kept_foldl_fst (fun _ _ _ => ?_) ?_
    | with_reducible apply keyEnd_kept
    | with_reducible apply setContact_kept
    | with_reducible apply setKeySt_kept
    | with_reducible apply onAudio_kept
    | with_reducible refine kept_ite ?_ ?_
    | split
    | intro _
    | refine Kept.upd ?_ rfl (Nat.le_refl _) (fun h => h) (fun h => h) (fun h => h) (fun h => h)

theorem contactsOpen_kept (s : State) (hk : Kept qq ll s) : Kept qq ll (contactsOpen s) := by
  unfold contactsOpen
  repeat' first
    | with_reducible assumption
    | with_reducible apply onAudio_kept

theorem setGpio_kept (s : State) (n : Nat) (c : Contact) (hk : Kept qq ll s) : Kept qq ll (setGpio s n c) := by
  unfold setGpio
  repeat' first
    | with_reducible assumption
    | with_reducible apply onAudio_kept

theorem execGpioSample_kept (us : Nat) (levels : BitVec 16) (s : State) (hk : Kept qq ll s) : KeptOut qq ll (execGpioSample us levels s) := by
  unfold execGpioSample
  repeat' first
    | with_reducible assumption
    | with_reducible refine KeptOut.next ?_
    | with_reducible refine kept_foldl (fun _ _ _ => ?_) ?_
    | with_reducible apply setGpio_kept
    | with_reducible apply atNs_kept
    | with_reducible apply onAudio_kept
    | with_reducible refine kept_ite ?_ ?_

theorem execGpioEdgeAccepted_kept (n : Fin 16) (s : State) (hk : Kept qq ll s) : KeptOut qq ll (execGpioEdgeAccepted n s) := by
  unfold execGpioEdgeAccepted
  repeat' first
    | with_reducible assumption
    | with_reducible refine KeptOut.next ?_
    | with_reducible apply setGpio_kept
    | with_reducible apply countMove_kept
    | with_reducible apply inputEvent_kept
    | with_reducible apply level_kept
    | with_reducible refine kept_ite ?_ ?_

theorem setCv_kept (s : State) (i : Nat) (x : CvSt) (hk : Kept qq ll s) : Kept qq ll (setCv s i x) := by
  unfold setCv
  repeat' first
    | with_reducible assumption
    | with_reducible apply onAudio_kept

theorem cvConvert_kept (t : Nat) (i : Nat) (code : Nat) (s : State) (hk : Kept qq ll s) : Kept qq ll (cvConvert t i code s) := by
  unfold cvConvert
  repeat' first
    | with_reducible assumption
    | with_reducible apply setCv_kept
    | with_reducible apply countMove_kept
    | with_reducible apply inputEvent_kept
    | with_reducible refine kept_ite ?_ ?_

theorem execCvConversion_kept (k : Nat) (codes : List (BitVec 12)) (s : State) (hk : Kept qq ll s) : KeptOut qq ll (execCvConversion k codes s) := by
  unfold execCvConversion
  repeat' first
    | with_reducible assumption
    | with_reducible refine KeptOut.next ?_
    | with_reducible refine kept_foldl (fun _ _ _ => ?_) ?_
    | with_reducible apply cvConvert_kept
    | with_reducible apply atNs_kept

theorem cvReset_kept (i : Nat) (s : State) (hk : Kept qq ll s) : Kept qq ll (cvReset i s) := by
  unfold cvReset
  repeat' first
    | with_reducible assumption
    | with_reducible apply setCv_kept

theorem execQuarantineRelease_kept (src : Fin 1296) (t : Nat) (s0 : State) (hk : Kept qq ll s0) : KeptOut qq ll (execQuarantineRelease src t s0) := by
  unfold execQuarantineRelease
  repeat' first
    | with_reducible assumption
    | with_reducible refine KeptOut.next ?_
    | with_reducible apply fire_kept
    | with_reducible refine kept_ite ?_ ?_
    | refine Kept.upd ?_ rfl (Nat.le_refl _) (by first | exact fun h => h | exact fun h => h.of_src rfl | exact fun h => h.put (fun a => ⟨a, rfl⟩)) (fun h => h) (fun h => h) (fun h => h)

theorem setMidiIn_kept (s : State) (u : Nat) (x : MidiIn) (hk : Kept qq ll s) : Kept qq ll (setMidiIn s u x) := by
  unfold setMidiIn
  repeat' first
    | with_reducible assumption
    | with_reducible apply onAudio_kept

theorem midiQueue_kept (u : Nat) (m : Bytes) (s : State) (hk : Kept qq ll s) : Kept qq ll (midiQueue u m s) := by
  unfold midiQueue
  repeat' first
    | with_reducible assumption
    | with_reducible apply setMidiIn_kept
    | with_reducible apply fire_kept
    | with_reducible refine kept_ite ?_ ?_

theorem midiToQueue_kept (u : Nat) (m : Bytes) (s : State) (hk : Kept qq ll s) : Kept qq ll (midiToQueue u m s) := by
  unfold midiToQueue
  repeat' first
    | with_reducible assumption
    | with_reducible refine kept_foldl (fun _ _ _ => ?_) ?_
    | with_reducible apply midiQueue_kept
    | with_reducible refine kept_ite ?_ ?_

theorem midiTake_kept (u : Nat) (chan : Nat) (t : Nat) (r : Option (Option (Nat × Nat × Nat) × Bool)) (m : Bytes) (s : State) (hk : Kept qq ll s) : Kept qq ll (midiTake u chan t r m s) := by
  unfold midiTake
  repeat' first
    | with_reducible assumption
    | lift_lets
    | with_reducible apply midiToQueue_kept
    | with_reducible apply setMidiIn_kept
    | with_reducible apply inputEvent_kept
    | split
    | intro _

theorem dinGo_kept (s : State) (hk : Kept qq ll s) : Kept qq ll (dinGo s) := by
  unfold dinGo
  repeat' first
    | with_reducible assumption
    | with_reducible refine kept_ite ?_ ?_
    | split
    | refine Kept.upd ?_ rfl (Nat.le_refl _) (fun h => h) (fun h => h) (fun h => h) (fun h => h)

theorem dinThru_kept (st : Nat) (m : Bytes) (s : State) (hk : Kept qq ll s) : Kept qq ll (dinThru st m s) := by
  unfold dinThru
  repeat' first
    | with_reducible assumption
    | with_reducible apply dinGo_kept
    | with_reducible apply onAudio_kept
    | with_reducible refine kept_ite ?_ ?_

theorem execDinMidiMessage_kept (m : List (BitVec 8)) (t : Nat) (s : State) (hk : Kept qq ll s) : KeptOut qq ll (execDinMidiMessage m t s) := by
  unfold execDinMidiMessage
  repeat' first
    | with_reducible assumption
    | lift_lets
    | with_reducible refine KeptOut.next ?_
    | with_reducible apply atNs_kept
    | with_reducible apply dinThru_kept
    | with_reducible apply setMidiIn_kept
    | with_reducible apply midiTake_kept
    | split
    | intro _

theorem execMidiFramingError_kept (s : State) (hk : Kept qq ll s) : KeptOut qq ll (execMidiFramingError s) := by
  unfold execMidiFramingError
  repeat' first
    | with_reducible assumption
    | with_reducible refine KeptOut.next ?_
    | with_reducible apply setMidiIn_kept

theorem execMidiOutByteDone_kept (s : State) (hk : Kept qq ll s) : KeptOut qq ll (execMidiOutByteDone s) := by
  unfold execMidiOutByteDone
  repeat' first
    | with_reducible assumption
    | with_reducible refine KeptOut.next ?_
    | with_reducible apply dinGo_kept
    | with_reducible apply onAudio_kept
    | with_reducible refine kept_ite ?_ ?_

theorem midiSend_kept (b : Bytes) (s : State) (hk : Kept qq ll s) : Kept qq ll (midiSend b s).2 := by
  unfold midiSend
  repeat' first
    | with_reducible assumption
    | with_reducible apply dinGo_kept
    | with_reducible apply onAudio_kept
    | with_reducible refine kept_ite_snd ?_ ?_
    | split

theorem execUsbMidiPacket_kept (pkt : List (BitVec 8)) (t : Nat) (s : State) (hk : Kept qq ll s) : KeptOut qq ll (execUsbMidiPacket pkt t s) := by
  unfold execUsbMidiPacket
  repeat' first
    | with_reducible assumption
    | with_reducible refine KeptOut.next ?_
    | with_reducible apply atNs_kept
    | with_reducible apply midiTake_kept
    | with_reducible apply midiQueue_kept
    | split

theorem usbPortReset_kept (s : State) (hk : Kept qq ll s) : Kept qq ll (usbPortReset s) := by
  unfold usbPortReset
  repeat' first
    | with_reducible assumption
    | with_reducible apply resetPort_kept
    | with_reducible refine kept_ite ?_ ?_

theorem usbSettle_kept (s : State) (hk : Kept qq ll s) : Kept qq ll (usbSettle s) := by
  unfold usbSettle
  repeat' first
    | with_reducible assumption
    | with_reducible apply onUsb_kept
    | with_reducible refine kept_ite ?_ ?_

theorem execUsbVbusChange_kept (on : Bool) (s : State) (hk : Kept qq ll s) : KeptOut qq ll (execUsbVbusChange on s) := by
  unfold execUsbVbusChange
  repeat' first
    | with_reducible assumption
    | with_reducible refine KeptOut.next ?_
    | with_reducible apply usbSettle_kept
    | with_reducible apply onUsb_kept

theorem execUsbBusReset_kept (s : State) (hk : Kept qq ll s) : KeptOut qq ll (execUsbBusReset s) := by
  unfold execUsbBusReset
  repeat' first
    | with_reducible assumption
    | with_reducible refine KeptOut.next ?_
    | with_reducible apply usbPortReset_kept
    | with_reducible apply fire_kept
    | with_reducible apply onUsb_kept
    | with_reducible refine kept_ite ?_ ?_

theorem execUsbSuspend_kept (s : State) (hk : Kept qq ll s) : KeptOut qq ll (execUsbSuspend s) := by
  unfold execUsbSuspend
  repeat' first
    | with_reducible assumption
    | with_reducible refine KeptOut.next ?_
    | with_reducible apply usbPortReset_kept
    | with_reducible apply fire_kept
    | with_reducible apply onUsb_kept
    | with_reducible refine kept_ite ?_ ?_

theorem execUsbResume_kept (s : State) (hk : Kept qq ll s) : KeptOut qq ll (execUsbResume s) := by
  unfold execUsbResume
  repeat' first
    | with_reducible assumption
    | with_reducible refine KeptOut.next ?_
    | with_reducible apply fire_kept
    | with_reducible apply onUsb_kept
    | with_reducible refine kept_ite ?_ ?_

theorem execUsbSetInterface_kept (midi : Bool) (alt : Fin 2) (s : State) (hk : Kept qq ll s) : KeptOut qq ll (execUsbSetInterface midi alt s) := by
  unfold execUsbSetInterface
  repeat' first
    | with_reducible assumption
    | with_reducible refine KeptOut.next ?_
    | with_reducible apply onUsb_kept
    | with_reducible refine kept_ite ?_ ?_

theorem execUsbSetCur_kept (freq : Nat) (s : State) (hk : Kept qq ll s) : KeptOut qq ll (execUsbSetCur freq s) := by
  unfold execUsbSetCur
  repeat' first
    | with_reducible assumption
    | with_reducible refine KeptOut.next ?_
    | refine Kept.upd ?_ rfl (Nat.le_refl _) (fun h => h) (fun h => h) (fun h => h) (fun h => h)

theorem execUsbAudioTransaction_kept (kind : Fin 3) (samples : List (BitVec 24)) (t : Nat) (s0 : State) (hk : Kept qq ll s0) : KeptOut qq ll (execUsbAudioTransaction kind samples t s0) := by
  unfold execUsbAudioTransaction
  repeat' first
    | with_reducible assumption
    | with_reducible refine KeptOut.next ?_
    | split
    | refine Kept.upd ?_ rfl (Nat.le_refl _) (fun h => h) (fun h => h) (fun h => h) (fun h => h)

theorem usbReattach_kept (s : State) (hk : Kept qq ll s) : Kept qq ll (usbReattach s) := by
  unfold usbReattach
  repeat' first
    | with_reducible assumption
    | with_reducible apply onUsb_kept
    | with_reducible refine kept_ite ?_ ?_

end Sys2Proof.Machine
end

