-- ==== Sys2Proof/Laws/KeptLoadOps.lean ====
section
/-! SUPPORT. The operations of Machine/LoadOps.lean keep what Kept names. -/

namespace Sys2Proof.Machine

variable {qq : List Instr} {ll : Nat}

theorem trimRings_kept (p : Nat) (s : State) (hk : Kept qq ll s) : Kept qq ll (trimRings p s) := by
  unfold trimRings
  repeat' first
    | with_reducible assumption
    | refine Kept.upd ?_ rfl (Nat.le_refl _) (fun h => h) (fun h => h) (fun h => h) (fun h => h)

theorem growRings_kept (p : Nat) (s : State) (hk : Kept qq ll s) : Kept qq ll (growRings p s) := by
  unfold growRings
  repeat' first
    | with_reducible assumption
    | with_reducible refine kept_foldl (fun _ _ _ => ?_) ?_
    | with_reducible apply setRing_kept

theorem assignRings_kept (s : State) (hk : Kept qq ll s) : Kept qq ll (assignRings s) := by
  unfold assignRings
  repeat' first
    | with_reducible assumption
    | with_reducible refine kept_foldl (fun _ _ _ => ?_) ?_
    | with_reducible apply trimRings_kept
    | with_reducible apply growRings_kept

theorem loadPrograms_kept (k : Nat) (s : State) (hk : Kept qq ll s) : Kept qq ll (loadPrograms k s) := by
  unfold loadPrograms
  repeat' first
    | with_reducible assumption
    | with_reducible apply fire_kept
    | with_reducible apply updCore_kept

theorem freeContext_kept (n : Nat) (s : State) (hk : Kept qq ll s) : Kept qq ll (freeContext n s) := by
  unfold freeContext
  repeat' first
    | with_reducible assumption
    | with_reducible apply released_kept
    | with_reducible apply setCtx_kept
    | with_reducible refine kept_ite ?_ ?_

theorem freeSlot_kept (slot : Nat) (s : State) (hk : Kept qq ll s) : Kept qq ll (freeSlot slot s) := by
  unfold freeSlot
  repeat' first
    | with_reducible assumption
    | with_reducible refine kept_foldl (fun _ _ _ => ?_) ?_
    | with_reducible apply freeContext_kept

end Sys2Proof.Machine
end

