-- ==== Sys2Proof/Laws/KeptModes.lean ====
section
/-! SUPPORT. The operations of Machine/Modes.lean keep what Kept names. -/

namespace Sys2Proof.Machine

variable {qq : List Instr} {ll : Nat}

theorem stampAt_kept (i : Nat) (us : Nat) (s : State) (hk : Kept qq ll s) : Kept qq ll (stampAt i us s) := by
  unfold stampAt
  repeat' first
    | with_reducible assumption
    | with_reducible apply onModes_kept
    | split
    | exact Nat.le_refl _

theorem stamp_kept (i : Nat) (s : State) (hk : Kept qq ll s) : Kept qq ll (stamp i s) := by
  unfold stamp
  repeat' first
    | with_reducible assumption
    | with_reducible apply stampAt_kept

theorem stampHeads_kept (s : State) (hk : Kept qq ll s) : Kept qq ll (stampHeads s) := by
  unfold stampHeads
  repeat' first
    | with_reducible assumption
    | with_reducible apply stamp_kept
    | with_reducible refine kept_ite ?_ ?_

theorem stampPerform_kept (s : State) (hk : Kept qq ll s) : Kept qq ll (stampPerform s) := by
  unfold stampPerform
  repeat' first
    | with_reducible assumption
    | with_reducible apply stampHeads_kept
    | with_reducible apply stamp_kept
    | with_reducible refine kept_ite ?_ ?_

theorem holdDrovers_kept (on : Bool) (m : Mode) (s : State) (hk : Kept qq ll s) : Kept qq ll (holdDrovers on m s) := by
  unfold holdDrovers
  repeat' first
    | with_reducible assumption
    | with_reducible refine kept_foldl (fun _ _ _ => ?_) ?_
    | with_reducible apply onModes_kept
    | with_reducible apply updDrv_kept
    | exact Nat.le_refl _

theorem setPolling_kept (on : Nat → Bool) (s : State) (hk : Kept qq ll s) : Kept qq ll (setPolling on s) := by
  unfold setPolling
  repeat' first
    | with_reducible assumption
    | with_reducible refine kept_foldl (fun _ _ _ => ?_) ?_
    | with_reducible apply updLvu_kept

theorem trapMode_kept (s : State) (hk : Kept qq ll s) : Kept qq ll (trapMode s) := by
  unfold trapMode
  repeat' first
    | with_reducible assumption
    | with_reducible apply setPolling_kept
    | intro _

theorem freeAll_kept (s : State) (hk : Kept qq ll s) : Kept qq ll (freeAll s) := by
  unfold freeAll
  repeat' first
    | with_reducible assumption
    | with_reducible refine kept_foldl (fun _ _ _ => ?_) ?_
    | with_reducible apply freeContext_kept
    | refine Kept.upd ?_ rfl (Nat.le_refl _) (fun h => h) (fun h => h) (fun h => h) (fun h => h)

theorem safeStreaming_kept (s : State) (hk : Kept qq ll s) : Kept qq ll (safeStreaming s) := by
  unfold safeStreaming
  repeat' first
    | with_reducible assumption
    | with_reducible apply odSet_kept
    | with_reducible apply setService_kept
    | with_reducible refine kept_ite ?_ ?_

theorem outageBegins_kept (s : State) (hk : Kept qq ll s) : Kept qq ll (outageBegins s) := by
  unfold outageBegins
  repeat' first
    | with_reducible assumption
    | split
    | refine Kept.upd ?_ rfl (Nat.le_refl _) (fun h => h) (fun h => h) (fun h => h) (fun h => h)

theorem enterSafe_kept (cause : Nat) (s : State) (hk : Kept qq ll s) : Kept qq ll (enterSafe cause s) := by
  unfold enterSafe
  repeat' first
    | with_reducible assumption
    | lift_lets
    | (intro t; refine kept_have (qq := qq) (ll := ll) (s := t) ?_ (fun _ => ?_); dsimp -zeta only [t]; rotate_left; clear_value t)
    | with_reducible apply safeStreaming_kept
    | with_reducible apply endAllApps_kept
    | with_reducible apply freeAll_kept
    | with_reducible apply outageBegins_kept
    | with_reducible refine kept_ite ?_ ?_
    | refine Kept.upd ?_ rfl (Nat.le_refl _) (fun h => h) (fun h => h) (fun h => h) (fun h => h)

theorem enterService_kept (old : Mode) (s : State) (hk : Kept qq ll s) : Kept qq ll (enterService old s) := by
  unfold enterService
  repeat' first
    | with_reducible assumption
    | with_reducible apply appAutostart_kept
    | with_reducible apply stampPerform_kept
    | with_reducible refine kept_ite ?_ ?_
    | refine Kept.upd ?_ rfl (Nat.le_refl _) (fun h => h) (fun h => h) (fun h => h) (fun h => h)

theorem enterWorkshop_kept (s : State) (hk : Kept qq ll s) : Kept qq ll (enterWorkshop s) := by
  unfold enterWorkshop
  repeat' first
    | with_reducible assumption
    | with_reducible apply setPolling_kept
    | with_reducible apply holdDrovers_kept

theorem startUpEnds_kept (m : Mode) (cause : Nat) (s : State) (hk : Kept qq ll s) : Kept qq ll (startUpEnds m cause s) := by
  unfold startUpEnds
  repeat' first
    | with_reducible assumption
    | with_reducible apply onModes_kept
    | with_reducible apply bootWrite_kept
    | with_reducible refine kept_ite ?_ ?_
    | exact Nat.le_refl _

theorem enterMode_kept (m : Mode) (cause : Nat) (s : State) (hk : Kept qq ll s) : Kept qq ll (enterMode m cause s) := by
  unfold enterMode
  repeat' first
    | with_reducible assumption
    | with_reducible apply onModes_kept
    | with_reducible apply startUpEnds_kept
    | with_reducible apply enterSafe_kept
    | with_reducible apply trapMode_kept
    | with_reducible apply enterService_kept
    | with_reducible apply enterWorkshop_kept
    | with_reducible apply usbSettle_kept
    | with_reducible refine kept_ite ?_ ?_
    | split
    | intro _
    | refine Kept.upd ?_ rfl (Nat.le_refl _) (fun h => h) (fun h => h) (fun h => h) (fun h => h)
    | exact Nat.le_refl _

theorem setNext_kept (m : Mode) (cause : Nat) (due : Nat) (s : State) (hk : Kept qq ll s) : Kept qq ll (setNext m cause due s) := by
  unfold setNext
  repeat' first
    | with_reducible assumption
    | with_reducible apply onModes_kept
    | exact Nat.le_refl _

theorem departNetwork_kept (s : State) (hk : Kept qq ll s) : Kept qq ll (departNetwork s) := by
  unfold departNetwork
  repeat' first
    | with_reducible assumption
    | with_reducible refine kept_foldl (fun _ _ _ => ?_) ?_
    | with_reducible apply declareTalker_kept
    | with_reducible apply emitFrame_kept
    | with_reducible apply declareListener_kept
    | with_reducible refine kept_ite ?_ ?_

theorem endImports_kept (s : State) (hk : Kept qq ll s) : Kept qq ll (endImports s) := by
  unfold endImports
  repeat' first
    | with_reducible assumption
    | with_reducible refine kept_foldl (fun _ _ _ => ?_) ?_
    | with_reducible apply freeObject_kept
    | with_reducible apply setSession_kept
    | with_reducible refine kept_ite ?_ ?_

theorem standbyGo_kept (s : State) (hk : Kept qq ll s) : Kept qq ll (standbyGo s) := by
  unfold standbyGo
  repeat' first
    | with_reducible assumption
    | with_reducible apply endAllApps_kept
    | with_reducible apply departNetwork_kept
    | with_reducible apply resetPort_kept
    | with_reducible apply endImports_kept
    | exact Nat.le_refl _
    | refine Kept.upd ?_ rfl (Nat.le_refl _) (fun h => h) (fun h => h) (fun h => h) (fun h => h)

theorem standbyBegin_kept (cause : Nat) (s : State) (hk : Kept qq ll s) : Kept qq ll (standbyBegin cause s) := by
  unfold standbyBegin
  repeat' first
    | with_reducible assumption
    | with_reducible apply onModes_kept
    | with_reducible apply standbyGo_kept
    | with_reducible apply odSet_kept
    | with_reducible apply setService_kept
    | with_reducible refine kept_ite ?_ ?_
    | exact Nat.le_refl _

theorem modeRequest_kept (v : Nat) (s : State) (hk : Kept qq ll s) : Kept qq ll (modeRequest v s).2 := by
  unfold modeRequest
  split
  · exact hk
  · refine kept_ite_snd hk (kept_ite_snd hk (kept_ite_snd hk ?_))
    have h1 := onModes_kept (fun x => { x with faultN := some (x.life != 5) }) _ (odSet_kept 0xF000 1 v s hk) (Nat.le_refl _)
    exact kept_ite (standbyBegin_kept _ _ h1) (setNext_kept _ _ _ _ h1)

theorem autoMaintain_kept (s : State) (hk : Kept qq ll s) : Kept qq ll (autoMaintain s) := by
  unfold autoMaintain
  repeat' first
    | with_reducible assumption
    | with_reducible apply setNext_kept
    | split

theorem autoPerform_kept (s : State) (hk : Kept qq ll s) : Kept qq ll (autoPerform s) := by
  unfold autoPerform
  repeat' first
    | with_reducible assumption
    | with_reducible apply setNext_kept
    | with_reducible refine kept_ite ?_ ?_

theorem islandsReset_kept (s : State) (hk : Kept qq ll s) : Kept qq ll (islandsReset s) :=
  Kept.upd hk rfl (Nat.le_refl _) (fun _ => Evc.start_claims) (fun _ => rfl) (fun h => h) (fun _ => rfl)

theorem cramLost_kept (s : State) (hk : Kept qq ll s) : Kept qq ll (cramLost s) := by
  unfold cramLost
  repeat' first
    | with_reducible assumption
    | refine Kept.upd ?_ rfl (Nat.le_refl _) (fun h => h) (fun h => h) (by first | exact fun h => h | exact fun _ => rfl) (fun h => h)

theorem alwaysOnCleared_kept (s : State) (hk : Kept qq ll s) : Kept qq ll (alwaysOnCleared s) := by
  unfold alwaysOnCleared
  repeat' first
    | with_reducible assumption
    | refine Kept.upd ?_ rfl (Nat.le_refl _) (fun h => h) (fun h => h) (fun h => h) (fun h => h)

theorem powerLost_kept (s : State) (hk : Kept qq ll s) : Kept qq ll (powerLost s) := by
  unfold powerLost
  repeat' first
    | with_reducible assumption
    | with_reducible apply cramLost_kept
    | with_reducible apply islandsReset_kept
    | refine Kept.upd ?_ rfl (Nat.le_refl _) (fun h => h) (fun h => h) (fun h => h) (fun h => h)

theorem drawNonces_kept (s : State) (hk : Kept qq ll s) : Kept qq ll (drawNonces s) := by
  have h := takeFree_kept _ (takeFree_kept s hk)
  exact ⟨h.pending, h.life, h.claims, ⟨h.mem.dram, h.mem.cram, h.mem.csm⟩⟩

theorem startUp_kept (rails : Bool) (wake : Bool) (cause : Nat) (s : State) (hk : Kept qq ll s) : Kept qq ll (startUp rails wake cause s) := by
  unfold startUp
  repeat' first
    | with_reducible assumption
    | with_reducible apply onModes_kept
    | exact Nat.le_refl _

theorem warmReset_kept (error : Bool) (s : State) (hk : Kept qq ll s) : Kept qq ll (warmReset error s) := by
  unfold warmReset
  repeat' first
    | with_reducible assumption
    | with_reducible apply outageBegins_kept
    | with_reducible apply islandsReset_kept
    | with_reducible refine kept_ite ?_ ?_
    | exact Nat.le_refl _
    | refine Kept.upd ?_ rfl (Nat.le_refl _) (fun h => h) (fun h => h) (fun h => h) (fun h => h)

theorem execPowerUp_kept (s : State) (hk : Kept qq ll s) : KeptOut qq ll (execPowerUp s) := by
  unfold execPowerUp
  repeat' first
    | with_reducible assumption
    | with_reducible refine KeptOut.next ?_
    | with_reducible apply onModes_kept
    | with_reducible apply alwaysOnCleared_kept
    | with_reducible apply drawNonces_kept
    | with_reducible apply startUp_kept
    | with_reducible refine kept_ite ?_ ?_
    | exact Nat.le_refl _

theorem wakeModule_kept (s : State) (hk : Kept qq ll s) : Kept qq ll (wakeModule s) := by
  unfold wakeModule
  refine kept_ite (startUp_kept _ _ _ _ (hk.evc (fun h => ?_))) hk
  split
  · exact evcWake_claims _ h
  · exact Evc.start_claims

theorem execAlwaysOnWake_kept (s : State) (hk : Kept qq ll s) : KeptOut qq ll (execAlwaysOnWake s) := by
  unfold execAlwaysOnWake
  repeat' first
    | with_reducible assumption
    | with_reducible refine KeptOut.next ?_
    | with_reducible apply wakeModule_kept

theorem execPwrEnRise_kept (s : State) (hk : Kept qq ll s) : KeptOut qq ll (execPwrEnRise s) := by
  unfold execPwrEnRise
  repeat' first
    | with_reducible assumption
    | with_reducible refine KeptOut.next ?_
    | with_reducible apply level_kept
    | with_reducible apply onModes_kept
    | with_reducible apply startUp_kept
    | with_reducible refine kept_ite ?_ ?_
    | exact Nat.le_refl _

theorem execPwrEnFall_kept (s : State) (hk : Kept qq ll s) : KeptOut qq ll (execPwrEnFall s) := by
  unfold execPwrEnFall
  repeat' first
    | with_reducible assumption
    | lift_lets
    | with_reducible refine KeptOut.next ?_
    | with_reducible apply level_kept
    | with_reducible apply onModes_kept
    | with_reducible apply standbyBegin_kept
    | split
    | exact Nat.le_refl _

theorem saveCommit_kept (s : State) (hk : Kept qq ll s) : Kept qq ll (saveCommit s) := by
  unfold saveCommit
  repeat' first
    | with_reducible assumption
    | split
    | refine Kept.upd ?_ rfl (Nat.le_refl _) (fun h => h) (fun h => h) (fun h => h) (fun h => h)

theorem standbyEvc_claims {e : Evc} (w : Bool) (h : e.ClaimsOk) : (standbyEvc w e).ClaimsOk := by
  have on : ∀ (n : Nat) (e : Evc), e.ClaimsOk → (evcPut e n { evcSrc e n with en := true, tgt := 1 }).ClaimsOk :=
    fun n e h => h.put (fun a => ⟨a, rfl⟩)
  unfold standbyEvc
  refine evcSleep_claims ?_
  split
  · exact on _ _ (on _ _ h)
  · exact on _ _ h

theorem standbyState_kept (retain : Bool) (cause : Nat) (s : State) (hk : Kept qq ll s) : Kept qq ll (standbyState retain cause s) := by
  have h1 := islandsReset_kept _ (saveCommit_kept s hk)
  have h2 : Kept qq ll (if retain then islandsReset (saveCommit s) else cramLost (islandsReset (saveCommit s))) :=
    kept_ite h1 (cramLost_kept _ h1)
  refine ⟨h2.pending, h2.life, standbyEvc_claims _ ?_, ⟨h2.mem.dram, h2.mem.cram, h2.mem.csm⟩⟩
  split
  · exact hk.claims
  · exact Evc.start_claims

theorem execStandbyEntryDone_kept (s : State) (hk : Kept qq ll s) : KeptOut qq ll (execStandbyEntryDone s) := by
  unfold execStandbyEntryDone
  repeat' first
    | with_reducible assumption
    | with_reducible refine KeptOut.next ?_
    | with_reducible apply standbyState_kept
    | with_reducible refine kept_ite ?_ ?_

theorem execStreamingResumed_kept (s : State) (hk : Kept qq ll s) : KeptOut qq ll (execStreamingResumed s) := by
  unfold execStreamingResumed
  repeat' first
    | with_reducible assumption
    | with_reducible refine KeptOut.next ?_
    | with_reducible apply streamingResumed_kept
    | with_reducible apply standbyGo_kept
    | with_reducible apply autoPerform_kept
    | with_reducible refine kept_ite ?_ ?_

theorem execResetNAssert_kept (s : State) (hk : Kept qq ll s) : KeptOut qq ll (execResetNAssert s) := by
  unfold execResetNAssert
  repeat' first
    | with_reducible assumption
    | with_reducible refine KeptOut.next ?_
    | with_reducible apply islandsReset_kept
    | with_reducible refine kept_ite ?_ ?_
    | exact Nat.le_refl _
    | refine Kept.upd ?_ rfl (Nat.le_refl _) (fun h => h) (fun h => h) (fun h => h) (fun h => h)

theorem execResetNRelease_kept (s : State) (hk : Kept qq ll s) : KeptOut qq ll (execResetNRelease s) := by
  unfold execResetNRelease
  repeat' first
    | with_reducible assumption
    | with_reducible refine KeptOut.next ?_
    | with_reducible refine kept_ite ?_ ?_
    | exact Nat.le_refl _
    | refine Kept.upd ?_ rfl (Nat.le_refl _) (by first | exact fun h => h | exact fun h => h.of_src rfl | exact fun h => h.put (fun a => ⟨a, rfl⟩) | exact (standbyEvc_claims _)) (fun h => h) (fun h => h) (fun h => h)

theorem warmResetWrite_kept (s : State) (hk : Kept qq ll s) : Kept qq ll (warmResetWrite s).2 := by
  unfold warmResetWrite
  repeat' first
    | with_reducible assumption
    | with_reducible apply warmReset_kept

theorem execFatalResetTimer_kept (s : State) (hk : Kept qq ll s) : KeptOut qq ll (execFatalResetTimer s) := by
  unfold execFatalResetTimer
  repeat' first
    | with_reducible assumption
    | with_reducible refine KeptOut.next ?_
    | with_reducible apply warmReset_kept
    | with_reducible apply advance_kept
    | with_reducible refine kept_ite ?_ ?_

theorem execBootLoopGuardClear_kept (s : State) (hk : Kept qq ll s) : KeptOut qq ll (execBootLoopGuardClear s) := by
  unfold execBootLoopGuardClear
  repeat' first
    | with_reducible assumption
    | with_reducible refine KeptOut.next ?_
    | with_reducible apply onModes_kept
    | with_reducible apply advance_kept
    | with_reducible refine kept_ite ?_ ?_
    | split
    | intro _
    | refine Kept.upd ?_ rfl (Nat.le_refl _) (fun h => h) (fun h => h) (fun h => h) (fun h => h)
    | exact Nat.le_refl _

theorem execAlarmExpiry_kept (s : State) (hk : Kept qq ll s) : KeptOut qq ll (execAlarmExpiry s) := by
  unfold execAlarmExpiry
  repeat' first
    | with_reducible assumption
    | with_reducible refine KeptOut.next ?_
    | with_reducible apply fire_kept
    | with_reducible apply onModes_kept
    | with_reducible apply advance_kept
    | with_reducible refine kept_ite ?_ ?_
    | exact Nat.le_refl _

theorem execThermalTrip_kept (s : State) (hk : Kept qq ll s) : KeptOut qq ll (execThermalTrip s) := by
  unfold execThermalTrip
  refine KeptOut.next (kept_ite hk ?_)
  have h := cramLost_kept _ (islandsReset_kept s hk)
  exact ⟨h.pending, h.life, evcSleep_claims hk.claims, ⟨h.mem.dram, h.mem.cram, h.mem.csm⟩⟩

theorem execThermalTripEnd_kept (s : State) (hk : Kept qq ll s) : KeptOut qq ll (execThermalTripEnd s) := by
  unfold execThermalTripEnd
  repeat' first
    | with_reducible assumption
    | with_reducible refine KeptOut.next ?_
    | with_reducible apply startUp_kept
    | with_reducible apply onModes_kept
    | with_reducible refine kept_ite ?_ ?_
    | exact Nat.le_refl _

theorem execVinLockout_kept (s : State) (hk : Kept qq ll s) : KeptOut qq ll (execVinLockout s) := by
  unfold execVinLockout
  repeat' first
    | with_reducible assumption
    | with_reducible refine KeptOut.next ?_
    | with_reducible apply powerLost_kept
    | with_reducible refine kept_ite ?_ ?_
    | exact Nat.le_refl _
    | refine Kept.upd ?_ rfl (Nat.le_refl _) (fun h => h) (fun h => h) (fun h => h) (fun h => h)

theorem execHoldUpEnd_kept (s : State) (hk : Kept qq ll s) : KeptOut qq ll (execHoldUpEnd s) := by
  unfold execHoldUpEnd
  repeat' first
    | with_reducible assumption
    | with_reducible refine KeptOut.next ?_
    | with_reducible apply powerLost_kept
    | with_reducible refine kept_ite ?_ ?_

theorem execSupplyMonitorTick_kept (vin : Nat) (temp : Int) (junction : Int) (power : Nat) (vout : Fin 3) (s : State) (hk : Kept qq ll s) : KeptOut qq ll (execSupplyMonitorTick vin temp junction power vout s) := by
  unfold execSupplyMonitorTick
  repeat' first
    | with_reducible assumption
    | with_reducible refine KeptOut.next ?_
    | with_reducible apply level_kept
    | with_reducible refine kept_ite ?_ ?_
    | refine Kept.upd ?_ rfl (Nat.le_refl _) (fun h => h) (fun h => h) (fun h => h) (fun h => h)

end Sys2Proof.Machine
end

