-- ==== Sys2Proof/Laws/KeptBoot.lean ====
section
/-! SUPPORT. The operations of Machine/Boot.lean keep what Kept names. -/

namespace Sys2Proof.Machine

variable {qq : List Instr} {ll : Nat}

theorem upEnds_kept (x : StartStep) (s : State) (hk : Kept qq ll s) : Kept qq ll (upEnds x s) := by
  unfold upEnds
  repeat' first
    | with_reducible assumption
    | with_reducible apply onModes_kept
    | exact Nat.le_refl _

theorem upFails_kept (row : Nat) (cls : Nat) (cluster : Nat) (s : State) (hk : Kept qq ll s) : Kept qq ll (upFails row cls cluster s) := by
  unfold upFails
  repeat' first
    | with_reducible assumption
    | with_reducible apply logRecord_kept
    | with_reducible apply onModes_kept
    | exact Nat.le_refl _

theorem bootHold_kept (s : State) (hk : Kept qq ll s) : Kept qq ll (bootHold s) := by
  unfold bootHold
  repeat' first
    | with_reducible assumption
    | with_reducible apply onModes_kept
    | with_reducible apply linkDown_kept
    | with_reducible apply standbyBegin_kept
    | with_reducible refine kept_ite ?_ ?_
    | split
    | intro _
    | refine Kept.upd ?_ rfl (Nat.le_refl _) (fun h => h) (fun h => h) (fun h => h) (fun h => h)
    | exact Nat.le_refl _

theorem quarantineAtStart_kept (row : Nat) (c : Nat) (s : State) (hk : Kept qq ll s) : Kept qq ll (quarantineAtStart row c s) := by
  unfold quarantineAtStart
  repeat' first
    | with_reducible assumption
    | with_reducible apply setCluster_kept
    | with_reducible apply upFails_kept
    | with_reducible apply level_kept
    | with_reducible refine kept_ite ?_ ?_

theorem execPowerSequencingDone_kept (us : Nat) (s : State) (hk : Kept qq ll s) : KeptOut qq ll (execPowerSequencingDone us s) := by
  unfold execPowerSequencingDone
  repeat' first
    | with_reducible assumption
    | with_reducible refine KeptOut.next ?_
    | with_reducible apply stampAt_kept
    | with_reducible refine kept_ite ?_ ?_
    | refine Kept.upd ?_ rfl (Nat.le_refl _) (by first | exact fun h => h | exact fun h => h.of_src rfl | exact fun h => h.put (fun a => ⟨a, rfl⟩) | exact evcWake_claims _) (fun h => h) (by first | exact fun h => h | exact fun _ => rfl) (fun h => h)

theorem startGrid_kept (s : State) (hk : Kept qq ll s) : Kept qq ll (startGrid s) := by
  unfold startGrid
  repeat' first
    | with_reducible assumption
    | with_reducible apply fire_kept
    | refine Kept.upd ?_ rfl (Nat.le_refl _) (fun h => h) (fun h => h) (fun h => h) (fun h => h)

theorem execPllLock_kept (us : Nat) (ticks : Nat) (s : State) (hk : Kept qq ll s) : KeptOut qq ll (execPllLock us ticks s) := by
  unfold execPllLock
  repeat' first
    | with_reducible assumption
    | with_reducible refine KeptOut.next ?_
    | with_reducible apply startGrid_kept
    | with_reducible apply stampAt_kept
    | with_reducible refine kept_ite ?_ ?_
    | exact Nat.le_refl _
    | refine Kept.upd ?_ rfl (Nat.le_refl _) (fun h => h) (fun h => h) (fun h => h) (fun h => h)

theorem execStage2LoadDone_kept (t : Nat) (s0 : State) (hk : Kept qq ll s0) : KeptOut qq ll (execStage2LoadDone t s0) := by
  unfold execStage2LoadDone
  repeat' first
    | with_reducible assumption
    | with_reducible refine KeptOut.next ?_
    | with_reducible refine kept_foldl (fun _ _ _ => ?_) ?_
    | with_reducible apply atNs_kept
    | with_reducible apply setDrv_kept
    | with_reducible apply stamp_kept
    | with_reducible apply upEnds_kept
    | with_reducible apply bootHold_kept
    | with_reducible apply onModes_kept
    | with_reducible apply bootWrite_kept
    | with_reducible apply upFails_kept
    | split
    | exact Nat.le_refl _

theorem rollCallEnds_kept (s : State) (hk : Kept qq ll s) : Kept qq ll (rollCallEnds s) := by
  unfold rollCallEnds
  repeat' first
    | with_reducible assumption
    | with_reducible refine kept_foldl (fun _ _ _ => ?_) ?_
    | with_reducible apply upEnds_kept
    | with_reducible apply upFails_kept
    | with_reducible apply bootHold_kept
    | with_reducible apply quarantineAtStart_kept
    | with_reducible refine kept_ite ?_ ?_

theorem execRollCallAnswer_kept (st : Fin 13) (w : BitVec 32) (s : State) (hk : Kept qq ll s) : KeptOut qq ll (execRollCallAnswer st w s) := by
  unfold execRollCallAnswer
  repeat' first
    | with_reducible assumption
    | with_reducible refine KeptOut.next ?_
    | with_reducible apply onModes_kept
    | with_reducible apply rollCallEnds_kept
    | with_reducible refine kept_ite ?_ ?_
    | exact Nat.le_refl _

theorem execRollCallTimeout_kept (s : State) (hk : Kept qq ll s) : KeptOut qq ll (execRollCallTimeout s) := by
  unfold execRollCallTimeout
  repeat' first
    | with_reducible assumption
    | with_reducible refine KeptOut.next ?_
    | with_reducible apply rollCallEnds_kept
    | with_reducible refine kept_ite ?_ ?_

theorem execDramTrainingDone_kept (t : Nat) (ok : Bool) (s0 : State) (hk : Kept qq ll s0) : KeptOut qq ll (execDramTrainingDone t ok s0) := by
  unfold execDramTrainingDone
  repeat' first
    | with_reducible assumption
    | with_reducible refine KeptOut.next ?_
    | with_reducible apply atNs_kept
    | with_reducible apply stamp_kept
    | with_reducible apply upEnds_kept
    | with_reducible apply upFails_kept
    | with_reducible apply bootHold_kept
    | with_reducible refine kept_ite ?_ ?_

theorem execSramInitDone_kept (bad : BitVec 8) (s : State) (hk : Kept qq ll s) : KeptOut qq ll (execSramInitDone bad s) := by
  unfold execSramInitDone
  repeat' first
    | with_reducible assumption
    | with_reducible refine KeptOut.next ?_
    | with_reducible refine kept_foldl (fun _ _ _ => ?_) ?_
    | with_reducible apply upEnds_kept
    | with_reducible apply upFails_kept
    | with_reducible apply bootHold_kept
    | with_reducible apply quarantineAtStart_kept
    | with_reducible refine kept_ite ?_ ?_

theorem memberFails_kept (ty : Nat) (s : State) (hk : Kept qq ll s) : Kept qq ll (memberFails ty s) := by
  unfold memberFails
  repeat' first
    | with_reducible assumption
    | with_reducible apply warmReset_kept
    | with_reducible apply bootWrite_kept
    | with_reducible apply logRecord_kept

theorem execPatchLoadDone_kept (s : State) (hk : Kept qq ll s) : KeptOut qq ll (execPatchLoadDone s) := by
  unfold execPatchLoadDone
  repeat' first
    | with_reducible assumption
    | lift_lets
    | (intro t; refine kept_have (qq := qq) (ll := ll) (s := t) ?_ (fun _ => ?_); dsimp -zeta only [t]; rotate_left; clear_value t)
    | with_reducible refine KeptOut.next ?_
    | with_reducible refine kept_foldl (fun _ _ _ => ?_) ?_
    | with_reducible apply memberFails_kept
    | with_reducible apply upEnds_kept
    | with_reducible apply patchLoad_kept
    | with_reducible apply logRecord_kept
    | with_reducible apply onModes_kept
    | with_reducible apply patchClear_kept
    | with_reducible refine kept_ite ?_ ?_
    | split
    | exact Nat.le_refl _

theorem addDose_kept (s : State) (hk : Kept qq ll s) : Kept qq ll (addDose s) := by
  unfold addDose
  repeat' first
    | with_reducible assumption
    | refine Kept.upd ?_ rfl (Nat.le_refl _) (fun h => h) (fun h => h) (fun h => h) (fun h => h)

theorem execStoreMountDone_kept (t : Nat) (outcome : Fin 3) (s0 : State) (hk : Kept qq ll s0) : KeptOut qq ll (execStoreMountDone t outcome s0) := by
  unfold execStoreMountDone
  repeat' first
    | with_reducible assumption
    | with_reducible refine KeptOut.next ?_
    | with_reducible apply stamp_kept
    | with_reducible apply logRecord_kept
    | split
    | exact Nat.le_refl _
    | refine Kept.upd ?_ rfl (Nat.le_refl _) (fun h => h) (fun h => h) (fun h => h) (fun h => h)

theorem loadDictionary_kept (s : State) (hk : Kept qq ll s) : Kept qq ll (loadDictionary s).2 := by
  unfold loadDictionary
  repeat' first
    | with_reducible assumption
    | with_reducible refine kept_foldl (fun _ _ _ => ?_) ?_
    | refine Kept.upd ?_ rfl (Nat.le_refl _) (fun h => h) (fun h => h) (fun h => h) (fun h => h)

theorem spendAtStart_kept (s : State) (hk : Kept qq ll s) : Kept qq ll (spendAtStart s) := by
  unfold spendAtStart
  repeat' first
    | with_reducible assumption
    | refine Kept.upd ?_ rfl (Nat.le_refl _) (fun h => h) (fun h => h) (fun h => h) (fun h => h)

theorem installLoad_kept (v : View) (rec_ : List (Nat × Nat × Slot)) (s : State) (hk : Kept qq ll s) : Kept qq ll (installLoad v rec_ s) := by
  unfold installLoad
  repeat' first
    | with_reducible assumption
    | with_reducible refine kept_foldl (fun _ _ _ => ?_) ?_
    | with_reducible apply loadPrograms_kept
    | with_reducible refine kept_ite ?_ ?_
    | refine Kept.upd ?_ rfl (Nat.le_refl _) (fun h => h) (fun h => h) (fun h => h) (fun h => h)

theorem execSavedLoadCommit_kept (s : State) (hk : Kept qq ll s) : KeptOut qq ll (execSavedLoadCommit s) := by
  unfold execSavedLoadCommit
  repeat' first
    | with_reducible assumption
    | with_reducible refine KeptOut.next ?_
    | with_reducible apply memberFails_kept
    | with_reducible apply loadDictionary_kept
    | with_reducible apply installLoad_kept
    | with_reducible apply spendAtStart_kept
    | with_reducible apply upFails_kept
    | with_reducible apply admissionRefuse_kept
    | with_reducible apply setNext_kept
    | split

theorem execDroverResetDone_kept (d : Fin 4) (ok : Bool) (s : State) (hk : Kept qq ll s) : KeptOut qq ll (execDroverResetDone d ok s) := by
  unfold execDroverResetDone
  repeat' first
    | with_reducible assumption
    | with_reducible refine KeptOut.next ?_
    | with_reducible apply takeFree_kept
    | with_reducible apply setDrv_kept
    | with_reducible apply logRecord_kept
    | with_reducible refine kept_ite ?_ ?_

theorem onUpd_kept (f : Update → Update) (s : State) (hk : Kept qq ll s) : Kept qq ll (onUpd f s) := by
  unfold onUpd
  repeat' first
    | with_reducible assumption
    | with_reducible apply onModes_kept
    | exact Nat.le_refl _

theorem putPkg_kept (i : Nat) (b : Bytes) (s : State) (hk : Kept qq ll s) : Kept qq ll (putPkg i b s) := by
  unfold putPkg
  repeat' first
    | with_reducible assumption
    | with_reducible apply onModes_kept
    | exact Nat.le_refl _

theorem fwSegment_kept (off : Nat) (v : Bytes) (s : State) (hk : Kept qq ll s) : Kept qq ll (fwSegment off v s).2 := by
  unfold fwSegment
  repeat' first
    | with_reducible assumption
    | with_reducible apply onUpd_kept
    | with_reducible apply putPkg_kept
    | with_reducible refine kept_ite_snd ?_ ?_

theorem fwVerify_kept (s : State) (hk : Kept qq ll s) : Kept qq ll (fwVerify s).2 := by
  unfold fwVerify
  repeat' first
    | with_reducible assumption
    | with_reducible apply onUpd_kept
    | with_reducible refine kept_ite_snd ?_ ?_

theorem execFwVerifyDone_kept (s : State) (hk : Kept qq ll s) : KeptOut qq ll (execFwVerifyDone s) := by
  unfold execFwVerifyDone
  repeat' first
    | with_reducible assumption
    | with_reducible refine KeptOut.next ?_
    | with_reducible apply onUpd_kept
    | with_reducible refine kept_ite ?_ ?_

theorem fwPending_kept (s : State) (hk : Kept qq ll s) : Kept qq ll (fwPending s).2 := by
  unfold fwPending
  repeat' first
    | with_reducible assumption
    | with_reducible apply onUpd_kept
    | with_reducible apply bootWrite_kept
    | with_reducible refine kept_ite_snd ?_ ?_

theorem moveRoles_kept (d : Nat) (s : State) (hk : Kept qq ll s) : Kept qq ll (moveRoles d s) := by
  unfold moveRoles
  repeat' first
    | with_reducible assumption
    | with_reducible apply onModes_kept
    | split
    | exact Nat.le_refl _

theorem restartDrover_kept (d : Nat) (s : State) (hk : Kept qq ll s) : Kept qq ll (restartDrover d s) := by
  unfold restartDrover
  repeat' first
    | with_reducible assumption
    | with_reducible apply moveRoles_kept
    | with_reducible refine kept_ite ?_ ?_
    | refine Kept.upd ?_ rfl (Nat.le_refl _) (by first | exact fun h => h | exact fun h => h.of_src rfl | exact fun h => h.put (fun a => ⟨a, rfl⟩) | exact evcRelease_claims _) (fun h => h) (fun h => h) (fun h => h)

theorem droverBack_kept (d : Nat) (s : State) (hk : Kept qq ll s) : Kept qq ll (droverBack d s) := by
  unfold droverBack
  repeat' first
    | with_reducible assumption
    | with_reducible apply takeFree_kept
    | with_reducible apply updDrv_kept

theorem activationEnds_kept (s : State) (hk : Kept qq ll s) : Kept qq ll (activationEnds s) := by
  unfold activationEnds
  repeat' first
    | with_reducible assumption
    | with_reducible apply onModes_kept
    | with_reducible apply updDrv_kept
    | with_reducible apply standbyBegin_kept
    | with_reducible refine kept_ite ?_ ?_
    | exact Nat.le_refl _

theorem fwHitless_kept (s : State) (hk : Kept qq ll s) : Kept qq ll (fwHitless s).2 := by
  unfold fwHitless
  repeat' first
    | with_reducible assumption
    | with_reducible apply restartDrover_kept
    | with_reducible apply onUpd_kept
    | with_reducible refine kept_ite_snd ?_ ?_

theorem execDroverRestartReady_kept (d : Fin 4) (s : State) (hk : Kept qq ll s) : KeptOut qq ll (execDroverRestartReady d s) := by
  unfold execDroverRestartReady
  repeat' first
    | with_reducible assumption
    | with_reducible refine KeptOut.next ?_
    | with_reducible apply onModes_kept
    | with_reducible apply droverBack_kept
    | with_reducible apply restartDrover_kept
    | with_reducible apply activationEnds_kept
    | with_reducible apply bootWrite_kept
    | split
    | exact Nat.le_refl _

theorem execActivationReadyTimeout_kept (s : State) (hk : Kept qq ll s) : KeptOut qq ll (execActivationReadyTimeout s) := by
  unfold execActivationReadyTimeout
  repeat' first
    | with_reducible assumption
    | with_reducible refine KeptOut.next ?_
    | with_reducible refine kept_foldl (fun _ _ _ => ?_) ?_
    | with_reducible apply droverBack_kept
    | with_reducible apply updDrv_kept
    | with_reducible apply logRecord_kept
    | with_reducible apply activationEnds_kept
    | with_reducible apply onUpd_kept
    | split

theorem rollbackConfirm_kept (s : State) (hk : Kept qq ll s) : Kept qq ll (rollbackConfirm s).2 := by
  unfold rollbackConfirm
  repeat' first
    | with_reducible assumption
    | with_reducible apply onModes_kept
    | with_reducible refine kept_ite_snd ?_ ?_
    | exact Nat.le_refl _

theorem updStatus_kept (r : Status × State) (hk : Kept qq ll r.2) : Kept qq ll (updStatus r).2 := by
  show Kept qq ll (onUpd (fun u => { u with status := r.1.code }) r.2)
  exact onUpd_kept _ _ hk

theorem drawNonce_kept (s : State) (hk : Kept qq ll s) : Kept qq ll (drawNonce s) := by
  unfold drawNonce
  repeat' first
    | with_reducible assumption
    | with_reducible apply takeFree_kept
    | with_reducible apply onModes_kept
    | exact Nat.le_refl _

theorem tokenWrite_kept (b : Bytes) (s : State) (hk : Kept qq ll s) : Kept qq ll (tokenWrite b s).2 := by
  unfold tokenWrite
  repeat' first
    | with_reducible assumption
    | with_reducible apply drawNonce_kept
    | with_reducible apply onModes_kept
    | exact Nat.le_refl _

theorem lifeMove_forward {l v : Nat} {b : Bool} (h : lifeMove l v = some b) : l ≤ v := by
  unfold lifeMove at h
  split at h <;> first | omega | exact absurd h (by simp)

theorem lifeRequest_kept (v : Nat) (s : State) (hk : Kept qq ll s) : Kept qq ll (lifeRequest v s).2 := by
  unfold lifeRequest
  refine kept_ite_snd hk ?_
  split
  · exact hk
  · rename_i h
    dsimp only
    refine kept_ite_snd ?_ ?_
    · dsimp only
      refine onModes_kept _ s hk ?_
      exact Nat.le_refl _
    · dsimp only
      refine onModes_kept _ s hk ?_
      exact lifeMove_forward h

theorem execLifeCycleEraseDone_kept (s : State) (hk : Kept qq ll s) : KeptOut qq ll (execLifeCycleEraseDone s) := by
  unfold execLifeCycleEraseDone
  repeat' first
    | with_reducible assumption
    | with_reducible refine KeptOut.next ?_
    | with_reducible apply warmReset_kept
    | with_reducible refine kept_ite ?_ ?_
    | refine Kept.upd ?_ rfl (Nat.le_refl _) (fun h => h) (fun h => h) (fun h => h) (fun h => h)

theorem customerKeyWrite_kept (k : Nat) (b : Bytes) (s : State) (hk : Kept qq ll s) : Kept qq ll (customerKeyWrite k b s).2 := by
  unfold customerKeyWrite
  repeat' first
    | with_reducible assumption
    | with_reducible refine kept_ite_snd ?_ ?_
    | refine Kept.upd ?_ rfl (Nat.le_refl _) (fun h => h) (fun h => h) (fun h => h) (fun h => h)

end Sys2Proof.Machine
end

