-- ==== Sys2Proof/Laws/KeptService.lean ====
section
/-! SUPPORT. The operations of Machine/Service.lean keep what Kept names. -/

namespace Sys2Proof.Machine

variable {qq : List Instr} {ll : Nat}

theorem onTest_kept (f : TestSt → TestSt) (s : State) (hk : Kept qq ll s) : Kept qq ll (onTest f s) := by
  unfold onTest
  repeat' first
    | with_reducible assumption
    | refine Kept.upd ?_ rfl (Nat.le_refl _) (fun h => h) (fun h => h) (fun h => h) (fun h => h)

theorem updCluster_kept (s : State) (c : Nat) (f : ClusterSt → ClusterSt) (hk : Kept qq ll s) : Kept qq ll (updCluster s c f) := by
  unfold updCluster
  repeat' first
    | with_reducible assumption
    | with_reducible apply setCluster_kept

theorem pollCluster_kept (c : Nat) (on : Bool) (s : State) (hk : Kept qq ll s) : Kept qq ll (pollCluster c on s) := by
  unfold pollCluster
  repeat' first
    | with_reducible assumption
    | with_reducible refine kept_foldl (fun _ _ _ => ?_) ?_
    | with_reducible apply updLvu_kept

theorem spendReserve_kept (s : State) (hk : Kept qq ll s) : Kept qq ll (spendReserve s) := by
  unfold spendReserve
  repeat' first
    | with_reducible assumption
    | with_reducible refine kept_ite ?_ ?_
    | split
    | refine Kept.upd ?_ rfl (Nat.le_refl _) (fun h => h) (fun h => h) (fun h => h) (fun h => h)

theorem commitMoves_kept (c f : Nat) (s : State) (hk : Kept qq ll s) : Kept qq ll (commitMoves c f s) := by
  induction f generalizing s with
  | zero => exact hk
  | succ f ih =>
    unfold commitMoves
    split
    · exact hk
    · refine kept_ite hk (ih _ (updCluster_kept _ _ _ (firmwarePut_kept _ _ hk)))

theorem reserveBack_kept (s : State) (hk : Kept qq ll s) : Kept qq ll (reserveBack s) := by
  unfold reserveBack
  repeat' first
    | with_reducible assumption
    | with_reducible apply admissionRefuse_kept
    | split
    | refine Kept.upd ?_ rfl (Nat.le_refl _) (fun h => h) (fun h => h) (fun h => h) (fun h => h)

theorem reloadPatch_kept (k : Nat) (s : State) (hk : Kept qq ll s) : Kept qq ll (reloadPatch k s).2 := by
  unfold reloadPatch
  repeat' first
    | with_reducible assumption
    | with_reducible apply patchLoad_kept
    | with_reducible apply logRecord_kept
    | with_reducible refine kept_ite_snd ?_ ?_
    | split

theorem kept_foldl_snd {α β : Type} {f : β × State → α → β × State} {as : List α} {x : β × State}
    (hf : ∀ x a, Kept qq ll x.2 → Kept qq ll (f x a).2) (h : Kept qq ll x.2) : Kept qq ll (as.foldl f x).2 := by
  induction as generalizing x with
  | nil => exact h
  | cons a as ih => exact ih (hf x a h)

theorem reloadPatches_kept (c : Nat) (s : State) (hk : Kept qq ll s) : Kept qq ll (reloadPatches c s).2 := by
  unfold reloadPatches
  exact kept_foldl_snd (fun x a h => reloadPatch_kept a x.2 h) hk

theorem wf_foldl_put {t : Tbl (BitVec 24)} (es : Tbl (BitVec 24)) (h : Tbl.wf 0 t = true) :
    Tbl.wf 0 (es.foldl (fun t e => Tbl.put 0 t e.1 e.2) t) = true := by
  induction es generalizing t with
  | nil => exact h
  | cons e es ih => exact ih (Tbl.wf_put _ _ h)

theorem restoreCluster_kept (c : Nat) (s : State) (hk : Kept qq ll s) : Kept qq ll (restoreCluster c s).2 := by
  unfold restoreCluster
  split
  · exact hk
  · rename_i kept _
    extract_lets s1 r
    have h1 : Kept qq ll s1 := ⟨hk.pending, hk.life, hk.claims, ⟨hk.mem.dram, hk.mem.cram, wf_foldl_put kept hk.mem.csm⟩⟩
    have hr : Kept qq ll r.2 := reloadPatches_kept _ _ (kept_foldl (fun _ _ h => loadPrograms_kept _ _ h) h1)
    clear_value r
    with_reducible apply updCluster_kept
    exact hr

theorem clusterBack_kept (c : Nat) (s : State) (hk : Kept qq ll s) : Kept qq ll (clusterBack c s) := by
  unfold clusterBack
  repeat' first
    | with_reducible assumption
    | with_reducible apply autoPerform_kept
    | with_reducible apply reserveBack_kept
    | with_reducible apply fire_kept
    | with_reducible apply level_kept
    | with_reducible refine kept_ite ?_ ?_
    | refine Kept.upd ?_ rfl (Nat.le_refl _) (fun h => h) (fun h => h) (fun h => h) (fun h => h)

theorem returnStep_kept (c : Nat) (s : State) (hk : Kept qq ll s) : Kept qq ll (returnStep c s) := by
  unfold returnStep
  repeat' first
    | with_reducible assumption
    | lift_lets
    | (intro t; refine kept_have (qq := qq) (ll := ll) (s := t) ?_ (fun _ => ?_); dsimp -zeta only [t]; rotate_left; clear_value t)
    | (intro t; refine kept_have (qq := qq) (ll := ll) (s := t.2) ?_ (fun _ => ?_); dsimp -zeta only [t]; rotate_left; clear_value t)
    | with_reducible apply restoreCluster_kept
    | with_reducible apply updCluster_kept
    | with_reducible apply passEnds_kept
    | with_reducible apply commitMoves_kept
    | with_reducible apply clusterBack_kept
    | split

theorem returnBegin_kept (c : Nat) (s : State) (hk : Kept qq ll s) : Kept qq ll (returnBegin c s) := by
  unfold returnBegin
  repeat' first
    | with_reducible assumption
    | with_reducible apply returnStep_kept
    | with_reducible apply updCluster_kept

theorem sliceBegin_kept (c : Nat) (i : Nat) (s : State) (hk : Kept qq ll s) : Kept qq ll (sliceBegin c i s) := by
  unfold sliceBegin
  repeat' first
    | with_reducible assumption
    | with_reducible apply onTest_kept

theorem slicesBegin_kept (c : Nat) (s : State) (hk : Kept qq ll s) : Kept qq ll (slicesBegin c s) := by
  unfold slicesBegin
  repeat' first
    | with_reducible assumption
    | with_reducible apply sliceBegin_kept
    | with_reducible apply pollCluster_kept
    | with_reducible apply updCluster_kept

theorem itemBegins_kept (s : State) (hk : Kept qq ll s) : Kept qq ll (itemBegins s) := by
  unfold itemBegins
  repeat' first
    | with_reducible assumption
    | with_reducible apply linkDown_kept
    | with_reducible refine kept_ite ?_ ?_
    | split

theorem itemEnds_kept (result : Nat) (s : State) (hk : Kept qq ll s) : Kept qq ll (itemEnds result s) := by
  unfold itemEnds
  split
  · exact hk
  · rename_i i rest _
    have h1 := itemBegins_kept _ (onTest_kept (fun t => { t with item := Tbl.put 0 t.item i result, items := rest, full := if rest = [] then 2 else t.full }) s hk)
    refine kept_ite (populateHeads_kept _ ?_) (kept_ite ?_ h1)
    · exact ⟨h1.pending, h1.life, h1.claims, ⟨rfl, h1.mem.cram, h1.mem.csm⟩⟩
    · exact ⟨h1.pending, h1.life, h1.claims, ⟨h1.mem.dram, h1.mem.cram, h1.mem.csm⟩⟩

theorem slicesEnd_kept (c : Nat) (s : State) (hk : Kept qq ll s) : Kept qq ll (slicesEnd c s) := by
  unfold slicesEnd
  repeat' first
    | with_reducible assumption
    | with_reducible apply reloadPatches_kept
    | with_reducible apply itemEnds_kept
    | with_reducible apply returnBegin_kept
    | with_reducible apply setCluster_kept
    | with_reducible refine kept_ite ?_ ?_
    | split
    | intro _
    | refine Kept.upd ?_ rfl (Nat.le_refl _) (fun h => h) (fun h => h) (fun h => h) (fun h => h)

theorem repairBegin_kept (c : Nat) (s : State) (hk : Kept qq ll s) : Kept qq ll (repairBegin c s) := by
  unfold repairBegin
  repeat' first
    | with_reducible assumption
    | with_reducible apply reloadPatches_kept
    | with_reducible apply updCluster_kept
    | with_reducible apply slicesBegin_kept
    | with_reducible refine kept_ite ?_ ?_

theorem sliceNext_kept (c : Nat) (i : Nat) (failed : Bool) (s : State) (hk : Kept qq ll s) : Kept qq ll (sliceNext c i failed s) := by
  unfold sliceNext
  repeat' first
    | with_reducible assumption
    | with_reducible apply onTest_kept
    | with_reducible apply sliceBegin_kept
    | with_reducible apply slicesEnd_kept
    | with_reducible apply repairBegin_kept
    | with_reducible apply passEnds_kept
    | with_reducible refine kept_ite ?_ ?_

theorem sliceFails_kept (c : Nat) (i : Nat) (w : BitVec 32) (s : State) (hk : Kept qq ll s) : Kept qq ll (sliceFails c i w s) := by
  unfold sliceFails
  repeat' first
    | with_reducible assumption
    | with_reducible apply onTest_kept
    | with_reducible apply sliceNext_kept
    | with_reducible apply logRecord_kept

theorem putResult_kept (c : Nat) (i : Nat) (w : BitVec 32) (s : State) (hk : Kept qq ll s) : Kept qq ll (putResult c i w s) := by
  unfold putResult
  repeat' first
    | with_reducible assumption
    | with_reducible apply onTest_kept

theorem sliceClears_kept (c : Nat) (i : Nat) (s : State) (hk : Kept qq ll s) : Kept qq ll (sliceClears c i s) := by
  unfold sliceClears
  repeat' first
    | with_reducible assumption
    | with_reducible refine kept_ite ?_ ?_
    | refine Kept.upd ?_ rfl (Nat.le_refl _) (fun h => h) (fun h => h) (fun h => h) (by first | exact fun h => h | exact Tbl.wf_clear _ _)

theorem sliceJudged_kept (c : Nat) (applied : BitVec 32) (expected : BitVec 32) (sig : BitVec 32) (expSig : BitVec 32) (us : Nat) (bad : List Nat) (s : State) (hk : Kept qq ll s) : Kept qq ll (sliceJudged c applied expected sig expSig us bad s) := by
  unfold sliceJudged
  repeat' first
    | with_reducible assumption
    | with_reducible refine kept_foldl (fun _ _ _ => ?_) ?_
    | with_reducible apply onTest_kept
    | with_reducible apply sliceClears_kept
    | with_reducible apply putResult_kept
    | with_reducible apply sliceNext_kept
    | with_reducible apply fire_kept
    | with_reducible apply sliceFails_kept
    | with_reducible refine kept_ite ?_ ?_
    | split
    | intro _
    | refine Kept.upd ?_ rfl (Nat.le_refl _) (fun h => h) (fun h => h) (fun h => h) (fun h => h)

theorem sliceExpires_kept (c : Nat) (s0 : State) (hk : Kept qq ll s0) : Kept qq ll (sliceExpires c s0) := by
  unfold sliceExpires
  repeat' first
    | with_reducible assumption
    | with_reducible refine kept_foldl (fun _ _ _ => ?_) ?_
    | with_reducible apply onTest_kept
    | with_reducible apply updLvu_kept
    | with_reducible apply putResult_kept
    | with_reducible apply sliceFails_kept
    | with_reducible refine kept_ite ?_ ?_
    | split
    | intro _
    | refine Kept.upd ?_ rfl (Nat.le_refl _) (fun h => h) (fun h => h) (fun h => h) (fun h => h)

theorem sliceDone_kept (c : Nat) (applied : BitVec 32) (expected : BitVec 32) (sig : BitVec 32) (expSig : BitVec 32) (us : Nat) (bad : List Nat) (s : State) (hk : Kept qq ll s) : Kept qq ll (sliceDone c applied expected sig expSig us bad s) := by
  unfold sliceDone
  repeat' first
    | with_reducible assumption
    | with_reducible apply sliceExpires_kept
    | with_reducible apply sliceJudged_kept
    | with_reducible refine kept_ite ?_ ?_
    | split

theorem drainStep_kept (c : Nat) (s : State) (hk : Kept qq ll s) : Kept qq ll (drainStep c s) := by
  unfold drainStep
  repeat' first
    | with_reducible assumption
    | with_reducible apply commitMoves_kept
    | with_reducible apply slicesBegin_kept
    | with_reducible apply onTest_kept
    | with_reducible apply setCluster_kept
    | with_reducible apply spendReserve_kept
    | with_reducible refine kept_ite ?_ ?_
    | split
    | intro _
    | refine Kept.upd ?_ rfl (Nat.le_refl _) (fun h => h) (fun h => h) (fun h => h) (fun h => h)

theorem passBegin_kept (c : Nat) (s : State) (hk : Kept qq ll s) : Kept qq ll (passBegin c s) := by
  unfold passBegin
  repeat' first
    | with_reducible assumption
    | with_reducible apply drainStep_kept
    | with_reducible apply autoMaintain_kept
    | refine Kept.upd ?_ rfl (Nat.le_refl _) (fun h => h) (fun h => h) (fun h => h) (fun h => h)

theorem testNow_kept (c : Nat) (s : State) (hk : Kept qq ll s) : Kept qq ll (testNow c s).2 := by
  unfold testNow
  repeat' first
    | with_reducible assumption
    | with_reducible apply passBegin_kept
    | with_reducible refine kept_ite_snd ?_ ?_

theorem repairAgain_kept (c : Nat) (s : State) (hk : Kept qq ll s) : Kept qq ll (repairAgain c s).2 := by
  unfold repairAgain
  repeat' first
    | with_reducible assumption
    | with_reducible apply updCluster_kept
    | with_reducible refine kept_ite_snd ?_ ?_

theorem passCut_kept (d : Nat) (s : State) (hk : Kept qq ll s) : Kept qq ll (passCut d s) := by
  unfold passCut
  repeat' first
    | with_reducible assumption
    | with_reducible apply restoreCluster_kept
    | with_reducible apply passEnds_kept
    | with_reducible apply sliceStop_kept
    | refine Kept.upd ?_ rfl (Nat.le_refl _) (fun h => h) (fun h => h) (fun h => h) (fun h => h)

theorem quarantineNow_kept (c : Nat) (s : State) (hk : Kept qq ll s) : Kept qq ll (quarantineNow c s) := by
  unfold quarantineNow
  repeat' first
    | with_reducible assumption
    | with_reducible refine kept_foldl (fun _ _ _ => ?_) ?_
    | with_reducible apply freeContext_kept
    | with_reducible apply passEnds_kept
    | with_reducible apply autoMaintain_kept
    | with_reducible apply level_kept
    | with_reducible apply passCut_kept
    | with_reducible refine kept_ite ?_ ?_
    | refine Kept.upd ?_ rfl (Nat.le_refl _) (fun h => h) (fun h => h) (fun h => h) (fun h => h)

theorem quarantineSeal_kept (s : State) (hk : Kept qq ll s) : Kept qq ll (quarantineSeal s) := by
  unfold quarantineSeal
  repeat' first
    | with_reducible assumption
    | with_reducible refine kept_foldl (fun _ _ _ => ?_) ?_
    | with_reducible apply quarantineNow_kept
    | with_reducible refine kept_ite ?_ ?_

theorem restartOver_kept (c : Nat) (s : State) (hk : Kept qq ll s) : Kept qq ll (restartOver c s) := by
  unfold restartOver
  repeat' first
    | with_reducible assumption
    | with_reducible refine kept_ite ?_ ?_
    | refine Kept.upd ?_ rfl (Nat.le_refl _) (fun h => h) (fun h => h) (fun h => h) (fun h => h)

theorem restartCommit_kept (c : Nat) (s : State) (hk : Kept qq ll s) : Kept qq ll (restartCommit c s) := by
  unfold restartCommit
  repeat' first
    | with_reducible assumption
    | with_reducible apply restartOver_kept
    | with_reducible apply firmwarePut_kept
    | with_reducible refine kept_ite ?_ ?_
    | split

theorem restartCtx_kept (r0 : StartRec) (s : State) (hk : Kept qq ll s) : Kept qq ll (restartCtx r0 s) := by
  unfold restartCtx
  repeat' first
    | with_reducible assumption
    | refine Kept.upd ?_ rfl (Nat.le_refl _) (fun h => h) (fun h => h) (fun h => h) (fun h => h)

theorem poisonedLeave_kept (s : State) (hk : Kept qq ll s) : Kept qq ll (poisonedLeave s) := by
  unfold poisonedLeave
  refine kept_foldl (fun s n h => ?_) hk
  have h1 := freeContext_kept n s h
  dsimp only
  split
  · exact restartCtx_kept _ _ h1
  · exact h1

theorem firmwareApplied_kept (m : Manifest) (moved : List (Nat × Nat × Slot)) (s : State) (hk : Kept qq ll s) : Kept qq ll (firmwareApplied m moved s) := by
  unfold firmwareApplied
  repeat' first
    | with_reducible assumption
    | with_reducible refine kept_foldl (fun _ _ _ => ?_) ?_
    | with_reducible apply restartOver_kept
    | with_reducible apply drainStep_kept
    | with_reducible apply fire_kept
    | with_reducible apply returnStep_kept
    | with_reducible refine kept_ite ?_ ?_
    | split
    | refine Kept.upd ?_ rfl (Nat.le_refl _) (fun h => h) (fun h => h) (fun h => h) (fun h => h)

theorem firmwareAborted_kept (m : Manifest) (s : State) (hk : Kept qq ll s) : Kept qq ll (firmwareAborted m s) := by
  unfold firmwareAborted
  repeat' first
    | with_reducible assumption
    | with_reducible apply passEnds_kept
    | with_reducible apply setCluster_kept
    | with_reducible apply returnStep_kept
    | with_reducible refine kept_ite ?_ ?_
    | split

theorem serviceEdge_kept (s : State) (hk : Kept qq ll s) : Kept qq ll (serviceEdge s) := by
  unfold serviceEdge
  repeat' first
    | with_reducible assumption
    | with_reducible refine kept_foldl (fun _ _ _ => ?_) ?_
    | with_reducible apply returnStep_kept
    | with_reducible apply drainStep_kept
    | with_reducible apply repairBegin_kept
    | with_reducible refine kept_ite ?_ ?_

theorem repairsAfterStart_kept (s : State) (hk : Kept qq ll s) : Kept qq ll (repairsAfterStart s) := by
  unfold repairsAfterStart
  repeat' first
    | with_reducible assumption
    | with_reducible refine kept_foldl (fun _ _ _ => ?_) ?_
    | with_reducible apply updCluster_kept

theorem execTestPassTimer_kept (s : State) (hk : Kept qq ll s) : KeptOut qq ll (execTestPassTimer s) := by
  unfold execTestPassTimer
  repeat' first
    | with_reducible assumption
    | with_reducible refine KeptOut.next ?_
    | with_reducible apply passBegin_kept
    | with_reducible refine kept_ite ?_ ?_

theorem execSliceDone_kept (c : Fin 8) (applied : BitVec 32) (expected : BitVec 32) (sig : BitVec 32) (expSig : BitVec 32) (us : Nat) (bad : List (Fin 256)) (s : State) (hk : Kept qq ll s) : KeptOut qq ll (execSliceDone c applied expected sig expSig us bad s) := by
  unfold execSliceDone
  repeat' first
    | with_reducible assumption
    | with_reducible refine KeptOut.next ?_
    | with_reducible apply sliceDone_kept

theorem execSliceBudgetExpiry_kept (c : Fin 8) (s : State) (hk : Kept qq ll s) : KeptOut qq ll (execSliceBudgetExpiry c s) := by
  unfold execSliceBudgetExpiry
  repeat' first
    | with_reducible assumption
    | with_reducible refine KeptOut.next ?_
    | with_reducible apply sliceExpires_kept

theorem execQuarantineRestartCommit_kept (c : Fin 8) (s : State) (hk : Kept qq ll s) : KeptOut qq ll (execQuarantineRestartCommit c s) := by
  unfold execQuarantineRestartCommit
  repeat' first
    | with_reducible assumption
    | with_reducible refine KeptOut.next ?_
    | with_reducible apply restartCommit_kept

end Sys2Proof.Machine
end

