-- ==== Sys2Proof/Laws/KeptCare.lean ====
section
/-! SUPPORT. The operations of Machine/Care.lean keep what Kept names. -/

namespace Sys2Proof.Machine

variable {qq : List Instr} {ll : Nat}

theorem execRecordArchive_kept (s : State) (hk : Kept qq ll s) : KeptOut qq ll (execRecordArchive s) := by
  unfold execRecordArchive
  repeat' first
    | with_reducible assumption
    | with_reducible refine KeptOut.next ?_
    | refine Kept.upd ?_ rfl (Nat.le_refl _) (fun h => h) (fun h => h) (fun h => h) (fun h => h)

theorem logClear_kept (s : State) (hk : Kept qq ll s) : Kept qq ll (logClear s).2 := by
  unfold logClear
  repeat' first
    | with_reducible assumption
    | with_reducible refine kept_ite_snd ?_ ?_
    | refine Kept.upd ?_ rfl (Nat.le_refl _) (fun h => h) (fun h => h) (fun h => h) (fun h => h)

theorem dramFails_kept (a : Nat) (s : State) (hk : Kept qq ll s) : Kept qq ll (dramFails a s) := by
  unfold dramFails
  repeat' first
    | with_reducible assumption
    | with_reducible apply dramRecord_kept
    | with_reducible apply endSession_kept
    | with_reducible refine kept_ite ?_ ?_
    | split
    | refine Kept.upd ?_ rfl (Nat.le_refl _) (fun h => h) (fun h => h) (fun h => h) (fun h => h)

theorem scrubRecord_kept (id : Nat) (bank : Nat) (p : Nat) (cluster : Nat) (unit : Nat) (s : State) (hk : Kept qq ll s) : Kept qq ll (scrubRecord id bank p cluster unit s) := by
  unfold scrubRecord
  repeat' first
    | with_reducible assumption
    | with_reducible apply logRecord_kept

theorem scrubBad_kept (id : Nat) (unit : Nat) (bank : Nat) (addr : Nat) (s : State) (hk : Kept qq ll s) : Kept qq ll (scrubBad id unit bank addr s) := by
  unfold scrubBad
  repeat' first
    | with_reducible assumption
    | with_reducible apply scrubRecord_kept
    | with_reducible apply logRecord_kept
    | with_reducible apply cramRecord_kept
    | with_reducible apply dramFails_kept
    | split
    | refine Kept.upd ?_ rfl (Nat.le_refl _) (fun h => h) (fun h => h) (fun h => h) (fun h => h)

theorem scrubGood_kept (id : Nat) (unit : Nat) (addr : Nat) (s : State) (hk : Kept qq ll s) : Kept qq ll (scrubGood id unit addr s) := by
  unfold scrubGood
  repeat' first
    | with_reducible assumption
    | with_reducible apply logCorrected_kept
    | with_reducible apply lcsCorrected_kept
    | with_reducible apply updLvu_kept
    | with_reducible apply logCorrectedAt_kept
    | split
    | intro _
    | refine Kept.upd ?_ rfl (Nat.le_refl _) (fun h => h) (fun h => h) (fun h => h) (fun h => h)

theorem execMemoryScrub_kept (id : Fin 14) (unit : Nat) (bank : Nat) (addr : Nat) (bits : Fin 3) (s : State) (hk : Kept qq ll s) : KeptOut qq ll (execMemoryScrub id unit bank addr bits s) := by
  unfold execMemoryScrub
  repeat' first
    | with_reducible assumption
    | with_reducible refine KeptOut.next ?_
    | with_reducible apply scrubGood_kept
    | with_reducible apply scrubBad_kept
    | with_reducible refine kept_ite ?_ ?_
    | split

theorem selftestRun_kept (mask : Nat) (s : State) (hk : Kept qq ll s) : Kept qq ll (selftestRun mask s).2 := by
  unfold selftestRun
  repeat' first
    | with_reducible assumption
    | with_reducible refine kept_foldl (fun _ _ _ => ?_) ?_
    | with_reducible refine kept_foldl_fst (fun _ _ _ => ?_) ?_
    | with_reducible apply itemBegins_kept
    | with_reducible apply onTest_kept
    | with_reducible apply odSet_kept
    | with_reducible apply sliceBegin_kept
    | with_reducible apply pollCluster_kept
    | with_reducible refine kept_ite_snd ?_ ?_
    | with_reducible refine kept_ite ?_ ?_
    | split
    | intro _
    | refine Kept.upd ?_ rfl (Nat.le_refl _) (fun h => h) (fun h => h) (fun h => h) (fun h => h)

theorem execSelftestItemDone_kept (i : Fin 8) (result : Fin 3) (s : State) (hk : Kept qq ll s) : KeptOut qq ll (execSelftestItemDone i result s) := by
  unfold execSelftestItemDone
  repeat' first
    | with_reducible assumption
    | with_reducible refine KeptOut.next ?_
    | with_reducible apply itemEnds_kept
    | with_reducible refine kept_ite ?_ ?_

theorem selftestAbort_kept (s : State) (hk : Kept qq ll s) : Kept qq ll (selftestAbort s).2 := by
  unfold selftestAbort
  repeat' first
    | with_reducible assumption
    | with_reducible refine kept_foldl (fun _ _ _ => ?_) ?_
    | with_reducible apply sliceStop_kept
    | with_reducible apply onTest_kept
    | with_reducible refine kept_ite_snd ?_ ?_

theorem storeAction_kept (a : Nat) (s : State) (hk : Kept qq ll s) : Kept qq ll (storeAction a s).2 := by
  unfold storeAction
  repeat' first
    | with_reducible assumption
    | with_reducible refine kept_foldl (fun _ _ _ => ?_) ?_
    | with_reducible refine kept_foldl_fst (fun _ _ _ => ?_) ?_
    | with_reducible apply onTest_kept
    | with_reducible apply eraseEnds_kept
    | with_reducible apply retireBlock_kept
    | with_reducible refine kept_ite_snd ?_ ?_
    | with_reducible refine kept_ite ?_ ?_
    | split
    | intro _
    | refine Kept.upd ?_ rfl (Nat.le_refl _) (fun h => h) (fun h => h) (fun h => h) (fun h => h)

theorem execAvailabilityArchiveTimer_kept (s : State) (hk : Kept qq ll s) : KeptOut qq ll (execAvailabilityArchiveTimer s) := by
  unfold execAvailabilityArchiveTimer
  repeat' first
    | with_reducible assumption
    | with_reducible refine KeptOut.next ?_
    | refine Kept.upd ?_ rfl (Nat.le_refl _) (fun h => h) (fun h => h) (fun h => h) (fun h => h)

theorem availabilityClear_kept (s : State) (hk : Kept qq ll s) : Kept qq ll (availabilityClear s).2 := by
  unfold availabilityClear
  repeat' first
    | with_reducible assumption
    | with_reducible refine kept_ite_snd ?_ ?_
    | refine Kept.upd ?_ rfl (Nat.le_refl _) (fun h => h) (fun h => h) (fun h => h) (fun h => h)

end Sys2Proof.Machine
end

