-- ==== Sys2Proof/Laws/KeptDict.lean ====
section
/-! SUPPORT. The operations of Machine/Dict.lean keep what Kept names. -/

namespace Sys2Proof.Machine

variable {qq : List Instr} {ll : Nat}

theorem paramWrite_kept (n : Nat) (w : Nat) (v : BitVec 24) (s : State) (hk : Kept qq ll s) : Kept qq ll (paramWrite n w v s).2 := by
  unfold paramWrite
  repeat' first
    | with_reducible assumption
    | lift_lets
    | split
    | refine Kept.upd ?_ rfl (Nat.le_refl _) (fun h => h) (fun h => h) (fun h => h) (fun h => h)

theorem gridWrite_kept (who : Requester) (sub : Nat) (v : Nat) (s : State) (hk : Kept qq ll s) : Kept qq ll (gridWrite who sub v s).2 := by
  unfold gridWrite
  repeat' first
    | with_reducible assumption
    | lift_lets
    | (intro t; refine kept_have (qq := qq) (ll := ll) (s := t) ?_ (fun _ => ?_); dsimp -zeta only [t]; rotate_left; clear_value t)
    | with_reducible apply bankRefused_kept
    | with_reducible apply admissionRefuse_kept
    | with_reducible apply admissionAccept_kept
    | with_reducible apply restage_kept
    | with_reducible apply replan_kept
    | with_reducible refine kept_ite_snd ?_ ?_
    | with_reducible refine kept_ite ?_ ?_
    | split
    | intro _
    | refine Kept.upd ?_ rfl (Nat.le_refl _) (fun h => h) (fun h => h) (fun h => h) (fun h => h)

theorem enableWrite_kept (r : Nat) (val : Bytes) (s : State) (hk : Kept qq ll s) : Kept qq ll (enableWrite r val s) := by
  unfold enableWrite
  repeat' first
    | with_reducible assumption
    | refine Kept.upd ?_ rfl (Nat.le_refl _) (fun h => h) (fun h => h) (fun h => h) (fun h => h)

theorem saveBegin_kept (s : State) (hk : Kept qq ll s) : Kept qq ll (saveBegin s).2 := by
  unfold saveBegin
  repeat' first
    | with_reducible assumption
    | with_reducible refine kept_ite_snd ?_ ?_
    | refine Kept.upd ?_ rfl (Nat.le_refl _) (fun h => h) (fun h => h) (fun h => h) (fun h => h)

theorem settleBinding_kept (s : State) (hk : Kept qq ll s) : Kept qq ll (settleBinding s) := by
  unfold settleBinding
  repeat' first
    | with_reducible assumption
    | with_reducible apply resetPort_kept
    | with_reducible apply usbSettle_kept
    | with_reducible refine kept_ite ?_ ?_
    | refine Kept.upd ?_ rfl (Nat.le_refl _) (fun h => h) (fun h => h) (fun h => h) (fun h => h)

theorem effectControl_kept (who : Requester) (ix : Nat) (sub : Nat) (val : Bytes) (s : State) (hk : Kept qq ll s) : KeptRes qq ll (effectControl who ix sub val s) := by
  unfold effectControl
  repeat' first
    | with_reducible assumption
    | lift_lets
    | (intro t; refine kept_have (qq := qq) (ll := ll) (s := t) ?_ (fun _ => ?_); dsimp -zeta only [t]; rotate_left; clear_value t)
    | with_reducible exact KeptRes.none
    | with_reducible refine KeptRes.some ?_
    | with_reducible apply odPut_kept
    | with_reducible apply paramWrite_kept
    | with_reducible apply enableWrite_kept
    | with_reducible apply saveBegin_kept
    | with_reducible apply gridWrite_kept
    | with_reducible apply setTime_kept
    | with_reducible apply reserveWrite_kept
    | with_reducible refine KeptRes.ite ?_ ?_
    | with_reducible refine kept_ite ?_ ?_
    | split
    | intro _
    | refine Kept.upd ?_ rfl (Nat.le_refl _) (fun h => h) (fun h => h) (fun h => h) (fun h => h)

theorem effectStore_kept (ix : Nat) (sub : Nat) (off : Nat) (val : Bytes) (s : State) (hk : Kept qq ll s) : KeptRes qq ll (effectStore ix sub off val s) := by
  unfold effectStore
  repeat' first
    | with_reducible assumption
    | with_reducible exact KeptRes.none
    | with_reducible refine KeptRes.some ?_
    | with_reducible apply keymapWrite_kept
    | with_reducible apply importOpen_kept
    | with_reducible apply importAppend_kept
    | with_reducible apply importCommit_kept
    | with_reducible apply importAbort_kept
    | with_reducible apply objectDelete_kept
    | with_reducible apply streamingWrite_kept
    | with_reducible apply prepare_kept
    | split

theorem effectIo_kept (ix : Nat) (sub : Nat) (val : Bytes) (s : State) (hk : Kept qq ll s) : KeptRes qq ll (effectIo ix sub val s) := by
  unfold effectIo
  repeat' first
    | with_reducible assumption
    | with_reducible exact KeptRes.none
    | with_reducible refine KeptRes.some ?_
    | with_reducible refine KeptRes.ite ?_ ?_
    | with_reducible apply odPut_kept
    | with_reducible apply speedsWrite_kept
    | with_reducible apply ipStart_kept
    | with_reducible apply rangeWrite_kept
    | with_reducible apply muteWrite_kept
    | with_reducible apply volumeWrite_kept
    | with_reducible apply midiSend_kept
    | with_reducible apply keepKey_kept
    | with_reducible apply cvReset_kept
    | with_reducible refine kept_ite ?_ ?_
    | with_reducible refine kept_ite_snd ?_ ?_

theorem effectUpkeep_kept (ix : Nat) (sub : Nat) (val : Bytes) (s : State) (hk : Kept qq ll s) : KeptRes qq ll (effectUpkeep ix sub val s) := by
  unfold effectUpkeep
  repeat' first
    | with_reducible assumption
    | with_reducible exact KeptRes.none
    | with_reducible refine KeptRes.some ?_
    | with_reducible apply onModes_kept
    | with_reducible apply logClear_kept
    | with_reducible apply testNow_kept
    | with_reducible apply repairAgain_kept
    | with_reducible apply selftestRun_kept
    | with_reducible apply selftestAbort_kept
    | with_reducible apply odPut_kept
    | with_reducible apply onTest_kept
    | with_reducible apply storeAction_kept
    | with_reducible apply availabilityClear_kept
    | split
    | exact Nat.le_refl _

theorem effectService_kept (ix : Nat) (sub : Nat) (off : Nat) (val : Bytes) (s : State) (hk : Kept qq ll s) : KeptRes qq ll (effectService ix sub off val s) := by
  unfold effectService
  refine KeptRes.ite ?_ ?_
  · split
    · exact KeptRes.some (appDraft_kept _ _ _ _ hk)
    · exact KeptRes.some (kept_ite_snd (appInstall_kept _ _ hk) (appRemove_kept _ _ hk))
    · exact KeptRes.some (appRun_kept _ _ _ hk)
    · exact KeptRes.none
  · split
    · exact KeptRes.some (modeRequest_kept _ _ hk)
    · exact KeptRes.some (by dsimp only; exact bootWrite_kept _ _ hk)
    · exact KeptRes.some (warmResetWrite_kept _ hk)
    · exact KeptRes.some (lifeRequest_kept _ _ hk)
    · exact KeptRes.some (tokenWrite_kept _ _ hk)
    · exact KeptRes.some (customerKeyWrite_kept _ _ _ hk)
    · exact KeptRes.some (fwSegment_kept _ _ _ hk)
    · exact KeptRes.some (fwVerify_kept _ hk)
    · exact KeptRes.some (kept_ite_snd (fwHitless_kept _ hk) (fwPending_kept _ hk))
    · exact KeptRes.some (rollbackConfirm_kept _ hk)
    · exact effectUpkeep_kept _ _ _ _ hk

theorem odEffect_kept (who : Requester) (ix sub off : Nat) (val : Bytes) (s : State) (hk : Kept qq ll s) :
    Kept qq ll (odEffect who ix sub off val s).2 := by
  unfold odEffect
  split
  · rename_i r h; exact effectControl_kept _ _ _ _ _ hk r h
  · split
    · rename_i r h; exact effectStore_kept _ _ _ _ _ hk r h
    · split
      · rename_i r h; exact effectIo_kept _ _ _ _ hk r h
      · cases h : effectService ix sub off val s with
        | none => exact odPut_kept _ _ _ _ hk
        | some r => exact effectService_kept _ _ _ _ _ hk r h

theorem afterStreams_kept (ix : Nat) (old : State) (new : State) (hk : Kept qq ll old) (hk1 : Kept qq ll new) : Kept qq ll (afterStreams ix old new) := by
  unfold afterStreams
  repeat' first
    | with_reducible assumption
    | with_reducible apply streamsChanged_kept
    | with_reducible apply withdrawOld_kept
    | with_reducible refine kept_ite ?_ ?_

theorem noteSubs_kept (ix : Nat) (sub : Nat) (s : State) (hk : Kept qq ll s) : Kept qq ll (noteSubs ix sub s) := by
  unfold noteSubs
  repeat' first
    | with_reducible assumption
    | refine Kept.upd ?_ rfl (Nat.le_refl _) (fun h => h) (fun h => h) (fun h => h) (fun h => h)

theorem noteChange_kept (ix : Nat) (sub : Nat) (old : State) (new : State) (hk : Kept qq ll old) (hk1 : Kept qq ll new) : Kept qq ll (noteChange ix sub old new) := by
  unfold noteChange
  repeat' first
    | with_reducible assumption
    | with_reducible apply noteSubs_kept
    | with_reducible refine kept_ite ?_ ?_

theorem odChecked_kept (who : Requester) (ix : Nat) (sub : Nat) (off : Nat) (val : Bytes) (s : State) (hk : Kept qq ll s) : Kept qq ll (odChecked who ix sub off val s).2 := by
  unfold odChecked
  repeat' first
    | with_reducible assumption
    | with_reducible apply odEffect_kept
    | with_reducible apply noteChange_kept
    | with_reducible apply afterStreams_kept
    | with_reducible refine kept_ite_snd ?_ ?_
    | split

theorem noteStatus_kept (ix sub : Nat) (r : Status × State) (hk : Kept qq ll r.2) : Kept qq ll (noteStatus ix sub r).2 := by
  unfold noteStatus
  exact kept_ite_snd (updStatus_kept _ hk) (kept_ite_snd (appStatus_kept _ _ hk) hk)

theorem odWriteAt_kept (who : Requester) (ix sub off : Nat) (val : Bytes) (s : State) (hk : Kept qq ll s) :
    Kept qq ll (odWriteAt who ix sub off val s).2 := noteStatus_kept _ _ _ (odChecked_kept _ _ _ _ _ _ hk)

theorem odWrite_kept (who : Requester) (ix : Nat) (sub : Nat) (val : Bytes) (s : State) (hk : Kept qq ll s) : Kept qq ll (odWrite who ix sub val s).2 := by
  unfold odWrite
  repeat' first
    | with_reducible assumption
    | with_reducible apply odWriteAt_kept

theorem runWrite_kept (who : Requester) (ix n sub : Nat) (d : Bytes) (s : State) (hk : Kept qq ll s) :
    KeptExc qq ll (runWrite who ix n sub d s) := by
  induction n generalizing sub d s with
  | zero =>
    unfold runWrite
    split
    · exact KeptExc.ok hk
    · exact KeptExc.error
  | succ n ih =>
    unfold runWrite
    split
    · exact KeptExc.error
    · split
      · exact KeptExc.error
      · split
        · exact KeptExc.error
        · split
          · rename_i h
            exact ih _ _ _ (kept_snd h (odWrite_kept _ _ _ _ _ hk))
          · exact KeptExc.error

theorem runFails_kept (s t : State) (hk : Kept qq ll s) : Kept qq ll (runFails s t) := by
  refine ⟨hk.pending, hk.life, ?_, ⟨hk.mem.dram, hk.mem.cram, hk.mem.csm⟩⟩
  unfold runFails
  dsimp only
  split
  · exact hk.claims
  · exact (fire_kept _ hk).claims

theorem odRun_kept (who : Requester) (ix sub word : Nat) (d : Bytes) (s : State) (hk : Kept qq ll s) :
    Kept qq ll (odRun who ix sub word d s).2.2 := by
  unfold odRun
  split
  · exact hk
  · split
    · rename_i h; exact runWrite_kept _ _ _ _ _ _ hk _ h
    · exact runFails_kept _ _ hk

theorem odSegment_kept (who : Requester) (ix sub : Nat) (final : Bool) (off : Nat) (d : Bytes) (asm : Option (Nat × Nat × Bytes))
    (s : State) (hk : Kept qq ll s) : Kept qq ll (odSegment who ix sub final off d asm s).2.2 := by
  unfold odSegment
  split
  · exact hk
  · split
    · exact hk
    · split
      · exact hk
      · split
        · exact odWriteAt_kept _ _ _ _ _ _ hk
        · dsimp only
          split
          · exact hk
          · split
            · exact hk
            · split
              · exact hk
              · split
                · exact hk
                · exact odWrite_kept _ _ _ _ _ hk

theorem answered_kept (st : Status) (body : Bytes) (s : State) (hk : Kept qq ll s) : Kept qq ll (answered st body s) := by
  unfold answered
  repeat' first
    | with_reducible assumption
    | refine Kept.upd ?_ rfl (Nat.le_refl _) (fun h => h) (fun h => h) (fun h => h) (fun h => h)

theorem named_kept (who : Requester) (ix : Nat) (sub : Nat) (val : Bytes) (s : State) (hk : Kept qq ll s) : KeptOut qq ll (named who ix sub val s) := by
  unfold named
  repeat' first
    | with_reducible assumption
    | with_reducible refine KeptOut.next ?_
    | with_reducible apply odWrite_kept
    | with_reducible apply answered_kept

theorem execHouseRateWrite_kept (who : Requester) (v : BitVec 8) (s : State) (hk : Kept qq ll s) : KeptOut qq ll (execHouseRateWrite who v s) := by
  unfold execHouseRateWrite
  repeat' first
    | with_reducible assumption
    | with_reducible apply named_kept

theorem execLapLengthWrite_kept (who : Requester) (v : BitVec 8) (s : State) (hk : Kept qq ll s) : KeptOut qq ll (execLapLengthWrite who v s) := by
  unfold execLapLengthWrite
  repeat' first
    | with_reducible assumption
    | with_reducible apply named_kept

theorem execReserveWrite_kept (who : Requester) (v : BitVec 8) (s : State) (hk : Kept qq ll s) : KeptOut qq ll (execReserveWrite who v s) := by
  unfold execReserveWrite
  repeat' first
    | with_reducible assumption
    | with_reducible apply named_kept

theorem execKeymapWrite_kept (who : Requester) (m : Fin 1024) (zs : List (BitVec 8)) (s : State) (hk : Kept qq ll s) : KeptOut qq ll (execKeymapWrite who m zs s) := by
  unfold execKeymapWrite
  repeat' first
    | with_reducible assumption
    | with_reducible apply named_kept

theorem execImportOpen_kept (i : Fin 3) (rec_ : List (BitVec 8)) (s : State) (hk : Kept qq ll s) : KeptOut qq ll (execImportOpen i rec_ s) := by
  unfold execImportOpen
  repeat' first
    | with_reducible assumption
    | with_reducible apply named_kept

theorem execImportAppend_kept (i : Fin 3) (off : BitVec 32) (d : List (BitVec 8)) (s : State) (hk : Kept qq ll s) : KeptOut qq ll (execImportAppend i off d s) := by
  unfold execImportAppend
  repeat' first
    | with_reducible assumption
    | with_reducible refine KeptOut.next ?_
    | with_reducible apply odWriteAt_kept
    | with_reducible apply answered_kept

theorem execImportCommit_kept (i : Fin 3) (s : State) (hk : Kept qq ll s) : KeptOut qq ll (execImportCommit i s) := by
  unfold execImportCommit
  repeat' first
    | with_reducible assumption
    | with_reducible apply named_kept

theorem execImportAbort_kept (i : Fin 3) (s : State) (hk : Kept qq ll s) : KeptOut qq ll (execImportAbort i s) := by
  unfold execImportAbort
  repeat' first
    | with_reducible assumption
    | with_reducible apply named_kept

theorem execObjectDelete_kept (who : Requester) (id : BitVec 32) (s : State) (hk : Kept qq ll s) : KeptOut qq ll (execObjectDelete who id s) := by
  unfold execObjectDelete
  repeat' first
    | with_reducible assumption
    | with_reducible apply named_kept

theorem execStreamingDrain_kept (who : Requester) (s : State) (hk : Kept qq ll s) : KeptOut qq ll (execStreamingDrain who s) := by
  unfold execStreamingDrain
  repeat' first
    | with_reducible assumption
    | with_reducible apply named_kept

theorem execStreamingResume_kept (who : Requester) (s : State) (hk : Kept qq ll s) : KeptOut qq ll (execStreamingResume who s) := by
  unfold execStreamingResume
  repeat' first
    | with_reducible assumption
    | with_reducible apply named_kept

theorem execPrepareForStorage_kept (who : Requester) (s : State) (hk : Kept qq ll s) : KeptOut qq ll (execPrepareForStorage who s) := by
  unfold execPrepareForStorage
  repeat' first
    | with_reducible assumption
    | with_reducible apply named_kept

theorem execAppInstall_kept (who : Requester) (a : Fin 8) (s : State) (hk : Kept qq ll s) : KeptOut qq ll (execAppInstall who a s) := by
  unfold execAppInstall
  repeat' first
    | with_reducible assumption
    | with_reducible apply named_kept

theorem execAppRemove_kept (who : Requester) (a : Fin 8) (s : State) (hk : Kept qq ll s) : KeptOut qq ll (execAppRemove who a s) := by
  unfold execAppRemove
  repeat' first
    | with_reducible assumption
    | with_reducible apply named_kept

theorem execAppStart_kept (who : Requester) (a : Fin 8) (s : State) (hk : Kept qq ll s) : KeptOut qq ll (execAppStart who a s) := by
  unfold execAppStart
  repeat' first
    | with_reducible assumption
    | with_reducible apply named_kept

theorem execAppStop_kept (who : Requester) (a : Fin 8) (s : State) (hk : Kept qq ll s) : KeptOut qq ll (execAppStop who a s) := by
  unfold execAppStop
  repeat' first
    | with_reducible assumption
    | with_reducible apply named_kept

theorem execOdSave_kept (who : Requester) (s : State) (hk : Kept qq ll s) : KeptOut qq ll (execOdSave who s) := by
  unfold execOdSave
  repeat' first
    | with_reducible assumption
    | with_reducible apply named_kept

theorem execRestoreDefaults_kept (who : Requester) (s : State) (hk : Kept qq ll s) : KeptOut qq ll (execRestoreDefaults who s) := by
  unfold execRestoreDefaults
  repeat' first
    | with_reducible assumption
    | with_reducible apply named_kept

theorem execPortBBinding_kept (who : Requester) (v : BitVec 8) (s : State) (hk : Kept qq ll s) : KeptOut qq ll (execPortBBinding who v s) := by
  unfold execPortBBinding
  repeat' first
    | with_reducible assumption
    | with_reducible refine KeptOut.next ?_
    | with_reducible apply odWrite_kept
    | with_reducible apply settleBinding_kept
    | with_reducible apply answered_kept

theorem execSetTime_kept (who : Requester) (t : BitVec 64) (s : State) (hk : Kept qq ll s) : KeptOut qq ll (execSetTime who t s) := by
  unfold execSetTime
  repeat' first
    | with_reducible assumption
    | with_reducible apply named_kept

theorem execSpeedsAllowedWrite_kept (who : Requester) (p : Fin 2) (v : BitVec 8) (s : State) (hk : Kept qq ll s) : KeptOut qq ll (execSpeedsAllowedWrite who p v s) := by
  unfold execSpeedsAllowedWrite
  repeat' first
    | with_reducible assumption
    | with_reducible apply named_kept

theorem execIpModeWrite_kept (who : Requester) (p : Fin 2) (word : Fin 4) (v : BitVec 32) (s : State) (hk : Kept qq ll s) : KeptOut qq ll (execIpModeWrite who p word v s) := by
  unfold execIpModeWrite
  repeat' first
    | with_reducible assumption
    | with_reducible apply named_kept

theorem execMidiSend_kept (who : Requester) (b : List (BitVec 8)) (s : State) (hk : Kept qq ll s) : KeptOut qq ll (execMidiSend who b s) := by
  unfold execMidiSend
  repeat' first
    | with_reducible assumption
    | with_reducible apply named_kept

theorem execInputRangeWrite_kept (who : Requester) (i : Fin 4) (v : BitVec 8) (s : State) (hk : Kept qq ll s) : KeptOut qq ll (execInputRangeWrite who i v s) := by
  unfold execInputRangeWrite
  repeat' first
    | with_reducible assumption
    | with_reducible apply named_kept

theorem execLineMuteWrite_kept (who : Requester) (i : Fin 8) (v : BitVec 8) (s : State) (hk : Kept qq ll s) : KeptOut qq ll (execLineMuteWrite who i v s) := by
  unfold execLineMuteWrite
  repeat' first
    | with_reducible assumption
    | with_reducible apply named_kept

theorem execHeadphoneVolumeWrite_kept (who : Requester) (i : Fin 2) (v : BitVec 16) (s : State) (hk : Kept qq ll s) : KeptOut qq ll (execHeadphoneVolumeWrite who i v s) := by
  unfold execHeadphoneVolumeWrite
  repeat' first
    | with_reducible assumption
    | with_reducible apply named_kept

theorem execTdmEnableWrite_kept (who : Requester) (p : Fin 4) (v : BitVec 8) (s : State) (hk : Kept qq ll s) : KeptOut qq ll (execTdmEnableWrite who p v s) := by
  unfold execTdmEnableWrite
  repeat' first
    | with_reducible assumption
    | with_reducible apply named_kept

theorem execKeyObjectWrite_kept (who : Requester) (k : Fin 320) (sub : Fin 11) (v : BitVec 16) (s : State) (hk : Kept qq ll s) : KeptOut qq ll (execKeyObjectWrite who k sub v s) := by
  unfold execKeyObjectWrite
  repeat' first
    | with_reducible assumption
    | with_reducible apply named_kept

theorem execModeRequestStandby_kept (who : Requester) (s : State) (hk : Kept qq ll s) : KeptOut qq ll (execModeRequestStandby who s) := by
  unfold execModeRequestStandby
  repeat' first
    | with_reducible assumption
    | with_reducible apply named_kept

theorem execModeRequestPerform_kept (who : Requester) (s : State) (hk : Kept qq ll s) : KeptOut qq ll (execModeRequestPerform who s) := by
  unfold execModeRequestPerform
  repeat' first
    | with_reducible assumption
    | with_reducible apply named_kept

theorem execModeRequestMaintain_kept (who : Requester) (s : State) (hk : Kept qq ll s) : KeptOut qq ll (execModeRequestMaintain who s) := by
  unfold execModeRequestMaintain
  repeat' first
    | with_reducible assumption
    | with_reducible apply named_kept

theorem execModeRequestSafe_kept (who : Requester) (s : State) (hk : Kept qq ll s) : KeptOut qq ll (execModeRequestSafe who s) := by
  unfold execModeRequestSafe
  repeat' first
    | with_reducible assumption
    | with_reducible apply named_kept

theorem execModeRequestWorkshop_kept (who : Requester) (s : State) (hk : Kept qq ll s) : KeptOut qq ll (execModeRequestWorkshop who s) := by
  unfold execModeRequestWorkshop
  repeat' first
    | with_reducible assumption
    | with_reducible apply named_kept

theorem execWarmResetRequest_kept (who : Requester) (s : State) (hk : Kept qq ll s) : KeptOut qq ll (execWarmResetRequest who s) := by
  unfold execWarmResetRequest
  repeat' first
    | with_reducible assumption
    | with_reducible apply named_kept

theorem execFwVerify_kept (who : Requester) (s : State) (hk : Kept qq ll s) : KeptOut qq ll (execFwVerify who s) := by
  unfold execFwVerify
  repeat' first
    | with_reducible assumption
    | with_reducible apply named_kept

theorem execFwActivateHitless_kept (who : Requester) (s : State) (hk : Kept qq ll s) : KeptOut qq ll (execFwActivateHitless who s) := by
  unfold execFwActivateHitless
  repeat' first
    | with_reducible assumption
    | with_reducible apply named_kept

theorem execFwActivateAtStart_kept (who : Requester) (s : State) (hk : Kept qq ll s) : KeptOut qq ll (execFwActivateAtStart who s) := by
  unfold execFwActivateAtStart
  repeat' first
    | with_reducible assumption
    | with_reducible apply named_kept

theorem execRollbackConfirm_kept (who : Requester) (s : State) (hk : Kept qq ll s) : KeptOut qq ll (execRollbackConfirm who s) := by
  unfold execRollbackConfirm
  repeat' first
    | with_reducible assumption
    | with_reducible apply named_kept

theorem execLifecycleRequest_kept (who : Requester) (v : BitVec 8) (s : State) (hk : Kept qq ll s) : KeptOut qq ll (execLifecycleRequest who v s) := by
  unfold execLifecycleRequest
  repeat' first
    | with_reducible assumption
    | with_reducible apply named_kept

theorem execLifecycleTokenWrite_kept (who : Requester) (b : List (BitVec 8)) (s : State) (hk : Kept qq ll s) : KeptOut qq ll (execLifecycleTokenWrite who b s) := by
  unfold execLifecycleTokenWrite
  repeat' first
    | with_reducible assumption
    | with_reducible apply named_kept

theorem execCustomerKeyWrite_kept (who : Requester) (k : Fin 4) (b : List (BitVec 8)) (s : State) (hk : Kept qq ll s) : KeptOut qq ll (execCustomerKeyWrite who k b s) := by
  unfold execCustomerKeyWrite
  repeat' first
    | with_reducible assumption
    | with_reducible apply named_kept

theorem execTestNow_kept (who : Requester) (c : BitVec 8) (s : State) (hk : Kept qq ll s) : KeptOut qq ll (execTestNow who c s) := by
  unfold execTestNow
  repeat' first
    | with_reducible assumption
    | with_reducible apply named_kept

theorem execRepairAgain_kept (who : Requester) (c : BitVec 8) (s : State) (hk : Kept qq ll s) : KeptOut qq ll (execRepairAgain who c s) := by
  unfold execRepairAgain
  repeat' first
    | with_reducible assumption
    | with_reducible apply named_kept

theorem execSelftestRun_kept (who : Requester) (mask : BitVec 16) (s : State) (hk : Kept qq ll s) : KeptOut qq ll (execSelftestRun who mask s) := by
  unfold execSelftestRun
  repeat' first
    | with_reducible assumption
    | with_reducible apply named_kept

theorem execSelftestAbort_kept (who : Requester) (s : State) (hk : Kept qq ll s) : KeptOut qq ll (execSelftestAbort who s) := by
  unfold execSelftestAbort
  repeat' first
    | with_reducible assumption
    | with_reducible apply named_kept

theorem execStoreRawRead_kept (who : Requester) (s : State) (hk : Kept qq ll s) : KeptOut qq ll (execStoreRawRead who s) := by
  unfold execStoreRawRead
  repeat' first
    | with_reducible assumption
    | with_reducible apply named_kept

theorem execStoreDecodedRead_kept (who : Requester) (s : State) (hk : Kept qq ll s) : KeptOut qq ll (execStoreDecodedRead who s) := by
  unfold execStoreDecodedRead
  repeat' first
    | with_reducible assumption
    | with_reducible apply named_kept

theorem execStoreBlockErase_kept (who : Requester) (s : State) (hk : Kept qq ll s) : KeptOut qq ll (execStoreBlockErase who s) := by
  unfold execStoreBlockErase
  repeat' first
    | with_reducible assumption
    | with_reducible apply named_kept

theorem execStorePageProgram_kept (who : Requester) (s : State) (hk : Kept qq ll s) : KeptOut qq ll (execStorePageProgram who s) := by
  unfold execStorePageProgram
  repeat' first
    | with_reducible assumption
    | with_reducible apply named_kept

theorem execStoreBlockRetire_kept (who : Requester) (s : State) (hk : Kept qq ll s) : KeptOut qq ll (execStoreBlockRetire who s) := by
  unfold execStoreBlockRetire
  repeat' first
    | with_reducible assumption
    | with_reducible apply named_kept

theorem execLogClear_kept (who : Requester) (s : State) (hk : Kept qq ll s) : KeptOut qq ll (execLogClear who s) := by
  unfold execLogClear
  repeat' first
    | with_reducible assumption
    | with_reducible apply named_kept

theorem execAvailabilityClear_kept (who : Requester) (s : State) (hk : Kept qq ll s) : KeptOut qq ll (execAvailabilityClear who s) := by
  unfold execAvailabilityClear
  repeat' first
    | with_reducible assumption
    | with_reducible apply named_kept

end Sys2Proof.Machine
end

