-- ==== Sys2Proof/Laws/KeptApps.lean ====
section
/-! SUPPORT. The operations of Machine/Apps.lean keep what Kept names. -/

namespace Sys2Proof.Machine

variable {qq : List Instr} {ll : Nat}

theorem call_kept (a : Nat) (f : State → State) (s : State) (hk : Kept qq ll s) (hf : ∀ t, Kept qq ll t → Kept qq ll (f t)) :
    KeptOut qq ll (call a f s) := KeptOut.next (kept_ite (hf s hk) hk)

theorem appRetBuf_kept (a : Nat) (out : List Nat) (b : Bytes) (s : State) (hk : Kept qq ll s) : Kept qq ll (appRetBuf a out b s) := by
  unfold appRetBuf
  repeat' first
    | with_reducible assumption
    | with_reducible apply appRet_kept
    | with_reducible apply updApp_kept

theorem appBlocks_kept (a : Nat) (b : AppBlock) (s : State) (hk : Kept qq ll s) : Kept qq ll (appBlocks a b s) := by
  unfold appBlocks
  repeat' first
    | with_reducible assumption
    | with_reducible apply appYield_kept
    | with_reducible apply updApp_kept

theorem appWakes_kept (a : Nat) (s : State) (hk : Kept qq ll s) : Kept qq ll (appWakes a s) := by
  unfold appWakes
  repeat' first
    | with_reducible assumption
    | with_reducible apply appSchedule_kept
    | with_reducible apply updApp_kept

theorem execAppSliceEnd_kept (d : Fin 4) (s : State) (hk : Kept qq ll s) : KeptOut qq ll (execAppSliceEnd d s) := by
  unfold execAppSliceEnd
  repeat' first
    | with_reducible assumption
    | with_reducible refine KeptOut.next ?_
    | with_reducible apply appYield_kept
    | split

theorem execAppExit_kept (a : Fin 8) (s : State) (hk : Kept qq ll s) : KeptOut qq ll (execAppExit a s) := by
  unfold execAppExit
  repeat' first
    | with_reducible assumption
    | with_reducible refine call_kept _ _ _ ?_ (fun _ _ => ?_)
    | with_reducible apply appSchedule_kept
    | with_reducible apply endApp_kept

theorem execAppYield_kept (a : Fin 8) (s : State) (hk : Kept qq ll s) : KeptOut qq ll (execAppYield a s) := by
  unfold execAppYield
  repeat' first
    | with_reducible assumption
    | with_reducible refine call_kept _ _ _ ?_ (fun _ _ => ?_)
    | with_reducible apply appYield_kept
    | with_reducible apply appRet_kept

theorem execAppOdRead_kept (a : Fin 8) (obj : BitVec 32) (inMem : Bool) (len : BitVec 32) (s : State) (hk : Kept qq ll s) : KeptOut qq ll (execAppOdRead a obj inMem len s) := by
  unfold execAppOdRead
  repeat' first
    | with_reducible assumption
    | with_reducible refine call_kept _ _ _ ?_ (fun _ _ => ?_)
    | with_reducible apply appRet_kept
    | with_reducible apply appRetBuf_kept
    | split

theorem appWrote_kept (a : Nat) (old : State) (r : Status × List Nat × State) (hk : Kept qq ll r.2.2) :
    Kept qq ll (appWrote a old r) := by
  unfold appWrote
  refine kept_ite (appBlocks_kept _ _ _ ?_) (settleBinding_kept _ (appRet_kept _ _ _ _ hk))
  exact ⟨hk.pending, hk.life, hk.claims, ⟨hk.mem.dram, hk.mem.cram, hk.mem.csm⟩⟩

theorem execAppOdWrite_kept (a : Fin 8) (obj : BitVec 32) (buf : Option (List (BitVec 8))) (s : State) (hk : Kept qq ll s) : KeptOut qq ll (execAppOdWrite a obj buf s) := by
  unfold execAppOdWrite
  repeat' first
    | with_reducible assumption
    | with_reducible refine call_kept _ _ _ ?_ (fun _ _ => ?_)
    | with_reducible apply appRet_kept
    | with_reducible apply odWrite_kept
    | with_reducible apply appWrote_kept
    | split

theorem execAppOdWriteRun_kept (a : Fin 8) (obj : BitVec 32) (buf : Option (List (BitVec 8))) (count : BitVec 32) (s : State) (hk : Kept qq ll s) : KeptOut qq ll (execAppOdWriteRun a obj buf count s) := by
  unfold execAppOdWriteRun
  repeat' first
    | with_reducible assumption
    | with_reducible refine call_kept _ _ _ ?_ (fun _ _ => ?_)
    | with_reducible apply appRet_kept
    | with_reducible apply odRun_kept
    | with_reducible apply appWrote_kept
    | split

theorem execAppOdReadBlock_kept (a : Fin 8) (obj : BitVec 32) (inMem : Bool) (off : BitVec 32) (count : BitVec 32) (s : State) (hk : Kept qq ll s) : KeptOut qq ll (execAppOdReadBlock a obj inMem off count s) := by
  unfold execAppOdReadBlock
  repeat' first
    | with_reducible assumption
    | with_reducible refine call_kept _ _ _ ?_ (fun _ _ => ?_)
    | with_reducible apply appRet_kept
    | with_reducible apply appRetBuf_kept
    | split

theorem setAppAsm_kept (a : Nat) (x : Option (Nat × Nat × Bytes)) (s : State) (hk : Kept qq ll s) : Kept qq ll (setAppAsm a x s) := by
  unfold setAppAsm
  repeat' first
    | with_reducible assumption
    | refine Kept.upd ?_ rfl (Nat.le_refl _) (fun h => h) (fun h => h) (fun h => h) (fun h => h)

theorem execAppOdWriteSeg_kept (a : Fin 8) (obj : BitVec 32) (buf : Option (List (BitVec 8))) (off : BitVec 32) (final : BitVec 32) (s : State) (hk : Kept qq ll s) : KeptOut qq ll (execAppOdWriteSeg a obj buf off final s) := by
  unfold execAppOdWriteSeg
  repeat' first
    | with_reducible assumption
    | with_reducible refine call_kept _ _ _ ?_ (fun _ _ => ?_)
    | with_reducible apply appRet_kept
    | with_reducible apply odSegment_kept
    | with_reducible apply setAppAsm_kept
    | split

theorem dropHandle_kept (h : Nat) (s : State) (hk : Kept qq ll s) : Kept qq ll (dropHandle h s) := by
  unfold dropHandle
  repeat' first
    | with_reducible assumption
    | with_reducible refine kept_ite ?_ ?_
    | refine Kept.upd ?_ rfl (Nat.le_refl _) (fun h => h) (fun h => h) (fun h => h) (fun h => h)

theorem execAppManifestOpen_kept (a : Fin 8) (s : State) (hk : Kept qq ll s) : KeptOut qq ll (execAppManifestOpen a s) := by
  unfold execAppManifestOpen
  repeat' first
    | with_reducible assumption
    | with_reducible refine call_kept _ _ _ ?_ (fun _ _ => ?_)
    | with_reducible apply openManifest_kept
    | with_reducible apply appRet_kept
    | split
    | refine kept_trd (by assumption) ?_
    | refine Kept.upd ?_ rfl (Nat.le_refl _) (fun h => h) (fun h => h) (fun h => h) (fun h => h)

theorem execAppManifestAdd_kept (a : Fin 8) (h : BitVec 32) (buf : Option (List (BitVec 8))) (s : State) (hk : Kept qq ll s) : KeptOut qq ll (execAppManifestAdd a h buf s) := by
  unfold execAppManifestAdd
  repeat' first
    | with_reducible assumption
    | with_reducible refine call_kept _ _ _ ?_ (fun _ _ => ?_)
    | with_reducible apply appRet_kept
    | with_reducible apply addManifest_kept
    | with_reducible apply dropHandle_kept
    | split

theorem execAppManifestCommit_kept (a : Fin 8) (h : BitVec 32) (flags : BitVec 32) (time : BitVec 64) (s : State) (hk : Kept qq ll s) : KeptOut qq ll (execAppManifestCommit a h flags time s) := by
  unfold execAppManifestCommit
  repeat' first
    | with_reducible assumption
    | with_reducible refine call_kept _ _ _ ?_ (fun _ _ => ?_)
    | with_reducible apply appRet_kept
    | with_reducible apply commitManifest_kept
    | with_reducible apply appBlocks_kept
    | with_reducible refine kept_ite ?_ ?_

theorem execAppManifestAbort_kept (a : Fin 8) (h : BitVec 32) (s : State) (hk : Kept qq ll s) : KeptOut qq ll (execAppManifestAbort a h s) := by
  unfold execAppManifestAbort
  repeat' first
    | with_reducible assumption
    | with_reducible refine call_kept _ _ _ ?_ (fun _ _ => ?_)
    | with_reducible apply appRet_kept
    | with_reducible apply abortManifest_kept
    | with_reducible apply dropHandle_kept
    | with_reducible refine kept_ite ?_ ?_

theorem setSemOwner_kept (i : Nat) (v : Nat) (s : State) (hk : Kept qq ll s) : Kept qq ll (setSemOwner i v s) := by
  unfold setSemOwner
  repeat' first
    | with_reducible assumption
    | refine Kept.upd ?_ rfl (Nat.le_refl _) (fun h => h) (fun h => h) (fun h => h) (fun h => h)

theorem execAppSemTake_kept (a : Fin 8) (i : BitVec 32) (s : State) (hk : Kept qq ll s) : KeptOut qq ll (execAppSemTake a i s) := by
  unfold execAppSemTake
  repeat' first
    | with_reducible assumption
    | with_reducible refine call_kept _ _ _ ?_ (fun _ _ => ?_)
    | with_reducible apply appRet_kept
    | with_reducible apply semTake_kept
    | with_reducible apply setSemOwner_kept
    | with_reducible refine kept_ite ?_ ?_

theorem execAppSemGive_kept (a : Fin 8) (i : BitVec 32) (s : State) (hk : Kept qq ll s) : KeptOut qq ll (execAppSemGive a i s) := by
  unfold execAppSemGive
  repeat' first
    | with_reducible assumption
    | with_reducible refine call_kept _ _ _ ?_ (fun _ _ => ?_)
    | with_reducible apply appRet_kept
    | with_reducible apply semGive_kept
    | with_reducible apply setSemOwner_kept
    | with_reducible refine kept_ite ?_ ?_

theorem setAppSubs_kept (l : List AppSub) (s : State) (hk : Kept qq ll s) : Kept qq ll (setAppSubs l s) := by
  unfold setAppSubs
  repeat' first
    | with_reducible assumption
    | refine Kept.upd ?_ rfl (Nat.le_refl _) (fun h => h) (fun h => h) (fun h => h) (fun h => h)

theorem execAppSubscribe_kept (a : Fin 8) (obj : BitVec 32) (mode : BitVec 32) (period : BitVec 32) (s : State) (hk : Kept qq ll s) : KeptOut qq ll (execAppSubscribe a obj mode period s) := by
  unfold execAppSubscribe
  repeat' first
    | with_reducible assumption
    | with_reducible refine call_kept _ _ _ ?_ (fun _ _ => ?_)
    | lift_lets
    | with_reducible apply appRet_kept
    | with_reducible apply setAppSubs_kept
    | with_reducible refine kept_ite ?_ ?_
    | split
    | intro _

theorem appTake_kept (a : Nat) (len : Nat) (s : State) (hk : Kept qq ll s) : KeptOpt qq ll (appTake a len s) := by
  unfold appTake
  repeat' first
    | with_reducible assumption
    | with_reducible exact KeptOpt.none
    | with_reducible refine KeptOpt.some ?_
    | with_reducible apply appRet_kept
    | with_reducible apply appRetBuf_kept
    | with_reducible apply updApp_kept
    | split

theorem execAppWait_kept (a : Fin 8) (inMem : Bool) (len : BitVec 32) (timeout : BitVec 32) (s : State) (hk : Kept qq ll s) : KeptOut qq ll (execAppWait a inMem len timeout s) := by
  unfold execAppWait
  repeat' first
    | with_reducible assumption
    | with_reducible refine call_kept _ _ _ ?_ (fun _ _ => ?_)
    | with_reducible apply appRet_kept
    | with_reducible apply appTake_kept
    | with_reducible apply appBlocks_kept
    | split
    | refine KeptOpt.get (by assumption) ?_

theorem execAppWaitReturn_kept (a : Fin 8) (s : State) (hk : Kept qq ll s) : KeptOut qq ll (execAppWaitReturn a s) := by
  unfold execAppWaitReturn
  repeat' first
    | with_reducible assumption
    | with_reducible refine KeptOut.next ?_
    | with_reducible apply appTake_kept
    | with_reducible apply appWakes_kept
    | with_reducible apply appRet_kept
    | with_reducible apply advance_kept
    | split
    | refine KeptOpt.get (by assumption) ?_

theorem execAppSleep_kept (a : Fin 8) (time : BitVec 64) (s : State) (hk : Kept qq ll s) : KeptOut qq ll (execAppSleep a time s) := by
  unfold execAppSleep
  repeat' first
    | with_reducible assumption
    | with_reducible refine call_kept _ _ _ ?_ (fun _ _ => ?_)
    | with_reducible apply appRet_kept
    | with_reducible apply appBlocks_kept
    | with_reducible refine kept_ite ?_ ?_

theorem execAppSleepReturn_kept (a : Fin 8) (s : State) (hk : Kept qq ll s) : KeptOut qq ll (execAppSleepReturn a s) := by
  unfold execAppSleepReturn
  repeat' first
    | with_reducible assumption
    | with_reducible refine KeptOut.next ?_
    | with_reducible apply appWakes_kept
    | with_reducible apply appRet_kept
    | with_reducible apply advance_kept
    | split

theorem execAppBind_kept (a : Fin 8) (n : BitVec 32) (on : BitVec 32) (s : State) (hk : Kept qq ll s) : KeptOut qq ll (execAppBind a n on s) := by
  unfold execAppBind
  repeat' first
    | with_reducible assumption
    | with_reducible refine call_kept _ _ _ ?_ (fun _ _ => ?_)
    | with_reducible apply appRet_kept
    | with_reducible refine kept_ite ?_ ?_
    | refine Kept.upd ?_ rfl (Nat.le_refl _) (fun h => h) (fun h => h) (fun h => h) (fun h => h)

theorem execAppPost_kept (a : Fin 8) (rec_ : Option (List (BitVec 8))) (s : State) (hk : Kept qq ll s) : KeptOut qq ll (execAppPost a rec_ s) := by
  unfold execAppPost
  repeat' first
    | with_reducible assumption
    | with_reducible refine call_kept _ _ _ ?_ (fun _ _ => ?_)
    | with_reducible apply appRet_kept
    | with_reducible apply noteEvent_kept
    | split

theorem execAppMidiRead_kept (a : Fin 8) (input : BitVec 32) (inMem : Bool) (len : BitVec 32) (s : State) (hk : Kept qq ll s) : KeptOut qq ll (execAppMidiRead a input inMem len s) := by
  unfold execAppMidiRead
  repeat' first
    | with_reducible assumption
    | with_reducible refine call_kept _ _ _ ?_ (fun _ _ => ?_)
    | with_reducible apply appRet_kept
    | with_reducible apply appRetBuf_kept
    | with_reducible apply setMidiIn_kept
    | with_reducible refine kept_ite ?_ ?_

theorem execAppMidiSend_kept (a : Fin 8) (buf : Option (List (BitVec 8))) (s : State) (hk : Kept qq ll s) : KeptOut qq ll (execAppMidiSend a buf s) := by
  unfold execAppMidiSend
  repeat' first
    | with_reducible assumption
    | with_reducible refine call_kept _ _ _ ?_ (fun _ _ => ?_)
    | with_reducible apply appRet_kept
    | with_reducible apply odWrite_kept
    | split

theorem execAppTime_kept (a : Fin 8) (s : State) (hk : Kept qq ll s) : KeptOut qq ll (execAppTime a s) := by
  unfold execAppTime
  repeat' first
    | with_reducible assumption
    | with_reducible refine call_kept _ _ _ ?_ (fun _ _ => ?_)
    | with_reducible apply appRet_kept

theorem execAppSetpend_kept (a : Fin 8) (n : BitVec 32) (s : State) (hk : Kept qq ll s) : KeptOut qq ll (execAppSetpend a n s) := by
  unfold execAppSetpend
  repeat' first
    | with_reducible assumption
    | with_reducible refine call_kept _ _ _ ?_ (fun _ _ => ?_)
    | with_reducible apply appRet_kept
    | with_reducible refine kept_ite ?_ ?_
    | refine Kept.upd ?_ rfl (Nat.le_refl _) (by first | exact fun h => h | exact fun h => h.of_src rfl | exact fun h => h.put (fun a => ⟨a, rfl⟩) | exact evcSetPend_claims _) (fun h => h) (fun h => h) (fun h => h)

end Sys2Proof.Machine
end

