-- ==== Sys2Proof/Laws/KeptManifests.lean ====
section
/-! SUPPORT. The operations of Machine/Manifests.lean keep what Kept names. -/

namespace Sys2Proof.Machine

variable {qq : List Instr} {ll : Nat}

theorem routeBatches_kept (s : State) (hk : Kept qq ll s) : Kept qq ll (routeBatches s) := by
  unfold routeBatches
  repeat' first
    | with_reducible assumption
    | with_reducible refine kept_ite ?_ ?_
    | split
    | intro _
    | refine Kept.upd ?_ rfl (Nat.le_refl _) (fun h => h) (fun h => h) (fun h => h) (fun h => h)

theorem commitReply_kept (h : Nat) (m : Manifest) (st : Status) (reason : Nat) (entry : Nat) (lc : Nat) (tau : Nat) (s : State) (hk : Kept qq ll s) : Kept qq ll (commitReply h m st reason entry lc tau s) := by
  unfold commitReply
  repeat' first
    | with_reducible assumption
    | lift_lets
    | with_reducible apply answered_kept
    | with_reducible apply setMan_kept
    | with_reducible apply sendReply_kept
    | with_reducible apply appWakes_kept
    | with_reducible apply appRet_kept
    | split
    | intro _

theorem checkFails_kept (h : Nat) (m : Manifest) (st : Status) (reason : Nat) (entry : Nat) (s : State) (hk : Kept qq ll s) : Kept qq ll (checkFails h m st reason entry s) := by
  unfold checkFails
  repeat' first
    | with_reducible assumption
    | with_reducible apply commitReply_kept
    | with_reducible apply endManifest_kept
    | with_reducible apply firmwareAborted_kept
    | with_reducible apply dropHandle_kept
    | with_reducible apply avAnswer_kept
    | with_reducible refine kept_ite ?_ ?_

theorem keepPassed_kept (s : State) (hk : Kept qq ll s) : Kept qq ll (keepPassed s) := by
  unfold keepPassed
  repeat' first
    | with_reducible assumption
    | refine Kept.upd ?_ rfl (Nat.le_refl _) (fun h => h) (fun h => h) (fun h => h) (fun h => h)

theorem checkPasses_kept (h : Nat) (m : Manifest) (lc : Nat) (s : State) (hk : Kept qq ll s) : Kept qq ll (checkPasses h m lc s) := by
  unfold checkPasses
  repeat' first
    | with_reducible assumption
    | with_reducible apply setMan_kept
    | with_reducible apply spendReserve_kept
    | with_reducible apply commitReply_kept
    | with_reducible apply replan_kept
    | with_reducible apply keepPassed_kept
    | with_reducible refine kept_ite ?_ ?_
    | split
    | refine Kept.upd ?_ rfl (Nat.le_refl _) (fun h => h) (fun h => h) (fun h => h) (fun h => h)

theorem runChecks_kept (h : Nat) (s : State) (hk : Kept qq ll s) : Kept qq ll (runChecks h s) := by
  unfold runChecks
  repeat' first
    | with_reducible assumption
    | lift_lets
    | (intro t; refine kept_have (qq := qq) (ll := ll) (s := t) ?_ (fun _ => ?_); dsimp -zeta only [t]; rotate_left; clear_value t)
    | with_reducible apply checkFails_kept
    | with_reducible apply bankRefused_kept
    | with_reducible apply admissionRefuse_kept
    | with_reducible apply admissionAccept_kept
    | with_reducible apply checkPasses_kept
    | with_reducible refine kept_ite ?_ ?_
    | split
    | intro _

theorem execManifestCheck_kept (t : Nat) (s : State) (hk : Kept qq ll s) : KeptOut qq ll (execManifestCheck t s) := by
  unfold execManifestCheck
  repeat' first
    | with_reducible assumption
    | with_reducible refine KeptOut.next ?_
    | with_reducible apply runChecks_kept
    | split
    | refine Kept.upd ?_ rfl (Nat.le_refl _) (fun h => h) (fun h => h) (fun h => h) (fun h => h)

theorem execStagingDone_kept (h : Fin 28) (st : Fin 14) (s : State) (hk : Kept qq ll s) : KeptOut qq ll (execStagingDone h st s) := by
  unfold execStagingDone
  repeat' first
    | with_reducible assumption
    | with_reducible refine KeptOut.next ?_
    | with_reducible apply setMan_kept
    | with_reducible refine kept_ite ?_ ?_

theorem decideManifest_kept (h : Nat) (s : State) (hk : Kept qq ll s) : Kept qq ll (decideManifest h s) := by
  unfold decideManifest
  repeat' first
    | with_reducible assumption
    | with_reducible refine kept_foldl (fun _ _ _ => ?_) ?_
    | with_reducible apply setMan_kept
    | with_reducible apply logRecord_kept
    | with_reducible apply endManifest_kept
    | with_reducible apply restoreParams_kept
    | with_reducible apply gridAborted_kept
    | with_reducible apply firmwareAborted_kept
    | with_reducible apply dropHandle_kept
    | with_reducible apply notifyEnd_kept
    | with_reducible refine kept_ite ?_ ?_
    | split
    | intro _
    | refine Kept.upd ?_ rfl (Nat.le_refl _) (fun h => h) (fun h => h) (fun h => h) (fun h => h)

theorem decisions_kept (s : State) (hk : Kept qq ll s) : Kept qq ll (decisions s) := by
  unfold decisions
  repeat' first
    | with_reducible assumption
    | with_reducible refine kept_foldl (fun _ _ _ => ?_) ?_
    | with_reducible apply decideManifest_kept

theorem execDecisionPoint_kept (s : State) (hk : Kept qq ll s) : KeptOut qq ll (execDecisionPoint s) := by
  unfold execDecisionPoint
  repeat' first
    | with_reducible assumption
    | with_reducible refine KeptOut.next ?_
    | with_reducible apply decisions_kept
    | with_reducible apply advance_kept
    | with_reducible refine kept_ite ?_ ?_

theorem paramEnter_kept (m : Manifest) (s : State) (x : Nat × Nat × Bytes) (hk : Kept qq ll s) : Kept qq ll (paramEnter m s x).1 := by
  unfold paramEnter
  repeat' first
    | with_reducible assumption
    | lift_lets
    | split
    | refine Kept.upd ?_ rfl (Nat.le_refl _) (fun h => h) (fun h => h) (fun h => h) (fun h => h)

theorem paramsEnter_kept (h : Nat) (s : State) (hk : Kept qq ll s) : Kept qq ll (paramsEnter h s) := by
  unfold paramsEnter
  refine kept_ite hk (setMan_kept _ _ _ ?_)
  exact kept_foldl_fst (x := (s, [])) (fun x a hx => paramEnter_kept _ x.1 a hx) hk

theorem execManifestParamWrite_kept (h : Fin 28) (s : State) (hk : Kept qq ll s) : KeptOut qq ll (execManifestParamWrite h s) := by
  unfold execManifestParamWrite
  repeat' first
    | with_reducible assumption
    | with_reducible refine KeptOut.next ?_
    | with_reducible apply paramsEnter_kept

theorem carryBatch_kept (h : Nat) (bad : List Nat) (s : State) (hk : Kept qq ll s) : Kept qq ll (carryBatch h bad s) := by
  unfold carryBatch
  refine kept_ite hk (setMan_kept _ _ _ ?_)
  refine kept_foldl_fst (x := (s, [])) (fun x a hx => ?_) hk
  dsimp only
  split
  · dsimp only
    exact logRecord_kept _ _ _ _ _ _ _ hx
  · exact hx

theorem execMigrationBatch_kept (h : Fin 28) (bad : List (Fin 256)) (s : State) (hk : Kept qq ll s) : KeptOut qq ll (execMigrationBatch h bad s) := by
  unfold execMigrationBatch
  repeat' first
    | with_reducible assumption
    | with_reducible refine KeptOut.next ?_
    | with_reducible apply carryBatch_kept

theorem completeBatches_kept (s : State) (hk : Kept qq ll s) : Kept qq ll (completeBatches s) := by
  unfold completeBatches
  repeat' first
    | with_reducible assumption
    | with_reducible refine kept_foldl (fun _ _ _ => ?_) ?_
    | with_reducible apply carryBatch_kept
    | with_reducible refine kept_ite ?_ ?_

theorem renameCtx_kept (a : Nat) (b : Nat) (s : State) (hk : Kept qq ll s) : Kept qq ll (renameCtx a b s) := by
  unfold renameCtx
  repeat' first
    | with_reducible assumption
    | refine Kept.upd ?_ rfl (Nat.le_refl _) (fun h => h) (fun h => h) (fun h => h) (fun h => h)

theorem moveCtx_kept (a : Nat) (b : Nat) (y : Option Ctx) (s : State) (hk : Kept qq ll s) : Kept qq ll (moveCtx a b y s) := by
  unfold moveCtx
  repeat' first
    | with_reducible assumption
    | with_reducible apply setCtx_kept
    | with_reducible apply freeContext_kept
    | with_reducible apply renameCtx_kept
    | with_reducible apply dropHeld_kept
    | with_reducible apply poison_kept
    | split

theorem moveSlot_kept (carried : List (Nat × Ctx)) (s : State) (x : Nat × Nat × Nat × Slot) (hk : Kept qq ll s) : Kept qq ll (moveSlot carried s x) := by
  unfold moveSlot
  repeat' first
    | with_reducible assumption
    | with_reducible refine kept_foldl (fun _ _ _ => ?_) ?_
    | with_reducible apply moveCtx_kept

theorem applyWrites_kept (who : Requester) (es : List MEntry) (s : State) (hk : Kept qq ll s) : Kept qq ll (applyWrites who es s) := by
  unfold applyWrites
  repeat' first
    | with_reducible assumption
    | with_reducible refine kept_foldl (fun _ _ _ => ?_) ?_
    | with_reducible apply odEffect_kept
    | with_reducible apply noteChange_kept
    | with_reducible refine kept_ite ?_ ?_
    | split
    | refine Kept.upd ?_ rfl (Nat.le_refl _) (fun h => h) (fun h => h) (fun h => h) (fun h => h)

theorem applyLoad_kept (m : Manifest) (s : State) (hk : Kept qq ll s) : Kept qq ll (applyLoad m s) := by
  unfold applyLoad
  repeat' first
    | with_reducible assumption
    | with_reducible refine kept_foldl (fun _ _ _ => ?_) ?_
    | with_reducible apply loadPrograms_kept
    | refine Kept.upd ?_ rfl (Nat.le_refl _) (fun h => h) (fun h => h) (fun h => h) (fun h => h)

theorem applyManifest_kept (h : Nat) (s : State) (hk : Kept qq ll s) : Kept qq ll (applyManifest h s) := by
  unfold applyManifest
  repeat' first
    | with_reducible assumption
    | with_reducible refine kept_foldl (fun _ _ _ => ?_) ?_
    | with_reducible apply applyWrites_kept
    | with_reducible apply freeContext_kept
    | with_reducible apply moveSlot_kept
    | with_reducible apply assignRings_kept
    | with_reducible apply applyLoad_kept
    | with_reducible apply streamsChanged_kept
    | with_reducible apply withdrawOld_kept
    | with_reducible apply endManifest_kept
    | with_reducible apply settleBinding_kept
    | with_reducible apply firmwareApplied_kept
    | with_reducible apply dropHandle_kept
    | with_reducible apply notifyEnd_kept
    | with_reducible refine kept_ite ?_ ?_
    | split
    | intro _
    | refine Kept.upd ?_ rfl (Nat.le_refl _) (fun h => h) (fun h => h) (fun h => h) (fun h => h)

theorem applyGiven_kept (s : State) (hk : Kept qq ll s) : Kept qq ll (applyGiven s) := by
  unfold applyGiven
  repeat' first
    | with_reducible assumption
    | with_reducible refine kept_foldl (fun _ _ _ => ?_) ?_
    | with_reducible apply applyManifest_kept
    | with_reducible refine kept_ite ?_ ?_
    | refine Kept.upd ?_ rfl (Nat.le_refl _) (fun h => h) (fun h => h) (fun h => h) (fun h => h)

theorem gridWrites_kept (s : State) (hk : Kept qq ll s) : Kept qq ll (gridWrites s) := by
  unfold gridWrites
  repeat' first
    | with_reducible assumption
    | with_reducible refine kept_foldl (fun _ _ _ => ?_) ?_
    | split
    | refine Kept.upd ?_ rfl (Nat.le_refl _) (fun h => h) (fun h => h) (fun h => h) (fun h => h)

end Sys2Proof.Machine
end

