-- ==== Sys2Proof/Laws/KeptLap.lean ====
section
/-! SUPPORT. The operations of Machine/Lap.lean keep what Kept names. -/

namespace Sys2Proof.Machine

variable {qq : List Instr} {ll : Nat}

theorem pageCopied_kept (n : Nat) (s : State) (hk : Kept qq ll s) : Kept qq ll (pageCopied n s) := by
  unfold pageCopied
  repeat' first
    | with_reducible assumption
    | refine Kept.upd ?_ rfl (Nat.le_refl _) (fun h => h) (fun h => h) (fun h => h) (fun h => h)

theorem execPageCopyEnd_kept (c : Fin 8) (s : State) (hk : Kept qq ll s) : KeptOut qq ll (execPageCopyEnd c s) := by
  unfold execPageCopyEnd
  repeat' first
    | with_reducible assumption
    | with_reducible refine KeptOut.next ?_
    | with_reducible apply pageCopied_kept
    | split

theorem copiesDone_kept (s : State) (hk : Kept qq ll s) : Kept qq ll (copiesDone s) := by
  unfold copiesDone
  repeat' first
    | with_reducible assumption
    | with_reducible refine kept_foldl (fun _ _ _ => ?_) ?_
    | with_reducible apply pageCopied_kept

theorem cutCore_kept (k : Nat) (s : State) (hk : Kept qq ll s) : Kept qq ll (cutCore k s) := by
  unfold cutCore
  repeat' first
    | with_reducible assumption
    | with_reducible apply poisonAll_kept
    | with_reducible apply setCore_kept

theorem coreOverrun_kept (k : Nat) (s : State) (hk : Kept qq ll s) : Kept qq ll (coreOverrun k s) := by
  unfold coreOverrun
  repeat' first
    | with_reducible assumption
    | with_reducible apply cutCore_kept
    | with_reducible apply fire_kept
    | with_reducible apply logRecord_kept
    | with_reducible refine kept_ite ?_ ?_
    | refine Kept.upd ?_ rfl (Nat.le_refl _) (fun h => h) (fun h => h) (fun h => h) (fun h => h)

theorem overrunSeal_kept (s : State) (hk : Kept qq ll s) : Kept qq ll (overrunSeal s) := by
  unfold overrunSeal
  repeat' first
    | with_reducible assumption
    | with_reducible refine kept_foldl (fun _ _ _ => ?_) ?_
    | with_reducible apply coreOverrun_kept
    | split
    | refine Kept.upd ?_ rfl (Nat.le_refl _) (fun h => h) (fun h => h) (fun h => h) (fun h => h)

theorem overrunEvent_kept (k : Nat) (s : State) (hk : Kept qq ll s) : Kept qq ll (overrunEvent k s) := by
  unfold overrunEvent
  repeat' first
    | with_reducible assumption
    | with_reducible apply fire_kept
    | with_reducible apply logRecord_kept
    | with_reducible refine kept_ite ?_ ?_
    | split

theorem overrunEdge_kept (s : State) (hk : Kept qq ll s) : Kept qq ll (overrunEdge s) := by
  unfold overrunEdge
  repeat' first
    | with_reducible assumption
    | with_reducible refine kept_foldl (fun _ _ _ => ?_) ?_
    | with_reducible apply overrunEvent_kept
    | intro _

theorem busSum_kept (s : State) (hk : Kept qq ll s) : Kept qq ll (busSum s) := by
  unfold busSum
  repeat' first
    | with_reducible assumption
    | refine Kept.upd ?_ rfl (Nat.le_refl _) (fun h => h) (fun h => h) (fun h => h) (fun h => h)

theorem arithCore_kept (k : Nat) (s : State) (hk : Kept qq ll s) : Kept qq ll (arithCore k s) := by
  unfold arithCore
  repeat' first
    | with_reducible assumption
    | with_reducible apply setCore_kept
    | with_reducible apply fire_kept
    | with_reducible refine kept_ite ?_ ?_

theorem arithSeal_kept (s : State) (hk : Kept qq ll s) : Kept qq ll (arithSeal s) := by
  unfold arithSeal
  repeat' first
    | with_reducible assumption
    | with_reducible refine kept_foldl (fun _ _ _ => ?_) ?_
    | with_reducible apply arithCore_kept

theorem candSeal_kept (s : State) (hk : Kept qq ll s) : Kept qq ll (candSeal s) := by
  unfold candSeal
  repeat' first
    | with_reducible assumption
    | refine Kept.upd ?_ rfl (Nat.le_refl _) (fun h => h) (fun h => h) (fun h => h) (fun h => h)

theorem markSeal_kept (s : State) (hk : Kept qq ll s) : Kept qq ll (markSeal s) := by
  unfold markSeal
  repeat' first
    | with_reducible assumption
    | refine Kept.upd ?_ rfl (Nat.le_refl _) (fun h => h) (fun h => h) (fun h => h) (fun h => h)

theorem twoLapSeal_kept (s : State) (hk : Kept qq ll s) : Kept qq ll (twoLapSeal s) := by
  unfold twoLapSeal
  repeat' first
    | with_reducible assumption
    | with_reducible refine kept_foldl (fun _ _ _ => ?_) ?_
    | with_reducible apply unlinkNote_kept
    | with_reducible apply setCtx_kept
    | with_reducible refine kept_ite ?_ ?_

theorem sealLap_kept (s0 : State) (hk : Kept qq ll s0) : Kept qq ll (sealLap s0) := by
  unfold sealLap
  repeat' first
    | with_reducible assumption
    | (intro t; refine kept_have (qq := qq) (ll := ll) (s := t) ?_ (fun _ => ?_); dsimp -zeta only [t]; rotate_left; clear_value t)
    | with_reducible refine kept_foldl (fun _ _ _ => ?_) ?_
    | with_reducible apply decisions_kept
    | with_reducible apply paramsEnter_kept
    | with_reducible apply arithSeal_kept
    | with_reducible apply overrunSeal_kept
    | with_reducible apply quarantineSeal_kept
    | with_reducible apply twoLapSeal_kept
    | refine Kept.upd ?_ rfl (Nat.le_refl _) (fun h => h) (fun h => h) (fun h => h) (fun h => h)

theorem execSeal_kept (s : State) (hk : Kept qq ll s) : KeptOut qq ll (execSeal s) := by
  unfold execSeal
  repeat' first
    | with_reducible assumption
    | with_reducible refine KeptOut.next ?_
    | with_reducible apply sealLap_kept
    | with_reducible refine kept_ite ?_ ?_

theorem countLap_kept (s : State) (hk : Kept qq ll s) : Kept qq ll (countLap s) := by
  unfold countLap
  repeat' first
    | with_reducible assumption
    | refine Kept.upd ?_ rfl (Nat.le_refl _) (fun h => h) (fun h => h) (fun h => h) (fun h => h)

theorem gridChanged_kept (rate : Bool) (s : State) (hk : Kept qq ll s) : Kept qq ll (gridChanged rate s) := by
  unfold gridChanged
  repeat' first
    | with_reducible assumption
    | with_reducible apply reloadKeymaps_kept
    | with_reducible apply usbReattach_kept
    | with_reducible refine kept_ite ?_ ?_
    | refine Kept.upd ?_ rfl (Nat.le_refl _) (fun h => h) (fun h => h) (fun h => h) (fun h => h)

theorem newGrid_kept (s : State) (hk : Kept qq ll s) : Kept qq ll (newGrid s) := by
  unfold newGrid
  repeat' first
    | with_reducible assumption
    | with_reducible apply fire_kept
    | with_reducible apply gridChanged_kept
    | with_reducible refine kept_ite ?_ ?_
    | split
    | refine Kept.upd ?_ rfl (Nat.le_refl _) (fun h => h) (fun h => h) (fun h => h) (fun h => h)

theorem beginLap_kept (s : State) (hk : Kept qq ll s) : Kept qq ll (beginLap s) := by
  unfold beginLap
  repeat' first
    | with_reducible assumption
    | with_reducible apply ppsTick_kept
    | with_reducible apply advance_kept
    | with_reducible apply newGrid_kept
    | with_reducible refine kept_ite ?_ ?_
    | split
    | refine Kept.upd ?_ rfl (Nat.le_refl _) (fun h => h) (fun h => h) (fun h => h) (fun h => h)

theorem swapEdge_kept (s : State) (hk : Kept qq ll s) : Kept qq ll (swapEdge s) := by
  unfold swapEdge
  repeat' first
    | with_reducible assumption
    | refine Kept.upd ?_ rfl (Nat.le_refl _) (fun h => h) (fun h => h) (fun h => h) (fun h => h)

theorem heldEdge_kept (s : State) (hk : Kept qq ll s) : Kept qq ll (heldEdge s) := by
  unfold heldEdge
  repeat' first
    | with_reducible assumption
    | with_reducible refine kept_foldl (fun _ _ _ => ?_) ?_
    | refine Kept.upd ?_ rfl (Nat.le_refl _) (fun h => h) (fun h => h) (fun h => h) (fun h => h)

theorem modeEdge_kept (s : State) (hk : Kept qq ll s) : Kept qq ll (modeEdge s) := by
  unfold modeEdge
  repeat' first
    | with_reducible assumption
    | with_reducible apply enterMode_kept
    | with_reducible apply repairsAfterStart_kept
    | split

theorem saveEdge_kept (s : State) (hk : Kept qq ll s) : Kept qq ll (saveEdge s) := by
  unfold saveEdge
  repeat' first
    | with_reducible assumption
    | with_reducible refine kept_ite ?_ ?_
    | refine Kept.upd ?_ rfl (Nat.le_refl _) (fun h => h) (fun h => h) (fun h => h) (fun h => h)

theorem portNotes_kept (p : Port) (s : State) (hk : Kept qq ll s) : Kept qq ll (portNotes p s) := by
  unfold portNotes
  repeat' first
    | with_reducible assumption
    | with_reducible refine kept_foldl (fun _ _ _ => ?_) ?_
    | with_reducible apply updPort_kept
    | with_reducible apply notifyValue_kept
    | split

theorem appNotes_kept (s : State) (hk : Kept qq ll s) : Kept qq ll (appNotes s) := by
  unfold appNotes
  repeat' first
    | with_reducible assumption
    | with_reducible refine kept_foldl (fun _ _ _ => ?_) ?_
    | with_reducible apply setAppSubs_kept
    | with_reducible apply appSend_kept
    | split

theorem episodeEdge_kept (s : State) (hk : Kept qq ll s) : Kept qq ll (episodeEdge s) := by
  unfold episodeEdge
  repeat' first
    | with_reducible assumption
    | split
    | refine Kept.upd ?_ rfl (Nat.le_refl _) (fun h => h) (fun h => h) (fun h => h) (fun h => h)

theorem starterEdge_kept (s : State) (hk : Kept qq ll s) : Kept qq ll (starterEdge s) := by
  unfold starterEdge
  repeat' first
    | with_reducible assumption
    | refine Kept.upd ?_ rfl (Nat.le_refl _) (fun h => h) (fun h => h) (fun h => h) (fun h => h)

theorem mixEdge_kept (s : State) (hk : Kept qq ll s) : Kept qq ll (mixEdge s) := by
  unfold mixEdge
  repeat' first
    | with_reducible assumption
    | with_reducible apply onMix_kept
    | intro _
    | refine Kept.upd ?_ rfl (Nat.le_refl _) (fun h => h) (fun h => h) (fun h => h) (fun h => h)

theorem deliverInputs_kept (s : State) (hk : Kept qq ll s) : Kept qq ll (deliverInputs s) := by
  unfold deliverInputs
  repeat' first
    | with_reducible assumption
    | with_reducible refine kept_foldl (fun _ _ _ => ?_) ?_
    | with_reducible refine kept_foldl_fst (fun _ _ _ => ?_) ?_
    | intro _
    | refine Kept.upd ?_ rfl (Nat.le_refl _) (fun h => h) (fun h => h) (fun h => h) (by first | exact fun h => h | exact Tbl.wf_put _ _)

theorem zeroInput_kept (c : Nat) (src : Nat) (first : Nat) (n : Nat) (s : State) (hk : Kept qq ll s) : Kept qq ll (zeroInput c src first n s) := by
  unfold zeroInput
  repeat' first
    | with_reducible assumption
    | with_reducible refine kept_foldl (fun _ _ _ => ?_) ?_
    | with_reducible refine kept_foldl_fst (fun _ _ _ => ?_) ?_
    | split
    | intro _
    | refine Kept.upd ?_ rfl (Nat.le_refl _) (fun h => h) (fun h => h) (fun h => h) (by first | exact fun h => h | exact Tbl.wf_put _ _)

theorem coreEdge_kept (k : Nat) (s : State) (hk : Kept qq ll s) : Kept qq ll (coreEdge k s) := by
  unfold coreEdge
  repeat' first
    | with_reducible assumption
    | with_reducible apply updCore_kept

theorem coresEdge_kept (s : State) (hk : Kept qq ll s) : Kept qq ll (coresEdge s) := by
  unfold coresEdge
  repeat' first
    | with_reducible assumption
    | with_reducible refine kept_foldl (fun _ _ _ => ?_) ?_
    | with_reducible apply coreEdge_kept

theorem dividerEdge_kept (s : State) (hk : Kept qq ll s) : Kept qq ll (dividerEdge s) := by
  unfold dividerEdge
  repeat' first
    | with_reducible assumption
    | with_reducible apply fire_kept
    | with_reducible refine kept_ite ?_ ?_

theorem swapBank_kept (s : State) (hk : Kept qq ll s) : Kept qq ll (swapBank s) := by
  unfold swapBank
  repeat' first
    | with_reducible assumption
    | split
    | refine Kept.upd ?_ rfl (Nat.le_refl _) (fun h => h) (fun h => h) (fun h => h) (fun h => h)

theorem manifestEdge_kept (s : State) (hk : Kept qq ll s) : Kept qq ll (manifestEdge s) := by
  unfold manifestEdge
  repeat' first
    | with_reducible assumption
    | with_reducible apply routeBatches_kept
    | with_reducible apply applyGiven_kept
    | with_reducible apply swapBank_kept

theorem edgeLap_kept (s0 : State) (hk : Kept qq ll s0) : Kept qq ll (edgeLap s0) := by
  unfold edgeLap
  repeat' first
    | with_reducible assumption
    | with_reducible apply sealLap_kept
    | with_reducible apply countLap_kept
    | with_reducible apply gridWrites_kept
    | with_reducible apply completeBatches_kept
    | with_reducible apply overrunEdge_kept
    | with_reducible apply advance_kept
    | with_reducible apply manifestEdge_kept
    | with_reducible apply heldEdge_kept
    | with_reducible apply swapEdge_kept
    | with_reducible apply beginLap_kept
    | with_reducible apply poisonedLeave_kept
    | with_reducible apply saveEdge_kept
    | with_reducible apply serviceEdge_kept
    | with_reducible apply modeEdge_kept
    | with_reducible apply appNotes_kept
    | with_reducible apply portNotes_kept
    | with_reducible apply deliverInputs_kept
    | with_reducible apply coresEdge_kept
    | with_reducible apply mixEdge_kept
    | with_reducible apply starterEdge_kept
    | with_reducible apply episodeEdge_kept
    | with_reducible apply keysAtEdge_kept
    | with_reducible apply wakeEvents_kept
    | with_reducible apply dividerEdge_kept
    | with_reducible refine kept_ite ?_ ?_
    | split
    | intro _
    | refine Kept.upd ?_ rfl (Nat.le_refl _) (fun h => h) (fun h => h) (fun h => h) (fun h => h)

theorem execLapEdge_kept (s : State) (hk : Kept qq ll s) : KeptOut qq ll (execLapEdge s) := by
  unfold execLapEdge
  repeat' first
    | with_reducible assumption
    | with_reducible refine KeptOut.next ?_
    | with_reducible apply edgeLap_kept
    | with_reducible refine kept_ite ?_ ?_

theorem execHeadResident_kept (obj : Fin 1048576) (s : State) (hk : Kept qq ll s) : KeptOut qq ll (execHeadResident obj s) := by
  unfold execHeadResident
  repeat' first
    | with_reducible assumption
    | with_reducible refine KeptOut.next ?_
    | with_reducible apply stampHeads_kept
    | with_reducible apply headResident_kept

theorem execPrefixCopyDone_kept (m : Fin 1024) (s : State) (hk : Kept qq ll s) : KeptOut qq ll (execPrefixCopyDone m s) := by
  unfold execPrefixCopyDone
  repeat' first
    | with_reducible assumption
    | with_reducible refine KeptOut.next ?_
    | with_reducible apply stampHeads_kept
    | with_reducible apply prefixCopyDone_kept

theorem burstLost_kept (b : Burst) (ring : Nat) (first : Nat) (n : Nat) (s : State) (hk : Kept qq ll s) : Kept qq ll (burstLost b ring first n s) := by
  unfold burstLost
  repeat' first
    | with_reducible assumption
    | with_reducible refine kept_foldl (fun _ _ _ => ?_) ?_
    | with_reducible refine kept_foldl_fst (fun _ _ _ => ?_) ?_
    | with_reducible apply onMix_kept
    | with_reducible apply setRing_kept
    | with_reducible apply zeroInput_kept
    | with_reducible refine kept_ite ?_ ?_
    | split
    | intro _
    | refine Kept.upd ?_ rfl (Nat.le_refl _) (fun h => h) (fun h => h) (fun h => h) (fun h => h)

theorem runBurst_kept (bad : Bool) (ring : Nat) (first : Nat) (n : Nat) (s : State) (hk : Kept qq ll s) : Kept qq ll (runBurst bad ring first n s) := by
  unfold runBurst
  repeat' first
    | with_reducible assumption
    | with_reducible apply burstLost_kept
    | with_reducible apply logRecord_kept
    | with_reducible refine kept_ite ?_ ?_
    | split
    | intro _
    | refine Kept.upd ?_ rfl (Nat.le_refl _) (fun h => h) (fun h => h) (fun h => h) (fun h => h)

theorem execRelayBurst_kept (bad : Bool) (ring : Fin 4096) (first : Nat) (n : Nat) (s : State) (hk : Kept qq ll s) : KeptOut qq ll (execRelayBurst bad ring first n s) := by
  unfold execRelayBurst
  repeat' first
    | with_reducible assumption
    | with_reducible refine KeptOut.next ?_
    | with_reducible apply runBurst_kept
    | with_reducible refine kept_ite ?_ ?_
    | split

theorem execRelayPacket_kept (lane : Fin 4) (waiting : BitVec 13) (beats : Fin 16) (s : State) (hk : Kept qq ll s) : KeptOut qq ll (execRelayPacket lane waiting beats s) := by
  unfold execRelayPacket
  repeat' first
    | with_reducible assumption
    | with_reducible refine KeptOut.next ?_
    | split
    | refine Kept.upd ?_ rfl (Nat.le_refl _) (fun h => h) (fun h => h) (fun h => h) (fun h => h)

end Sys2Proof.Machine
end

