-- ==== Sys2Proof/Laws/KeptBcp.lean ====
section
/-! SUPPORT. The operations of Machine/Bcp.lean keep what Kept names. -/

namespace Sys2Proof.Machine

variable {qq : List Instr} {ll : Nat}

theorem kept_ite_s {c : Prop} [Decidable c] {a b : Answer} (ha : Kept qq ll a.s) (hb : Kept qq ll b.s) :
    Kept qq ll (if c then a else b).s := by
  split
  · exact ha
  · exact hb

theorem failed_kept (e : Status) (s : State) (hk : Kept qq ll s) : Kept qq ll (failed e s).s := hk

theorem askRead_kept (who : Requester) (limit : Nat) (b : Bytes) (s : State) (hk : Kept qq ll s) : Kept qq ll (askRead who limit b s).s := by
  unfold askRead
  repeat' first
    | with_reducible assumption
    | with_reducible apply failed_kept
    | with_reducible refine kept_ite_s ?_ ?_
    | split

theorem askWrite_kept (who : Requester) (b : Bytes) (s : State) (hk : Kept qq ll s) : Kept qq ll (askWrite who b s).s := by
  unfold askWrite
  repeat' first
    | with_reducible assumption
    | with_reducible apply failed_kept
    | with_reducible apply odWrite_kept
    | with_reducible refine kept_ite_s ?_ ?_

theorem askReadBlock_kept (who : Requester) (limit : Nat) (b : Bytes) (s : State) (hk : Kept qq ll s) : Kept qq ll (askReadBlock who limit b s).s := by
  unfold askReadBlock
  repeat' first
    | with_reducible assumption
    | with_reducible apply failed_kept
    | with_reducible refine kept_ite_s ?_ ?_
    | split

theorem askWriteBlock_kept (who : Requester) (b : Bytes) (s : State) (hk : Kept qq ll s) : Kept qq ll (askWriteBlock who b s).s := by
  unfold askWriteBlock
  repeat' first
    | with_reducible assumption
    | with_reducible apply failed_kept
    | with_reducible apply odRun_kept
    | with_reducible apply odSegment_kept
    | with_reducible apply updPort_kept
    | with_reducible refine kept_ite_s ?_ ?_
    | split

theorem askOpen_kept (who : Requester) (b : Bytes) (s : State) (hk : Kept qq ll s) : Kept qq ll (askOpen who b s).s := by
  unfold askOpen
  repeat' first
    | with_reducible assumption
    | with_reducible apply openManifest_kept
    | with_reducible refine kept_ite_s ?_ ?_

theorem askAdd_kept (who : Requester) (b : Bytes) (s : State) (hk : Kept qq ll s) : Kept qq ll (askAdd who b s).s := by
  unfold askAdd
  repeat' first
    | with_reducible assumption
    | with_reducible apply addManifest_kept
    | with_reducible refine kept_ite_s ?_ ?_

theorem askCommit_kept (who : Requester) (b : Bytes) (reply : Option (Nat × Nat)) (s : State) (hk : Kept qq ll s) : Kept qq ll (askCommit who b reply s).s := by
  unfold askCommit
  repeat' first
    | with_reducible assumption
    | with_reducible apply commitManifest_kept
    | with_reducible refine kept_ite_s ?_ ?_

theorem askAbort_kept (who : Requester) (b : Bytes) (s : State) (hk : Kept qq ll s) : Kept qq ll (askAbort who b s).s := by
  unfold askAbort
  repeat' first
    | with_reducible assumption
    | with_reducible apply abortManifest_kept
    | with_reducible refine kept_ite_s ?_ ?_

theorem askSubscribe_kept (who : Requester) (b : Bytes) (s : State) (hk : Kept qq ll s) : Kept qq ll (askSubscribe who b s).s := by
  unfold askSubscribe
  repeat' first
    | with_reducible assumption
    | with_reducible apply failed_kept
    | with_reducible apply updPort_kept
    | with_reducible refine kept_ite_s ?_ ?_
    | split

theorem askSem_kept (take : Bool) (who : Requester) (b : Bytes) (s : State) (hk : Kept qq ll s) : Kept qq ll (askSem take who b s).s := by
  unfold askSem
  repeat' first
    | with_reducible assumption
    | with_reducible apply failed_kept
    | with_reducible apply semTake_kept
    | with_reducible apply semGive_kept
    | split

theorem ask_kept (who : Requester) (msg : Nat) (limit : Nat) (b : Bytes) (reply : Option (Nat × Nat)) (s : State) (hk : Kept qq ll s) : Kept qq ll (ask who msg limit b reply s).s := by
  unfold ask
  repeat' first
    | with_reducible assumption
    | with_reducible apply failed_kept
    | with_reducible apply askRead_kept
    | with_reducible apply askWrite_kept
    | with_reducible apply askReadBlock_kept
    | with_reducible apply askWriteBlock_kept
    | with_reducible apply askOpen_kept
    | with_reducible apply askAdd_kept
    | with_reducible apply askCommit_kept
    | with_reducible apply askAbort_kept
    | with_reducible apply askSubscribe_kept
    | with_reducible apply askSem_kept
    | split

theorem arrive_kept (p : Port) (a : Arrival) (s : State) (hk : Kept qq ll s) : Kept qq ll (arrive p a s) := by
  unfold arrive
  repeat' first
    | with_reducible assumption
    | with_reducible apply portCount_kept
    | with_reducible apply updPort_kept
    | with_reducible apply fire_kept
    | with_reducible refine kept_ite ?_ ?_
    | split
    | intro _
    | refine Kept.upd ?_ rfl (Nat.le_refl _) (fun h => h) (fun h => h) (fun h => h) (fun h => h)

theorem restartLink_kept (p : Port) (s : State) (hk : Kept qq ll s) : Kept qq ll (restartLink p s) := by
  unfold restartLink
  repeat' first
    | with_reducible assumption
    | with_reducible apply updPort_kept

theorem replyBad_kept (p : Port) (m : Bytes) (e : Status) (s : State) (hk : Kept qq ll s) : Kept qq ll (replyBad p m e s) := by
  unfold replyBad
  repeat' first
    | with_reducible assumption
    | with_reducible apply answered_kept
    | with_reducible apply sendPlain_kept
    | with_reducible refine kept_ite ?_ ?_

theorem settleAfter_kept (p : Option Port) (before : Nat) (s : State) (hk : Kept qq ll s) : Kept qq ll (settleAfter p before s) := by
  unfold settleAfter
  repeat' first
    | with_reducible assumption
    | with_reducible apply settleBinding_kept
    | with_reducible refine kept_ite ?_ ?_

theorem serve_kept (p : Port) (plain : Bool) (a : Arrival) (s : State) (hk : Kept qq ll s) : Kept qq ll (serve p plain a s) := by
  unfold serve
  extract_lets m msg seq token src1 src2 bound s1 r before src3 src4
  have hb : Kept qq ll bound := by
    refine kept_ite ?_ hk
    have h : Kept qq ll src1 := updPort_kept s .b _ hk
    exact ⟨h.pending, h.life, h.claims, ⟨h.mem.dram, h.mem.cram, h.mem.csm⟩⟩
  have h1 : Kept qq ll s1 := portCount_kept _ _ _ (restartLink_kept _ _ hb)
  have hr : Kept qq ll r.s := ask_kept _ _ _ _ _ _ h1
  refine kept_ite (kept_ite (answered_kept _ _ _ hk) (sendReply_kept _ _ _ _ _ _ _ _ hk)) (kept_ite hr (kept_ite ?_
    (kept_ite (answered_kept _ _ _ hr) (settleAfter_kept _ _ _ (sendReply_kept _ _ _ _ _ _ _ _ hr)))))
  exact ⟨hr.pending, hr.life, hr.claims, ⟨hr.mem.dram, hr.mem.cram, hr.mem.csm⟩⟩

theorem handle_kept (p : Port) (a : Arrival) (s : State) (hk : Kept qq ll s) : Kept qq ll (handle p a s) := by
  unfold handle
  extract_lets m auth src s1
  have h0 : Kept qq ll { s with dict := { s.dict with authFail := sat32 s.dict.authFail } } :=
    ⟨hk.pending, hk.life, hk.claims, ⟨hk.mem.dram, hk.mem.cram, hk.mem.csm⟩⟩
  have h1 : Kept qq ll s1 := kept_ite (updPort_kept _ _ _ hk) hk
  refine kept_ite (portCount_kept _ _ _ hk) (kept_ite (replyBad_kept _ _ _ _ (portCount_kept _ _ _ hk))
    (kept_ite (replyBad_kept _ _ _ _ hk) (kept_ite (replyBad_kept _ _ _ _ (fire_kept _ h0)) ?_)))
  split
  · exact pushOut_kept _ _ _ (portCount_kept _ _ _ (restartLink_kept _ _ h1))
  · exact serve_kept _ _ _ _ h1

theorem takeHead_kept (p : Port) (rest : List Arrival) (s : State) (hk : Kept qq ll s) : Kept qq ll (takeHead p rest s) := by
  unfold takeHead
  repeat' first
    | with_reducible assumption
    | with_reducible apply updPort_kept
    | intro _
    | refine Kept.upd ?_ rfl (Nat.le_refl _) (fun h => h) (fun h => h) (fun h => h) (fun h => h)

theorem serveHead_kept (p : Port) (row : Nat) (s : State) (hk : Kept qq ll s) : Kept qq ll (serveHead p row s) := by
  unfold serveHead
  repeat' first
    | with_reducible assumption
    | with_reducible apply handle_kept
    | with_reducible apply takeHead_kept
    | with_reducible refine kept_ite ?_ ?_
    | split

theorem serveBody_kept (who : Requester) (row : Nat) (b : Bytes) (s : State) (hk : Kept qq ll s) :
    Kept qq ll (serveBody who row b s) :=
  settleAfter_kept _ _ _ (answered_kept _ _ _ (ask_kept _ _ _ _ _ _ hk))

theorem bcp_kept (row : Nat) (r : Request) (s : State) (hk : Kept qq ll s) : KeptOut qq ll (bcp row r s) := by
  unfold bcp
  repeat' first
    | with_reducible assumption
    | with_reducible refine KeptOut.next ?_
    | with_reducible apply serveBody_kept
    | with_reducible apply serveHead_kept
    | with_reducible apply rxFrame_kept
    | with_reducible apply portCount_kept
    | with_reducible apply arrive_kept
    | with_reducible refine kept_ite ?_ ?_
    | split

theorem execBcpRead_kept (r : Request) (s : State) (hk : Kept qq ll s) : KeptOut qq ll (execBcpRead r s) := by
  unfold execBcpRead
  repeat' first
    | with_reducible assumption
    | with_reducible apply bcp_kept

theorem execBcpWrite_kept (r : Request) (s : State) (hk : Kept qq ll s) : KeptOut qq ll (execBcpWrite r s) := by
  unfold execBcpWrite
  repeat' first
    | with_reducible assumption
    | with_reducible apply bcp_kept

theorem execBcpReadBlock_kept (r : Request) (s : State) (hk : Kept qq ll s) : KeptOut qq ll (execBcpReadBlock r s) := by
  unfold execBcpReadBlock
  repeat' first
    | with_reducible assumption
    | with_reducible apply bcp_kept

theorem execWriteBlockRun_kept (r : Request) (s : State) (hk : Kept qq ll s) : KeptOut qq ll (execWriteBlockRun r s) := by
  unfold execWriteBlockRun
  repeat' first
    | with_reducible assumption
    | with_reducible apply bcp_kept

theorem execWriteBlockSegment_kept (r : Request) (s : State) (hk : Kept qq ll s) : KeptOut qq ll (execWriteBlockSegment r s) := by
  unfold execWriteBlockSegment
  repeat' first
    | with_reducible assumption
    | with_reducible apply bcp_kept

theorem execWriteBlockFinal_kept (r : Request) (s : State) (hk : Kept qq ll s) : KeptOut qq ll (execWriteBlockFinal r s) := by
  unfold execWriteBlockFinal
  repeat' first
    | with_reducible assumption
    | with_reducible apply bcp_kept

theorem execManifestOpen_kept (r : Request) (s : State) (hk : Kept qq ll s) : KeptOut qq ll (execManifestOpen r s) := by
  unfold execManifestOpen
  repeat' first
    | with_reducible assumption
    | with_reducible apply bcp_kept

theorem execManifestAdd_kept (r : Request) (s : State) (hk : Kept qq ll s) : KeptOut qq ll (execManifestAdd r s) := by
  unfold execManifestAdd
  repeat' first
    | with_reducible assumption
    | with_reducible apply bcp_kept

theorem execManifestCommit_kept (r : Request) (s : State) (hk : Kept qq ll s) : KeptOut qq ll (execManifestCommit r s) := by
  unfold execManifestCommit
  repeat' first
    | with_reducible assumption
    | with_reducible apply bcp_kept

theorem execManifestAbort_kept (r : Request) (s : State) (hk : Kept qq ll s) : KeptOut qq ll (execManifestAbort r s) := by
  unfold execManifestAbort
  repeat' first
    | with_reducible assumption
    | with_reducible apply bcp_kept

theorem execSubscribeChange_kept (r : Request) (s : State) (hk : Kept qq ll s) : KeptOut qq ll (execSubscribeChange r s) := by
  unfold execSubscribeChange
  repeat' first
    | with_reducible assumption
    | with_reducible apply bcp_kept

theorem execSubscribePeriodic_kept (r : Request) (s : State) (hk : Kept qq ll s) : KeptOut qq ll (execSubscribePeriodic r s) := by
  unfold execSubscribePeriodic
  repeat' first
    | with_reducible assumption
    | with_reducible apply bcp_kept

theorem execSubscribeCancel_kept (r : Request) (s : State) (hk : Kept qq ll s) : KeptOut qq ll (execSubscribeCancel r s) := by
  unfold execSubscribeCancel
  repeat' first
    | with_reducible assumption
    | with_reducible apply bcp_kept

theorem execSemTake_kept (r : Request) (s : State) (hk : Kept qq ll s) : KeptOut qq ll (execSemTake r s) := by
  unfold execSemTake
  repeat' first
    | with_reducible assumption
    | with_reducible apply bcp_kept

theorem execSemGive_kept (r : Request) (s : State) (hk : Kept qq ll s) : KeptOut qq ll (execSemGive r s) := by
  unfold execSemGive
  repeat' first
    | with_reducible assumption
    | with_reducible apply bcp_kept

theorem execBcpReservedMsg_kept (r : Request) (s : State) (hk : Kept qq ll s) : KeptOut qq ll (execBcpReservedMsg r s) := by
  unfold execBcpReservedMsg
  repeat' first
    | with_reducible assumption
    | with_reducible apply bcp_kept

theorem execBcpOtherPeerDatagram_kept (ip : BitVec 32) (udp : BitVec 16) (s : State) (hk : Kept qq ll s) : KeptOut qq ll (execBcpOtherPeerDatagram ip udp s) := by
  unfold execBcpOtherPeerDatagram
  repeat' first
    | with_reducible assumption
    | with_reducible refine KeptOut.next ?_
    | with_reducible apply portCount_kept
    | with_reducible refine kept_ite ?_ ?_

theorem qspi_kept (p : Port) (f : State → State) (s : State) (hk : Kept qq ll s) (hf : ∀ t, Kept qq ll t → Kept qq ll (f t)) :
    KeptOut qq ll (qspi p f s) := KeptOut.next (kept_ite (hf _ (restartLink_kept p s hk)) hk)

theorem execWriteMsg_kept (p : Port) (b : List (BitVec 8)) (s : State) (hk : Kept qq ll s) : KeptOut qq ll (execWriteMsg p b s) := by
  unfold execWriteMsg
  repeat' first
    | with_reducible assumption
    | with_reducible refine qspi_kept _ _ _ ?_ (fun _ _ => ?_)
    | with_reducible apply portCount_kept
    | with_reducible apply arrive_kept
    | with_reducible refine kept_ite ?_ ?_

theorem leaveQueue_kept (p : Port) (s : State) (hk : Kept qq ll s) : Kept qq ll (leaveQueue p s) := by
  unfold leaveQueue
  repeat' first
    | with_reducible assumption
    | with_reducible apply updPort_kept
    | with_reducible apply startHold_kept
    | with_reducible refine kept_ite ?_ ?_

theorem execReadMsg_kept (p : Port) (n : Nat) (s : State) (hk : Kept qq ll s) : KeptOut qq ll (execReadMsg p n s) := by
  unfold execReadMsg
  refine qspi_kept _ _ _ hk (fun t ht => ?_)
  have h1 : ∀ b, Kept qq ll { t with sent := t.sent ++ [Emission.qspi (portNum p) (driven n b)] } :=
    fun b => ⟨ht.pending, ht.life, ht.claims, ⟨ht.mem.dram, ht.mem.cram, ht.mem.csm⟩⟩
  have h2 := fun b => leaveQueue_kept p _ (h1 b)
  exact kept_ite (h1 _) (kept_ite (settleBinding_kept _ (h2 _)) (h2 _))

theorem execQspiStatus_kept (p : Port) (n : Nat) (s : State) (hk : Kept qq ll s) : KeptOut qq ll (execQspiStatus p n s) := by
  unfold execQspiStatus
  repeat' first
    | with_reducible assumption
    | with_reducible refine qspi_kept _ _ _ ?_ (fun _ _ => ?_)
    | refine Kept.upd ?_ rfl (Nat.le_refl _) (fun h => h) (fun h => h) (fun h => h) (fun h => h)

theorem execResetPort_kept (p : Port) (s : State) (hk : Kept qq ll s) : KeptOut qq ll (execResetPort p s) := by
  unfold execResetPort
  repeat' first
    | with_reducible assumption
    | with_reducible refine qspi_kept _ _ _ ?_ (fun _ _ => ?_)
    | with_reducible apply settleBinding_kept
    | with_reducible apply resetPort_kept

theorem execQspiReservedCmd_kept (p : Port) (s : State) (hk : Kept qq ll s) : KeptOut qq ll (execQspiReservedCmd p s) := by
  unfold execQspiReservedCmd
  repeat' first
    | with_reducible assumption
    | with_reducible refine qspi_kept _ _ _ ?_ (fun _ _ => ?_)
    | with_reducible apply portCount_kept

theorem execLinkLossTimeout_kept (p : Port) (t : Nat) (s : State) (hk : Kept qq ll s) : KeptOut qq ll (execLinkLossTimeout p t s) := by
  unfold execLinkLossTimeout
  repeat' first
    | with_reducible assumption
    | with_reducible refine KeptOut.next ?_
    | with_reducible apply updPort_kept
    | with_reducible apply advance_kept
    | with_reducible apply resetPort_kept
    | with_reducible refine kept_ite ?_ ?_

theorem execNotifyHoldoffExpiry_kept (p : Port) (s : State) (hk : Kept qq ll s) : KeptOut qq ll (execNotifyHoldoffExpiry p s) := by
  unfold execNotifyHoldoffExpiry
  repeat' first
    | with_reducible assumption
    | with_reducible refine KeptOut.next ?_
    | with_reducible apply updPort_kept
    | with_reducible apply advance_kept
    | with_reducible apply sendQueue_kept
    | with_reducible refine kept_ite ?_ ?_

theorem execSaveDone_kept (s : State) (hk : Kept qq ll s) : KeptOut qq ll (execSaveDone s) := by
  unfold execSaveDone
  repeat' first
    | with_reducible assumption
    | with_reducible refine KeptOut.next ?_
    | with_reducible apply saveCommit_kept
    | with_reducible apply appWakes_kept
    | with_reducible apply appRet_kept
    | with_reducible apply sendReply_kept
    | split

end Sys2Proof.Machine
end

