-- ==== Sys2Proof/Laws/KeptDrvMem.lean ====
section
/-! SUPPORT. The operations of Machine/DrvMem.lean keep what Kept names. -/

namespace Sys2Proof.Machine

variable {qq : List Instr} {ll : Nat}

theorem cramWrite_kept (d off : Nat) (bs : Bytes) (s : State) (hk : Kept qq ll s) : Kept qq ll (cramWrite d off bs s) :=
  ⟨hk.pending, hk.life, hk.claims, ⟨hk.mem.dram, Tbl.wf_putAll off bs hk.mem.cram, hk.mem.csm⟩⟩

theorem SbEntry.each_kept (e : SbEntry) (f : Nat → Byte → State → State) (s : State) (hk : Kept qq ll s)
    (hf : ∀ n b t, Kept qq ll t → Kept qq ll (f n b t)) : Kept qq ll (e.each f s) :=
  kept_foldl (fun _ _ h => hf _ _ _ h) hk

theorem sbWrite_kept (d : Nat) (e : SbEntry) (s : State) (hk : Kept qq ll s) : Kept qq ll (sbWrite d e s) := by
  unfold sbWrite
  repeat' first
    | with_reducible assumption
    | with_reducible refine SbEntry.each_kept _ _ _ ?_ (fun _ _ _ _ => ?_)
    | lift_lets
    | with_reducible refine kept_foldl (fun _ _ _ => ?_) ?_
    | with_reducible apply cramWrite_kept
    | with_reducible apply devWrite_kept
    | with_reducible apply setDrv_kept
    | with_reducible apply dramWrite_kept
    | split
    | intro _

theorem sbDrain_kept (d : Nat) (s : State) (hk : Kept qq ll s) : Kept qq ll (sbDrain d s) := by
  unfold sbDrain
  repeat' first
    | with_reducible assumption
    | lift_lets
    | with_reducible apply sbWrite_kept
    | with_reducible apply setDrv_kept
    | split
    | intro _

theorem sbDrainN_kept (d n : Nat) (s : State) (hk : Kept qq ll s) : Kept qq ll (sbDrainN d n s) := by
  induction n generalizing s with
  | zero => exact hk
  | succ n ih =>
    unfold sbDrainN
    split
    · exact hk
    · exact kept_ite (ih _ (sbDrain_kept _ _ hk)) (sbDrain_kept _ _ hk)

theorem dropLost_kept (d : Nat) (a : Nat) (s : State) (hk : Kept qq ll s) : Kept qq ll (dropLost d a s) := by
  unfold dropLost
  repeat' first
    | with_reducible assumption
    | with_reducible apply setDrv_kept
    | with_reducible refine kept_ite ?_ ?_
    | split

theorem touchLine_kept (d : Nat) (a : Nat) (s : State) (hk : Kept qq ll s) : Kept qq ll (touchLine d a s) := by
  unfold touchLine
  repeat' first
    | with_reducible assumption
    | with_reducible apply setDrv_kept
    | with_reducible refine kept_ite ?_ ?_
    | split

theorem readParts_kept (d f a n : Nat) (got : Bytes) (dst : Nat × Bool × Nat) (s : State) (hk : Kept qq ll s) :
    Kept qq ll (readParts d f a n got dst s).2 := by
  induction f generalizing a n got s with
  | zero => exact hk
  | succ f ih =>
    unfold readParts
    refine kept_ite_snd hk ?_
    have h1 := dropLost_kept d a s hk
    refine kept_ite_snd (kept_ite (cramRecord_kept _ _ h1) h1) ?_
    split
    · exact ih _ _ _ _ (touchLine_kept _ _ _ h1)
    · exact kept_ite_snd (devRead_kept _ _ _ h1) (setDrv_kept _ _ _ h1)

theorem drvLoad_kept (d a n rd : Nat) (sext : Bool) (s : State) (hk : Kept qq ll s) : Kept qq ll (drvLoad d a n rd sext s).2 := by
  have h1 : ∀ k, Kept qq ll (sbDrainN d k s) := fun k => sbDrainN_kept _ _ _ hk
  unfold drvLoad
  dsimp only
  split
  · exact hk
  · refine kept_ite_snd (kept_ite_snd (h1 _) (readParts_kept _ _ _ _ _ _ _ (h1 _))) ?_
    split
    · exact hk
    · exact kept_ite_snd (h1 _) (readParts_kept _ _ _ _ _ _ _ (h1 _))

theorem drvStore_kept (d a : Nat) (bs : Bytes) (s : State) (hk : Kept qq ll s) :
    Kept qq ll (drvStore d a bs s).2 ∧ KeptOpt qq ll (drvStore d a bs s).1 := by
  unfold drvStore
  split
  · exact ⟨hk, KeptOpt.some (updDrv_kept _ _ _ hk)⟩
  · have h1 := sbDrainN_kept d 2 s hk
    dsimp only
    split
    · exact ⟨h1, KeptOpt.some (updDrv_kept _ _ _ h1)⟩
    · exact ⟨h1, KeptOpt.none⟩

end Sys2Proof.Machine
end

