-- ==== Sys2Proof/Laws/KeptDrvExc.lean ====
section
/-! SUPPORT. The operations of Machine/DrvExc.lean keep what Kept names. -/

namespace Sys2Proof.Machine

variable {qq : List Instr} {ll : Nat}

theorem descRecord_kept (d : Nat) (k : Nat) (s : State) (hk : Kept qq ll s) : Kept qq ll (descRecord d k s) := by
  unfold descRecord
  repeat' first
    | with_reducible assumption
    | with_reducible apply cramRecord_kept
    | with_reducible refine kept_ite ?_ ?_

theorem frameWrite_kept (d : Nat) (a : Nat) (bs : Bytes) (s : State) (hk : Kept qq ll s) : Kept qq ll (frameWrite d a bs s) := by
  unfold frameWrite
  repeat' first
    | with_reducible assumption
    | with_reducible apply updDrv_kept
    | with_reducible apply cramWrite_kept

theorem doubleFault_kept (d : Nat) (k : Nat) (reason : Nat) (epc : BitVec 32) (esr : BitVec 32) (s0 : State) (hk : Kept qq ll s0) : Kept qq ll (doubleFault d k reason epc esr s0) := by
  unfold doubleFault
  repeat' first
    | with_reducible assumption
    | with_reducible apply descRecord_kept
    | with_reducible apply checkstop_kept
    | with_reducible apply frameWrite_kept
    | with_reducible apply updDrv_kept
    | with_reducible refine kept_ite ?_ ?_

theorem drvEnter_kept (d : Nat) (k : Nat) (epc : BitVec 32) (esr : BitVec 32) (efa : BitVec 32) (s0 : State) (hk : Kept qq ll s0) : Kept qq ll (drvEnter d k epc esr efa s0) := by
  unfold drvEnter
  repeat' first
    | with_reducible assumption
    | lift_lets
    | with_reducible apply checkstop_kept
    | with_reducible apply descRecord_kept
    | with_reducible apply doubleFault_kept
    | with_reducible apply appFault_kept
    | with_reducible apply frameWrite_kept
    | with_reducible apply updDrv_kept
    | with_reducible refine kept_ite ?_ ?_
    | split

theorem drvArith_kept (d : Nat) (s : State) (hk : Kept qq ll s) : Kept qq ll (drvArith d s) := by
  unfold drvArith
  repeat' first
    | with_reducible assumption
    | lift_lets
    | with_reducible apply drvEnter_kept
    | with_reducible apply setDrv_kept
    | split
    | intro _

theorem arithRaise_kept (d : Nat) (at_ : Nat) (kind : Nat) (s : State) (hk : Kept qq ll s) : Kept qq ll (arithRaise d at_ kind s) := by
  unfold arithRaise
  repeat' first
    | with_reducible assumption
    | with_reducible apply setDrv_kept
    | with_reducible apply drvEnter_kept
    | with_reducible refine kept_ite ?_ ?_

theorem drvWatchdog_kept (d : Nat) (s : State) (hk : Kept qq ll s) : Kept qq ll (drvWatchdog d s) := by
  unfold drvWatchdog
  repeat' first
    | with_reducible assumption
    | with_reducible apply drvArith_kept
    | with_reducible apply drvEnter_kept
    | with_reducible apply setDrv_kept
    | with_reducible refine kept_ite ?_ ?_

theorem drvRaise_kept (d : Nat) (k : Nat) (epc : BitVec 32) (esr : BitVec 32) (efa : BitVec 32) (s : State) (hk : Kept qq ll s) : Kept qq ll (drvRaise d k epc esr efa s) := by
  unfold drvRaise
  repeat' first
    | with_reducible assumption
    | with_reducible apply drvArith_kept
    | with_reducible apply drvEnter_kept
    | with_reducible refine kept_ite ?_ ?_

end Sys2Proof.Machine
end

