-- ==== Sys2Proof/Laws/KeptDrvExec.lean ====
section
/-! SUPPORT. The operations of Machine/DrvExec.lean keep what Kept names. -/

namespace Sys2Proof.Machine

variable {qq : List Instr} {ll : Nat}

theorem crValue_kept (d n : Nat) (s : State) (hk : Kept qq ll s) : Kept qq ll (crValue d n s).2 := by
  unfold crValue
  dsimp only
  split <;> first | exact hk | (dsimp only; exact updDrv_kept _ _ _ (takeFree_kept s hk))

theorem drvNext_kept (d : Nat) (f : Drover → Drover) (s : State) (hk : Kept qq ll s) : Kept qq ll (drvNext d f s) := by
  unfold drvNext
  repeat' first
    | with_reducible assumption
    | with_reducible apply updDrv_kept

theorem drvStep_kept (o : DrvOp) (eff : Nat → Drover → DrvWord → State → State) (d : Nat) (s : State) (hk : Kept qq ll s)
    (hf : ∀ d x i t, Kept qq ll t → Kept qq ll (eff d x i t)) : Kept qq ll (drvStep o eff d s) := by
  unfold drvStep
  refine kept_ite hk (kept_ite (kept_ite (drvWatchdog_kept _ _ hk) (drvArith_kept _ _ hk)) ?_)
  split
  · exact kept_ite (drvRaise_kept _ _ _ _ _ _ hk) hk
  · exact kept_ite (hf _ _ _ _ (setDrv_kept _ _ _ hk)) hk
  · exact hk

theorem effR_kept (f : BitVec 32 → BitVec 32 → BitVec 32) (d : Nat) (x : Drover) (i : DrvWord) (s : State) (hk : Kept qq ll s) : Kept qq ll (effR f d x i s) := by
  unfold effR
  repeat' first
    | with_reducible assumption
    | with_reducible apply drvNext_kept

theorem effI_kept (f : BitVec 32 → DrvWord → BitVec 32) (d : Nat) (x : Drover) (i : DrvWord) (s : State) (hk : Kept qq ll s) : Kept qq ll (effI f d x i s) := by
  unfold effI
  repeat' first
    | with_reducible assumption
    | with_reducible apply drvNext_kept

theorem effTrap_kept (f : BitVec 32 → BitVec 32 → BitVec 32) (kind : BitVec 32 → BitVec 32 → Option Nat) (d : Nat) (x : Drover) (i : DrvWord) (s : State) (hk : Kept qq ll s) : Kept qq ll (effTrap f kind d x i s) := by
  unfold effTrap
  repeat' first
    | with_reducible assumption
    | with_reducible apply effR_kept
    | with_reducible apply arithRaise_kept
    | split

theorem execDrvAddi_kept (d : Fin 4) (s : State) (hk : Kept qq ll s) : KeptOut qq ll (execDrvAddi d s) := by
  unfold execDrvAddi
  repeat' first
    | with_reducible assumption
    | with_reducible refine KeptOut.next ?_
    | with_reducible refine drvStep_kept _ _ _ _ ?_ (fun _ _ _ _ _ => ?_)
    | with_reducible apply effI_kept

theorem execDrvAndi_kept (d : Fin 4) (s : State) (hk : Kept qq ll s) : KeptOut qq ll (execDrvAndi d s) := by
  unfold execDrvAndi
  repeat' first
    | with_reducible assumption
    | with_reducible refine KeptOut.next ?_
    | with_reducible refine drvStep_kept _ _ _ _ ?_ (fun _ _ _ _ _ => ?_)
    | with_reducible apply effI_kept

theorem execDrvOri_kept (d : Fin 4) (s : State) (hk : Kept qq ll s) : KeptOut qq ll (execDrvOri d s) := by
  unfold execDrvOri
  repeat' first
    | with_reducible assumption
    | with_reducible refine KeptOut.next ?_
    | with_reducible refine drvStep_kept _ _ _ _ ?_ (fun _ _ _ _ _ => ?_)
    | with_reducible apply effI_kept

theorem execDrvXori_kept (d : Fin 4) (s : State) (hk : Kept qq ll s) : KeptOut qq ll (execDrvXori d s) := by
  unfold execDrvXori
  repeat' first
    | with_reducible assumption
    | with_reducible refine KeptOut.next ?_
    | with_reducible refine drvStep_kept _ _ _ _ ?_ (fun _ _ _ _ _ => ?_)
    | with_reducible apply effI_kept

theorem execDrvSlti_kept (d : Fin 4) (s : State) (hk : Kept qq ll s) : KeptOut qq ll (execDrvSlti d s) := by
  unfold execDrvSlti
  repeat' first
    | with_reducible assumption
    | with_reducible refine KeptOut.next ?_
    | with_reducible refine drvStep_kept _ _ _ _ ?_ (fun _ _ _ _ _ => ?_)
    | with_reducible apply effI_kept

theorem execDrvSltiu_kept (d : Fin 4) (s : State) (hk : Kept qq ll s) : KeptOut qq ll (execDrvSltiu d s) := by
  unfold execDrvSltiu
  repeat' first
    | with_reducible assumption
    | with_reducible refine KeptOut.next ?_
    | with_reducible refine drvStep_kept _ _ _ _ ?_ (fun _ _ _ _ _ => ?_)
    | with_reducible apply effI_kept

theorem execDrvLui_kept (d : Fin 4) (s : State) (hk : Kept qq ll s) : KeptOut qq ll (execDrvLui d s) := by
  unfold execDrvLui
  repeat' first
    | with_reducible assumption
    | with_reducible refine KeptOut.next ?_
    | with_reducible refine drvStep_kept _ _ _ _ ?_ (fun _ _ _ _ _ => ?_)
    | with_reducible apply effI_kept

theorem execDrvAddpc_kept (d : Fin 4) (s : State) (hk : Kept qq ll s) : KeptOut qq ll (execDrvAddpc d s) := by
  unfold execDrvAddpc
  repeat' first
    | with_reducible assumption
    | with_reducible refine KeptOut.next ?_
    | with_reducible refine drvStep_kept _ _ _ _ ?_ (fun _ _ _ _ _ => ?_)
    | with_reducible apply drvNext_kept

theorem execDrvAdd_kept (d : Fin 4) (s : State) (hk : Kept qq ll s) : KeptOut qq ll (execDrvAdd d s) := by
  unfold execDrvAdd
  repeat' first
    | with_reducible assumption
    | with_reducible refine KeptOut.next ?_
    | with_reducible refine drvStep_kept _ _ _ _ ?_ (fun _ _ _ _ _ => ?_)
    | with_reducible apply effR_kept

theorem execDrvSub_kept (d : Fin 4) (s : State) (hk : Kept qq ll s) : KeptOut qq ll (execDrvSub d s) := by
  unfold execDrvSub
  repeat' first
    | with_reducible assumption
    | with_reducible refine KeptOut.next ?_
    | with_reducible refine drvStep_kept _ _ _ _ ?_ (fun _ _ _ _ _ => ?_)
    | with_reducible apply effR_kept

theorem execDrvAddv_kept (d : Fin 4) (s : State) (hk : Kept qq ll s) : KeptOut qq ll (execDrvAddv d s) := by
  unfold execDrvAddv
  repeat' first
    | with_reducible assumption
    | with_reducible refine KeptOut.next ?_
    | with_reducible refine drvStep_kept _ _ _ _ ?_ (fun _ _ _ _ _ => ?_)
    | with_reducible apply effTrap_kept

theorem execDrvSubv_kept (d : Fin 4) (s : State) (hk : Kept qq ll s) : KeptOut qq ll (execDrvSubv d s) := by
  unfold execDrvSubv
  repeat' first
    | with_reducible assumption
    | with_reducible refine KeptOut.next ?_
    | with_reducible refine drvStep_kept _ _ _ _ ?_ (fun _ _ _ _ _ => ?_)
    | with_reducible apply effTrap_kept

theorem execDrvAnd_kept (d : Fin 4) (s : State) (hk : Kept qq ll s) : KeptOut qq ll (execDrvAnd d s) := by
  unfold execDrvAnd
  repeat' first
    | with_reducible assumption
    | with_reducible refine KeptOut.next ?_
    | with_reducible refine drvStep_kept _ _ _ _ ?_ (fun _ _ _ _ _ => ?_)
    | with_reducible apply effR_kept

theorem execDrvOr_kept (d : Fin 4) (s : State) (hk : Kept qq ll s) : KeptOut qq ll (execDrvOr d s) := by
  unfold execDrvOr
  repeat' first
    | with_reducible assumption
    | with_reducible refine KeptOut.next ?_
    | with_reducible refine drvStep_kept _ _ _ _ ?_ (fun _ _ _ _ _ => ?_)
    | with_reducible apply effR_kept

theorem execDrvXor_kept (d : Fin 4) (s : State) (hk : Kept qq ll s) : KeptOut qq ll (execDrvXor d s) := by
  unfold execDrvXor
  repeat' first
    | with_reducible assumption
    | with_reducible refine KeptOut.next ?_
    | with_reducible refine drvStep_kept _ _ _ _ ?_ (fun _ _ _ _ _ => ?_)
    | with_reducible apply effR_kept

theorem execDrvNor_kept (d : Fin 4) (s : State) (hk : Kept qq ll s) : KeptOut qq ll (execDrvNor d s) := by
  unfold execDrvNor
  repeat' first
    | with_reducible assumption
    | with_reducible refine KeptOut.next ?_
    | with_reducible refine drvStep_kept _ _ _ _ ?_ (fun _ _ _ _ _ => ?_)
    | with_reducible apply effR_kept

theorem execDrvSlt_kept (d : Fin 4) (s : State) (hk : Kept qq ll s) : KeptOut qq ll (execDrvSlt d s) := by
  unfold execDrvSlt
  repeat' first
    | with_reducible assumption
    | with_reducible refine KeptOut.next ?_
    | with_reducible refine drvStep_kept _ _ _ _ ?_ (fun _ _ _ _ _ => ?_)
    | with_reducible apply effR_kept

theorem execDrvSltu_kept (d : Fin 4) (s : State) (hk : Kept qq ll s) : KeptOut qq ll (execDrvSltu d s) := by
  unfold execDrvSltu
  repeat' first
    | with_reducible assumption
    | with_reducible refine KeptOut.next ?_
    | with_reducible refine drvStep_kept _ _ _ _ ?_ (fun _ _ _ _ _ => ?_)
    | with_reducible apply effR_kept

theorem execDrvSll_kept (d : Fin 4) (s : State) (hk : Kept qq ll s) : KeptOut qq ll (execDrvSll d s) := by
  unfold execDrvSll
  repeat' first
    | with_reducible assumption
    | with_reducible refine KeptOut.next ?_
    | with_reducible refine drvStep_kept _ _ _ _ ?_ (fun _ _ _ _ _ => ?_)
    | with_reducible apply effR_kept

theorem execDrvSrl_kept (d : Fin 4) (s : State) (hk : Kept qq ll s) : KeptOut qq ll (execDrvSrl d s) := by
  unfold execDrvSrl
  repeat' first
    | with_reducible assumption
    | with_reducible refine KeptOut.next ?_
    | with_reducible refine drvStep_kept _ _ _ _ ?_ (fun _ _ _ _ _ => ?_)
    | with_reducible apply effR_kept

theorem execDrvSra_kept (d : Fin 4) (s : State) (hk : Kept qq ll s) : KeptOut qq ll (execDrvSra d s) := by
  unfold execDrvSra
  repeat' first
    | with_reducible assumption
    | with_reducible refine KeptOut.next ?_
    | with_reducible refine drvStep_kept _ _ _ _ ?_ (fun _ _ _ _ _ => ?_)
    | with_reducible apply effR_kept

theorem execDrvSlli_kept (d : Fin 4) (s : State) (hk : Kept qq ll s) : KeptOut qq ll (execDrvSlli d s) := by
  unfold execDrvSlli
  repeat' first
    | with_reducible assumption
    | with_reducible refine KeptOut.next ?_
    | with_reducible refine drvStep_kept _ _ _ _ ?_ (fun _ _ _ _ _ => ?_)
    | with_reducible apply effI_kept

theorem execDrvSrli_kept (d : Fin 4) (s : State) (hk : Kept qq ll s) : KeptOut qq ll (execDrvSrli d s) := by
  unfold execDrvSrli
  repeat' first
    | with_reducible assumption
    | with_reducible refine KeptOut.next ?_
    | with_reducible refine drvStep_kept _ _ _ _ ?_ (fun _ _ _ _ _ => ?_)
    | with_reducible apply effI_kept

theorem execDrvSrai_kept (d : Fin 4) (s : State) (hk : Kept qq ll s) : KeptOut qq ll (execDrvSrai d s) := by
  unfold execDrvSrai
  repeat' first
    | with_reducible assumption
    | with_reducible refine KeptOut.next ?_
    | with_reducible refine drvStep_kept _ _ _ _ ?_ (fun _ _ _ _ _ => ?_)
    | with_reducible apply effI_kept

theorem execDrvMin_kept (d : Fin 4) (s : State) (hk : Kept qq ll s) : KeptOut qq ll (execDrvMin d s) := by
  unfold execDrvMin
  repeat' first
    | with_reducible assumption
    | with_reducible refine KeptOut.next ?_
    | with_reducible refine drvStep_kept _ _ _ _ ?_ (fun _ _ _ _ _ => ?_)
    | with_reducible apply effR_kept

theorem execDrvMax_kept (d : Fin 4) (s : State) (hk : Kept qq ll s) : KeptOut qq ll (execDrvMax d s) := by
  unfold execDrvMax
  repeat' first
    | with_reducible assumption
    | with_reducible refine KeptOut.next ?_
    | with_reducible refine drvStep_kept _ _ _ _ ?_ (fun _ _ _ _ _ => ?_)
    | with_reducible apply effR_kept

theorem execDrvMinu_kept (d : Fin 4) (s : State) (hk : Kept qq ll s) : KeptOut qq ll (execDrvMinu d s) := by
  unfold execDrvMinu
  repeat' first
    | with_reducible assumption
    | with_reducible refine KeptOut.next ?_
    | with_reducible refine drvStep_kept _ _ _ _ ?_ (fun _ _ _ _ _ => ?_)
    | with_reducible apply effR_kept

theorem execDrvMaxu_kept (d : Fin 4) (s : State) (hk : Kept qq ll s) : KeptOut qq ll (execDrvMaxu d s) := by
  unfold execDrvMaxu
  repeat' first
    | with_reducible assumption
    | with_reducible refine KeptOut.next ?_
    | with_reducible refine drvStep_kept _ _ _ _ ?_ (fun _ _ _ _ _ => ?_)
    | with_reducible apply effR_kept

theorem execDrvClz_kept (d : Fin 4) (s : State) (hk : Kept qq ll s) : KeptOut qq ll (execDrvClz d s) := by
  unfold execDrvClz
  repeat' first
    | with_reducible assumption
    | with_reducible refine KeptOut.next ?_
    | with_reducible refine drvStep_kept _ _ _ _ ?_ (fun _ _ _ _ _ => ?_)
    | with_reducible apply effR_kept

theorem execDrvSextb_kept (d : Fin 4) (s : State) (hk : Kept qq ll s) : KeptOut qq ll (execDrvSextb d s) := by
  unfold execDrvSextb
  repeat' first
    | with_reducible assumption
    | with_reducible refine KeptOut.next ?_
    | with_reducible refine drvStep_kept _ _ _ _ ?_ (fun _ _ _ _ _ => ?_)
    | with_reducible apply effR_kept

theorem execDrvSexth_kept (d : Fin 4) (s : State) (hk : Kept qq ll s) : KeptOut qq ll (execDrvSexth d s) := by
  unfold execDrvSexth
  repeat' first
    | with_reducible assumption
    | with_reducible refine KeptOut.next ?_
    | with_reducible refine drvStep_kept _ _ _ _ ?_ (fun _ _ _ _ _ => ?_)
    | with_reducible apply effR_kept

theorem execDrvMul_kept (d : Fin 4) (s : State) (hk : Kept qq ll s) : KeptOut qq ll (execDrvMul d s) := by
  unfold execDrvMul
  repeat' first
    | with_reducible assumption
    | with_reducible refine KeptOut.next ?_
    | with_reducible refine drvStep_kept _ _ _ _ ?_ (fun _ _ _ _ _ => ?_)
    | with_reducible apply effR_kept

theorem execDrvMulh_kept (d : Fin 4) (s : State) (hk : Kept qq ll s) : KeptOut qq ll (execDrvMulh d s) := by
  unfold execDrvMulh
  repeat' first
    | with_reducible assumption
    | with_reducible refine KeptOut.next ?_
    | with_reducible refine drvStep_kept _ _ _ _ ?_ (fun _ _ _ _ _ => ?_)
    | with_reducible apply effR_kept

theorem execDrvMulhu_kept (d : Fin 4) (s : State) (hk : Kept qq ll s) : KeptOut qq ll (execDrvMulhu d s) := by
  unfold execDrvMulhu
  repeat' first
    | with_reducible assumption
    | with_reducible refine KeptOut.next ?_
    | with_reducible refine drvStep_kept _ _ _ _ ?_ (fun _ _ _ _ _ => ?_)
    | with_reducible apply effR_kept

theorem execDrvDiv_kept (d : Fin 4) (s : State) (hk : Kept qq ll s) : KeptOut qq ll (execDrvDiv d s) := by
  unfold execDrvDiv
  repeat' first
    | with_reducible assumption
    | with_reducible refine KeptOut.next ?_
    | with_reducible refine drvStep_kept _ _ _ _ ?_ (fun _ _ _ _ _ => ?_)
    | with_reducible apply effTrap_kept

theorem execDrvDivu_kept (d : Fin 4) (s : State) (hk : Kept qq ll s) : KeptOut qq ll (execDrvDivu d s) := by
  unfold execDrvDivu
  repeat' first
    | with_reducible assumption
    | with_reducible refine KeptOut.next ?_
    | with_reducible refine drvStep_kept _ _ _ _ ?_ (fun _ _ _ _ _ => ?_)
    | with_reducible apply effTrap_kept

theorem execDrvRem_kept (d : Fin 4) (s : State) (hk : Kept qq ll s) : KeptOut qq ll (execDrvRem d s) := by
  unfold execDrvRem
  repeat' first
    | with_reducible assumption
    | with_reducible refine KeptOut.next ?_
    | with_reducible refine drvStep_kept _ _ _ _ ?_ (fun _ _ _ _ _ => ?_)
    | with_reducible apply effTrap_kept

theorem execDrvRemu_kept (d : Fin 4) (s : State) (hk : Kept qq ll s) : KeptOut qq ll (execDrvRemu d s) := by
  unfold execDrvRemu
  repeat' first
    | with_reducible assumption
    | with_reducible refine KeptOut.next ?_
    | with_reducible refine drvStep_kept _ _ _ _ ?_ (fun _ _ _ _ _ => ?_)
    | with_reducible apply effTrap_kept

theorem effB_kept (c : BitVec 32 → BitVec 32 → Bool) (d : Nat) (x : Drover) (i : DrvWord) (s : State) (hk : Kept qq ll s) : Kept qq ll (effB c d x i s) := by
  unfold effB
  repeat' first
    | with_reducible assumption
    | with_reducible apply updDrv_kept

theorem execDrvBeq_kept (d : Fin 4) (s : State) (hk : Kept qq ll s) : KeptOut qq ll (execDrvBeq d s) := by
  unfold execDrvBeq
  repeat' first
    | with_reducible assumption
    | with_reducible refine KeptOut.next ?_
    | with_reducible refine drvStep_kept _ _ _ _ ?_ (fun _ _ _ _ _ => ?_)
    | with_reducible apply effB_kept

theorem execDrvBne_kept (d : Fin 4) (s : State) (hk : Kept qq ll s) : KeptOut qq ll (execDrvBne d s) := by
  unfold execDrvBne
  repeat' first
    | with_reducible assumption
    | with_reducible refine KeptOut.next ?_
    | with_reducible refine drvStep_kept _ _ _ _ ?_ (fun _ _ _ _ _ => ?_)
    | with_reducible apply effB_kept

theorem execDrvBlt_kept (d : Fin 4) (s : State) (hk : Kept qq ll s) : KeptOut qq ll (execDrvBlt d s) := by
  unfold execDrvBlt
  repeat' first
    | with_reducible assumption
    | with_reducible refine KeptOut.next ?_
    | with_reducible refine drvStep_kept _ _ _ _ ?_ (fun _ _ _ _ _ => ?_)
    | with_reducible apply effB_kept

theorem execDrvBge_kept (d : Fin 4) (s : State) (hk : Kept qq ll s) : KeptOut qq ll (execDrvBge d s) := by
  unfold execDrvBge
  repeat' first
    | with_reducible assumption
    | with_reducible refine KeptOut.next ?_
    | with_reducible refine drvStep_kept _ _ _ _ ?_ (fun _ _ _ _ _ => ?_)
    | with_reducible apply effB_kept

theorem execDrvBltu_kept (d : Fin 4) (s : State) (hk : Kept qq ll s) : KeptOut qq ll (execDrvBltu d s) := by
  unfold execDrvBltu
  repeat' first
    | with_reducible assumption
    | with_reducible refine KeptOut.next ?_
    | with_reducible refine drvStep_kept _ _ _ _ ?_ (fun _ _ _ _ _ => ?_)
    | with_reducible apply effB_kept

theorem execDrvBgeu_kept (d : Fin 4) (s : State) (hk : Kept qq ll s) : KeptOut qq ll (execDrvBgeu d s) := by
  unfold execDrvBgeu
  repeat' first
    | with_reducible assumption
    | with_reducible refine KeptOut.next ?_
    | with_reducible refine drvStep_kept _ _ _ _ ?_ (fun _ _ _ _ _ => ?_)
    | with_reducible apply effB_kept

theorem execDrvJ_kept (d : Fin 4) (s : State) (hk : Kept qq ll s) : KeptOut qq ll (execDrvJ d s) := by
  unfold execDrvJ
  repeat' first
    | with_reducible assumption
    | with_reducible refine KeptOut.next ?_
    | with_reducible refine drvStep_kept _ _ _ _ ?_ (fun _ _ _ _ _ => ?_)
    | with_reducible apply updDrv_kept

theorem execDrvJl_kept (d : Fin 4) (s : State) (hk : Kept qq ll s) : KeptOut qq ll (execDrvJl d s) := by
  unfold execDrvJl
  repeat' first
    | with_reducible assumption
    | with_reducible refine KeptOut.next ?_
    | with_reducible refine drvStep_kept _ _ _ _ ?_ (fun _ _ _ _ _ => ?_)
    | with_reducible apply updDrv_kept

theorem execDrvJr_kept (d : Fin 4) (s : State) (hk : Kept qq ll s) : KeptOut qq ll (execDrvJr d s) := by
  unfold execDrvJr
  repeat' first
    | with_reducible assumption
    | with_reducible refine KeptOut.next ?_
    | with_reducible refine drvStep_kept _ _ _ _ ?_ (fun _ _ _ _ _ => ?_)
    | with_reducible apply updDrv_kept

theorem finishLoad_kept (d rd : Nat) (sext : Bool) (a : Nat) (r : LoadGot × State) (hk : Kept qq ll r.2) :
    Kept qq ll (finishLoad d rd sext a r) := by
  unfold finishLoad
  split
  · exact drvNext_kept _ _ _ hk
  · exact drvRaise_kept _ _ _ _ _ _ (updDrv_kept _ _ _ hk)
  · exact hk

theorem effL_kept (n : Nat) (sext : Bool) (d : Nat) (x : Drover) (i : DrvWord) (s : State) (hk : Kept qq ll s) : Kept qq ll (effL n sext d x i s) := by
  unfold effL
  repeat' first
    | with_reducible assumption
    | with_reducible apply finishLoad_kept
    | with_reducible apply drvLoad_kept

theorem effS_kept (n d : Nat) (x : Drover) (i : DrvWord) (s : State) (hk : Kept qq ll s) : Kept qq ll (effS n d x i s) := by
  have h := drvStore_kept d (drvAddr x i) (leBytes n (x.reg i.ra).toNat) s hk
  unfold effS
  split
  · rename_i t _ he
    rw [he] at h
    exact drvNext_kept _ _ _ (h.2 t rfl)
  · rename_i he
    rw [he] at h
    exact h.1

theorem execDrvLb_kept (d : Fin 4) (s : State) (hk : Kept qq ll s) : KeptOut qq ll (execDrvLb d s) := by
  unfold execDrvLb
  repeat' first
    | with_reducible assumption
    | with_reducible refine KeptOut.next ?_
    | with_reducible refine drvStep_kept _ _ _ _ ?_ (fun _ _ _ _ _ => ?_)
    | with_reducible apply effL_kept

theorem execDrvLbu_kept (d : Fin 4) (s : State) (hk : Kept qq ll s) : KeptOut qq ll (execDrvLbu d s) := by
  unfold execDrvLbu
  repeat' first
    | with_reducible assumption
    | with_reducible refine KeptOut.next ?_
    | with_reducible refine drvStep_kept _ _ _ _ ?_ (fun _ _ _ _ _ => ?_)
    | with_reducible apply effL_kept

theorem execDrvLh_kept (d : Fin 4) (s : State) (hk : Kept qq ll s) : KeptOut qq ll (execDrvLh d s) := by
  unfold execDrvLh
  repeat' first
    | with_reducible assumption
    | with_reducible refine KeptOut.next ?_
    | with_reducible refine drvStep_kept _ _ _ _ ?_ (fun _ _ _ _ _ => ?_)
    | with_reducible apply effL_kept

theorem execDrvLhu_kept (d : Fin 4) (s : State) (hk : Kept qq ll s) : KeptOut qq ll (execDrvLhu d s) := by
  unfold execDrvLhu
  repeat' first
    | with_reducible assumption
    | with_reducible refine KeptOut.next ?_
    | with_reducible refine drvStep_kept _ _ _ _ ?_ (fun _ _ _ _ _ => ?_)
    | with_reducible apply effL_kept

theorem execDrvLw_kept (d : Fin 4) (s : State) (hk : Kept qq ll s) : KeptOut qq ll (execDrvLw d s) := by
  unfold execDrvLw
  repeat' first
    | with_reducible assumption
    | with_reducible refine KeptOut.next ?_
    | with_reducible refine drvStep_kept _ _ _ _ ?_ (fun _ _ _ _ _ => ?_)
    | with_reducible apply effL_kept

theorem execDrvSb_kept (d : Fin 4) (s : State) (hk : Kept qq ll s) : KeptOut qq ll (execDrvSb d s) := by
  unfold execDrvSb
  repeat' first
    | with_reducible assumption
    | with_reducible refine KeptOut.next ?_
    | with_reducible refine drvStep_kept _ _ _ _ ?_ (fun _ _ _ _ _ => ?_)
    | with_reducible apply effS_kept

theorem execDrvSh_kept (d : Fin 4) (s : State) (hk : Kept qq ll s) : KeptOut qq ll (execDrvSh d s) := by
  unfold execDrvSh
  repeat' first
    | with_reducible assumption
    | with_reducible refine KeptOut.next ?_
    | with_reducible refine drvStep_kept _ _ _ _ ?_ (fun _ _ _ _ _ => ?_)
    | with_reducible apply effS_kept

theorem execDrvSw_kept (d : Fin 4) (s : State) (hk : Kept qq ll s) : KeptOut qq ll (execDrvSw d s) := by
  unfold execDrvSw
  repeat' first
    | with_reducible assumption
    | with_reducible refine KeptOut.next ?_
    | with_reducible refine drvStep_kept _ _ _ _ ?_ (fun _ _ _ _ _ => ?_)
    | with_reducible apply effS_kept

theorem effLwx_kept (d : Nat) (x : Drover) (i : DrvWord) (s : State) (hk : Kept qq ll s) : Kept qq ll (effLwx d x i s) := by
  unfold effLwx
  repeat' first
    | with_reducible assumption
    | with_reducible apply sbDrainN_kept
    | with_reducible apply drvRaise_kept
    | with_reducible apply cramRecord_kept
    | with_reducible apply drvNext_kept
    | with_reducible refine kept_ite ?_ ?_

theorem effSwx_kept (d : Nat) (x : Drover) (i : DrvWord) (s : State) (hk : Kept qq ll s) : Kept qq ll (effSwx d x i s) := by
  unfold effSwx
  repeat' first
    | with_reducible assumption
    | with_reducible apply sbDrainN_kept
    | with_reducible apply cramWrite_kept
    | with_reducible apply drvNext_kept
    | with_reducible refine kept_ite ?_ ?_

theorem execDrvLwx_kept (d : Fin 4) (s : State) (hk : Kept qq ll s) : KeptOut qq ll (execDrvLwx d s) := by
  unfold execDrvLwx
  repeat' first
    | with_reducible assumption
    | with_reducible refine KeptOut.next ?_
    | with_reducible refine drvStep_kept _ _ _ _ ?_ (fun _ _ _ _ _ => ?_)
    | with_reducible apply effLwx_kept

theorem execDrvSwx_kept (d : Fin 4) (s : State) (hk : Kept qq ll s) : KeptOut qq ll (execDrvSwx d s) := by
  unfold execDrvSwx
  repeat' first
    | with_reducible assumption
    | with_reducible refine KeptOut.next ?_
    | with_reducible refine drvStep_kept _ _ _ _ ?_ (fun _ _ _ _ _ => ?_)
    | with_reducible apply effSwx_kept

theorem execDrvTrap_kept (d : Fin 4) (s : State) (hk : Kept qq ll s) : KeptOut qq ll (execDrvTrap d s) := by
  unfold execDrvTrap
  repeat' first
    | with_reducible assumption
    | with_reducible refine KeptOut.next ?_
    | with_reducible refine drvStep_kept _ _ _ _ ?_ (fun _ _ _ _ _ => ?_)

theorem execDrvBrk_kept (d : Fin 4) (s : State) (hk : Kept qq ll s) : KeptOut qq ll (execDrvBrk d s) := by
  unfold execDrvBrk
  repeat' first
    | with_reducible assumption
    | with_reducible refine KeptOut.next ?_
    | with_reducible refine drvStep_kept _ _ _ _ ?_ (fun _ _ _ _ _ => ?_)

theorem effEret_kept (d : Nat) (x : Drover) (i : DrvWord) (s : State) (hk : Kept qq ll s) : Kept qq ll (effEret d x i s) := by
  unfold effEret
  exact updDrv_kept _ _ _ hk

theorem execDrvEret_kept (d : Fin 4) (s : State) (hk : Kept qq ll s) : KeptOut qq ll (execDrvEret d s) := by
  unfold execDrvEret
  repeat' first
    | with_reducible assumption
    | with_reducible refine KeptOut.next ?_
    | with_reducible refine drvStep_kept _ _ _ _ ?_ (fun _ _ _ _ _ => ?_)
    | with_reducible apply effEret_kept

theorem execDrvMfcr_kept (d : Fin 4) (s : State) (hk : Kept qq ll s) : KeptOut qq ll (execDrvMfcr d s) := by
  unfold execDrvMfcr
  repeat' first
    | with_reducible assumption
    | with_reducible refine drvStep_kept _ _ _ _ ?_ (fun _ _ _ _ _ => ?_)
    | with_reducible refine KeptOut.next ?_
    | with_reducible apply crValue_kept
    | with_reducible apply drvNext_kept

theorem execDrvMtcr_kept (d : Fin 4) (s : State) (hk : Kept qq ll s) : KeptOut qq ll (execDrvMtcr d s) := by
  unfold execDrvMtcr
  repeat' first
    | with_reducible assumption
    | with_reducible refine KeptOut.next ?_
    | with_reducible refine drvStep_kept _ _ _ _ ?_ (fun _ _ _ _ _ => ?_)
    | with_reducible apply updDrv_kept

theorem cleanLine_kept (d : Nat) (a : Nat) (s : State) (hk : Kept qq ll s) : KeptOpt qq ll (cleanLine d a s) := by
  unfold cleanLine
  repeat' first
    | with_reducible assumption
    | lift_lets
    | with_reducible exact KeptOpt.none
    | with_reducible refine KeptOpt.some ?_
    | with_reducible apply setDrv_kept
    | split
    | intro _

theorem dropLine_kept (d : Nat) (a : Nat) (s : State) (hk : Kept qq ll s) : Kept qq ll (dropLine d a s) := by
  unfold dropLine
  repeat' first
    | with_reducible assumption
    | with_reducible apply updDrv_kept

theorem effIcinv_kept (d : Nat) (x : Drover) (i : DrvWord) (s : State) (hk : Kept qq ll s) : Kept qq ll (effIcinv d x i s) := by
  unfold effIcinv
  repeat' first
    | with_reducible assumption
    | with_reducible apply sbDrainN_kept
    | with_reducible apply cleanLine_kept
    | with_reducible apply drvNext_kept
    | with_reducible refine kept_ite ?_ ?_
    | split
    | refine KeptOpt.get (by assumption) ?_

theorem execDrvIcinv_kept (d : Fin 4) (s : State) (hk : Kept qq ll s) : KeptOut qq ll (execDrvIcinv d s) := by
  unfold execDrvIcinv
  repeat' first
    | with_reducible assumption
    | with_reducible refine KeptOut.next ?_
    | with_reducible refine drvStep_kept _ _ _ _ ?_ (fun _ _ _ _ _ => ?_)
    | with_reducible apply effIcinv_kept

theorem execDrvIsync_kept (d : Fin 4) (s : State) (hk : Kept qq ll s) : KeptOut qq ll (execDrvIsync d s) := by
  unfold execDrvIsync
  repeat' first
    | with_reducible assumption
    | with_reducible refine KeptOut.next ?_
    | with_reducible refine drvStep_kept _ _ _ _ ?_ (fun _ _ _ _ _ => ?_)
    | with_reducible apply updDrv_kept

theorem execDrvDcclean_kept (d : Fin 4) (s : State) (hk : Kept qq ll s) : KeptOut qq ll (execDrvDcclean d s) := by
  unfold execDrvDcclean
  repeat' first
    | with_reducible assumption
    | with_reducible refine KeptOut.next ?_
    | with_reducible refine drvStep_kept _ _ _ _ ?_ (fun _ _ _ _ _ => ?_)
    | with_reducible apply cleanLine_kept
    | with_reducible apply drvNext_kept
    | split
    | refine KeptOpt.get (by assumption) ?_

theorem execDrvDcinv_kept (d : Fin 4) (s : State) (hk : Kept qq ll s) : KeptOut qq ll (execDrvDcinv d s) := by
  unfold execDrvDcinv
  repeat' first
    | with_reducible assumption
    | with_reducible refine KeptOut.next ?_
    | with_reducible refine drvStep_kept _ _ _ _ ?_ (fun _ _ _ _ _ => ?_)
    | with_reducible apply drvNext_kept
    | with_reducible apply dropLine_kept

theorem execDrvDcflush_kept (d : Fin 4) (s : State) (hk : Kept qq ll s) : KeptOut qq ll (execDrvDcflush d s) := by
  unfold execDrvDcflush
  repeat' first
    | with_reducible assumption
    | with_reducible refine KeptOut.next ?_
    | with_reducible refine drvStep_kept _ _ _ _ ?_ (fun _ _ _ _ _ => ?_)
    | with_reducible apply cleanLine_kept
    | with_reducible apply drvNext_kept
    | with_reducible apply dropLine_kept
    | split
    | refine KeptOpt.get (by assumption) ?_

theorem execDrvDsync_kept (d : Fin 4) (s : State) (hk : Kept qq ll s) : KeptOut qq ll (execDrvDsync d s) := by
  unfold execDrvDsync
  repeat' first
    | with_reducible assumption
    | with_reducible refine drvStep_kept _ _ _ _ ?_ (fun _ _ _ _ _ => ?_)
    | with_reducible refine KeptOut.next ?_
    | with_reducible apply sbDrainN_kept
    | with_reducible apply drvNext_kept
    | with_reducible refine kept_ite ?_ ?_

theorem execDrvWfi_kept (d : Fin 4) (s : State) (hk : Kept qq ll s) : KeptOut qq ll (execDrvWfi d s) := by
  unfold execDrvWfi
  repeat' first
    | with_reducible assumption
    | with_reducible refine KeptOut.next ?_
    | with_reducible refine drvStep_kept _ _ _ _ ?_ (fun _ _ _ _ _ => ?_)
    | with_reducible apply drvNext_kept

theorem execDroverInterrupt_kept (d : Fin 4) (s : State) (hk : Kept qq ll s) : KeptOut qq ll (execDroverInterrupt d s) := by
  unfold execDroverInterrupt
  repeat' first
    | with_reducible assumption
    | lift_lets
    | with_reducible refine KeptOut.next ?_
    | with_reducible apply setDrv_kept
    | with_reducible apply drvWatchdog_kept
    | with_reducible apply drvEnter_kept
    | split

theorem execArithExceptionTaken_kept (d : Fin 4) (s : State) (hk : Kept qq ll s) : KeptOut qq ll (execArithExceptionTaken d s) := by
  unfold execArithExceptionTaken
  repeat' first
    | with_reducible assumption
    | with_reducible refine KeptOut.next ?_
    | with_reducible apply drvArith_kept
    | with_reducible refine kept_ite ?_ ?_

theorem execWfiWake_kept (d : Fin 4) (s : State) (hk : Kept qq ll s) : KeptOut qq ll (execWfiWake d s) := by
  unfold execWfiWake
  repeat' first
    | with_reducible assumption
    | with_reducible refine KeptOut.next ?_
    | with_reducible apply updDrv_kept
    | with_reducible refine kept_ite ?_ ?_

theorem execStoreBufferDrain_kept (d : Fin 4) (s : State) (hk : Kept qq ll s) : KeptOut qq ll (execStoreBufferDrain d s) := by
  unfold execStoreBufferDrain
  repeat' first
    | with_reducible assumption
    | with_reducible refine KeptOut.next ?_
    | with_reducible apply sbDrain_kept
    | with_reducible refine kept_ite ?_ ?_

theorem readGo_kept (d : Nat) (t : ReadTxn) (b : Bytes) (s : State) (hk : Kept qq ll s) : Kept qq ll (readGo d t b s) := by
  unfold readGo
  repeat' first
    | with_reducible assumption
    | with_reducible apply finishLoad_kept
    | with_reducible apply readParts_kept
    | with_reducible apply updDrv_kept

theorem readError_kept (d : Nat) (t : ReadTxn) (s : State) (hk : Kept qq ll s) : Kept qq ll (readError d t s) := by
  unfold readError
  repeat' first
    | with_reducible assumption
    | with_reducible apply finishLoad_kept

theorem readDone_kept (d : Nat) (t : ReadTxn) (s : State) (hk : Kept qq ll s) : Kept qq ll (readDone d t s) := by
  unfold readDone
  repeat' first
    | with_reducible assumption
    | with_reducible apply finishLoad_kept
    | with_reducible apply dramRecord_kept
    | with_reducible apply readGo_kept
    | with_reducible apply devRead_kept
    | with_reducible refine kept_ite ?_ ?_

theorem writeDone_kept (d : Nat) (ok : Bool) (s : State) (hk : Kept qq ll s) : Kept qq ll (writeDone d ok s) := by
  unfold writeDone
  repeat' first
    | with_reducible assumption
    | with_reducible refine SbEntry.each_kept _ _ _ ?_ (fun _ _ _ _ => ?_)
    | lift_lets
    | with_reducible apply logRecord_kept
    | with_reducible apply setDrv_kept
    | with_reducible apply dramWrite_kept
    | with_reducible apply updDrv_kept
    | with_reducible apply sbWrite_kept
    | split
    | intro _

theorem execRemoteTransactionDone_kept (d : Fin 4) (write : Bool) (ok : Bool) (s : State) (hk : Kept qq ll s) : KeptOut qq ll (execRemoteTransactionDone d write ok s) := by
  unfold execRemoteTransactionDone
  repeat' first
    | with_reducible assumption
    | with_reducible refine KeptOut.next ?_
    | with_reducible apply writeDone_kept
    | with_reducible apply readDone_kept
    | with_reducible apply readError_kept
    | split

theorem fetchFill_kept (d : Nat) (outcome : Nat) (s : State) (hk : Kept qq ll s) : Kept qq ll (fetchFill d outcome s) := by
  unfold fetchFill
  repeat' first
    | with_reducible assumption
    | lift_lets
    | with_reducible apply dramRecord_kept
    | with_reducible apply cramRecord_kept
    | with_reducible apply drvRaise_kept
    | with_reducible apply setDrv_kept
    | split
    | intro _

theorem dataFill_kept (d : Nat) (outcome : Nat) (s : State) (hk : Kept qq ll s) : Kept qq ll (dataFill d outcome s) := by
  unfold dataFill
  repeat' first
    | with_reducible assumption
    | with_reducible apply readError_kept
    | with_reducible apply finishLoad_kept
    | with_reducible apply dramRecord_kept
    | with_reducible apply setDrv_kept
    | with_reducible apply readGo_kept
    | with_reducible refine kept_ite ?_ ?_
    | split

theorem execCacheLineFill_kept (d : Fin 4) (instr : Bool) (outcome : Fin 3) (s : State) (hk : Kept qq ll s) : KeptOut qq ll (execCacheLineFill d instr outcome s) := by
  unfold execCacheLineFill
  repeat' first
    | with_reducible assumption
    | with_reducible refine KeptOut.next ?_
    | with_reducible apply fetchFill_kept
    | with_reducible apply dataFill_kept
    | with_reducible refine kept_ite ?_ ?_

theorem execWatchdogExpiry_kept (d : Fin 4) (s : State) (hk : Kept qq ll s) : KeptOut qq ll (execWatchdogExpiry d s) := by
  unfold execWatchdogExpiry
  repeat' first
    | with_reducible assumption
    | with_reducible refine KeptOut.next ?_
    | with_reducible apply drvReset_kept
    | with_reducible apply setDrv_kept
    | with_reducible apply drvWatchdog_kept
    | with_reducible refine kept_ite ?_ ?_

end Sys2Proof.Machine
end

