-- ==== Sys2Proof/Laws/Lvu.lean ====
section
/-! SUPPORT. The LVU's shared operations, each said once: an instruction that the LVU may carry out is the operation of chapter
6, the element loop carries any property from one element to the next, and what a completion writes. -/

namespace Sys2Proof.Machine

/-- A property that each element's work carries on holds after the loop; the property must rule out a fault and a
truncation. -/
theorem lvuEach_inv {P : Nat → LvuRun → Prop} {n : Nat} {f : LvuRun → Nat → LvuRun} {s : LvuRun} (h0 : P 0 s)
    (hs : ∀ i r, i < n → P i r → P (i + 1) (f r i)) (hc : ∀ i r, P i r → r.fault = none ∧ r.trunc = false) :
    P n (lvuEach n f s) := by
  have key : ∀ m, m ≤ n → P m ((List.range m).foldl (fun s e => if s.fault.isSome || s.trunc then s else f s e) s) := by
    intro m
    induction m with
    | zero => intro _; exact h0
    | succ m ih =>
      intro hm
      have h := ih (by omega)
      rw [List.range_succ, List.foldl_append]
      simp only [List.foldl_cons, List.foldl_nil]
      obtain ⟨h1, h2⟩ := hc _ _ h
      rw [h1, h2]
      exact hs m _ (by omega) h
  exact key n (Nat.le_refl n)

/-- R210: an instruction that the LVU may carry out completes by chapter 6. -/
theorem State.Vector.run {s : State} {k vop : Nat} {o : LvuOp} (h : s.Vector k o vop) : lvuRunOp vop k s = lvuComplete k o s := by
  have hb : (coreOf s k).lvu.busy = some o := h.held
  have h1 : (coreOf s k).lvu.stopped = false := h.going
  have h2 : (coreOf s k).lvu.halt = false := h.working
  have h3 : (coreOf s k).lvu.plainRom = true := h.rom
  have h4 : (coreOf s k).lvu.micro.resumed = false := h.fresh.1
  have h5 : (coreOf s k).lvu.micro.walk = false := h.fresh.2.1
  have hw : microMode o (lvuStart k s) (coreOf s k).lvu.micro = false := by
    unfold microMode
    rw [h5, h4, show (lvuStart k s).l.plainRom = true from h3]
    rfl
  unfold lvuRunOp
  simp only [hb, h.named, h1, h2, h.clear, hw, h4]
  rw [if_neg (by simp), if_neg (by simp), if_neg (by simp)]

/-- The run such an instruction starts from: the core's contents, nothing flagged. -/
theorem State.Vector.start {s : State} {k vop : Nat} {o : LvuOp} (h : s.Vector k o vop) :
    lvuStart k s = { l := lvuOf s k, x := (coreOf s k).x, y := (coreOf s k).y, upset := (coreOf s k).upset, free := s.free } := by
  unfold lvuStart; dsimp only
  rw [show (coreOf s k).lvu.micro.flagged = none from h.fresh.2.2]
  rfl

/-- A completion without fault or flag: the contents, memories and the count of free values are those of the operation. -/
theorem lvuComplete_plain {s : State} {k : Nat} {o : LvuOp} {r : LvuRun} (h : lvuOperate o (lvuStart k s) = r)
    (hf : r.fault = none) (hg : r.flagged = none) :
    lvuComplete k o s = { setCore s k { coreOf s k with lvu := r.l.idle, x := r.x, y := r.y, upset := r.upset } with free := r.free } := by
  subst h
  unfold lvuComplete lvuEnd
  simp only [hf, hg]

/-- A completion that set a flag at element e: PRECISE stops the core after it (R217). -/
theorem lvuComplete_flagged {s : State} {k e : Nat} {o : LvuOp} {r : LvuRun} (h : lvuOperate o (lvuStart k s) = r)
    (hf : r.fault = none) (hg : r.flagged = some e) :
    lvuComplete k o s =
      { setCore s k (if o.mode.getLsbD 2 then
          { SigCore.halted { coreOf s k with lvu := r.l.idle, x := r.x, y := r.y, upset := r.upset } with
            pxpc := o.pc, pxe := BitVec.ofNat 24 (0x800000 + e % 128) }
        else { coreOf s k with lvu := r.l.idle, x := r.x, y := r.y, upset := r.upset }) with free := r.free } := by
  subst h
  unfold lvuComplete lvuEnd
  simp only [hf, hg]

/-- A completion that faults: the fault waits for its entry (R240). -/
theorem lvuComplete_fault {s : State} {k : Nat} {o : LvuOp} {r : LvuRun} {f : LvuFault} (h : lvuOperate o (lvuStart k s) = r)
    (hf : r.fault = some f) :
    lvuComplete k o s =
      { setCore s k (lvuFaultSet o f.cause f.addr f.elem { coreOf s k with lvu := r.l.idle, x := r.x, y := r.y, upset := r.upset }) with free := r.free } := by
  subst h
  unfold lvuComplete lvuEnd
  simp only [hf]

/-- Two groups of registers at one grouping are the same or have no element in common. -/
theorem group_apart {g a d i e n : Nat} (ha : a % g = 0) (hd : d % g = 0) (hn : n ≤ 128 * g) (hi : i < n) (he : e < n)
    (h : 128 * a + i = 128 * d + e) : a = d ∧ i = e := by
  have hg : 0 < g := by omega
  obtain ⟨x, rfl⟩ := Nat.dvd_of_mod_eq_zero ha
  obtain ⟨y, rfl⟩ := Nat.dvd_of_mod_eq_zero hd
  have h' : (128 * g) * x + i = (128 * g) * y + e := by rw [Nat.mul_assoc, Nat.mul_assoc]; exact h
  have hx : ((128 * g) * x + i) / (128 * g) = x := by rw [Nat.mul_add_div (by omega), Nat.div_eq_of_lt (by omega)]; rfl
  have hy : ((128 * g) * y + e) / (128 * g) = y := by rw [Nat.mul_add_div (by omega), Nat.div_eq_of_lt (by omega)]; rfl
  have : x = y := by rw [← hx, ← hy, h']
  subst this
  exact ⟨rfl, by omega⟩

theorem LvuOp.vle_le (o : LvuOp) : o.vle ≤ 128 * groupOf o.vg := Nat.min_le_right _ _

/-- An operation that writes one element of a V register at each step, from elements that it has not written yet. -/
theorem lvuEach_v {d : Nat} {f : LvuRun → Nat → LvuRun} {val : Nat → BitVec 24} {s : LvuRun} (n : Nat)
    (hs : s.fault = none ∧ s.trunc = false)
    (hf : ∀ i v, i < n → (∀ j, Tbl.get 0 v j = if 128 * d ≤ j ∧ j < 128 * d + i then val (j - 128 * d) else Tbl.get 0 s.l.v j) →
      f { s with l := { s.l with v := v } } i = { s with l := { s.l with v := Tbl.put 0 v (128 * d + i) (val i) } }) :
    ∃ v, lvuEach n f s = { s with l := { s.l with v := v } } ∧
      ∀ j, Tbl.get 0 v j = if 128 * d ≤ j ∧ j < 128 * d + n then val (j - 128 * d) else Tbl.get 0 s.l.v j := by
  refine lvuEach_inv (P := fun i r => ∃ v, r = { s with l := { s.l with v := v } } ∧
      ∀ j, Tbl.get 0 v j = if 128 * d ≤ j ∧ j < 128 * d + i then val (j - 128 * d) else Tbl.get 0 s.l.v j) ⟨s.l.v, rfl, ?_⟩ ?_ ?_
  · intro j; rw [if_neg (by omega)]
  · rintro i r hi ⟨v, rfl, hv⟩
    refine ⟨_, hf i v hi hv, fun j => ?_⟩
    rw [Tbl.get_put, hv j]
    by_cases hj : j = 128 * d + i
    · subst hj
      rw [if_pos rfl, if_pos (by omega), Nat.add_sub_cancel_left]
    · rw [if_neg hj]
      by_cases h2 : 128 * d ≤ j ∧ j < 128 * d + i
      · rw [if_pos h2, if_pos (by omega)]
      · rw [if_neg h2, if_neg (by omega)]
  · rintro i r ⟨v, rfl, -⟩; exact hs

/-- A transfer to 24 bits is the floor, clamped where saturation is on (R144). -/
theorem transferInt_eq (round satm : Bool) (t : Int) :
    transferInt round satm t =
      (let h := (t + if round then 2 ^ 23 else 0) / 2 ^ 24
       (BitVec.ofInt 24 (if satm then max (-(2 ^ 23)) (min (2 ^ 23 - 1) h) else h), satm && decide (h < -(2 ^ 23) ∨ 2 ^ 23 ≤ h))) := by
  have key : ∀ u : Int, (if u / 16777216 < min24 ∨ u / 16777216 > max24 then
        if satm then ((if u < 0 then 0x800000 else 0x7FFFFF : BitVec 24), true) else (w24 (u / 16777216), false)
      else (w24 (u / 16777216), false)) =
      (BitVec.ofInt 24 (if satm then max (-(2 ^ 23)) (min (2 ^ 23 - 1) (u / 2 ^ 24)) else u / 2 ^ 24),
        satm && decide (u / 2 ^ 24 < -(2 ^ 23) ∨ 2 ^ 23 ≤ u / 2 ^ 24)) := by
    intro u
    have e : (2 : Int) ^ 24 = 16777216 := by rfl
    have e2 : (2 : Int) ^ 23 = 8388608 := by rfl
    rw [e, e2]
    unfold min24 max24 w24
    by_cases hs : satm = true
    · subst hs
      simp only [if_true, Bool.true_and]
      by_cases hb : u / 16777216 < -8388608 ∨ u / 16777216 > 8388607
      · rw [if_pos hb]
        by_cases hu : u < 0
        · rw [if_pos hu, show max (-8388608) (min (8388608 - 1) (u / 16777216)) = -8388608 by omega]
          rw [show decide (u / 16777216 < -8388608 ∨ 8388608 ≤ u / 16777216) = true from decide_eq_true (by omega)]
          rfl
        · rw [if_neg hu, show max (-8388608) (min (8388608 - 1) (u / 16777216)) = 8388607 by omega]
          rw [show decide (u / 16777216 < -8388608 ∨ 8388608 ≤ u / 16777216) = true from decide_eq_true (by omega)]
          rfl
      · rw [if_neg hb, show max (-8388608) (min (8388608 - 1) (u / 16777216)) = u / 16777216 by omega]
        rw [show decide (u / 16777216 < -8388608 ∨ 8388608 ≤ u / 16777216) = false from decide_eq_false (by omega)]
    · simp only [Bool.not_eq_true] at hs
      subst hs
      simp
  unfold transferInt
  cases round
  · have := key t
    simpa using this
  · exact key (t + 8388608)

/-- Narrowing to 56 bits wraps or clamps (R143). -/
theorem narrow56_eq (accsat : Bool) (t : Int) :
    narrow56 accsat t = (BitVec.ofInt 56 (if accsat then max (-(2 ^ 55)) (min (2 ^ 55 - 1) t) else t), decide (t < -(2 ^ 55) ∨ 2 ^ 55 ≤ t)) := by
  have e : (2 : Int) ^ 55 = 36028797018963968 := by rfl
  rw [e]
  unfold narrow56 min56 max56 w56 clampInt
  have h1 : (if t < -36028797018963968 then (-36028797018963968 : Int) else if t > 36028797018963967 then 36028797018963967 else t) =
      max (-36028797018963968) (min (36028797018963968 - 1) t) := by
    split
    · omega
    · split <;> omega
  have h2 : decide (t < -36028797018963968 ∨ t > 36028797018963967) = decide (t < -36028797018963968 ∨ 36028797018963968 ≤ t) :=
    decide_eq_decide.mpr (by omega)
  cases accsat
  · simp only [h2, Bool.false_eq_true, if_false]
  · simp only [h1, h2, if_true]

/-- A V name that decode allows is a multiple of the grouping. -/
theorem vName_of {g r : Nat} (h : vName g r = true) : r % g = 0 := by simpa [vName] using h
/-- A source element that the loop has not reached still reads as it stood. -/
theorem src_read {s : LvuRun} {v : Tbl (BitVec 24)} {g d r i n : Nat} {val : Nat → BitVec 24}
   (hr : r % g = 0) (hd : d % g = 0) (hn : n ≤ 128 * g) (hi : i < n)
   (hv : ∀ j, Tbl.get 0 v j = if 128 * d ≤ j ∧ j < 128 * d + i then val (j - 128 * d) else Tbl.get 0 s.l.v j) :
   Tbl.get 0 v (128 * r + i) = Tbl.get 0 s.l.v (128 * r + i) := by
  rw [hv, if_neg]
  intro hc
  have := group_apart (i := i) (e := 128 * r + i - 128 * d) hr hd hn hi (by omega) (by omega)
  omega
/-- Saturation to 24 bits is a clamp. -/
theorem w24_sat (b : Bool) (x : Int) : (if b = true then w24 (clampInt min24 max24 x) else w24 x) = BitVec.ofInt 24 (if b = true then max (-(2 ^ 23)) (min (2 ^ 23 - 1) x) else x) := by
  unfold w24 clampInt min24 max24
  have : (if x < -8388608 then (-8388608 : Int) else if x > 8388607 then 8388607 else x) = max (-(2^23)) (min (2^23-1) x) := by
    split
    · omega
    · split <;> omega
  rw [this]; split <;> rfl
/-- The first index below i + 1 with a property. -/
theorem find_range_succ (p : Nat → Bool) (i : Nat) : (List.range (i+1)).find? p = match (List.range i).find? p with | some m => some m | none => if p i then some i else none := by
  rw [List.range_succ, List.find?_append]
  cases h : (List.range i).find? p <;> simp [List.find?]
  cases p i <;> rfl
/-- After i elements: the accumulators below i are written, VSTAT and the lowest flagged element say which went out of range. -/
structure AccP (s : LvuRun) (n : Nat) (bits : Nat) (bad : Nat → Bool) (val : Nat → BitVec 56) (i : Nat) (r : LvuRun) : Prop where
  h : ∃ va, r = { s with l := { s.l with va := va, vstat := if ((List.range i).find? bad).isSome then s.l.vstat ||| BitVec.ofNat 24 bits else s.l.vstat }, flagged := (List.range i).find? bad } ∧
     ∀ j, Tbl.get 0 va j = if 128 * n ≤ j ∧ j < 128 * n + i then val (j - 128 * n) else Tbl.get 0 s.l.va j
/-- Setting bits twice is setting them once. -/
theorem or_idem {x y : BitVec 24} : (x ||| y) ||| y = x ||| y := by rw [BitVec.or_assoc, BitVec.or_self]
/-- A found index is in range. -/
theorem find_lt {p : Nat → Bool} {i m : Nat} (h : (List.range i).find? p = some m) : m < i := by
  have := List.mem_of_find?_eq_some h
  simpa using this
/-- An operation that writes one accumulator element at each step and flags it where it goes out of range. -/
theorem acc_run (n bits : Nat) (bad : Nat → Bool) (val : Nat → BitVec 56) (f : LvuRun → Nat → LvuRun) (s : LvuRun) (N : Nat)
   (hs : s.fault = none ∧ s.trunc = false ∧ s.flagged = none)
   (hf : ∀ i (r : LvuRun), i < N → AccP s n bits bad val i r → f r i = (if bad i then (r.setVa n i (val i)).flag i bits else r.setVa n i (val i))) :
   AccP s n bits bad val N (lvuEach N f s) := by
  refine lvuEach_inv (P := AccP s n bits bad val) ⟨⟨s.l.va, ?_, ?_⟩⟩ ?_ ?_
  · cases s; simp at hs; simp [hs]
  · intro j; rw [if_neg (by omega)]
  · intro i r hi hr
    rw [hf i r hi hr]
    obtain ⟨va, rfl, hva⟩ := hr
    refine ⟨Tbl.put 0 va (128 * n + i) (val i), ?_, ?_⟩
    · rw [find_range_succ]
      cases hb : bad i
      · cases hg : (List.range i).find? bad <;> simp [LvuRun.setVa]
      · cases hg : (List.range i).find? bad
        · simp [LvuRun.setVa, LvuRun.flag]
        · have := find_lt hg
          simp only [LvuRun.setVa, LvuRun.flag, Option.isSome_some, if_true, or_idem]
          rw [Nat.min_eq_left (by omega)]
    · intro j
      rw [Tbl.get_put, hva j]
      by_cases hj : j = 128 * n + i
      · subst hj; rw [if_pos rfl, if_pos (by omega), Nat.add_sub_cancel_left]
      · rw [if_neg hj]
        by_cases h2 : 128 * n ≤ j ∧ j < 128 * n + i
        · rw [if_pos h2, if_pos (by omega)]
        · rw [if_neg h2, if_neg (by omega)]
  · rintro i r ⟨va, rfl, -⟩; exact ⟨hs.1, hs.2.1⟩
/-- After i elements: the V elements below i are written, VSTAT and the lowest flagged element say which saturated. -/
structure VP (s : LvuRun) (n : Nat) (bits : Nat) (bad : Nat → Bool) (val : Nat → BitVec 24) (i : Nat) (r : LvuRun) : Prop where
  h : ∃ v, r = { s with l := { s.l with v := v, vstat := if ((List.range i).find? bad).isSome then s.l.vstat ||| BitVec.ofNat 24 bits else s.l.vstat }, flagged := (List.range i).find? bad } ∧
     ∀ j, Tbl.get 0 v j = if 128 * n ≤ j ∧ j < 128 * n + i then val (j - 128 * n) else Tbl.get 0 s.l.v j
/-- An operation that writes one V element at each step and flags it where it saturates. -/
theorem v_run (n bits : Nat) (bad : Nat → Bool) (val : Nat → BitVec 24) (f : LvuRun → Nat → LvuRun) (s : LvuRun) (N : Nat)
   (hs : s.fault = none ∧ s.trunc = false ∧ s.flagged = none)
   (hf : ∀ i (r : LvuRun), i < N → VP s n bits bad val i r → f r i = (if bad i then (r.setV n i (val i)).flag i bits else r.setV n i (val i))) :
   VP s n bits bad val N (lvuEach N f s) := by
  refine lvuEach_inv (P := VP s n bits bad val) ⟨⟨s.l.v, ?_, ?_⟩⟩ ?_ ?_
  · cases s; simp at hs; simp [hs]
  · intro j; rw [if_neg (by omega)]
  · intro i r hi hr
    rw [hf i r hi hr]
    obtain ⟨v, rfl, hv⟩ := hr
    refine ⟨Tbl.put 0 v (128 * n + i) (val i), ?_, ?_⟩
    · rw [find_range_succ]
      cases hb : bad i
      · cases hg : (List.range i).find? bad <;> simp [LvuRun.setV]
      · cases hg : (List.range i).find? bad
        · simp [LvuRun.setV, LvuRun.flag]
        · have := find_lt hg
          simp only [LvuRun.setV, LvuRun.flag, Option.isSome_some, if_true, or_idem]
          rw [Nat.min_eq_left (by omega)]
    · intro j
      rw [Tbl.get_put, hv j]
      by_cases hj : j = 128 * n + i
      · subst hj; rw [if_pos rfl, if_pos (by omega), Nat.add_sub_cancel_left]
      · rw [if_neg hj]
        by_cases h2 : 128 * n ≤ j ∧ j < 128 * n + i
        · rw [if_pos h2, if_pos (by omega)]
        · rw [if_neg h2, if_neg (by omega)]
  · rintro i r ⟨v, rfl, -⟩; exact ⟨hs.1, hs.2.1⟩

end Sys2Proof.Machine
end

