-- ==== Sys2Proof/Laws/Record.lean ====
section
/-! SUPPORT. What writing an error record can change: the log, the event concentrator, the clusters' states, the test pass and
the mode that is due; every other part of the state stays. -/

namespace Sys2Proof.Machine

/-- The states that differ in nothing but what an error record can change. -/
structure LikeRecord (s t : State) : Prop where
  pending : t.pending = s.pending
  free : t.free = s.free
  result : t.result = s.result
  now : t.now = s.now
  grid : t.grid = s.grid
  ctxs : t.ctxs = s.ctxs
  held : t.held = s.held
  starter : t.starter = s.starter
  adm : t.adm = s.adm
  relay : t.relay = s.relay
  man : t.man = s.man
  cores : t.cores = s.cores
  csm : t.csm = s.csm
  csmUpset : t.csmUpset = s.csmUpset
  dram : t.dram = s.dram
  dict : t.dict = s.dict
  supply : t.supply = s.supply
  avail : t.avail = s.avail
  store : t.store = s.store
  dramUpset : t.dramUpset = s.dramUpset
  drv : t.drv = s.drv
  cram : t.cram = s.cram
  cramUpset : t.cramUpset = s.cramUpset
  apps : t.apps = s.apps
  net : t.net = s.net
  audio : t.audio = s.audio
  overruns : t.overruns = s.overruns
  overLaps : t.overLaps = s.overLaps
  microFaults : t.microFaults = s.microFaults
  corrMicro : t.corrMicro = s.corrMicro
  sent : t.sent = s.sent

theorem LikeRecord.refl (s : State) : LikeRecord s s :=
  ⟨rfl, rfl, rfl, rfl, rfl, rfl, rfl, rfl, rfl, rfl, rfl, rfl, rfl, rfl, rfl, rfl, rfl, rfl, rfl, rfl, rfl, rfl, rfl, rfl, rfl, rfl, rfl, rfl, rfl, rfl, rfl⟩

theorem LikeRecord.upd {s t : State} {l : ErrLog} {e : Evc} {c : Tbl ClusterSt} {x : TestSt} {m : ModeSt} (h : LikeRecord s t) :
    LikeRecord s { t with log := l, evc := e, clus := c, test := x, modes := m } :=
  ⟨h.pending, h.free, h.result, h.now, h.grid, h.ctxs, h.held, h.starter, h.adm, h.relay, h.man, h.cores, h.csm, h.csmUpset, h.dram, h.dict, h.supply, h.avail, h.store, h.dramUpset, h.drv, h.cram, h.cramUpset, h.apps, h.net, h.audio, h.overruns, h.overLaps, h.microFaults, h.corrMicro, h.sent⟩

theorem setCluster_like {s t : State} (c : Nat) (x : ClusterSt) (h : LikeRecord s t) : LikeRecord s (setCluster t c x) := h.upd

theorem fire_like {s t : State} (n : Nat) (h : LikeRecord s t) : LikeRecord s (fire n t) := h.upd

theorem level_like {s t : State} (n : Nat) (b : Bool) (h : LikeRecord s t) : LikeRecord s (level n b t) := h.upd

theorem sliceStop_like {s t : State} (c : Nat) (h : LikeRecord s t) : LikeRecord s (sliceStop c t) := by
  unfold sliceStop
  split
  · exact h
  · exact h.upd

theorem passEnds_like {s t : State} (c : Nat) (h : LikeRecord s t) : LikeRecord s (passEnds c t) := by
  unfold passEnds
  split
  · exact h.upd
  · exact h

theorem stopSlices_like {s t : State} (h : LikeRecord s t) : LikeRecord s (stopSlices t) := by
  unfold stopSlices
  generalize List.range 8 = l
  induction l generalizing t with
  | nil => exact h
  | cons c l ih =>
    rw [List.foldl_cons]
    refine ih ?_
    split
    · exact h
    · exact setCluster_like _ _ (passEnds_like c (sliceStop_like c h))

theorem escalate_like {s t : State} (cls cluster : Nat) (seen : Bool) (h : LikeRecord s t) :
    LikeRecord s (escalate cls cluster seen t) := by
  unfold escalate
  dsimp only
  split
  · split
    · split
      · exact h.upd
      · split
        · exact level_like _ _ (passEnds_like _ (sliceStop_like _ (setCluster_like _ _ h)))
        · exact h
    · exact h
  · split
    · have h1 := stopSlices_like h
      split
      · exact h1.upd
      · exact h1.upd
      · split
        · exact h1.upd
        · exact h1
      · exact h1
    · exact h

theorem logRecord_like (source cls code cluster unit : Nat) (detail : Bytes) (s : State) :
    LikeRecord s (logRecord source cls code cluster unit detail s) := by
  unfold logRecord
  dsimp only
  refine escalate_like _ _ _ ?_
  have h1 : LikeRecord s { s with log := (writeRecord s.now s.grid.lap source cls code cluster unit detail s.log).1 } :=
    (LikeRecord.refl s).upd
  have h2 : LikeRecord s (if (writeRecord s.now s.grid.lap source cls code cluster unit detail s.log).2 = true then
      fire 334 { s with log := (writeRecord s.now s.grid.lap source cls code cluster unit detail s.log).1 }
      else { s with log := (writeRecord s.now s.grid.lap source cls code cluster unit detail s.log).1 }) := by
    split
    · exact fire_like _ h1
    · exact h1
  revert h2
  generalize (if (writeRecord s.now s.grid.lap source cls code cluster unit detail s.log).2 = true then
      fire 334 { s with log := (writeRecord s.now s.grid.lap source cls code cluster unit detail s.log).1 }
      else { s with log := (writeRecord s.now s.grid.lap source cls code cluster unit detail s.log).1 }) = t
  intro h2
  have h3 : LikeRecord s (if source = 0 then t else fire source t) := by
    split
    · exact h2
    · exact fire_like _ h2
  split
  · exact fire_like _ h3
  · split
    · exact fire_like _ h3
    · exact h3

@[simp] theorem drvOf_logRecord (source cls code cluster unit : Nat) (detail : Bytes) (s : State) (d : Nat) :
    drvOf (logRecord source cls code cluster unit detail s) d = drvOf s d := by
  unfold drvOf
  rw [(logRecord_like source cls code cluster unit detail s).drv]

end Sys2Proof.Machine
end

