-- ==== Sys2Proof/Laws/Told.lean ====
section
/-! SUPPORT. What a write of a named object comes to once it has passed the checks of R479, by the effect that the object's rule gives (odEffect). -/

namespace Sys2Proof.Machine
/-- The write itself. -/
theorem odWrite_told {who : Requester} {ix sub : Nat} {val : Bytes} {s u : State} (h : s.Writable who ix sub val)
    (e : odEffect who ix sub 0 val s = (.ok, u)) :
    odWrite who ix sub val s = noteStatus ix sub (.ok, noteChange ix sub s (afterStreams ix s u)) := by
  obtain ⟨r, h1, h2, h3, h4, h5, h6⟩ := h.passes
  simp [odWrite, odWriteAt, odChecked, h1, h2, h3, h4, h5, h6, h.serves, e, Status.early]

/-- The status objects take a code and leave the answer. -/
theorem noteStatus_fst (ix sub : Nat) (r : Status × State) : (noteStatus ix sub r).1 = r.1 := by
  simp only [noteStatus, updStatus, appStatus]; split
  · rfl
  · split <;> rfl

/-- A write that succeeds. -/
theorem named_told {who : Requester} {ix sub : Nat} {val : Bytes} {s u : State} (h : s.Writable who ix sub val)
    (e : odEffect who ix sub 0 val s = (.ok, u)) : named who ix sub val s = .next (s.told ix sub u) := by
  simp [named, odWrite_told h e, noteStatus_fst, State.told]

/-- A write that the object's rule refuses. -/
theorem named_refused {who : Requester} {ix sub : Nat} {val : Bytes} {s u : State} {st : Status} (h : s.Writable who ix sub val)
    (e : odEffect who ix sub 0 val s = (st, u)) (hs : st ≠ .ok) : named who ix sub val s = .next (answered st [] (noteStatus ix sub (st, u)).2) := by
  obtain ⟨r, h1, h2, h3, h4, h5, h6⟩ := h.passes
  simp [named, odWrite, odWriteAt, odChecked, h1, h2, h3, h4, h5, h6, h.serves, e, hs, noteStatus_fst]

end Sys2Proof.Machine
end

