-- ==== Sys2Proof/WellFormed.lean ====
section
/-! DEFINITION. Commands whose operands can come about: the ranges and lengths that the manual gives the values which a
command's type does not already bound. A message, a record or a value of the dictionary is never ill-formed here, whatever
its length: the module answers it with a status code. -/

namespace Sys2Proof

/-- A gPTP time in ns is 64 bits wide (R508). -/
def timeOk (ns : Nat) : Bool := decide (ns < 2 ^ 64)

/-- Each element is named once. -/
def onceEach {n : Nat} (l : List (Fin n)) : Bool := decide l.Nodup

/-- A temperature or another measured value in tenths, in the 16 bits of its object (Table 18.5). -/
def tenthsOk (v : Int) : Bool := decide (-32768 ≤ v ∧ v ≤ 32767)

/-- The number of bytes that a 32-bit length can name (Table 11.26). -/
def bufferOk (b : Option (List (BitVec 8))) : Bool :=
  match b with
  | some l => decide (l.length < 2 ^ 32)
  | none => true

/-- The bytes of one whole MIDI message (R555): a status byte or, in running status, none, then data bytes; System Exclusive
ends with 0xF7. -/
def midiOk (m : List (BitVec 8)) : Bool :=
  match m with
  | [] => false
  | b :: rest =>
    if b = 0xF0 then rest.dropLast.all (fun x => !x.msb) && rest.getLast? == some 0xF7
    else rest.all (fun x => !x.msb)

/-- A USB MIDI 1.0 packet has 4 bytes, a Universal MIDI Packet one to four words (R559). -/
def packetOk (p : List (BitVec 8)) : Bool := p.length == 4 || p.length == 8 || p.length == 12 || p.length == 16

/-- Samples of an AAF packet come in whole frames of a number of channels (R519, R521). -/
def framesOk (ch : Nat) (l : List (BitVec 32)) : Bool := decide (ch < 1024) && (if ch = 0 then l.isEmpty else l.length % ch == 0)

/-- The operands of a command can come about. -/
def Instr.wf : Instr → Bool
  | .starterEvent _ _ _ _ _ entry split req => timeOk entry && timeOk split && (match req with | some t => timeOk t | none => true)
  | .relayBurst _ _ first n => decide (first < 2 ^ 32) && decide (n < 2 ^ 16)
  | .manifestCheck t => timeOk t
  | .migrationBatch _ bad => onceEach bad
  | .pageReadDone _ frames _ _ => decide (frames ≤ 16384)
  | .doseTick temp => tenthsOk temp
  | .appOdWrite _ _ b => bufferOk b
  | .appOdWriteRun _ _ b _ => bufferOk b
  | .appOdWriteSeg _ _ b _ _ => bufferOk b
  | .appManifestAdd _ _ b => bufferOk b
  | .appPost _ b => bufferOk b
  | .appMidiSend _ b => bufferOk b
  | .linkLossTimeout _ t => timeOk t
  | .gptpSyncTimer t => timeOk t
  | .gptpAnnounceTimer t => timeOk t
  | .pdelayReqTimer t => timeOk t
  | .pdelayReqReceive _ _ t => timeOk t
  | .linkUp _ _ t => timeOk t
  | .linkDown _ t => timeOk t
  | .aafReceive _ _ fmt rate ch _ _ t samples =>
    decide (fmt < 256) && decide (rate < 16) && framesOk ch samples && timeOk t
  | .noteFrameReceive _ _ _ t => timeOk t
  | .adpAvailableTimer t => timeOk t
  | .quarantineRelease _ t => timeOk t
  | .cvConversion k codes => timeOk (250000 * k) && codes.length == 16
  | .dinMidiMessage m t => midiOk m && timeOk t
  | .usbMidiPacket p t => packetOk p && timeOk t
  | .usbSetCur f => decide (f < 2 ^ 32)
  | .powerSequencingDone us => decide (us < 2 ^ 32)
  | .pllLock us ticks => decide (us < 2 ^ 32) && decide (ticks < 2 ^ 64)
  | .stage2LoadDone t => timeOk t
  | .dramTrainingDone t _ => timeOk t
  | .storeMountDone t _ => timeOk t
  | .supplyMonitorTick vin temp junction power _ =>
    decide (vin < 2 ^ 16) && tenthsOk temp && tenthsOk junction && decide (power < 2 ^ 32)
  | .memoryScrub id _ _ _ _ => id.val != 0
  | .sliceDone _ _ _ _ _ us bad => decide (us < 2 ^ 32) && onceEach bad
  | .sampleInstant line tdm => line.length == 4 && decide (tdm.length ≤ 128)
  | .keyScanSample k closed => timeOk (10000 * k) && onceEach closed
  | .gpioSample us _ => timeOk (1000 * us)
  | .usbAudioTransaction _ _ t => timeOk t
  | _ => true

end Sys2Proof
end

