-- ==== Sys2Proof/Tests/Slice0.lean ====
section
/-! SUPPORT. Tests: ill-formed commands, words and examples of the manual, and states that meet the hypotheses of the statements. -/

namespace Sys2Proof.Tests

open Sys2Proof Sys2Proof.Machine

/-- The state that a command leaves. -/
def after (c : Instr) (s : State) : State :=
  match exec c s with
  | .next t => t
  | _ => s

/-! ### Operands that cannot come about -/

theorem test_wf_time : Instr.wf (.gptpSyncTimer (2 ^ 64)) = false ∧ Instr.wf (.gptpSyncTimer (2 ^ 64 - 1)) = true := by decide
theorem test_wf_starter : Instr.wf (.starterEvent 0 0 0 0 0 0 (2 ^ 64) none) = false ∧ Instr.wf (.starterEvent 0 0 0 0 0 (2 ^ 64) 0 none) = false ∧
    Instr.wf (.starterEvent 0 0 0 0 0 0 0 (some (2 ^ 64))) = false ∧ Instr.wf (.starterEvent 0 0 0 0 0 0 0 (some 0)) = true := by decide
theorem test_wf_burst : Instr.wf (.relayBurst false 0 (2 ^ 32) 0) = false ∧ Instr.wf (.relayBurst false 0 0 (2 ^ 16)) = false := by decide
theorem test_wf_batch : Instr.wf (.migrationBatch 0 [3, 3]) = false ∧ Instr.wf (.migrationBatch 0 [3, 4]) = true := by decide
theorem test_wf_page : Instr.wf (.pageReadDone none 16385 0 0) = false ∧ Instr.wf (.pageReadDone none 16384 0 0) = true := by decide
theorem test_wf_tenths : Instr.wf (.doseTick 32768) = false ∧ Instr.wf (.doseTick (-32768)) = true := by decide
theorem test_wf_aaf : Instr.wf (.aafReceive 0 0 256 0 0 0 none 0 []) = false ∧ Instr.wf (.aafReceive 0 0 0 16 0 0 none 0 []) = false ∧
    Instr.wf (.aafReceive 0 0 0 0 2 0 none 0 [0]) = false ∧ Instr.wf (.aafReceive 0 0 0 0 0 0 none 0 [0]) = false ∧
    Instr.wf (.aafReceive 0 0 0 0 1024 0 none 0 []) = false ∧ Instr.wf (.aafReceive 0 0 0 0 2 0 none 0 [0, 0]) = true := by decide
theorem test_wf_cv : Instr.wf (.cvConversion 0 [0]) = false ∧ Instr.wf (.cvConversion 0 (List.replicate 16 0)) = true := ⟨rfl, rfl⟩
theorem test_wf_midi : Instr.wf (.dinMidiMessage [] 0) = false ∧ Instr.wf (.dinMidiMessage [0x90, 0x80] 0) = false ∧
    Instr.wf (.dinMidiMessage [0xF0, 1] 0) = false ∧ Instr.wf (.dinMidiMessage [0xF0, 1, 0xF7] 0) = true ∧ Instr.wf (.dinMidiMessage [60, 64] 0) = true := by decide
theorem test_wf_packet : Instr.wf (.usbMidiPacket [9, 0x90, 60] 0) = false ∧ Instr.wf (.usbMidiPacket [9, 0x90, 60, 64] 0) = true := by decide
theorem test_wf_words : Instr.wf (.usbSetCur (2 ^ 32)) = false ∧ Instr.wf (.powerSequencingDone (2 ^ 32)) = false ∧ Instr.wf (.pllLock 0 (2 ^ 64)) = false := by decide
theorem test_wf_supply : Instr.wf (.supplyMonitorTick 65536 0 0 0 0) = false ∧ Instr.wf (.supplyMonitorTick 0 32768 0 0 0) = false ∧
    Instr.wf (.supplyMonitorTick 0 0 (-32769) 0 0) = false ∧ Instr.wf (.supplyMonitorTick 0 0 0 (2 ^ 32) 0) = false := by decide
theorem test_wf_scrub : Instr.wf (.memoryScrub 0 0 0 0 0) = false ∧ Instr.wf (.memoryScrub 1 0 0 0 0) = true := by decide
theorem test_wf_slice : Instr.wf (.sliceDone 0 0 0 0 0 (2 ^ 32) []) = false ∧ Instr.wf (.sliceDone 0 0 0 0 0 0 [7, 7]) = false := by decide
theorem test_wf_samples : Instr.wf (.sampleInstant [0, 0, 0] []) = false ∧ Instr.wf (.sampleInstant [0, 0, 0, 0] (List.replicate 129 0)) = false :=
  ⟨by decide, by simp [Instr.wf]⟩
theorem test_wf_scan : Instr.wf (.keyScanSample 0 [5, 5]) = false ∧ Instr.wf (.gpioSample (2 ^ 64) 0) = false ∧ Instr.wf (.usbAudioTransaction 0 [] (2 ^ 64)) = false := by decide

/-! ### The queue and the invariant -/

def idle : State := State.reset

theorem test_step_takes_front : step { idle with pending := [.lapEdge, .sealLap] } = exec .lapEdge { idle with pending := [.sealLap] } ∧
    step idle = .next idle := ⟨rfl, rfl⟩

/-- A state without sources meets the premises of CommandsKeepTheQueue, StepKeepsInvariant and LifeCycleOnlyForward, with a command that waits. -/
def quiet : State := { State.reset with evc := {}, pending := [.lapEdge], cram := [(3, 7)] }
theorem witness_inv : quiet.Inv ∧ ∃ t, step quiet = .next t :=
  ⟨⟨⟨rfl, (by intro _ h; cases h), (by intro _ h; cases h)⟩, ⟨rfl, rfl, rfl⟩⟩, _, rfl⟩
/-- A source that is active with its owner. -/
theorem witness_claim : Evc.ClaimsOk { src := [(5, { act := true, owner := 2 })] } :=
  ⟨by decide, by decide, by decide⟩

/-- No word spells a command. -/
theorem test_no_word : decodeTableWord 32 0xFFFFFFFF = none := rfl

/-! ### Drovers -/

/-- An instruction word from its fields (Table 11.7, format R). -/
def wordR (op rd rs1 rs2 sh fn : Nat) : BitVec 32 := BitVec.ofNat 32 (op * 2 ^ 26 + rd * 2 ^ 21 + rs1 * 2 ^ 16 + rs2 * 2 ^ 11 + sh * 2 ^ 6 + fn)

/-- The formats I, S and B. -/
def wordI (op rd rs1 imm : Nat) : BitVec 32 := BitVec.ofNat 32 (op * 2 ^ 26 + rd * 2 ^ 21 + rs1 * 2 ^ 16 + imm)

/-- The format SYS. -/
def wordS (rd rs1 imm10 fn : Nat) : BitVec 32 := BitVec.ofNat 32 (0x3F * 2 ^ 26 + rd * 2 ^ 21 + rs1 * 2 ^ 16 + imm10 * 2 ^ 6 + fn)

/-- Words of Tables 11.8a to 11.8d, one for each instruction. -/
def words1 : List (DrvOp × BitVec 32) :=
  [(.addi, wordI 0x08 1 2 0xFFFF), (.andi, wordI 0x09 1 2 3), (.ori, wordI 0x0A 1 2 3), (.xori, wordI 0x0B 1 2 3), (.slti, wordI 0x0C 1 2 3),
   (.sltiu, wordI 0x0D 1 2 3), (.lui, wordI 0x0E 1 0 3), (.addpc, wordI 0x0F 1 0 3), (.lb, wordI 0x10 1 2 3), (.lbu, wordI 0x11 1 2 3),
   (.lh, wordI 0x12 1 2 3), (.lhu, wordI 0x13 1 2 3), (.lw, wordI 0x14 1 2 3), (.lwx, wordI 0x15 1 2 3), (.sb, wordI 0x18 1 2 3),
   (.sh, wordI 0x19 1 2 3), (.sw, wordI 0x1A 1 2 3), (.swx, wordR 0x1B 1 2 3 0 0), (.beq, wordI 0x20 1 2 3), (.bne, wordI 0x21 1 2 3),
   (.blt, wordI 0x22 1 2 3), (.bge, wordI 0x23 1 2 3), (.bltu, wordI 0x24 1 2 3), (.bgeu, wordI 0x25 1 2 3), (.j, wordI 0x28 1 2 3),
   (.jl, wordI 0x29 1 2 3), (.jr, wordR 0x2A 1 2 0 0 0)]
def words2 : List (DrvOp × BitVec 32) :=
  [(.add, wordR 1 1 2 3 0 0x01), (.sub, wordR 1 1 2 3 0 0x02), (.addv, wordR 1 1 2 3 0 0x03), (.subv, wordR 1 1 2 3 0 0x04),
   (.and, wordR 1 1 2 3 0 0x05), (.or, wordR 1 1 2 3 0 0x06), (.xor, wordR 1 1 2 3 0 0x07), (.nor, wordR 1 1 2 3 0 0x08),
   (.slt, wordR 1 1 2 3 0 0x09), (.sltu, wordR 1 1 2 3 0 0x0A), (.sll, wordR 1 1 2 3 0 0x0B), (.srl, wordR 1 1 2 3 0 0x0C),
   (.sra, wordR 1 1 2 3 0 0x0D), (.slli, wordR 1 1 2 0 31 0x0E), (.srli, wordR 1 1 2 0 31 0x0F), (.srai, wordR 1 1 2 0 31 0x10),
   (.min, wordR 1 1 2 3 0 0x11), (.max, wordR 1 1 2 3 0 0x12), (.minu, wordR 1 1 2 3 0 0x13), (.maxu, wordR 1 1 2 3 0 0x14),
   (.clz, wordR 1 1 2 0 0 0x15), (.sextb, wordR 1 1 2 0 0 0x16), (.sexth, wordR 1 1 2 0 0 0x17)]
def words3 : List (DrvOp × BitVec 32) :=
  [(.mul, wordR 2 1 2 3 0 1), (.mulh, wordR 2 1 2 3 0 2), (.mulhu, wordR 2 1 2 3 0 3), (.div, wordR 2 1 2 3 0 4), (.divu, wordR 2 1 2 3 0 5),
   (.rem, wordR 2 1 2 3 0 6), (.remu, wordR 2 1 2 3 0 7), (.trap, wordS 0 0 63 1), (.eret, wordS 0 0 0 2), (.mfcr, wordS 1 0 0x3F 3),
   (.mtcr, wordS 0 2 0x3F 4), (.icinv, wordS 0 2 0 5), (.isync, wordS 0 0 0 6), (.dcclean, wordS 0 2 0 7), (.dcinv, wordS 0 2 0 8),
   (.dcflush, wordS 0 2 0 9), (.dsync, wordS 0 0 0 10), (.wfi, wordS 0 0 0 11), (.brk, wordS 0 0 0 12)]

theorem test_words1 : ∀ p ∈ words1, drvDecode ⟨p.2⟩ = some p.1 := by decide
theorem test_words2 : ∀ p ∈ words2, drvDecode ⟨p.2⟩ = some p.1 := by decide
theorem test_words3 : ∀ p ∈ words3, drvDecode ⟨p.2⟩ = some p.1 := by decide
theorem test_all_words : words1.length + words2.length + words3.length = 69 := rfl

/-- R407, R408: reserved values, and words with a reserved field that is not 0. -/
theorem test_illegal : ([0, wordI 0x03 0 0 0, wordI 0x16 0 0 0, wordI 0x1C 0 0 0, wordI 0x26 0 0 0, wordI 0x2B 0 0 0, wordI 0x0E 1 2 3, wordI 0x0F 1 2 3,
    wordR 0x1B 1 2 3 1 0, wordR 0x2A 1 2 3 0 0].map (fun w => drvDecode ⟨w⟩)).all (·.isNone) = true := rfl
theorem test_illegal_groups : ([wordR 1 1 2 3 1 1, wordR 1 1 2 3 0 0, wordR 1 1 2 3 31 0x0E, wordR 1 1 2 3 0 0x15, wordR 1 1 2 3 0 0x18,
    wordR 2 1 2 3 0 8, wordS 0 0 64 1, wordS 1 0 0 2, wordS 1 0 0x100 3, wordS 1 2 0 4, wordS 1 2 0 5, wordS 0 1 0 6, wordS 0 0 0 13].map (fun w => drvDecode ⟨w⟩)).all (·.isNone) = true := rfl

/-- A Drover in M that has fetched a word. -/
def runs (w : BitVec 32) : Drover := { queue := [(0x100, w)] }
def onDrv (x : Drover) : State := setDrv State.reset 0 x

/-- Every word, so each of those above, may stand at the pc of a core that issues it: DroverAlu, DroverArithmetic, DroverJumps,
DroverLoads and all other statements over State.Issues. -/
theorem witness_issues (w : BitVec 32) : (onDrv (runs w)).Issues 0 w :=
  have h : drvOf (onDrv (runs w)) 0 = runs w := drvOf_setDrv ..
  ⟨by rw [h]; rfl, by rw [h]; rfl, by rw [h]; simp [fetchFault, runs, mpuGrant]; decide, by rw [h]; simp [fetchQueue, runs]⟩

def issued (o : Fin 4 → Instr) (w : BitVec 32) (x : Drover) : Drover := drvOf (after (o 0) (onDrv { x with queue := [(0x100, w)] })) 0

theorem test_addi : (issued .drvAddi (wordI 0x08 1 2 0xFFFF) { w := [(2, 5)] }).reg 1 = 4 := by decide
theorem test_addi_w0 : (issued .drvAddi (wordI 0x08 0 2 3) { w := [(2, 5)] }).w = [(2, 5)] := by decide
theorem test_addi_w30 : (issued .drvAddi (wordI 0x08 30 0 16) {}).sp = [(2, 16)] := by decide
theorem test_slti : (issued .drvSlti (wordI 0x0C 1 2 3) { w := [(2, 0xFFFFFFFF)] }).reg 1 = 1 := by decide
theorem test_sltiu : (issued .drvSltiu (wordI 0x0D 1 2 0xFFFF) { w := [(2, 5)] }).reg 1 = 1 := by decide
theorem test_lui : (issued .drvLui (wordI 0x0E 1 0 0x8001) {}).reg 1 = 0x80010000 := by decide
theorem test_addpc : (issued .drvAddpc (wordI 0x0F 1 0 0xFFFF) {}).reg 1 = 0xFC := by decide
theorem test_nor : (issued .drvNor (wordR 1 1 2 3 0 0x08) { w := [(2, 0xF0), (3, 0x0F)] }).reg 1 = 0xFFFFFF00 := by decide
theorem test_sll_by_32 : (issued .drvSll (wordR 1 1 2 3 0 0x0B) { w := [(2, 7), (3, 32)] }).reg 1 = 7 := by decide
theorem test_sra : (issued .drvSra (wordR 1 1 2 3 0 0x0D) { w := [(2, 0x80000000), (3, 31)] }).reg 1 = 0xFFFFFFFF := by decide
theorem test_clz : (issued .drvClz (wordR 1 1 2 0 0 0x15) {}).reg 1 = 32 := by decide
theorem test_sexth : (issued .drvSexth (wordR 1 1 2 0 0 0x17) { w := [(2, 0x18000)] }).reg 1 = 0xFFFF8000 := by decide
theorem test_mulh : (issued .drvMulh (wordR 2 1 2 3 0 2) { w := [(2, 0xFFFFFFFF), (3, 1)] }).reg 1 = 0xFFFFFFFF := by decide
theorem test_div : (issued .drvDiv (wordR 2 1 2 3 0 4) { w := [(2, 0xFFFFFFF9), (3, 2)] }).reg 1 = 0xFFFFFFFD := by decide
theorem test_rem : (issued .drvRem (wordR 2 1 2 3 0 6) { w := [(2, 0xFFFFFFF9), (3, 2)] }).reg 1 = 0xFFFFFFFF := by decide
/-- R409: a divisor of 0 and the quotient that does not fit write their result, and exception 8 waits with its KIND. -/
theorem test_div_by_zero : (issued .drvDiv (wordR 2 1 2 3 0 4) { w := [(2, 5)] }).reg 1 = 0xFFFFFFFF ∧
    (issued .drvDiv (wordR 2 1 2 3 0 4) { w := [(2, 5)] }).arith = some { at_ := 0x100, kind := 2, count := 0 } := by decide
theorem test_div_overflow : (issued .drvDiv (wordR 2 1 2 3 0 4) { w := [(2, 0x80000000), (3, 0xFFFFFFFF)] }).reg 1 = 0x80000000 ∧
    (issued .drvDiv (wordR 2 1 2 3 0 4) { w := [(2, 0x80000000), (3, 0xFFFFFFFF)] }).arith.map (·.kind) = some 3 := by decide
theorem test_rem_no_exception : (issued .drvRem (wordR 2 1 2 3 0 6) { w := [(2, 0x80000000), (3, 0xFFFFFFFF)] }).arith = none := by decide
theorem test_addv : (issued .drvAddv (wordR 1 1 2 3 0 3) { w := [(2, 0x7FFFFFFF), (3, 1)] }).arith.map (·.kind) = some 0 ∧
    (issued .drvAddv (wordR 1 1 2 3 0 3) { w := [(2, 0x7FFFFFFE), (3, 1)] }).arith = none := by decide
theorem test_jl : (issued .drvJl (wordI 0x29 31 31 0xFFFF) {}).reg 31 = 0x104 ∧ (issued .drvJl (wordI 0x29 31 31 0xFFFF) {}).pc = 0xFC := by decide
theorem test_jr : (issued .drvJr (wordR 0x2A 0 2 0 0 0) { w := [(2, 0x10000007)] }).pc = 0x10000004 := by decide
theorem test_bltu : (issued .drvBltu (wordI 0x24 1 2 4) { w := [(1, 1), (2, 0xFFFFFFFF)] }).pc = 0x110 ∧
    (issued .drvBlt (wordI 0x22 1 2 4) { w := [(1, 1), (2, 0xFFFFFFFF)] }).pc = 0x104 := by decide

/-- DroverArithmeticException: one that waits, in each PRECISE, and one that is taken. -/
theorem witness_arith :
    (drvOf (onDrv { runs 0 with arith := some { at_ := 0x100, kind := 3, count := 15 } }) 0).arith.isSome = true ∧
    (drvOf (onDrv { runs 0 with arith := none, precise := true }) 0).arith = none ∧
    (onDrv { runs (wordR 1 1 2 3 0 1) with arith := some { at_ := 0x100, kind := 3, count := 15 } }).Issues 0 (wordR 1 1 2 3 0 1) :=
  ⟨rfl, rfl, by decide, by decide, by decide, by decide⟩

/-- DroverAccessChecks: an access of each kind, with the check that it fails first (Table 11.17). -/
theorem witness_access :
    let m : Drover := {}
    let u : Drover := { priv := 0 }
    let r : Drover := { priv := 0, mpuB := [(0, 0x10000001)], mpuA := [(0, 0x1000003F)] }
    dataFault m 0x103FFFFE 4 false = some (7, 2) ∧ dataFault m 0x20000001 4 false = some (7, 3) ∧
    dataFault r 0x1000003E 4 false = some (7, 1) ∧ dataFault u 0x10000000 4 false = some (4, 1) ∧ dataFault u 0x10000000 4 true = some (5, 1) ∧
    dataFault m 0x08000000 4 false = some (9, 1) ∧ dataFault m 0x100 4 true = some (9, 2) ∧ dataFault m 0x10000000 4 true = none ∧
    mpuDecide r 0x1000003F = some 0 ∧ mpuDecide r 0x10000040 = none := by decide

/-- DroverLoads and DroverStores: the words of a load from control RAM, of one that a buffered store serves, and of one that may not be made. -/
theorem witness_loads :
    let x : Drover := { runs (wordI 0x14 1 2 4) with w := [(2, 0x10002000)] }
    let e : SbEntry := { at_ := 0x10002000, bytes := [(4, 0xAA)], mask := [4, 5, 6, 7], addr := 0x10002004, priv := 2, cach := false }
    dataFault x 0x10002004 4 false = none ∧ drvRegion 0x10002004 = .cram ∧ cramBad (onDrv x) 0x2004 4 = false ∧
    (∀ i, i < 4 → e.holds (drvPhys x 0x10002004 + i) = true) ∧ x.buf.length ≤ 6 ∧ dataFault { x with w := [(2, 0x08000000)] } 0x08000004 4 false = some (9, 1) := by decide
theorem test_lw : (issued .drvLw (wordI 0x14 1 2 4) { w := [(2, 0x10002000)] }).reg 1 = 0 ∧
    (drvOf (after (.drvLb 0) { onDrv { runs (wordI 0x10 1 2 4) with w := [(2, 0x10002000)] } with cram := [(0x2004, 0x80)] }) 0).reg 1 = 0xFFFFFF80 := by decide
theorem test_sh_unaligned : let x := issued .drvSh (wordI 0x19 3 2 7) { w := [(2, 0x10002000), (3, 0xABCD)] }
    x.buf.length = 2 ∧ cramSees idle x 0x10002007 = 0xCD ∧ cramSees idle x 0x10002008 = 0xAB := by decide
/-- R418, the example of chapter 11: a load partly over buffered stores takes its bytes from control RAM once they have drained. -/
theorem test_load_after_drain :
    let e (a : Nat) (b : Tbl Byte) (m : List Nat) : SbEntry := { at_ := a, bytes := b, mask := m, addr := a + m.headD 0, priv := 2, cach := false }
    let x := issued .drvLw (wordI 0x14 1 2 4) { w := [(2, 0x10002000)], buf := [e 0x10003000 [(0, 1)] [0], e 0x10002000 [(4, 2), (5, 3)] [4, 5], e 0x10002000 [(7, 4)] [7]] }
    x.reg 1 = 0x04000302 ∧ x.buf = [] := by decide

/-- DroverExclusives: each case of an address, and a reservation that is held. -/
theorem witness_exclusive :
    drvRegion 0x10000010 = .cram ∧ drvRegion 0x40000000 ≠ .cram ∧ mpuGrant {} 2 0x10000010 1 = true ∧ mpuGrant { priv := 0 } 0 0x10000010 0 = false ∧
    cramBad (onDrv (runs 0)) 0x10 4 = false ∧ (drvOf (onDrv { runs 0 with resv := some 1 }) 0).resv = some (0x10 / 16) := by decide
theorem test_swx : let s := after (.drvSwx 0) (onDrv { runs (wordR 0x1B 1 2 3 0 0) with w := [(2, 0x10000010), (3, 0x11223344)], resv := some 1 })
    (drvOf s 0).reg 1 = 0 ∧ s.cram = [(0x10, 0x44), (0x11, 0x33), (0x12, 0x22), (0x13, 0x11)] ∧ (drvOf s 0).resv = none := by decide
theorem test_swx_fails : let s := after (.drvSwx 0) (onDrv { runs (wordR 0x1B 1 2 3 0 0) with w := [(2, 0x10000010), (3, 0x11223344)], resv := some 2 })
    (drvOf s 0).reg 1 = 1 ∧ s.cram = [] := by decide

/-- Bytes of control RAM that hold a word. -/
def word4 (a v : Nat) (m : Tbl Byte) : Tbl Byte := Tbl.putAll 0 m a (leBytes 4 v)

/-- A descriptor table at 0x1000_0000 in which descriptor k has the words HANDLER, SPVAL and the control word. -/
def withDesc (k h sp ctl : Nat) (s : State) : State := { s with cram := word4 (16 * k) h (word4 (16 * k + 4) sp (word4 (16 * k + 12) ctl s.cram)) }

/-- DroverExceptionEntry: a valid descriptor with a frame that may be written, one that is not valid, and DF. -/
theorem witness_entry :
    let s := withDesc 6 0x10008000 0x10002000 5 (withDesc 1 0x10009000 0 5 (onDrv {}))
    let x : Drover := {}
    descOk s x 6 = true ∧ frameFault x 2 0x10002000 0 = none ∧ descThere s x 7 = true ∧ (descRead s x 7).valid = false ∧ descOk s x 1 = true := by decide
theorem test_entry : let s := drvEnter 0 6 0x100 1 2 (withDesc 6 0x10008000 0x10002000 5 (onDrv { xie := true }))
    (drvOf s 0).pc = 0x10008000 ∧ (drvOf s 0).reg 30 = 0x10001FE0 ∧ Tbl.get 0 s.cram 0x1FE0 = 6 ∧ Tbl.get 0 s.cram 0x1FE5 = 1 := by decide

/-- Chapter 11's example: Drover 2's corrupt S stack, the frame on the emergency stack, and the fault in the double-fault handler. -/
def corrupt : State := withDesc 32 0x10008000 0 0x1B (withDesc 1 0x10009000 0 5
  (setDrv State.reset 2 { priv := 1, xie := true, pc := 0x40012A40, sp := [(1, 0x10023F38), (2, 0x1000FF00)] }))
theorem test_corrupt_stack : let s := drvEnter 2 32 0x40012A40 0 0 corrupt
    (drvOf s 2).psw = 0x12 ∧ Tbl.get 0 (drvOf s 2).sp 2 = 0x103FFBE0 ∧
    (List.range 8).map (fun i => leNat (Tbl.slice 0 s.cram (0x3FFBE0 + 4 * i) 4)) = [5, 0x40012A40, 0x220, 0, 0x1000FF00, 0, 0, 0] := by decide
theorem test_checkstop : let s := drvEnter 2 9 0x10009010 1 0x08000000 (drvEnter 2 32 0x40012A40 0 0 corrupt)
    (drvOf s 2).run = .checkstop ∧ (drvOf s 2).snapEsr = 9 ∧ (drvOf s 2).snapEfa = 0x08000000 := by decide

/-- DroverExceptions: TRAP from U with and without UCALL, an interrupt that is pending, a watchdog that counts. -/
theorem witness_exceptions :
    let x : Drover := { priv := 0 }
    let trap := withDesc 127 0x10008000 0 0x45 (onDrv x)
    let irq := evcPut State.reset.evc 448 { (evcSrc State.reset.evc 448) with en := true, pend := true, tgt := 1 }
    descThere trap x 127 = true ∧ (descRead trap x 127).ctl.getLsbD 6 = true ∧ (descRead trap x 126).ctl.getLsbD 6 = false ∧
    xirq irq 0 = true ∧ drvCheck (onDrv {}) {} .add ⟨wordR 1 1 2 3 0 1⟩ = none ∧ ({} : Drover).counts = true := by decide
theorem test_trap : let s := after (.drvTrap 0) (withDesc 127 0x10008000 0x10002000 5 (onDrv (runs (wordS 0 0 63 1))))
    (drvOf s 0).pc = 0x10008000 ∧ leNat (Tbl.slice 0 s.cram 0x1FE4 4) = 0x104 ∧ leNat (Tbl.slice 0 s.cram 0x1FE8 4) = 63 := by decide

/-- DroverEret: a frame that may be read, of S and of M. -/
theorem witness_eret : let x : Drover := { runs (wordS 0 0 0 2) with sp := [(2, 0x10001FE0), (1, 0x10001FE0)] }
    dataFault x 0x10001FE0 32 false = none ∧ drvRegion 0x10001FE0 = .cram ∧ cramBad (onDrv x) 0x1FE0 20 = false ∧
    (cramWord { onDrv x with cram := word4 0x1FE0 6 [] } x 0x10001FE0).toNat % 4 = 2 ∧
    dataFault { x with priv := 1, mpuB := [(0, 0x10000001)], mpuA := [(0, 0x103FFFFF)] } 0x10001FE0 32 false = none := by decide
theorem test_eret : let s := after (.drvEret 0) { onDrv { runs (wordS 0 0 0 2) with sp := [(2, 0x10001FE0)], resv := some 3 } with
      cram := word4 0x1FE0 5 (word4 0x1FE4 0x10000200 (word4 0x1FF0 0x10002000 [])) }
    (drvOf s 0).pc = 0x10000200 ∧ (drvOf s 0).priv = 1 ∧ (drvOf s 0).xie = true ∧ Tbl.get 0 (drvOf s 0).sp 2 = 0x10002000 ∧ (drvOf s 0).resv = none := by decide

/-- DroverControlRegisters: numbers of every clause, in a privilege that reaches them and one that does not. -/
theorem test_mfcr : (issued .drvMfcr (wordS 1 0 0 3) { xie := true }).reg 1 = 6 ∧ (issued .drvMfcr (wordS 1 0 10 3) {}).reg 1 = 0x1A ∧
    (issued .drvMfcr (wordS 1 0 4 3) {}).reg 1 = 0x10000000 ∧ (issued .drvMfcr (wordS 1 0 0x3F 3) { mpuA := [(15, 9)] }).reg 1 = 9 := by decide
theorem test_mtcr : (issued .drvMtcr (wordS 0 2 0 4) { w := [(2, 0xFFFFFFFF)] }).psw = 0xE ∧ (issued .drvMtcr (wordS 0 2 6 4) { axlost := 9 }).axlost = 0 ∧
    (issued .drvMtcr (wordS 0 2 0x20 4) { w := [(2, 0xFFFFFFFF)] }).mpuB = [(0, 0xFFFFFFC3)] ∧ (issued .drvMtcr (wordS 0 2 5 4) { w := [(2, 7)] }).pc = 0x104 := by decide
theorem test_mfcr_in_u : let s := after (.drvMfcr 0) (withDesc 6 0x10008000 0x10002000 5 (onDrv { runs (wordS 1 0 4 3) with priv := 0, mpuB := [(0, 1)], mpuA := [(0, 0x104)] }))
    (drvOf s 0).pc = 0x10008000 ∧ (drvOf s 0).priv = 2 ∧ leNat (Tbl.slice 0 s.cram 0x1FE4 4) = 0x100 := by decide

/-- DroverCaches: a dirty line, a clean one and none, and an address that the MPU denies. -/
theorem witness_caches :
    let l : Line := { at_ := 2 ^ 32 + 0x340000000, dirty := true }
    let x : Drover := { runs (wordS 0 2 0 7) with w := [(2, 0x40000000)], dcache := [(0, [l])] }
    (drvRegion 0x40000000).isDram = true ∧ drvPhys x 0x40000000 = 2 ^ 32 + 0x340000000 ∧ cacheFind x.dcache (2 ^ 32 + 0x340000000) = some l ∧
    mpuGrant x 2 0x40000000 0 = true ∧ mpuGrant { x with priv := 0 } 0 0x40000000 0 = false ∧ x.buf = [] ∧ x.wback = none := by decide
theorem test_dcflush : let l : Line := { at_ := 2 ^ 32 + 0x340000000, dirty := true }
    let y := issued .drvDcflush (wordS 0 2 0 9) { w := [(2, 0x40000000)], dcache := [(0, [l])] }
    y.dcache = [] ∧ y.wback = some ⟨l, 0x40000000⟩ := by decide

/-- DroverHoldAndReset: each state in which a clause acts. -/
theorem witness_reset :
    let irq : State := { onDrv { wfi := true } with evc := evcPut State.reset.evc 448 { (evcSrc State.reset.evc 448) with en := true, pend := true, tgt := 1 } }
    (drvOf irq 0).wfi = true ∧ xirq irq.evc 0 = true ∧ ({} : Drover).priv = 2 ∧ (drvOf idle 0).run ≠ .reset ∧
    (let c : Drover := { run := .checkstop, ckEnd := 1000 }; c.run = .checkstop ∧ c.ckEnd ≠ 0 ∧ c.hold = false) ∧ ({ first := true } : Drover).counts = true := by decide
theorem test_wdkick : (drvOf (after (.wdkick 0 0xA5) (onDrv { first := true })) 0).first = false ∧ (drvOf (after (.wdkick 0 0xA4) (onDrv { first := true })) 0).first = true := by decide
theorem test_hold_own_write : after (.drvctlHold 0 0 true) (onDrv {}) = onDrv {} := by decide
theorem test_reset : let s := after (.drvctlReset 1 0 true) (setDrv (onDrv { w := [(1, 5)], snapEsr := 9 }) 1 {})
    (drvOf s 0).run = .reset ∧ (drvOf s 0).w = [] ∧ (drvOf s 0).hold = true ∧ (drvOf s 0).snapEsr = 9 ∧ (drvOf s 1).run = .running := by decide

/-- DroverTransactions: entries that drain, a write-back, reads that end, and a fetch that misses. -/
theorem witness_transactions :
    let e (a : Nat) (b : Bool) : SbEntry := { at_ := if a < 0x20000000 then a else 2 ^ 32 + 0x340000000, bytes := [(0, 7)], mask := [0], addr := a, priv := 2, cach := false, begun := b }
    let x : Drover := { buf := [e 0x10000000 false], pc := 0x10000000 }
    drvRegion (e 0x10000000 false).addr = .cram ∧ (drvRegion (e 0x40000000 true).addr).isDram = true ∧ x.issues = true ∧ fetchMiss x = some 0x10000000 ∧
    cacheFind x.dcache (e 0x40000000 true).at_ = none ∧ dramBad idle 0x340000000 64 = false ∧ cramBad idle 0 64 = false ∧
    (let r : ReadTxn := { addr := 0x4000003C, left := 4, got := [], rd := 1, sext := false, fill := false, start := 0 }; (drvRegion r.addr).isDram = true ∧ r.left ≤ 64 - r.addr % 64) := by decide
theorem test_drain : let e : SbEntry := { at_ := 0x10000008, bytes := [(1, 7)], mask := [1], addr := 0x10000009, priv := 2, cach := false }
    let s := after (.storeBufferDrain 0) (onDrv { buf := [e] })
    s.cram = [(9, 7)] ∧ (drvOf s 0).buf = [] := by decide

/-- DroverRegisterWrites: a semaphore that is free, held by Drover applications, and held by port A; a mode in which BPM0 is written and one in which it is not. -/
theorem witness_register_writes :
    Tbl.get 0 idle.dict.sems 31 = 0 ∧ bootOrWorkshop { idle with modes := { idle.modes with mode := .workshop } } = true ∧
    (let s : State := { idle with modes := { idle.modes with mode := .perform } }; ¬ (bootOrWorkshop s = true ∨ drained s 0 = true)) := by decide
theorem test_semreq : let s : State := { idle with dict := { idle.dict with sems := [(5, 1)] } }
    (after (.semreqTake 5) s).dict.semres = 7 ∧ (after (.semreqGive 5) s).dict.semres = 6 ∧ Tbl.get 0 (after (.semreqTake 6) s).dict.sems 6 = 3 := by decide

/-! ### Long-vector units -/

def onCore (c : SigCore) : State := setCore State.reset 0 c
theorem core_on (c : SigCore) : coreOf (onCore c) 0 = c := coreOf_setCore ..

/-- Core 0 whose LVU holds an instruction. -/
def vecOn (o : LvuOp) (l : Lvu) : State := onCore { lvu := { l with busy := some o } }

/-- Every legal instruction may stand in an LVU: the vector statements. -/
theorem witness_vector (o : LvuOp) (h : vecOk (groupOf o.vg) o.vop.toNat o.opd.toNat = true) : (vecOn o {}).Vector 0 o o.vop.toNat :=
  have c : coreOf (vecOn o {}) 0 = { lvu := { busy := some o } } := core_on _
  ⟨by rw [lvuOf, c], rfl, h, by rw [lvuOf, c], by rw [lvuOf, c], by rw [c], by rw [lvuOf, c]; rfl, by rw [lvuOf, c]; exact ⟨rfl, rfl, rfl⟩, by rw [lvuOf, c]⟩

/-- A legal instruction of each VOP that the vector statements name (Table 6.11). -/
theorem witness_vector_legal : ([(1, 0), (2, 0), (3, 0), (4, 0x40000), (5, 0x40000), (8, 0), (9, 0), (10, 0), (11, 0), (12, 0), (13, 0), (14, 0), (15, 0), (16, 0),
    (17, 0), (18, 0), (19, 0), (20, 0), (21, 0), (22, 0), (24, 0), (25, 0), (26, 0), (32, 0x400), (33, 0), (34, 0), (35, 0x40000), (36, 0x40000), (37, 0x40000), (38, 0),
    (39, 0x40000), (40, 0x200000), (41, 0)] : List (Nat × Nat)).all (fun p => vecOk 1 p.1 p.2) = true := rfl

def vecAfter (c : Fin 64 → Instr) (o : LvuOp) (l : Lvu) : Lvu := lvuOf (after (c 0) (vecOn o l)) 0

/-- VADD V1, V0, D of one element with S = 1, at both ends of Q1.23. -/
theorem test_vadd_clamps : Tbl.get 0 (vecAfter .vadd { vop := 8, opd := 0x40300, vl := 1, d := 1 } { v := [(0, 0x7FFFFF)] }).v 128 = 0x7FFFFF ∧
    Tbl.get 0 (vecAfter .vadd { vop := 8, opd := 0x40100, vl := 1, d := 1 } { v := [(0, 0x7FFFFF)] }).v 128 = 0x800000 := by decide
theorem test_vsub : Tbl.get 0 (vecAfter .vsub { vop := 9, opd := 0x40100, vl := 2, d := 1 } { v := [(0, 0), (1, 5)] }).v 128 = 0xFFFFFF := by decide
theorem test_vabs : Tbl.get 0 (vecAfter .vabs { vop := 20, opd := 0x40200, vl := 1 } { v := [(0, 0x800000)] }).v 128 = 0x7FFFFF := by decide
theorem test_vshr : Tbl.get 0 (vecAfter .vshr { vop := 17, opd := 0x40000 + 2 * 512, vl := 1 } { v := [(0, 0xFFFFFB)] }).v 128 = 0xFFFFFE := by decide
/-- R142: -1 x -1 is +1.0 in the accumulator; R143, R217: with PRECISE = 1 a sum out of range stops the core at its element. -/
theorem test_vmul : Tbl.get 0 (vecAfter .vmul { vop := 10, opd := 0x100, vl := 1, d := 0x800000 } { v := [(0, 0x800000)] }).va 0 = 0x800000000000 := by decide
theorem test_vmac_precise : let c := coreOf (after (.vmac 0) (vecOn { vop := 11, opd := 0x100000, vl := 3, mode := 4 } { va := [(128, 0), (130, 0x7FFFFFFFFFFFFF)], v := [(2, 0x400000)] })) 0
    c.phase = .precise ∧ c.pxe = 0x800002 ∧ c.lvu.vstat = 0x22 := by decide
theorem test_vrnd : Tbl.get 0 (vecAfter .vrnd { vop := 14, opd := 0, vl := 1 } { va := [(0, 0x800000)] }).v 0 = 1 ∧
    Tbl.get 0 (vecAfter .vrnd { vop := 14, opd := 0x8000, vl := 1 } { va := [(0, 0x800000)] }).v 0 = 0 := by decide
theorem test_vsetl : (vecAfter .vsetl { vop := 24, opd := 0x200000, d := 5000 } {}).vl = 1024 ∧ (vecAfter .vsetl { vop := 24, opd := 7 } {}).vl = 7 := by decide
theorem test_vsett : let l := vecAfter .vsett { vop := 26, opd := 0x200000, p := 0xC000, d := 0x0103E8 } {}
    l.tport = true ∧ l.vtb = 0xC000 ∧ l.vtlen = 0x03E8 := by decide

/-- VectorMemory: a vector that is whole, and one whose third element has no word (bank 254 ends at 8191) or cannot be read. -/
theorem test_vld_end_of_bank : let c := coreOf (after (.vld 0) (vecOn { vop := 1, opd := 0, bank := 254, p := 8190, vl := 4 } { spill := [(8191, 9)] })) 0
    c.lvu.v = [(1, 9)] ∧ c.fault = some { cause := 5, slots := 128, addr := 0xFE2000, elem := 0x800002 } := by decide
theorem test_vldff : let c := coreOf (after (.vldff 0) (vecOn { vop := 3, opd := 0, bank := 254, p := 8190, vl := 4 } { spill := [(8191, 9)] })) 0
    c.fault = none ∧ c.lvu.vl = 2 ∧ c.lvu.vfe = 0x800002 := by decide
theorem test_vst : (coreOf (after (.vst 0) (vecOn { vop := 2, opd := 0x200000, p := 3, vl := 2 } { v := [(0, 8), (1, 9)] })) 0).y = [(3, 8), (4, 9)] := by decide

/-- Chapter 6's example: VTAB V5, V3 with F = 14, whose element 4 is outside the table of 1,000 entries. -/
def vtabEx : LvuOp := { vop := 4, opd := 0x14DC00, mode := 1, vl := 16, vtb := 0xC000, vtlen := 1000, pc := 0x120 }
def vtabTable : Tbl (BitVec 24) := [(0xC000 + 64, 11), (0xC000 + 256, 22), (0xC000 + 512, 33), (0xC000 + 768, 44), (0xC000 + 999, 55)]
def vtabIndex : Tbl (BitVec 24) := [(384, 0x100000), (385, 0x400000), (386, 0x800000), (387, 0xC00000), (388, 0xFB0000)]
def vtabRun (o : Host.Outcome State Fault Refusal) : SigCore := match o with | .next t => coreOf t 0 | _ => {}
def vtabStart : State := onCore { x := vtabTable, lvu := { busy := some vtabEx, v := vtabIndex } }
theorem test_vtab_faults : let r := vtabRun (exec (.vtab 0) vtabStart)
    r.fault = some { cause := 5, slots := 128, addr := 0x00C3EC, elem := 0x800004 } ∧ r.lvu.vfe = 0x800004 ∧ r.lvu.vipc = 0x800120 := by decide
theorem test_vtab_writes : (List.range 5).map (fun e => Tbl.get 0 (vtabRun (exec (.vtab 0) vtabStart)).lvu.v (640 + e)) = [11, 22, 33, 44, 0] := by decide
/-- VectorTables: the results below the element that faults are words, and that element's is not. -/
theorem test_vtab_clamped : Tbl.get 0 (coreOf (after (.vtab 0) (onCore { x := vtabTable, lvu := { busy := some { vtabEx with tclamp := true, vl := 1 }, v := [(384, 0xFB0000)] } })) 0).lvu.v 640 = 55 := by decide

theorem test_vfir : let l := vecAfter .vfir { vop := 32, opd := 0x880, vl := 1, mode := 9 } { v := [(0, 3), (128, 5), (256, 7), (257, 2)] }
    Tbl.get 0 l.va 0 = 31 ∧ Tbl.get 0 l.v 128 = 3 := by decide
theorem test_venv : let l := vecAfter .venv { vop := 37, opd := 0x1408E0, vl := 1, mode := 1 } { v := [(128, 0), (0, 10), (256, 4)] }
    Tbl.get 0 l.v 640 = 4 := by decide
theorem test_vmix : Tbl.get 0 (vecAfter .vmix { vop := 38, opd := 0x440, vl := 2, mode := 9, d := 3 } { v := [(0, 2), (1, 3), (128, 10), (129, 100)] }).va 3 = 320 := by decide

/-- VectorTraps: a micro-trap with a request, and a stop in polling mode. -/
theorem witness_traps :
    let o : LvuOp := { vop := 8, opd := 0x40100, vl := 4 }
    let c : SigCore := { lvu := { busy := some o, poll := false, stopRq := true } }
    c.lvu.plainRom = true ∧ c.lvu.micro.walk = false ∧ c.lvu.micro.resumed = false ∧ trapRequest State.reset c = true ∧ startWaits State.reset c = false ∧
    (let part := lvuSpan o 0 2 { l := { c.lvu with stopRq := false }, x := c.x, y := c.y, upset := c.upset, flagged := c.lvu.micro.flagged, free := 14 }
     part.fault.isNone = true ∧ part.trunc = false) ∧
    (let s := onCore { lvu := { busy := some o, poll := true, stopRq := true } }; (lvuOf s 0).poll = true ∧ (lvuOf s 0).stopRq = true) := by decide
/-- The same with a start record that is due in a core that runs. -/
theorem witness_trap_start :
    let r : StartRec := { ctx := 0, lap := 0, tmpl := 0, velw := 1, notew := 2, vel := 100, note := 60, chan := 3, scls := 0, onset := 0, pool := 0, kernel := 1 }
    let s := setCtx { State.reset with grid := { State.reset.grid with lap := 1 } } 0 { hdr := { state := .armed } }
    let c : SigCore := { phase := .running, starts := [r] }
    startWaits s c = true ∧ c.phase = .running ∧ c.fault.isNone = true ∧ c.lvu.halt = false := by decide
theorem test_stop : let l := lvuOf (after (.lvuStopTaken 0 true) (onCore { lvu := { busy := some { vop := 8, vl := 0 }, poll := true, stopRq := true } })) 0
    l.busy = none ∧ l.stopped = true ∧ l.frameValid = false := by decide

/-- VectorControl: a drained cluster and one that is in service, a stop with a valid frame, the load port. -/
theorem witness_control :
    drained State.reset 0 = false ∧ drained (setCluster State.reset 0 { state := 4 }) 0 = true ∧
    (let c : SigCore := { lvu := { stopped := true, frameValid := true } }; c.lvu.stopped = true ∧ c.lvu.frameValid = true ∧ frameUpset c = false) := by decide
theorem test_prdata4 : let l := lvuOf (after (.prdata4Commit 0 0x12345) (onCore { lvu := { pload := true, praddr := 511, prdata := [(0, 7)] } })) 0
    let w : BitVec 144 := 0x234500000000000000000000000000000007
    Tbl.get 0 l.patch 511 = (if Config.microEcc w = 1 then Config.microFix w else w) ∧ l.praddr = 0 := by
  simp [after, exec, execPrdata4Commit, lcsCommit, updLvu, updCore, lvuOf, onCore, lcsFeed, coreOf_setCore, Tbl.get, lookupNat]
theorem test_corr_clears : let s := after (.corrRead 0) (onCore { lvu := { corr := 9 } }); s.result = 9 ∧ (lvuOf s 0).corr = 0 := by decide

/-- PatchScrub: an LVU that is idle, at the ends of its counters. -/
theorem test_scrub : let s := after (.patchRamScrub 0 511 1) (onCore { lvu := { corr := 0xFFFF } }); (lvuOf s 0).corr = 0xFFFF ∧ s.corrMicro = 1 := by decide

/-! ### Signal cores -/

/-- A core that has these program words at 0 and issues the bundle there. -/
def issuesWords (ws : List (BitVec 32)) : SigCore := { phase := .running, prog0 := Tbl.putAll 0 [] 0 ws }

/-- The syllables of Table 5.17, each as the last of its bundle. -/
theorem test_syllables : (([0xE800800D, 0xD1028000, 0xE1400020, 0x81023000, 0xC0982000, 0xD610A000, 0xBA810420] : List (BitVec 32)).map (fun w =>
      (fetchBundle (issuesWords [w]) 0).syls)) =
    [[.ctrl (.loopi 16 13)], [.ymem ⟨2, 0, 5, 0, 0, 0⟩], [.ctrl (.repN 32)], [.mac0 ⟨2, 0, 2, 3, 0, 0⟩], [.xmem ⟨1, 3, 0, 2, 0, 0⟩], [.ymem ⟨12, 2, 1, 2, 0, 0⟩],
     [.alu1 (.ai10 1 1 32)]] := by decide

/-- A Bool for State.Bundle, so that the bundles below are checked by evaluation. -/
def issuesOk (c : SigCore) (b : Bundle) : Bool :=
  issuing c && !startWaits (onCore c) c && !c.fastOn && c.n.fly.isEmpty && c.n.rep.isNone && c.n.delay.isNone && c.n.stack.isEmpty && decide (fetchBundle c c.n.pc.toNat = b) &&
  !progUpset c b && decide (illegalSlots c c.n b = 0) && !lvuStall c b && !returnStall c b && (bundleFault c c.n b).isNone

theorem bundle_ok (c : SigCore) (b : Bundle) (h : issuesOk c b = true) : (onCore c).Bundle 0 b := by
  simp [issuesOk] at h
  obtain ⟨⟨⟨⟨⟨⟨⟨⟨⟨⟨⟨⟨h1, h0⟩, h2⟩, h3⟩, h4⟩, h5⟩, h6⟩, h7⟩, h8⟩, h9⟩, h10⟩, h11⟩, h12⟩ := h
  constructor <;> rw [core_on] <;> assumption

/-- BundleIssue: a bundle of each form that its clauses name. -/
theorem witness_bundles : ([(0xE0400000, .ctrl .nop), (0xA0400000, .alu0 (.d 1 0 0 0 0 0)), (0xB0800000, .alu1 (.d 2 0 0 0 0 0)), (0x81023000, .mac0 ⟨2, 0, 2, 3, 0, 0⟩),
      (0xC1000000, .xmem ⟨2, 0, 0, 0, 0, 0⟩), (0xC0800000, .xmem ⟨1, 0, 0, 0, 0, 0⟩), (0xE0800000, .ctrl (.br 0 false 0)), (0xF2000000, .vec ⟨8, 0⟩)] :
      List (BitVec 32 × Syl)).all (fun p => issuesOk (issuesWords [p.1]) ⟨0, 1, 0, [p.2]⟩) = true := by decide

def coreAfter (c : SigCore) : SigCore := coreOf (after (.bundleIssue 0) (onCore c)) 0
theorem test_alu0_add : let c := landTo (coreAfter { issuesWords [0xA0400000] with n := { d := [(0, 0x400000)] } }) 1
    c.n.D 0 = 0x800000 ∧ c.n.sr = 0x00000A := by decide
theorem test_mac_lands_later : let c := coreAfter { issuesWords [0x81023000] with n := { d := [(2, 0x400000), (3, 0x400000)] } }
    (landTo c 1).acc = [] ∧ (landTo c 2).acc' 0 = 0x200000000000 := by decide
theorem test_illegal_bundle : (fetchBundle (issuesWords [0xF2000000 - 0x80000000]) 0).bad ≠ 0 := by decide

/-- FaultEntry: a fault outside a handler, one with a handler of the kernel, and one inside a handler. -/
theorem witness_faults :
    let f : PendingFault := { cause := 5, slots := 128, addr := 0x00C3EC, elem := 0x800004 }
    let c : SigCore := { fault := some f, fvec := 0x200 }
    c.fault = some f ∧ f.cause < 32 ∧ f.slots < 256 ∧ c.frec.getLsbD 22 = false ∧ c.cls.fly = [] ∧ c.fvec ≠ 0x1F00 ∧
    ({ frec := 0x400000 } : SigCore).frec.getLsbD 22 = true ∧ ({ conv := some 3 } : SigCore).ctxi.getLsbD 23 = false := by decide
/-- Chapter 6's example goes on: FREC of Table 6.14. -/
theorem test_fault_entry : let c := coreOf (after (.faultEntry 0) (onCore { vtabRun (exec (.vtab 0) vtabStart) with fvec := 0x200, n := { pc := 0x125 } })) 0
    c.frec = 0xC58000 ∧ c.fpc = 0x125 ∧ c.faddr = 0x00C3EC ∧ c.felem = 0x800004 ∧ c.n.pc = 0x200 := by decide
theorem test_fault_in_handler : let c := coreOf (after (.faultEntry 0) (onCore { frec := 0xC00000, fault := some { cause := 2, slots := 8 } })) 0
    c.phase = .stopped ∧ c.fault = none := by decide

/-! ### The dictionary: requesters that may write an object -/

/-- A module that serves in a mode. -/
def inMode (m : Mode) : State := { State.reset with modes := { State.reset.modes with mode := m } }

/-- The same, with every semaphore held by port A. -/
def holding (m : Mode) : State := { inMode m with dict := { (inMode m).dict with sems := Tbl.putAll 0 [] 0 (List.replicate 32 1) } }

/-- A Bool for State.Writable. -/
def writable (s : State) (who : Requester) (w : Nat × Nat × Bytes) : Bool :=
  serving s && (match odFind w.1 w.2.1 with
    | .ok r => mayWrite who r && lengthOk r w.1 w.2.1 w.2.2.length && rangeOk s s.dict.od r w.1 w.2.1 w.2.2 && !r.fl.testBit 1 && holdsGuards s who w.1 r
    | .error _ => false)

theorem writable_ok {s : State} {who : Requester} {ix sub : Nat} {val : Bytes} (h : writable s who (ix, sub, val) = true) : s.Writable who ix sub val := by
  simp only [writable, Bool.and_eq_true] at h
  obtain ⟨h1, h2⟩ := h
  refine ⟨h1, ?_⟩
  split at h2
  · rename_i r hr
    simp only [Bool.and_eq_true, Bool.not_eq_true'] at h2
    obtain ⟨⟨⟨⟨a, b⟩, c⟩, d⟩, e⟩ := h2
    exact ⟨r, hr, a, b, c, d, e⟩
  · cases h2
/-! ### Laps, convoys and the Starter -/

/-- A load of one slot on core 0 with one context, its kernel without streaming; pool 0 may have one voice in cluster 0, and rule 0 starts it for every note on. -/
def load1 : Load := { kernels := [(1, ⟨[1, 0, 0, 0], []⟩)], slots := [(0, ⟨1, 0, 0, 1⟩)] }
def rule1 : List (Nat × Bytes) :=
  [(odKey 0x4400 2, [1]), (odKey 0x4800 1, [1]), (odKey 0x4800 2, [0]), (odKey 0x4800 3, [0xFF, 0xFF]), (odKey 0x4800 4, [0]), (odKey 0x4800 5, [127]), (odKey 0x4800 6, [0, 0]),
   (odKey 0x4800 7, [0xFF, 0xFF]), (odKey 0x4800 8, [1]), (odKey 0x4800 9, [1]), (odKey 0x4800 10, [0]), (odKey 0x4800 11, [1]), (odKey 0x4800 12, [0, 0]), (odKey 0x4800 20, [0, 0])]
def playing : State := { inMode .perform with grid := { running := true, lap := 10 }, adm := { (inMode .perform).adm with load := load1 }, dict := { (inMode .perform).dict with od := rule1 } }
def noteEx : Ev := ⟨0, 3, 60, 100, 1, 0, 0⟩

/-- CoreLap: the slot and kernel, a quiet context, and the states of a core at each of its commands. -/
theorem witness_core_lap :
    load1.slot 0 = some ⟨1, 0, 0, 1⟩ ∧ load1.kernel 1 = some ⟨[1, 0, 0, 0], []⟩ ∧ Kernel.stream ⟨[1, 0, 0, 0], []⟩ = false ∧
    (ctxOf playing 0).upset = none ∧ (ctxOf playing 0).hdr.relreq = false ∧ (copyLapMoves playing).all (fun m => m.1 != 0) = true ∧
    (let c : SigCore := { order := [0] }; c.phase = .idle ∧ c.conv = none ∧ c.order.head? = some 0 ∧ c.resident = none ∧ c.starts = [] ∧ c.fastOn = false ∧ c.mt = false) ∧
    (let c : SigCore := { phase := .ending, conv := some 0 }; c.lvu.busy = none ∧ c.n.fly = [] ∧ c.skipWb = false ∧ c.order = []) := by decide
theorem test_start_phase : let c := coreOf (after (.startPhase 0) (setCore playing 0 { order := [0], conv := some 0, bufB := true })) 0
    c.phase = .running ∧ c.order = [] ∧ c.n.P 0 = 0x6000 ∧ c.n.D 0 = 1 := by decide

/-- StarterEvents: no rule, one rule that starts a voice in room, a pool without room, and a request for a later lap. -/
theorem witness_starter_none : starterRuns playing = true ∧ (ruleNumbers playing).filter (ruleMatches playing 10 { noteEx with note := 128 }) = [] := by decide
theorem witness_starter_one : (ruleNumbers playing).filter (ruleMatches playing 10 noteEx) = [0] ∧ ruleVal playing 10 0 9 = 1 ∧ ruleVal playing 10 0 10 = 0 := by decide
theorem witness_starter_voice : ruleVoices playing 10 0 = [⟨0, 0, ruleVal playing 10 0 28, ruleVal playing 10 0 29⟩] ∧ od playing 0x4400 12 = 0 ∧ od playing 0x4400 11 = 0 := by decide
theorem witness_starter_room : (((List.range 8).map (fun i => (Tbl.get 0 playing.starter.rr 0 + i) % 8)).filter (fun c =>
    clusterOpen playing c && decide (activeIn playing 0 c < poolShare playing 10 0 c))).findSome? (roomIn playing 10 0) = some (0, 0) := by decide
theorem witness_starter_full : ((List.range 8).map (fun i => (Tbl.get 0 playing.starter.rr 0 + i) % 8)).filter (fun c =>
    clusterOpen playing c && decide (activeIn (setCtx playing 0 { hdr := { state := .running } }) 0 c < poolShare playing 10 0 c)) = [] := by decide
theorem test_note_starts : let t := after (.starterEvent 0 3 60 100 0 0 0 none) { playing with grid := { playing.grid with lap := 0 } }
    t.starter.flight.map (fun r => (r.ctx, r.lap, r.note, r.chan)) = [(0, 0, 60, 3)] ∧ t.starter.taken = 1 := by decide
theorem test_note_unmatched : (after (.starterEvent 0 3 128 100 0 0 0 none) playing).starter.unmatched = 1 := by decide

/-- ContextCopies: a record on its way, one whose copy has not ended, and a page that is copied. -/
def recEx : StartRec :=
  { ctx := 0, lap := 10, tmpl := 0, velw := 1, notew := 2, vel := 100, note := 60, chan := 3, scls := 0, onset := 0, pool := 0, kernel := 1 }
theorem witness_copies :
    (let s := { playing with starter := { playing.starter with flight := [recEx] } }; s.starter.flight.find? (fun r => r.ctx / 2048 == 0) = some recEx) ∧
    recEx.velw < 64 ∧ recEx.notew < 64 ∧ recEx.velw ≠ recEx.notew ∧ copyingCtxs (setCtx playing 0 { copying := true }) 0 = [0] := by decide
theorem test_arrival : let t := after (.startRecordArrival 0) { playing with starter := { playing.starter with flight := [recEx] } }
    (ctxOf t 0).hdr.state = .armed ∧ (ctxOf t 0).hdr.gen = 1 ∧ t.starter.flight = [] := by decide

/-- LapEdge and Seal: a lap that is sealed and one that is not, with a core that has overrun. -/
theorem witness_quiet_edge : ({ playing with grid := { playing.grid with sealed := true } } : State).QuietEdge :=
  ⟨rfl, rfl, rfl, rfl, rfl, rfl, rfl, rfl, rfl, rfl, rfl, rfl, rfl, by decide, by decide⟩
theorem witness_seal : playing.man.tbl = [] ∧ (∀ c, c < 8 → (clusterOf playing c).quarDue = false) ∧ playing.grid.sealed = false ∧ hasOverrun playing 0 = false ∧
    hasOverrun (setCore playing 0 { order := [0] }) 0 = true := by decide
theorem test_lap_edge : let t := after .lapEdge { State.reset with grid := { running := true, lap := 10, sealed := true }, evc := { State.reset.evc with lapdiv := 11 } }
    t.grid.lap = 11 ∧ (evcSrc t.evc 292).pend = true := by decide +kernel
theorem test_page_swap : let t := after .lapEdge (setCtx { State.reset with grid := { running := true, lap := 10, sealed := true } } 5 { act := [(0, 1)], shadow := [(0, 2)], marked := true })
    (ctxOf t 5).act = [(0, 2)] ∧ (ctxOf t 5).copying = true := by decide +kernel
theorem test_seal_again : after .sealLap { playing with grid := { playing.grid with sealed := true } } = { playing with grid := { playing.grid with sealed := true } } := rfl

/-- RelayTraffic: a burst of an input block and one of an output's, and a lane in which station 3 waits after station 12. -/
def burst (k : Nat) : Burst := { tag := 1, kind := k, len := 3, dst := 0, src := 1, lane := 0, start := 5 }
theorem witness_relay : let s : State := { playing with adm := { playing.adm with timetable := [burst 7] } }
    s.adm.timetable[s.relay.next]? = some (burst 7) ∧ (burst 7).kind ≠ 8 ∧ s.relay.next ∉ s.relay.bad ∧
    (let w : BitVec 13 := 8; w.getLsbD ((12 + 4) % 13) = true ∧ ∀ j, j < 4 → w.getLsbD ((12 + j) % 13) = false) := by decide
theorem test_burst_lost : let t := after (.relayBurst true 0 0 0) { playing with adm := { playing.adm with timetable := [burst 7] } }
    t.relay.discarded = 1 ∧ t.audio.lost = [(1, 10)] := by decide
theorem test_packet : let t := after (.relayPacket 2 0x1008 4) { playing with relay := { playing.relay with rr := [(2, 12)] } }
    t.result = 12 ∧ t.relay.sent = 5 ∧ t.relay.rr = [(2, 13)] := by decide

/-! ### Manifests and the sample store -/

def manEx (m : Manifest) : State := setMan playing 3 m

/-- ManifestsToCommit: a manifest that passes its checks, one whose first entry fails, and manifests at staging, the decision and the lap before their commit. -/
theorem witness_manifest_check : let s := { manEx { state := .checking } with man := { (manEx { state := .checking }).man with queue := [3] } }
    s.man.queue = [3] ∧ (manOf s 3).state = .checking ∧ (manOf s 3).ofCluster = 0 ∧ failing (entryState s) (manOf s 3).entries = none ∧
    failing (entrySems s (handleOwner 3)) (manOf s 3).entries = none ∧ footprintClash s (manOf s 3) = false ∧ failing (entryCompares s (handleOwner 3)) (manOf s 3).entries = none := by decide
theorem witness_manifest_fails : failing (entryState (inMode .safe)) [.write 0x4400 1 [0], .write 0x8000 0 [1, 2, 3]] = some 1 := by decide
theorem witness_manifest_given :
    (let m : Manifest := { state := .staged, lc := 11, missing := [4] }; let s := manEx m; s.man.tbl = [(3, m)] ∧ (manOf s 3).lc = s.grid.lap + 1 ∧ islandsOf s m = [] ∧
      m.missing = [4] ∧ m.wrote = []) ∧
    (let m : Manifest := { state := .staged, lc := 11, entries := [.write 0x8005 2 [1, 2, 3]], gens := [(5, 0)] }; let s := setCtx (manEx m) 5 { hdr := { state := .running } }
      (ctxOf s 5).hdr.state ≠ .free ∧ lookupNat m.gens 5 = some (ctxOf s 5).hdr.gen ∧ m.paramsIn = false) := by decide
theorem witness_migration : let m : Manifest := { state := .given, lc := 11, entries := [.migrate 0 1 0] }
    let s := setCtx (manEx m) 0 { hdr := { state := .migrating }, prior := .running }
    m.carried = [] ∧ s.adm.load.slot 0 = some ⟨1, 0, 0, 1⟩ ∧ (ctxOf s 0).hdr.state = .migrating ∧ (ctxOf s 0).prior ≠ .free := by decide
theorem test_param_write : let s := after (.manifestParamWrite 3) (setCtx (manEx { state := .staged, lc := 11, entries := [.write 0x8005 2 [1, 2, 3]], gens := [(5, 0)] }) 5
      { hdr := { state := .running } })
    (ctxOf s 5).shadow = [(2, 0x030201)] ∧ (ctxOf s 5).dirty = true ∧ (ctxOf s 5).act = [] := by decide
theorem test_batch_error : let s := after (.migrationBatch 3 [0]) (setCtx (manEx { state := .given, lc := 11, entries := [.migrate 0 1 0] }) 0 { hdr := { state := .migrating }, prior := .running })
    (manOf s 3).carried.map (fun e => (e.1, e.2.hdr.state)) = [(128, .poisoned)] := by decide

/-- An object record (Table 10.6) of object 7 with a channel, a head of 8 ms, n bytes of data and their CRC. -/
def record (n crc : Nat) : Bytes := leBytes 4 7 ++ [1, 0, 0, 8] ++ leBytes 2 64 ++ leBytes 2 100 ++ leBytes 4 1000 ++ leBytes 8 0 ++ leBytes 4 n ++ leBytes 4 crc
def readyObj (st : Nat) : State := setObj playing 7 { state := st, record := record 2 0 }

/-- StreamRings: a ring that is open with room and one that is full, a report of a loop that is left, pages of a stream and of a former one. -/
theorem witness_rings :
    (let g : Ring := { state := 1, grants := 1, object := 7 }; g.state = 1 ∧ g.grants ≠ 0 ∧ 49152 * g.grants ≤ ringFree (readyObj 4) g ∧
      streamWhole (readyObj 4) g = false) ∧
    (let g : Ring := { reads := 1 }; g.stale = 0 ∧ g.reads ≠ 0 ∧ playEnd { objRec (record 2 0) with ls := 10, le := 900 } g.loopClose = none) ∧
    (let g : Ring := { state := 1, grants := 1, object := 7, reads := 9 }; ringFree (readyObj 4) g < 49152 * g.grants ∧ g.orphan = false) := by decide
theorem test_stream_open : let g := ringOf (after (.streamOpen 9 7 300) (readyObj 4)) 9
    g.state = 1 ∧ g.object = 7 ∧ g.ctx = 300 ∧ g.cursor = 0 := by decide

/-- StoreCare: blocks, objects, keymaps, sessions and the service in the states that its clauses name. -/
theorem witness_store :
    (blockOf playing 0).retired = false ∧ (objOf (readyObj 3) 7).state = 3 ∧ ({ state := 1 } : Keymap).reload = false ∧
    (sessionOf { playing with store := { playing.store with sessions := [(0, { state := 3, record := record 2 0 })] } } 0).state = 3 ∧ playing.modes.entering ≠ 1 := by decide
theorem test_head : (objOf (after (.headResident 7) (readyObj 3)) 7).state = 4 := by decide
theorem test_erase : let b := blockOf (after (.nandEraseDone 1 2 3 true) { playing with store := { playing.store with blocks := [(blockKey 1 2 3, { pe := 4, reads := 9, soft := 1 })] } }) (blockKey 1 2 3)
    b.pe = 5 ∧ b.reads = 0 ∧ b.soft = 0 := by decide

/-- LibraryWrites: objects that may be written, and a session that is open, whole, and with data of another CRC. -/
theorem witness_library_writes : ([(0xC100, 1, record 2 0), (0xC100, 2, [1, 2]), (0xC100, 3, [1]), (0xC110, 1, leBytes 4 7), (0xC002, 1, [1]), (0xC020, 2, [1])] :
    List (Nat × Nat × Bytes)).all (writable (holding .maintain) .portA) = true := by decide
theorem witness_library : libraryOpen (holding .maintain) = true ∧
    importCheck (objRec (record 2 0)) [1, 2] ≠ .ok ∧ (objRec (record 2 0)).bytes = 2 ∧ (objOf (readyObj 3) 7).state = 3 ∧ keymapObjects (readyObj 3) 5 = [] := by decide
theorem witness_library_room : userHeld (holding .maintain) + 2 ≤ userCapacity := by
  simp [userHeld, userCapacity, holding, inMode, State.reset]; split <;> decide
/-- The check value of CRC-32C. -/
theorem test_crc32c : crc32c [0x31, 0x32, 0x33, 0x34, 0x35, 0x36, 0x37, 0x38, 0x39] = 0xE3069283 := by decide +kernel
def importing : State := { holding .maintain with store := { (holding .maintain).store with sessions := [(0, { state := 1, record := record 3 0, data := [1, 2] })] } }
theorem spares_left : 16 ≤ sparesLeft importing := by
  have h : 100 ≤ sparesShipped := by unfold sparesShipped; split <;> omega
  exact Nat.le_trans (by decide) (show 100 ≤ sparesShipped - 0 from h)
/-- LibraryWrites: a session into which data and a commit may be written. -/
theorem witness_import : writable importing .portA (0xC100, 2, [3]) = true ∧ libraryOpen importing = true ∧ (sessionOf importing 0).state = 1 ∧
    (sessionOf importing 0).data.length + 1 ≤ (objRec (record 3 0)).bytes ∧ staged importing + 1 ≤ 268435456 := by decide
theorem test_import_append : importAppend 0 2 [3] importing = (.ok, setSession importing 0 { state := 1, record := record 3 0, data := [1, 2, 3] }) := by
  unfold importAppend
  rw [if_neg (by decide), if_neg (Nat.not_lt.mpr spares_left), if_neg (by decide), if_neg (by decide)]
  rfl

/-! ### The dictionary and its ports -/

/-- ModeWrites: objects that may be written; a mode, an update and an application in the states that its clauses name. -/
theorem witness_mode_writes : ([(0xF000, 1, [2]), (0xF000, 1, [0]), (0xF000, 7, [0xA5]), (0xF010, 3, [1]), (0xF010, 5, [2]), (0xF010, 6, [1]), (0xF001, 1, [1]),
    (0xF050, 3, [1]), (0xF050, 4, [1]), (0x1030, 1, [1]), (0x1030, 2, [1])] : List (Nat × Nat × Bytes)).all (writable (holding .workshop) .portA) = true := by decide
theorem witness_modes :
    (let m : ModeSt := { mode := .maintain }; m.next = none ∧ m.entering = 0 ∧ nothingOut (inMode .maintain) = true ∧ (inMode .maintain).store.service = 0) ∧
    (inMode .workshop).modes.life ∈ [0, 1, 3, 4] ∧ lifeMove 0 1 = some false ∧ (lifeMove 3 4).isSome = true ∧ ({ state := 3 } : Update).state ≠ 2 ∧
    (appOf (inMode .safe) 3).state ≠ 2 ∧ Tbl.get [] (inMode .safe).dict.keys 2 = [] := by decide
theorem test_mode_busy : (after (.modeRequestSafe .portA) { holding .perform with modes := { (holding .perform).modes with next := some (.maintain, 0) } }).dict.last = .busy := by decide
theorem test_semaphore_needed : (after (.modeRequestSafe .portA) (inMode .perform)).dict.last = .semNotHeld := by decide
theorem test_mode_request : let t := after (.modeRequestMaintain .portA) (holding .perform)
    t.dict.last = .ok ∧ t.modes.next.map (·.1) = some .maintain := by decide
theorem test_life_cycle : (after (.lifecycleRequest .portA 1) (holding .workshop)).modes.life = 1 ∧ (after (.lifecycleRequest .portA 3) (holding .workshop)).modes.life = 0 := by decide

/-- GridAndIoWrites: objects that may be written. -/
theorem witness_grid_writes : ([(0x2001, 1, [3]), (0x2001, 2, [8]), (0x2100, 2, leBytes 8 5), (0x3001, 1, [0]), (0x1010, 1, [1]), (0x2200, 2, [7]), (0x2500, 1, [1]),
    (0x2500, 2, [1, 2, 3, 4])] : List (Nat × Nat × Bytes)).all (writable (holding .safe) .portA) = true := by decide
theorem witness_io_writes : ([(0x2800, 1, [1]), (0x2801, 1, [1]), (0x2802, 1, [0, 0]), (0x2810, 1, [1]), (0x2900, 1, [0]), (0x2830, 6, [0x90, 60, 64])] :
    List (Nat × Nat × Bytes)).all (writable (inMode .perform) .portA) = true := by decide
theorem test_lap_length : (after (.lapLengthWrite .portA 5) (holding .safe)).dict.last = .range ∧ (after (.lapLengthWrite .portA 16) (inMode .perform)).dict.last = .state := by decide
theorem test_midi_send : splitMidi 2 0 [60, 64] = none ∧ splitMidi 3 0 [0x90, 60, 64] = some [(0, [0x90, 60, 64])] := by decide

/-- DictionaryRequests: what odRow, mayWrite, lengthOk and rangeOk can answer, and a semaphore and a manifest in each state. -/
theorem witness_checks : odRow 0x0FFF 0 = none ∧ odIndex 0x0FFF = false ∧ odIndex 0x2801 = true ∧ (odRow 0x2801 1).isSome = true ∧
    ((odRow 0xF000 2).map (mayWrite .portA)) = some false ∧ ((odRow 0x2801 1).map (fun r => lengthOk r 0x2801 1 2)) = some false ∧
    ((odRow 0x2801 1).map (fun r => rangeOk (inMode .perform) [] r 0x2801 1 [9])) = some false := by decide
theorem witness_requests : serving (inMode .safe) = true ∧ serving (inMode .boot) = false ∧ handleOwner 3 = .portA ∧ reqPort .portB = some .b ∧ ownerCode .portA ≠ 0 ∧
    (manOf (setMan (inMode .safe) 3 { state := .opened }) 3).state = .opened ∧ (odRead (inMode .safe) .portA 0x2801 1).toOption = some [0] := by decide
theorem test_read : let t := after (.bcpRead (.body .portA [0x01, 0x28, 1, 0])) (inMode .safe); t.dict.last = .ok ∧ t.dict.lastBody = [0] := by decide
theorem test_write_access : (after (.bcpWrite (.body .portA [0x00, 0xF0, 2, 0, 1])) (inMode .safe)).dict.last = .access ∧
    (after (.bcpWrite (.body .portA [0xFF, 0x0F, 0, 0, 1])) (inMode .safe)).dict.last = .noObject ∧ (after (.bcpWrite (.body .portA [0x01, 0x28, 99, 0, 1])) (inMode .safe)).dict.last = .noSubindex := by decide
theorem test_write_type : (after (.bcpWrite (.body .portA [0x01, 0x28, 1, 0, 1, 0])) (inMode .safe)).dict.last = .type ∧
    (after (.bcpWrite (.body .portA [0x01, 0x28, 1, 0, 9])) (inMode .safe)).dict.last = .range := by decide
/-- Chapter 13's example: parameter word 5 of context 5,000. -/
theorem test_parameter_write : let t := after (.bcpWrite (.body .portA [0x88, 0x93, 5, 0, 0, 0, 0x2A])) (setCtx (inMode .perform) 5000 { hdr := { state := .running } })
    t.dict.last = .ok ∧ (ctxOf t 5000).shadow = [(5, 0x2A0000)] ∧ (ctxOf t 5000).act = [] ∧ (ctxOf t 5000).dirty = true := by decide
theorem test_semaphores : let s : State := { inMode .safe with dict := { (inMode .safe).dict with sems := [(3, 2)] } }
    (after (.semTake (.body .portA [3, 0, 0, 0])) s).dict.last = .busy ∧ (after (.semGive (.body .portA [3, 0, 0, 0])) s).dict.last = .semNotHeld := by decide
theorem test_manifest_open : let t := after (.manifestOpen (.body .portA [])) (inMode .safe); t.dict.lastBody = [0, 0] ∧ (manOf t 0).state = .opened := by decide

/-- PortTraffic: ports in each of the states that its clauses name. -/
theorem witness_ports :
    portsLive (inMode .safe) = true ∧ inService (inMode .safe) .a = [] ∧ onQspi (inMode .safe) .a = true ∧ onQspi (inMode .safe) .b = false ∧
    (inMode .safe).dict.carrier ≠ 0 ∧ otherPeer (inMode .safe) 1 2 = false ∧
    otherPeer { inMode .safe with dict := { (inMode .safe).dict with portB := { peer := some (1, 2) } } } 1 3 = true := by decide
/-- A READ of OD 1000.01 with SEQ 7 and its CRC over the 16 bytes before it. -/
def readMsg : Bytes := let m : Bytes := [1, 1, 7, 0, 4, 0, 0, 0, 0x42, 0, 0, 0, 0, 0x10, 1, 0]; m ++ leBytes 4 (crc32c m)
theorem witness_message : crcGood readMsg = true ∧ headerGood (inMode .safe) .a readMsg = true ∧ msgRow (inMode .safe) .a readMsg = 1 ∧ crcGood (readMsg.set 8 0) = false ∧
    authOn (inMode .safe) .a = false ∧ exempt readMsg = true := by decide +kernel
theorem test_write_msg : let t := after (.writeMsg .a readMsg) (inMode .safe)
    (portSt t .a).inbox.map (·.bytes) = [readMsg] ∧ (evcSrc t.evc 224).pend = true := by decide +kernel
theorem test_read_served : let t := after (.bcpRead (.queued .a)) (updPort (inMode .safe) .a (fun x => { x with inbox := [⟨readMsg, 0, 0, 0⟩] }))
    (portSt t .a).inbox = [] ∧ (portSt t .a).kept.length = 1 := by decide +kernel
theorem test_reset_port : let x := portSt (after (.resetPort .a) (updPort (inMode .safe) .a (fun x => { x with inbox := [⟨readMsg, 0, 0, 0⟩], irq := true }))) .a
    x.inbox = [] ∧ x.irq = false := by decide +kernel
theorem test_save_done : let t := after .saveDone { inMode .safe with dict := { (inMode .safe).dict with saving := some (.firmware, 0, 0), saveSet := some ([(5, [1])], {}, 3, 8) } }
    t.dict.saved = [(5, [1])] ∧ t.dict.saveState = 2 ∧ t.dict.saving = none := by decide

/-! ### The event concentrator -/

def evcOn (n : Nat) (x : EvcSrc) (e : Evc) : Evc := evcPut e n x

/-- EvcDelivery: the sources at the ends of its ranges, a source that is delivered, a Drover that holds a claim, timers that run, and a module asleep. -/
theorem witness_evc :
    evcExists 0 = false ∧ evcExists 383 = false ∧ evcExists 511 = true ∧ evcExists 512 = false ∧ State.reset.evc.asleep = false ∧ deliverables State.reset.evc 0 = [] ∧
    heldBy State.reset.evc 0 = 0x3FF ∧ heldBy (evcOn 448 { act := true, owner := 0 } State.reset.evc) 0 ≠ 0x3FF ∧
    deliverables (evcOn 448 { en := true, pend := true, tgt := 1 } State.reset.evc) 0 = [448] := by decide
theorem witness_evc_wake : let s : State := { inMode .standby with evc := { (evcOn 296 { en := true, pend := true, tgt := 1 } State.reset.evc) with asleep := true } }
    evcWork s.evc = true ∧ s.modes.resetN = true := by decide
theorem test_setpend : let s := { playing with evc := evcOn 5 { act := true, count := 15 } State.reset.evc }
    evcSrc (after (.setpend 5) s).evc 5 = { act := true, pend := true, count := 15 } ∧ after (.setpend 0) s = s ∧ after (.setpend 512) s = s := by decide
theorem test_claim : let s := { playing with evc := evcOn 448 { en := true, pend := true, tgt := 1, count := 3 } State.reset.evc }
    (after (.evcClaim 0) s).result = 0x301C0 ∧ evcSrc (after (.evcClaim 0) s).evc 448 = { en := true, act := true, owner := 0, tgt := 1 } := by decide
theorem test_no_nesting : let s := { playing with evc := evcOn 449 { act := true, owner := 0 } (evcOn 448 { en := true, pend := true, tgt := 1 } State.reset.evc) }
    (after (.evcClaim 0) s).result = 0x3FF ∧ (after (.evcClaim 0) s).evc = s.evc := by decide
theorem test_stray : let s := after (.evcComplete 1 448) playing; Tbl.get 0 s.evc.stray 1 = 1 ∧ (after (.strayRead 1) s).result = 1 ∧ Tbl.get 0 (after (.strayRead 1) s).evc.stray 1 = 0 := by decide
theorem test_level_again : let s := { playing with evc := evcOn 339 { trig := false, inp := true, act := true, owner := 2 } State.reset.evc }
    (evcSrc (after (.evcComplete 2 339) s).evc 339).pend = true := by decide

/-! ### Drover applications -/

/-- A module in which application 0 runs in the slice of Drover 3. -/
def running (x : App) : State := { setApp (inMode .perform) 0 { x with state := 2 } with apps := { (setApp (inMode .perform) 0 { x with state := 2 }).apps with current := [(3, 1)] } }

/-- Applications: one that calls, with objects, semaphores, sources and messages of each kind; one that waits and one that sleeps. -/
theorem witness_applications :
    appCalls (running {}) 0 = true ∧ (odRead (running {}) .apps 0x2801 1).toOption = some [0] ∧ bindable 448 = true ∧ bindable 447 = false ∧ otherSem (running {}) 0 5 = false ∧
    (noteRecord [1, 2, 60, 0, 0x10, 0, 0, 0, 0, 0, 0, 0, 0, 0, 0, 0]).isSome = true ∧ noteRecord [] = none ∧
    otherHandle (running {}) 0 20 = false ∧ appDrovers (running {}) = [3] ∧ appNext (running {}) = none := by decide
theorem witness_app_waits : (appOf (setApp (inMode .perform) 0 { state := 2, block := .wait 16 500, queue := [] }) 0).block = .wait 16 500 ∧
    (appOf (setApp (inMode .perform) 0 { state := 2, block := .sleep 9 }) 0).block = .sleep 9 := ⟨rfl, rfl⟩
theorem test_app_read : (appOf (after (.appOdRead 0 0x280101 true 8) (running {})) 0).regs = [0, 1] ∧ (appOf (after (.appOdRead 0 0x280101 false 8) (running {})) 0).regs = [Status.access.code] := by decide
theorem test_app_sem : let t := after (.appSemTake 0 5) (running {}); Tbl.get 0 t.dict.sems 5 = 3 ∧ Tbl.get 0 t.apps.semOwner 5 = 1 := by decide
theorem test_app_exit : (appOf (after (.appExit 0) (running {})) 0).state = 3 ∧ (after (.appExit 0) (running {})).apps.current = [] := by decide
theorem test_app_setpend : (appOf (after (.appSetpend 0 447) (running {})) 0).regs = [Status.range.code] ∧ (evcSrc (after (.appSetpend 0 511) (running {})).evc 511).pend = true := by decide

/-! ### The network -/

/-- A port with the link up. -/
def upPort (x : NetPort) (od : List (Nat × Bytes)) : State :=
  { playing with net := { playing.net with p0 := { x with up := true } }, dict := { playing.dict with od := od } }

/-- NetworkPorts: a port up and one down, with a claim, an address and a registration. -/
theorem witness_ports_up :
    (netPort (upPort { maap := some 0x91E0F0000000, origin := 1, addr := 5, claiming := true, pdWait := true, asCap := true } []) 0).up = true ∧ (netPort playing 1).up = false ∧
    netRuns playing = true ∧ (od playing 0x2200 2).testBit 2 = true ∧ od playing 0x2500 1 = 0 ∧ portListeners playing 0 = [] ∧ ({} : NetPort).regL = [] := by decide
theorem test_pdelay : let x := netPort (after (.pdelayRespReceive 0 801) (upPort { pdWait := true, asCap := true } [])) 0; x.asCap = false ∧ x.delay = 801 := by decide
theorem test_arp : (after (.arpRequest 0 5) (upPort { origin := 3, addr := 5 } [])).sent.length = 1 ∧ (after (.arpRequest 0 6) (upPort { origin := 3, addr := 5 } [])).sent = [] := by decide
theorem test_probe : (after (.maapProbeReceive 0 0x91E0F0000100 1) (upPort { maap := some 0x91E0F0000000 } [])).sent.length = 1 ∧
    (after (.maapProbeReceive 0 0x91E0F0000101 1) (upPort { maap := some 0x91E0F0000000 } [])).sent = [] := by decide
theorem test_link_down : let t := after (.linkDown 0 0) (upPort { regT := [1], maap := some 9 } []); (netPort t 0).up = false ∧ (netPort t 0).regT = [] ∧ (evcSrc t.evc 160).pend = true := by decide

/-- NetworkStreams: a talker with a packet that is due, a listener of one port, and each case of sequence recovery at its ends. -/
theorem witness_streams :
    (let s := upPort {} [(odKey 0x2400 1, [1]), (odKey 0x2400 6, [2]), (odKey 0x2400 9, [1])]
     odBool s (listenIx 0) 1 = true ∧ (od s (listenIx 0) 9).testBit 0 = true ∧ od s (listenIx 0) 9 ≠ 3 ∧ (netPort s 0).up = true ∧ od s (listenIx 0) 6 = 2) ∧
    (let s : State := { upPort {} [(odKey 0x2300 1, [1])] with audio := { playing.audio with count := 64 } }
     odBool s (talkIx 0) 1 = true ∧ (0 : Nat) < s.audio.count / aafFrames (od s (talkIx 0) 5) s.grid.rate) ∧
    (let s := upPort {} [(odKey 0x2700 1, [1])]; odBool s 0x2700 1 = true ∧ od s 0x2700 2 = 0) := by decide
theorem test_recover : let x : StreamSt := { take := false, seq := 5, hist := 0x80000001 }
    recover x 5 = (false, { x with dups := 1 }, 0) ∧ (recover x 6).2.1.losses = 0 ∧ (recover x 4).1 = true ∧ (recover x 4).2.1.hist = 0x80000003 ∧
    (recover { x with seq := 0 } 65535).1 = true := by decide
theorem test_listener_format : let s := upPort {} [(odKey 0x2400 1, [1]), (odKey 0x2400 6, [2]), (odKey 0x2400 9, [1])]
    (Tbl.get {} (after (.aafReceive 0 0 2 3 1 0 none 0 [1]) s).net.listen 0).mismatch = 1 := by decide

/-- ControllerCommands: a port with changes allowed and one without, values that fit. -/
theorem witness_controller : odBool (upPort {} []) 0x2600 2 = false ∧ odBool (upPort {} [(odKey 0x2600 2, [1])]) 0x2600 2 = true ∧
    ((List.range 4).map (· + 24)).find? (fun h => (manOf (upPort {} []) h).state == .free) = some 24 ∧ (odRow 0x2400 1).isSome = true ∧
    ((odRow 0x2400 1).map (fun r => lengthOk r 0x2400 1 1 && rangeOk playing [] r 0x2400 1 [1])) = some true := by decide
theorem test_not_authorized : (after (.connectRx 0 0 1 2 3) (upPort {} [])).sent = [.avdecc 0 true 0 .notAuthorized []] := by decide
theorem test_unsolicited : (after (.registerUnsolicitedNotification 0 7) (upPort {} [])).net.unsol = [7] := by decide

/-! ### Audio and performance inputs -/

def audioOn (f : Audio → Audio) (od : List (Nat × Bytes)) : State := { playing with audio := f playing.audio, dict := { playing.dict with od := od } }

/-- SampleAndUsb: an instant of the lap in progress, and a USB device that is attached. -/
theorem witness_sample : (let s : State := { playing with grid := { playing.grid with epochLap := 10 } }
    s.grid.running = true ∧ s.grid.epochLap + s.audio.count / s.grid.nLap = s.grid.lap ∧ streamsOn s 0x2400 = [] ∧ usbAudioOn s = false) ∧
    (let s := audioOn (fun a => { a with usb := { attached := true, audio := 1 } }) []; usbAudioOn s = true ∧ usbModes s = true) ∧
    outputsMuted (inMode .safe) = true := by decide
theorem test_usb_detach : let u := (after (.usbVbusChange false) (audioOn (fun a => { a with usb := { attached := true, audio := 1 } }) [])).audio.usb; u.attached = false ∧ u.audio = 0 := by decide
theorem test_usb_rate : (after (.usbSetCur 48000) playing).result = 1 ∧ (after (.usbSetCur (rateHz 3)) playing).result = 0 := by decide

/-- PerformanceInputs: a key with a contact that is due, GPIO in modes 0 and 1, a conversion that no quarantine watches, a source in quarantine, MIDI of both status forms. -/
def keyed : State := audioOn (fun a => { a with scan := 101, contacts := [(5, { raw := true, t0 := 1 })] }) [(odKey 0x2840 1, [1]), (odKey 0x2900 1, [1]), (odKey 0x2900 2, [5, 0])]
theorem witness_keys : scanRuns keyed = true ∧ keysOf keyed 5 = [(0x2900, 0)] ∧ keysOf keyed 6 = [] ∧ (contact keyed 5).t0 - 1 + 10000 * debounceOf keyed 5 ≤ sampleTime 100 5 ∧ 5 ∉ keyed.audio.quar := by decide
theorem witness_inputs :
    (let s := audioOn (fun a => { a with gpioAt := 5000000, gpio := [(3, { raw := true, t0 := 1 })], quar := [0x503, 7] }) [(odKey 0x2B23 1, [1])]
     od s 0x2B23 1 = 1 ∧ (gpioSt s 3).t0 - 1 + 1000 * od s 0x2B23 4 ≤ s.audio.gpioAt ∧ (0x503 ∈ s.audio.quar) ∧ (7 ∈ s.audio.quar)) ∧
    (∀ j, j < 16 → od playing (0x2B00 + j) 4 = 0 ∧ od playing (0x2B00 + j) 5 = 0) := by decide
theorem test_contact : (contact (after (.contactAccepted 5) keyed) 5).acc = true := by decide
theorem test_running_status : let s := audioOn (fun a => { a with din := { running := 0x90 } }) []
    (after (.dinMidiMessage [60, 64] 0) s).audio.din.running = 0x90 ∧ (after .midiFramingError s).audio.din.running = 0 ∧ (after .midiFramingError s).audio.din.framing = 1 := by decide
theorem test_midi_route : midiRoute false [0x93, 60, 0] = some (some (2, 60, 0), false) := by decide

/-! ### Upkeep -/

/-- UpkeepWrites: objects that may be written, and a cluster that a pass may take. -/
theorem witness_upkeep_writes : ([(0xF100, 7, [1]), (0xF400, 6, [1]), (0xF200, 3, [0]), (0xF200, 5, [0]), (0xF230, 1, [2, 0]), (0xF230, 4, [1]), (0xF300, 3, [1]), (0xF300, 3, [5])] :
    List (Nat × Nat × Bytes)).all (writable (inMode .workshop) .portA) = true := by decide
theorem witness_upkeep : debugLife (inMode .workshop) = true ∧ passOk (inMode .workshop) 0 = false ∧ blockOpen (inMode .workshop) 5 = true ∧
    passOk { inMode .perform with adm := { (inMode .perform).adm with reserve := 1 } } 0 = true ∧
    blockOpen { inMode .workshop with modes := { (inMode .workshop).modes with life := 2 } } 5 = false ∧ (inMode .workshop).test.full ≠ 1 := by decide
theorem test_log_clear : (after (.logClear .portA) { inMode .workshop with log := { (inMode .workshop).log with newest := 9 } }).log.newest = 0 ∧ (after (.logClear .portA) (inMode .safe)).dict.last = .state := by decide

/-- UpkeepEvents: a slice that runs in each run, an item of the full self-test, a pass that is due. -/
theorem witness_slices : (let t : TestSt := { slice := [(2, 24)], runs := [(2, 2)] }; Tbl.get 0 t.slice 2 = 23 + 1 ∧ Tbl.get 0 t.runs 2 < 3) ∧ fullSlices playing = false ∧ memorySlice 0 = true ∧
    canMap playing 2 [0] = true ∧ od (audioOn id [(odKey 0xF200 1, [1])]) 0xF200 1 ≠ 0 ∧ playing.test.turn = 0 := by decide
theorem test_slice_passes : let s := after (.sliceDone 2 9 9 7 7 100 []) { playing with test := { slice := [(2, 5)] }, clus := [(2, { state := 4 })] }
    (Tbl.get 0 s.test.results 52).extractLsb' 30 2 = 1 ∧ Tbl.get 0 s.test.slice 2 ≠ 5 := by decide
theorem test_slice_budget : let s := after (.sliceBudgetExpiry 2) { playing with test := { slice := [(2, 5)] } }; Tbl.get 0 s.test.runs 2 = 1 ∧ Tbl.get 0 s.test.slice 2 = 5 := by decide
theorem test_scrub_csm : let s := after (.memoryScrub 3 1 2 5 2) playing; Tbl.get false s.csmUpset (csmKey 1 2 5) = true ∧ s.log.newest = 1 := by decide

/-! ### Start-up, resets and the supply -/

def starting (done : List StartStep) : State := { inMode .boot with modes := { (inMode .boot).modes with up := { active := true, done := done } } }

/-- StartUpSteps: a start-up at each of its steps. -/
theorem witness_steps : upReady (starting []) [] .power = true ∧ upReady (starting [.power]) [.power] .pll = true ∧ upReady (starting [.pll]) [.pll] .stage2 = true ∧
    upReady (starting [.stage2]) [.stage2] .rollCall = true ∧ upReady (starting [.stage2]) [.stage2] .dram = true ∧ upReady (starting [.stage2]) [.stage2] .sram = true ∧
    upReady (starting [.stage2, .sram]) [.sram] .patch = true ∧ (starting []).evc.asleep = false ∧ (starting []).modes.life ≠ 5 := by decide
theorem witness_outcome : startUpOutcome { inMode .boot with modes := { (inMode .boot).modes with up := { rows := [6, 7] } } } = (.safe, 3) ∧
    startUpOutcome { inMode .boot with clus := [(7, { state := 4 })] } = (.maintain, 7) := by decide
theorem test_dram_fails : let s := after (.dramTrainingDone 0 false) (starting [.stage2]); s.modes.up.hold = true ∧ s.modes.up.rows = [2] := by decide +kernel
theorem test_power_clears : (after (.powerSequencingDone 0) { starting [] with cram := [(1, 2)] }).cram = [] ∧
    (after (.powerSequencingDone 0) { starting [] with cram := [(1, 2)], modes := { (starting []).modes with up := { active := true, wake := true } } }).cram = [(1, 2)] := by decide

/-- ResetsAndSupply: a module in each state that its clauses name. -/
theorem witness_resets : State.reset.modes.mode = .noMode ∧ State.reset.modes.vin = false ∧ State.reset.modes.resetN = true ∧ playing.modes.entering = 0 ∧
    playing.modes.mode ∈ [Mode.perform, .maintain, .safe, .workshop] ∧ ({ entering := 2 } : ModeSt).entering = 2 ∧ playing.modes.holdUp = false ∧ playing.modes.trip = false := by decide
theorem test_rise_without_power : (evcSrc (after .pwrEnRise State.reset).evc 296).inp = true := by decide
theorem test_boot_loop : (after .bootLoopGuardClear { playing with modes := { playing.modes with warmAt := [1, 2], guardDue := 5 } }).modes.warmAt = [] := by decide
theorem test_alarm : let t := after .alarmExpiry { playing with modes := { playing.modes with alarm := 5, alarmOn := true } }; t.modes.alarmOn = false ∧ (evcSrc t.evc 295).pend = true := by decide
theorem test_vin_lost : let t := after .vinLockout { playing with modes := { playing.modes with vin := true } }
    t.modes.mode = .noMode ∧ t.modes.holdUp = true ∧ t.grid.running = false ∧ t.modes.faultN = some false := by decide
theorem test_restart_order : let s := { playing with modes := { playing.modes with upd := { state := 5, left := [3, 2] } } }
    (after (.droverRestartReady 2) s).modes.upd.left = [3, 2] ∧ (after (.droverRestartReady 3) { s with modes := { s.modes with upd := { state := 5, left := [3] } } }).modes.upd.left = [] := by decide

/-! ### Further premises and clauses -/

/-- DroverStores: a buffer of 6 and one of 8 control RAM stores, and a store that may be made. -/
theorem witness_stores :
    let e (a : Nat) : SbEntry := { at_ := a, bytes := [(0, 1)], mask := [0], addr := a, priv := 2, cach := false }
    let b (n : Nat) : List SbEntry := (List.range n).map (fun i => e (0x10003000 + 8 * i))
    dataFault { runs (wordI 0x1A 3 2 4) with w := [(2, 0x10002000)] } 0x10002004 4 true = none ∧ (b 6).length = 6 ∧ (b 8).length = 8 ∧
    (∀ x ∈ b 8, drvRegion x.addr = .cram) := by decide
theorem test_full_buffer : let e (a : Nat) : SbEntry := { at_ := a, bytes := [(0, 1)], mask := [0], addr := a, priv := 2, cach := false }
    let x := issued .drvSb (wordI 0x18 3 2 4) { w := [(2, 0x10002000), (3, 0xAB)], buf := (List.range 8).map (fun i => e (0x10003000 + 8 * i)) }
    x.pc = 0x104 ∧ x.buf.length ≤ 8 ∧ bufSees x.buf 0x10002004 = some 0xAB := by decide

/-- VectorAccumulators, VectorFilters and VectorGenerators at the ends of their ranges: elements 0 and 128 of a group, both neighbours of a
product that is cut, and phases at and away from an edge. -/
theorem test_vagov_of_group : (vecAfter .vmac { vop := 11, opd := 0x100000 + 0x100, vl := 129, vg := 1, d := 0x7FFFFF } { va := [(256, 0x7FFFFFFFFFFFFF)], v := [(128, 0x7FFFFF)] }).vstat.getLsbD 6 = true := by decide +kernel
theorem witness_saw : nearEdge 0x400000 0x100 0 = false ∧ nearEdge 0 0x100 0 = true ∧ nearEdge 0x400000 0x100 0x800000 = false ∧ sineRange 0 ≠ (0, -1) := by decide

/-- CoreLap: a convoy whose producer on another core of its cluster has not ended, and the same once it has. -/
def chained : State := { playing with adm := { playing.adm with load := { load1 with slots := [(0, ⟨1, 0, 0, 1⟩), (1, ⟨1, 0, 1, 1⟩)], edges := [(0, ⟨0, 1, 1, false⟩)] } } }
theorem witness_producer : producersEnded (setCore chained 0 { order := [0] }) 1 1 = false ∧ producersEnded chained 1 1 = true := by decide
theorem test_convoy_waits : (coreOf (after (.startPhase 1) (setCore (setCore chained 0 { order := [0] }) 1 { order := [1], conv := some 1 })) 1).phase = .waiting := by decide

/-- LapEdge: a core that has overrun alone. -/
theorem witness_overrun_edge : let s := setCore { playing with grid := { playing.grid with sealed := true } } 5 { overran := true }
    (coreOf s 5).overran = true ∧ (∀ j, j < 64 → j ≠ 5 → (coreOf s j).overran = false) ∧ stoppedByFault (coreOf s 5) = false := by decide

/-- RelayTraffic: a burst of a stream feed. -/
theorem test_feed_lost : let t := after (.relayBurst true 0 4 2) { playing with adm := { playing.adm with timetable := [burst 1] } }
    t.avail.taint = [1] ∧ t.audio.mix.feedLost = [(1, 4, 2)] := by decide

/-- ManifestsToCommit: a manifest that may be decided, and a parameter of a context that waits for its start. -/
theorem witness_accepted : let s := { manEx { state := .checking } with man := { (manEx { state := .checking }).man with queue := [3] }, grid := { playing.grid with epochLap := 10 } }
    (commitLap s (manOf s 3)).toOption = some 12 := by decide
theorem witness_armed_parameter : let m : Manifest := { state := .staged, lc := 11, entries := [.write 0x8005 2 [1, 2, 3]], gens := [(5, 0)] }
    let s := setCtx (manEx m) 5 { hdr := { state := .armed } }
    (ctxOf s 5).hdr.state = .armed ∧ lookupNat m.gens 5 = some (ctxOf s 5).hdr.gen ∧ m.twoLap = false := by decide

/-- StreamRings: reads in a plane's queue, of one plane and of a rebuild, and one that only waits. -/
def reading (n : Nat) : State := { playing with store := { playing.store with queued := [⟨9, List.range n⟩], rings := [(9, { state := 1, grants := 1, reads := 1 })] } }
theorem witness_queues : (reading 1).store.queued.find? (fun x => x.ring == 9) = some ⟨9, [0]⟩ ∧ (reading 7).store.queued.find? (fun x => x.ring == 9) = some ⟨9, List.range 7⟩ ∧
    (let s : State := { playing with store := { playing.store with waiting := [⟨9, [0]⟩] } }
     s.store.queued.find? (fun x => x.ring == 9) = none ∧ s.store.waiting.any (fun x => x.ring == 9) = true) ∧ planeBusy playing 7 3 = false := by decide
theorem test_plane_queue : planeRoom (List.replicate 5 ⟨1, [3]⟩) 3 = true ∧ planeRoom (List.replicate 6 ⟨1, [3]⟩) 3 = false := by decide
theorem test_rebuild_reads : let t := after (.pageReadDone (some 9) 0 0 0) (reading 7)
    (blockOf t (blockKey 0 0 0)).reads = 0 ∧ (blockOf t (blockKey 7 0 0)).reads = 1 ∧ t.store.rebuilt = 1 := by decide

/-- StoreCare: a service state in which one plane of a group may be busy, and one in which all may. -/
theorem witness_busy : oneBusy playing = true ∧ oneBusy (inMode .workshop) = false ∧ (∀ p, p < 4 → Tbl.get 0 playing.store.busy p = oneDie 8) ∧
    planeBusy { playing with store := { playing.store with busy := [(3, 0x80)] } } 7 3 = true := by decide

/-- DictionaryRequests: commits at one instant, in the order of their requesters from the one whose turn it is. -/
theorem test_tie : let s : State := { playing with man := { playing.man with queue := [8, 24], group := 2, arrived := playing.now } }
    s.man.group ≠ 0 ∧ s.man.arrived = s.now ∧ (queueCommit 3 s).man.queue = [3, 8, 24] := by decide
theorem test_tie_turn : (queueCommit 3 { playing with man := { playing.man with queue := [8], group := 1, arrived := playing.now, turn := 1 } }).man.queue = [8, 3] := by decide

/-- PortTraffic: a port that is not served in BOOT hold, turns, and links that have been down. -/
theorem witness_ports_turn :
    (let s : State := { inMode .boot with modes := { (inMode .boot).modes with up := { active := true, hold := true } } }
     portLive s .b = false) ∧
    (let s : State := { inMode .safe with dict := { (inMode .safe).dict with turns := [.a, .b] } }
     s.dict.turns.find? (fun q => q == .a || inService s q == []) = some .a) ∧
    (∀ n ∈ [(inMode .safe).net.p0, (inMode .safe).net.p1], n.up = false) := by decide

/-- EvcDelivery: a sleeping concentrator with and without retention. -/
theorem test_wake_without_retention : let s : State := { inMode .standby with evc := { (evcOn 296 { en := true, pend := true, tgt := 1 } State.reset.evc) with asleep := true }, modes := { (inMode .standby).modes with pwrEn := true } }
    (evcSrc (after .alwaysOnWake s).evc 296).en = false ∧
    (evcSrc (after .alwaysOnWake { s with modes := { s.modes with retained := true } }).evc 296).en = true := by decide

/-- NetworkStreams: a listener of both ports. -/
theorem witness_both_ports : let s := upPort {} [(odKey 0x2400 1, [1]), (odKey 0x2400 6, [2]), (odKey 0x2400 9, [3])]
    od s (listenIx 0) 9 = 3 ∧ (od s (listenIx 0) 9).testBit 1 = true ∧ odBool s (listenIx 0) 1 = true := by decide

/-- SampleAndUsb: an output block that is due, and the clock outputs at the instants of both families. -/
theorem witness_blocks : let b : OutBlock := { emit := 10, num := 1, out := ⟨0, 0, 2, 2, 1, 0⟩, lap := 8, elems := [0], stained := false }
    let s := audioOn (fun a => { a with mix := { outs := [b, { b with emit := 11 }] } }) []
    blocksDue s = [b] ∧ b.out.iface = 1 ∧ outputsMuted s = false := by decide
theorem test_clocks : let s := audioOn id [(odKey 0x2110 1, [1])]
    mclkHz s = 24576000 ∧ mclkHz { s with grid := { s.grid with rate := 4 } } = 22579200 ∧ mclkHz { s with grid := { s.grid with running := false } } = 0 ∧ mclkHz (audioOn id [(odKey 0x2110 1, [0])]) = 0 := by decide
theorem test_pps : let s : State := { playing with net := { playing.net with pps := 5, ppsOn := true }, now := nsTicks 5000000000 }
    ppsHigh s = true ∧ ppsHigh { s with now := nsTicks 5100000000 } = false := by decide

/-- PerformanceInputs: a key event's entry, and a GPIO input that leaves quarantine. -/
theorem test_key_entry : fourthCycle playing 0 = 4 * audioCycle 3 ∧ fourthCycle playing (audioCycle 3 - 1) = 4 * audioCycle 3 ∧ fourthCycle playing (audioCycle 3) = 5 * audioCycle 3 := by decide
theorem test_gpio_release : let t := after (.quarantineRelease 0x403 2000000005) (audioOn (fun a => { a with gpio := [(3, { raw := true, t0 := 1, moved := 5 })], quar := [0x403] }) [])
    t.audio.quar = [] ∧ (gpioSt t 3).acc = true ∧ (evcSrc t.evc 203).inp = true := by decide

/-- UpkeepEvents: a slice that a micro-fault has cut, one among others, and rows that cannot be mapped. -/
theorem test_cut_slice : let s := after (.sliceDone 2 9 9 7 7 100 []) { playing with test := { slice := [(2, 6)], cut := [2] } }
    Tbl.get 0 s.test.runs 2 = 1 ∧ s.test.cut = [] := by decide
theorem test_slice_goes_on : let s := after (.sliceDone 2 9 9 7 7 100 []) { playing with test := { slice := [(2, 5)] }, clus := [(2, { state := 2 })] }
    Tbl.get 0 s.test.slice 2 = 6 := by decide
theorem witness_rows : canMap { playing with test := { rows := [(512, 4)] } } 2 [0] = false ∧ canMap { playing with test := { fuses := [(2, 32)] } } 2 [0] = false := by decide
theorem witness_selftest : let s : State := { playing with test := { full := 1, items := [0, 4] } }
    s.test.items.head? = some 0 ∧ (List.range 8).all (fun c => Tbl.get 0 s.test.slice c == 0) = true := by decide

/-- StartUpSteps: a start-up without a slot that boots, and the saved load's outcomes. -/
theorem witness_restart : (clusterOf { playing with clus := [(2, { restartDue := true })] } 2).restartDue = true ∧ servingCluster playing 2 = [] ∧ (firmwareHandle playing).isSome = true ∧
    restartPlaces 2 { playing with clus := [(2, { restartDue := true })] } = [] := by decide

/-- ManifestsToCommit and GridAndIoWrites: an empty load passes with the reserve held and without it, at a new rate, and its timetable can be staged. -/
def emptyLoad (r : Nat) (m : Mode) : State := { inMode m with grid := { running := true, lap := 10, epochLap := 10 }, adm := { (inMode m).adm with reserve := r } }
theorem witness_passes : (checkAdmission (emptyLoad 0 .perform) { state := .checking }).isNone = true ∧ (checkAdmission (emptyLoad 1 .perform) { state := .checking }).isNone = true := by decide +kernel
theorem witness_new_rate : admission (emptyLoad 0 .safe) false false [.write 0x2001 1 (leBytes 1 4), .write 0x2001 2 (leBytes 1 8)] = none := rfl
theorem witness_reserve : (checkReserve (emptyLoad 0 .safe) (reserveViews (emptyLoad 0 .safe))).isNone = true ∧
    (stagedBank (caseViews (emptyLoad 0 .safe)).reverse).isSome = true := by decide +kernel

end Sys2Proof.Tests
end

section
/-! PROOFS. A Drover's register writes: SEMREQ (R494, R495) and the cluster control blocks (R405, R406). -/

namespace Sys2Proof.Machine

/-! ### Semaphores of Drover applications -/

/-- Code 3 stands for Drover applications (OD 1300): they take what is free or theirs. -/
theorem semTake_apps_ok {i : Nat} {s : State} (hi : i < 32) (h : Tbl.get 0 s.dict.sems i = 0 ∨ Tbl.get 0 s.dict.sems i = 3) :
    semTake .apps i s = (.ok, { s with dict := { s.dict with sems := Tbl.put 0 s.dict.sems i 3 } }) := by
  have hr : ¬ i > 31 := by omega
  simp [semTake, ownerCode, hr, h]

theorem semTake_apps_busy {i : Nat} {s : State} (hi : i < 32) (h : ¬ (Tbl.get 0 s.dict.sems i = 0 ∨ Tbl.get 0 s.dict.sems i = 3)) :
    semTake .apps i s = (.busy, s) := by
  have hr : ¬ i > 31 := by omega
  simp [semTake, ownerCode, hr, h]

theorem semGive_apps_ok {i : Nat} {s : State} (hi : i < 32) (h : Tbl.get 0 s.dict.sems i = 3) :
    semGive .apps i s = (.ok, { s with dict := { s.dict with sems := Tbl.put 0 s.dict.sems i 0 } }) := by
  have hr : ¬ i > 31 := by omega
  simp [semGive, ownerCode, hr, h]

theorem semGive_apps_notHeld {i : Nat} {s : State} (hi : i < 32) (h : Tbl.get 0 s.dict.sems i ≠ 3) :
    semGive .apps i s = (.semNotHeld, s) := by
  have hr : ¬ i > 31 := by omega
  simp [semGive, ownerCode, hr, h]

/-- SEMRES takes the code of a request's status (Table 13.11). -/
def withSemres (r : Status × State) : State := { r.2 with dict := { r.2.dict with semres := r.1.code } }

/-- SEMREQ with TAKE, bit 8, set. -/
theorem exec_semreqTake (i : Fin 32) (s : State) : exec (.semreqTake i) s = .next (withSemres (semTake .apps i s)) := by
  have htake : (256 + i.val) / 256 % 2 = 1 := by omega
  have hindex : (256 + i.val) % 32 = i := by omega
  change Host.Outcome.next (semReq (256 + i.val) s) = _
  simp only [semReq, htake, hindex, if_true, withSemres]

/-- SEMREQ with TAKE, bit 8, clear. -/
theorem exec_semreqGive (i : Fin 32) (s : State) : exec (.semreqGive i) s = .next (withSemres (semGive .apps i s)) := by
  have hgive : ¬ i.val / 256 % 2 = 1 := by omega
  have hindex : i.val % 32 = i := by omega
  change Host.Outcome.next (semReq i.val s) = _
  simp only [semReq, hgive, hindex, if_false, withSemres]

/-! ### Cluster control blocks -/

/-- The device address of offset o in the control block of signal core k (Table 11.6). -/
def clusterAddr (k : Fin 64) (o : Nat) : Nat := 0x21000000 + 0x10000 * (k / 8) + 0x1000 * (k % 8) + o

/-- A Drover's write of a word in a cluster control block is a write of the offset in the block of its core. -/
theorem exec_registerWrite_clusterAddr (d : Fin 4) (k : Fin 64) {o : Nat} (v : BitVec 32) (s : State) (ho : o < 0x1000)
    (hword : o % 4 = 0) : exec (.registerWrite d (BitVec.ofNat 32 (clusterAddr k o)) v) s = .next (clusterWrite k o v s) := by
  have haddr : (BitVec.ofNat 32 (clusterAddr k o)).toNat / 4 * 4 = clusterAddr k o := by
    simp only [BitVec.toNat_ofNat, clusterAddr]
    omega
  have hdev : devWrite d (drvOf s d).priv (clusterAddr k o) v s = clusterWrite k o v s := by
    have hevc : ¬ (0x20000000 ≤ clusterAddr k o ∧ clusterAddr k o < 0x20010000) := by unfold clusterAddr; omega
    have hsem : ¬ clusterAddr k o = 0x20010080 := by unfold clusterAddr; omega
    have hdrv : ¬ (0x20040000 ≤ clusterAddr k o ∧ clusterAddr k o < 0x20040100) := by unfold clusterAddr; omega
    have hclus : 0x21000000 ≤ clusterAddr k o ∧ clusterAddr k o < 0x21080000 := by unfold clusterAddr; omega
    have hblock : clusterAddr k o % 65536 < 0x8000 := by unfold clusterAddr; omega
    have hcore : 8 * ((clusterAddr k o - 0x21000000) / 65536) + clusterAddr k o % 65536 / 4096 = k := by unfold clusterAddr; omega
    have hoff : clusterAddr k o % 65536 % 4096 = o := by unfold clusterAddr; omega
    simp only [devWrite, hevc, hsem, hdrv, hclus, hblock, hcore, hoff, if_true, if_false, and_self]
  change Host.Outcome.next (devWrite d (drvOf s d).priv _ v s) = _
  rw [haddr, hdev]

theorem clusterWrite_aemask (k : Nat) (v : BitVec 32) (s : State) :
    clusterWrite k 0x210 v s = setCore s k { coreOf s k with aemask := v.setWidth 24 &&& 0x000700 } := rfl

theorem clusterWrite_bpm0 (k : Nat) (v : BitVec 32) (s : State) :
    clusterWrite k 0x200 v s = if bootOrWorkshop s = true ∨ drained s (k / 8) = true
      then setCore s k { coreOf s k with bpm0 := v.setWidth 24 &&& 0x7FFFFF } else s := by
  simp [clusterWrite, updCore]

/-- From ARITH on only the windows of 0x300 to 0x3FC are written. -/
theorem clusterWrite_readOnly (k : Nat) {o : Nat} (v : BitVec 32) (s : State) (harith : 0x21C ≤ o)
    (hwin : ¬ (0x300 ≤ o ∧ o ≤ 0x3FC)) : clusterWrite k o v s = s := by
  have hlcs : ¬ o ≤ 0xBC := by omega
  have hreg : o ≠ 0x200 ∧ o ≠ 0x204 ∧ o ≠ 0x208 ∧ o ≠ 0x20C ∧ o ≠ 0x210 ∧ o ≠ 0x214 ∧ o ≠ 0x218 := by omega
  simp only [clusterWrite, hlcs, hreg, hwin, if_false]

/-- Settles O23: SEMREQ through the outcomes of a take and a give, the control blocks through the offset that an address names. -/
theorem droverRegisterWrites : Obligations.DroverRegisterWrites := by
  intro d s
  constructor
  · intro i
    refine ⟨fun h => ?_, fun h => ?_, fun h => ?_, fun h => ?_⟩
    · rw [exec_semreqTake, semTake_apps_ok i.isLt h]; rfl
    · rw [exec_semreqTake, semTake_apps_busy i.isLt h]; rfl
    · rw [exec_semreqGive, semGive_apps_ok i.isLt h]; rfl
    · rw [exec_semreqGive, semGive_apps_notHeld i.isLt h]; rfl
  · intro k v
    have write {o : Nat} (ho : o < 0x1000) (hword : o % 4 = 0) := exec_registerWrite_clusterAddr d k v s ho hword
    have readOnly {o : Nat} (ho : o < 0x1000) (hword : o % 4 = 0) (harith : 0x21C ≤ o) (hwin : ¬ (0x300 ≤ o ∧ o ≤ 0x3FC)) :=
      (write ho hword).trans (congrArg _ (clusterWrite_readOnly k v s harith hwin))
    refine ⟨?aemask, fun free => ?bpm0Free, fun free => ?bpm0Held, ?arith, ?frec, ?unnamed⟩
    case aemask => exact (write (by decide) rfl).trans (by rw [clusterWrite_aemask])
    case bpm0Free => exact (write (by decide) rfl).trans (by rw [clusterWrite_bpm0, if_pos free])
    case bpm0Held => exact (write (by decide) rfl).trans (by rw [clusterWrite_bpm0, if_neg free])
    case arith => exact readOnly (by decide) rfl (by decide) (by decide)
    case frec => exact readOnly (by decide) rfl (by decide) (by decide)
    case unnamed => exact readOnly (by decide) rfl (by decide) (by decide)

end Sys2Proof.Machine
end

section
/-! PROOFS. Start records, template copies and page copies (R81, R99, R101, Table 3.2). -/

namespace Sys2Proof.Machine

/-- A table filled from key b on with n values. -/
theorem Tbl.get_foldl_put {α : Type} [DecidableEq α] {d : α} (t : Tbl α) (b n : Nat) (v : Nat → α) {i : Nat} (hi : i < n) :
    Tbl.get d ((List.range n).foldl (fun t i => Tbl.put d t (b + i) (v i)) t) (b + i) = v i := by
  induction n with
  | zero => exact absurd hi (Nat.not_lt_zero i)
  | succ n ih =>
    rw [List.range_succ, List.foldl_append, List.foldl_cons, List.foldl_nil, Tbl.get_put]
    by_cases hlast : i = n
    · rw [hlast, if_pos rfl]
    · rw [if_neg (by omega), ih (by omega)]

/-! ### Arrival of a start record (R99) -/

theorem exec_startRecordArrival {c : Fin 8} {s : State} {r : StartRec}
    (h : s.starter.flight.find? (fun r => r.ctx / 2048 == c.val) = some r) : exec (.startRecordArrival c) s =
      .next (recordArrives r { s with starter := { s.starter with flight := s.starter.flight.erase r } }) := by
  change execStartRecordArrival c s = _
  simp only [execStartRecordArrival, h]

theorem recordArrives_ctxs (r : StartRec) (s : State) : (recordArrives r s).ctxs = Tbl.put {} s.ctxs r.ctx
    { ctxOf s r.ctx with hdr := armedHeader (ctxOf s r.ctx).hdr r, relLap := r.relLap, stolenLap := r.stolenLap } := rfl

theorem ctxOf_recordArrives_hdr (r : StartRec) (s : State) : (ctxOf (recordArrives r s) r.ctx).hdr = armedHeader (ctxOf s r.ctx).hdr r := by
  rw [ctxOf, recordArrives_ctxs, Tbl.get_put_self]

theorem ctxOf_recordArrives_other (r : StartRec) (s : State) {n : Nat} (h : n ≠ r.ctx) : ctxOf (recordArrives r s) n = ctxOf s n := by
  rw [ctxOf, recordArrives_ctxs, Tbl.get_put_other _ _ h, ctxOf]

/-- The record queues for its template copy behind those of its cluster. -/
theorem recordArrives_copies (r : StartRec) (s : State) : Tbl.get [] (recordArrives r s).starter.copies (r.ctx / 2048) =
    Tbl.get [] s.starter.copies (r.ctx / 2048) ++ [r] :=
  Tbl.get_put_self _ _ _

/-! ### The copy of a template (R101) -/

/-- State words come from the template as they stand. -/
theorem applyTemplate_st (img : Bytes) (r : StartRec) (c : Ctx) {w : Nat} (hlo : 8 ≤ w) (hhi : w < 128) :
    Tbl.get 0 (applyTemplate img r c).st w = templateWord img w := by
  obtain ⟨i, rfl⟩ := Nat.exists_eq_add_of_le hlo
  exact Tbl.get_foldl_put [] 8 120 (fun i => templateWord img (8 + i)) (by omega)

/-- Parameter words come from the template too, but for the velocity and the note. -/
theorem applyTemplate_act (img : Bytes) (r : StartRec) (c : Ctx) (hvel : r.velw < 64) (hnote : r.notew < 64) (hne : r.velw ≠ r.notew)
    {i : Nat} (hi : i < 64) : Tbl.get 0 (applyTemplate img r c).act i = if i = r.velw then BitVec.ofNat 24 (r.vel.toNat * 256)
      else if i = r.notew then r.note.setWidth 24 else templateWord img (128 + i) := by
  have page := Tbl.get_foldl_put (d := 0) [] 0 64 (fun i => templateWord img (128 + i)) hi
  simp only [Nat.zero_add] at page
  simp only [applyTemplate, hvel, hnote, if_true, Tbl.get_put, page]
  by_cases h : i = r.velw
  · rw [if_pos h, if_pos h, if_neg (h ▸ hne)]
  · rw [if_neg h, if_neg h]

@[simp] theorem applyTemplate_shadow (img : Bytes) (r : StartRec) (c : Ctx) : (applyTemplate img r c).shadow = (applyTemplate img r c).act := rfl

@[simp] theorem applyTemplate_hdr (img : Bytes) (r : StartRec) (c : Ctx) : (applyTemplate img r c).hdr = c.hdr := rfl

/-- The state after the template copy of a record: its context is filled, the copies of its cluster are the rest, and it stands in
the start queue of its core. -/
def templateCopied (c : Nat) (r : StartRec) (rest : List StartRec) (s : State) : State :=
  updCore { updCtx s r.ctx (applyTemplate (starterBytes s r.lap (0x5000 + r.tmpl) 1) r) with
      starter := { s.starter with copies := Tbl.put [] s.starter.copies c rest } }
    (slotCore s (slotOfCtx r.ctx)) (fun k => { k with starts := k.starts ++ [{ r with copied := true }] })

theorem exec_templateCopyEnd {c : Fin 8} {s : State} {r : StartRec} {rest : List StartRec}
    (h : Tbl.get [] s.starter.copies c = r :: rest) (hcopied : r.copied = false) (hdead : r.dead = false) :
    exec (.templateCopyEnd c) s = .next (templateCopied c r rest s) := by
  change Host.Outcome.next (copyEnds c s) = _
  simp only [templateCopied, copyEnds, h, hcopied, hdead, Bool.or_self, Bool.false_eq_true, if_false]
  rfl

theorem templateCopied_copies (c : Nat) (r : StartRec) (rest : List StartRec) (s : State) :
    Tbl.get [] (templateCopied c r rest s).starter.copies c = rest :=
  Tbl.get_put_self _ c rest

theorem ctxOf_templateCopied (c : Nat) (r : StartRec) (rest : List StartRec) (s : State) :
    ctxOf (templateCopied c r rest s) r.ctx = applyTemplate (starterBytes s r.lap (0x5000 + r.tmpl) 1) r (ctxOf s r.ctx) :=
  Tbl.get_put_self s.ctxs r.ctx _

theorem templateCopied_starts (c : Nat) (r : StartRec) (rest : List StartRec) (s : State) :
    (coreOf (templateCopied c r rest s) (slotCore s (slotOfCtx r.ctx))).starts =
      (coreOf s (slotCore s (slotOfCtx r.ctx))).starts ++ [{ r with copied := true }] :=
  congrArg SigCore.starts (Tbl.get_put_self s.cores _ _)

/-! ### The end of a page copy (R81) -/

theorem exec_pageCopyEnd {c : Fin 8} {s : State} {n : Nat} {rest : List Nat} (h : copyingCtxs s c = n :: rest) :
    exec (.pageCopyEnd c) s = .next (pageCopied n s) := by
  change execPageCopyEnd c s = _
  simp only [execPageCopyEnd, h]

/-- The writes that wait for the end of context n's page copy. -/
def waitingWrites (s : State) (n : Nat) : List HeldWrite := s.held.filter (fun h => h.ctx == n && h.atLap == none)

/-- The context whose copy ends has the active page in its shadow page, with the writes that waited on top. -/
theorem ctxOf_pageCopied (n : Nat) (s : State) (j : Nat) : ctxOf (pageCopied n s) j =
    if j = n then { ctxOf s n with
      shadow := (waitingWrites s n).foldl (fun t h => Tbl.put 0 t h.word h.val) (ctxOf s n).act,
      copying := false, dirty := (ctxOf s n).dirty || waitingWrites s n != [] } else ctxOf s j :=
  Tbl.get_put _ n j _

/-- Settles O38: the arrival by the header of an armed context, the copy by the words that a template gives, the page by the writes
that waited. -/
theorem contextCopies : Obligations.ContextCopies := by
  intro s c
  refine ⟨fun r hr => ?arrival, fun r rest hcopies hcopied hdead hvel hnote hne => ?template, fun n rest hn => ?page⟩
  case arrival =>
    have hc : r.ctx / 2048 = c := by simpa using List.find?_some hr
    refine ⟨_, exec_startRecordArrival hr, ?_, rfl, hc ▸ recordArrives_copies r _,
      fun n hn => ctxOf_recordArrives_other r _ hn, rfl⟩
    rw [ctxOf_recordArrives_hdr]
    exact ⟨rfl, rfl, rfl, rfl, rfl, rfl, rfl, rfl, rfl, rfl, rfl, rfl⟩
  case template =>
    refine ⟨_, exec_templateCopyEnd hcopies hcopied hdead, templateCopied_copies c r rest s, ?_, templateCopied_starts c r rest s⟩
    rw [ctxOf_templateCopied]
    exact ⟨fun w => applyTemplate_st _ r _, fun i => applyTemplate_act _ r _ hvel hnote hne, applyTemplate_shadow _ r _, applyTemplate_hdr _ r _⟩
  case page =>
    refine ⟨_, exec_pageCopyEnd hn, ?_, fun j hj => ?_, rfl⟩
    · rw [ctxOf_pageCopied, if_pos rfl]
      refine ⟨rfl, rfl, rfl, rfl, fun hnone => ?_, fun h hone => ?_, rfl⟩
      · rw [show waitingWrites s n = [] from hnone]
        exact ⟨rfl, Bool.or_false _⟩
      · rw [show waitingWrites s n = [h] from hone]
        exact ⟨Bool.or_true _, fun w => Tbl.get_put _ h.word w h.val⟩
    · rw [ctxOf_pageCopied, if_neg hj]

end Sys2Proof.Machine
end

section
/-! PROOFS. A key of which a contact is quarantined (R573, R575): where PerformanceInputs leaves the model. -/

namespace Sys2Proof.Machine

/-- Key 0 of contacts 5 and 6 in PERFORM: contact 5 is quarantined, and scan 100 has found contact 6 closed since 0 ns. -/
def barredKey : State :=
  { State.reset with
    grid := { running := true }
    modes := { mode := .perform }
    dict := { od := [(odKey 0x2900 1, [1]), (odKey 0x2900 2, [5, 0]), (odKey 0x2900 3, [6, 0])] }
    audio := { scan := 101, contacts := [(6, { raw := true, t0 := 1 })], quar := [5] } }

/-- The events that the Starter has taken after a command. -/
def takenAfter : Out → Nat
  | .next t => t.starter.taken
  | _ => 0

/-- A key of which a contact is quarantined emits nothing when its other contact closes (Table 15.12). -/
theorem takenAfter_barredKey : takenAfter (exec (.contactAccepted 6) barredKey) = 0 := by decide

/-- Refutes O56: contact 6 of barredKey closes while contact 5 of the same key is quarantined, and the Starter takes no event. The
statement builds the state it claims on what keyContact leaves, and there the Starter has taken the key's note on. -/
theorem not_performanceInputs : ¬ Obligations.PerformanceInputs := by
  intro h
  obtain ⟨-, accepted, -⟩ := h barredKey
  obtain ⟨-, oneKey⟩ := accepted 6 (by decide) (by decide) (by decide) (by decide) (by decide)
  obtain ⟨counted, -⟩ := oneKey 0x2900 1 (by decide)
  have claimed := congrArg takenAfter (counted (by decide))
  rw [takenAfter_barredKey] at claimed
  -- the state claimed has taken one event
  exact absurd claimed (by decide)

end Sys2Proof.Machine
end

section
/-! PROOFS. The control block of an LVU (R265, R268 to R273, Tables 7.11 and 7.12) and the patch RAM scrubber (R246, R276). -/

namespace Sys2Proof.Machine

/-! ### Writes of one core -/

theorem coreIs_setCore (s : State) (k : Nat) (c : SigCore) : s.CoreIs (setCore s k c) k c where
  here := by rw [coreOf_setCore, if_pos rfl]
  there j hj := by rw [coreOf_setCore, if_neg hj]
  rest := rfl

theorem coreIs_updLvu {s : State} {k : Nat} {f : Lvu → Lvu} {x : Lvu} (h : f (lvuOf s k) = x) :
    s.CoreIs (updLvu s k f) k { coreOf s k with lvu := x } :=
  h ▸ coreIs_setCore s k _

@[simp] theorem lvuOf_updLvu (s : State) (k : Nat) (f : Lvu → Lvu) : lvuOf (updLvu s k f) k = f (lvuOf s k) :=
  congrArg SigCore.lvu (coreIs_updLvu rfl).here

section ControlBlock

variable {s : State} {k v : Nat}

/-! ### STOP, RESUME and DISCARD (R268) -/

/-- A cluster that is in service ignores STOP. -/
theorem lcsStop_inService (h : ¬ drained s (k / 8) = true) : lcsStop k s = s := by
  simp [lcsStop, h]

theorem lcsStop_drained (h : drained s (k / 8) = true) : lcsStop k s = updLvu s k (fun l =>
    if l.busy.isSome then { l with stopRq := true } else { l with stopped := true, frameValid := false }) := by
  simp [lcsStop, h]

/-- STOP asks a busy LVU to stop. -/
theorem lcsStop_busy (hout : drained s (k / 8) = true) (hbusy : (lvuOf s k).busy.isSome) :
    s.CoreIs (lcsStop k s) k { coreOf s k with lvu := { lvuOf s k with stopRq := true } } :=
  lcsStop_drained hout ▸ coreIs_updLvu (if_pos hbusy)

/-- STOP leaves an idle LVU stopped and without a frame. -/
theorem lcsStop_idle (hout : drained s (k / 8) = true) (hidle : (lvuOf s k).busy = none) :
    s.CoreIs (lcsStop k s) k { coreOf s k with lvu := { lvuOf s k with stopped := true, frameValid := false } } :=
  lcsStop_drained hout ▸ coreIs_updLvu (if_neg (by simp [hidle]))

/-- A stopped LVU whose frame can be read goes on with the frame's instruction. -/
theorem lcsResume_frame (hstop : (lvuOf s k).stopped = true) (hframe : (lvuOf s k).frameValid = true) (hgood : frameUpset (coreOf s k) = false) :
    s.CoreIs (lcsResume k s) k { coreOf s k with mt := false, lvu := { lvuOf s k with
      stopped := false, frameValid := false, busy := some (lvuOf s k).frame, micro := { (lvuOf s k).frameMicro with resumed := true } } } := by
  have hvalid : (coreOf s k).lvu.frameValid = true := hframe
  rw [lcsResume, if_pos hstop, lvuResume, if_neg (by simp [hvalid]), if_neg (by simp [hgood])]
  exact coreIs_setCore s k _

/-- A stopped or halted LVU drops its frame. -/
theorem lcsDiscard_stopped (h : (lvuOf s k).stopped = true ∨ (lvuOf s k).halt = true) :
    s.CoreIs (lcsDiscard k s) k { coreOf s k with mt := false, lvu := { (lvuOf s k).idle with
      stopped := false, halt := false, stopRq := false, frameValid := false } } := by
  rw [lcsDiscard, if_pos (Bool.or_eq_true_iff.mpr h)]
  exact coreIs_setCore s k _

/-! ### PLOAD, PEN and POLL (R265, R270, Table 7.12) -/

theorem bootOrWorkshop_iff (s : State) : bootOrWorkshop s = true ↔ s.modes.mode = .boot ∨ s.modes.mode = .workshop := by
  simp [bootOrWorkshop]

/-- The load port opens at an idle LVU in BOOT, in WORKSHOP or in a drained cluster, with its registers at their start. -/
theorem lcsPload_opens (hidle : (lvuOf s k).busy = none) (hclosed : (lvuOf s k).pload = false)
    (hfree : bootOrWorkshop s = true ∨ drained s (k / 8) = true) : s.CoreIs (lcsPload k true s) k { coreOf s k with lvu := { lvuOf s k with
      pload := true, pset := 0, praddr := 0, pmatch := [], csver := (lvuOf s k).csver &&& 0xFF000000, crc := 0xFFFF, pen := false } } := by
  rw [lcsPload, if_pos rfl, if_pos (by simp [hidle, hfree]), if_neg (by simp [hclosed])]
  exact coreIs_updLvu rfl

theorem csverNow_open {l : Lvu} (hopen : l.pload = true) :
    l.csverNow = (l.csver &&& 0xFF000000) ||| BitVec.ofNat 32 (l.pset.toNat % 256 * 65536 + l.crc.toNat) :=
  if_pos hopen

/-- CSVER keeps the patch set and the CRC of the port that closes. -/
theorem lcsPload_closes (hopen : (lvuOf s k).pload = true) : s.CoreIs (lcsPload k false s) k { coreOf s k with lvu := { lvuOf s k with
    pload := false, csver := ((lvuOf s k).csver &&& 0xFF000000) |||
      BitVec.ofNat 32 ((lvuOf s k).pset.toNat % 256 * 65536 + (lvuOf s k).crc.toNat) } } := by
  rw [lcsPload, if_neg Bool.false_ne_true, ← csverNow_open hopen]
  exact coreIs_updLvu rfl

/-- A 1 in PEN is ignored while the load port is open. -/
theorem lcsPen_ignored (hopen : (lvuOf s k).pload = true) : lcsPen k true s = s := by
  simp [lcsPen, hopen]

theorem lcsPen_taken {on : Bool} (h : on = false ∨ (lvuOf s k).pload = false) :
    s.CoreIs (lcsPen k on s) k { coreOf s k with lvu := { lvuOf s k with pen := on } } := by
  rw [lcsPen, if_neg (by obtain h | h := h <;> simp [h])]
  exact coreIs_updLvu rfl

/-- POLL waits for a busy LVU. -/
theorem lcsPoll_busy (on : Bool) (hbusy : (lvuOf s k).busy.isSome) :
    s.CoreIs (lcsPoll k on s) k { coreOf s k with lvu := { lvuOf s k with pollNext := some on } } :=
  coreIs_updLvu (if_pos hbusy)

theorem lcsPoll_idle (on : Bool) (hidle : (lvuOf s k).busy = none) :
    s.CoreIs (lcsPoll k on s) k { coreOf s k with lvu := { lvuOf s k with poll := on } } :=
  coreIs_updLvu (if_neg (by simp [hidle]))

/-! ### The commit of a microword (R270, R273) -/

/-- The microword whose bits 0 to 127 stand in PRDATA0 to PRDATA3 and whose last 16 bits a write of PRDATA4 brings. -/
def loadedWord (prdata : Tbl (BitVec 32)) (v : Nat) : BitVec 144 :=
  BitVec.ofNat 144 ((Tbl.get 0 prdata 0).toNat + 2 ^ 32 * (Tbl.get 0 prdata 1).toNat + 2 ^ 64 * (Tbl.get 0 prdata 2).toNat +
    2 ^ 96 * (Tbl.get 0 prdata 3).toNat + 2 ^ 128 * (v % 65536))

theorem loadedWord_toNat (d : Tbl (BitVec 32)) (v : Nat) : (loadedWord d v).toNat =
    (Tbl.get 0 d 0).toNat + 2 ^ 32 * (Tbl.get 0 d 1).toNat + 2 ^ 64 * (Tbl.get 0 d 2).toNat + 2 ^ 96 * (Tbl.get 0 d 3).toNat +
      2 ^ 128 * (v % 65536) := by
  rw [loadedWord, BitVec.toNat_ofNat, Nat.mod_eq_of_lt (by omega)]

theorem loadedWord_prdata (d : Tbl (BitVec 32)) (v : Nat) {i : Nat} (hi : i < 4) :
    (loadedWord d v).extractLsb' (32 * i) 32 = Tbl.get 0 d i := by
  apply BitVec.eq_of_toNat_eq
  rw [BitVec.extractLsb'_toNat, loadedWord_toNat, Nat.shiftRight_eq_div_pow]
  match i, hi with
  | 0, _ | 1, _ | 2, _ | 3, _ => omega

theorem loadedWord_prdata4 (d : Tbl (BitVec 32)) (v : BitVec 32) : (loadedWord d v.toNat).extractLsb' 128 16 = v.extractLsb' 0 16 := by
  apply BitVec.eq_of_toNat_eq
  rw [BitVec.extractLsb'_toNat, BitVec.extractLsb'_toNat, loadedWord_toNat, Nat.shiftRight_eq_div_pow, Nat.shiftRight_zero]
  omega

/-- An LVU after the commit of the word w by a write of v to PRDATA4. -/
def Lvu.committed (l : Lvu) (w : BitVec 144) (v : Nat) : Lvu :=
  lcsFeed (leBytes 2 v) { l with
    patch := Tbl.put 0 l.patch (l.praddr.toNat % 512) (if Config.microEcc w = 1 then Config.microFix w else w),
    patchUpset := Tbl.put 0 l.patchUpset (l.praddr.toNat % 512) (Config.microEcc w),
    praddr := BitVec.ofNat 32 ((l.praddr.toNat % 512 + 1) % 512), perr := l.perr || Config.microEcc w != 0 }

theorem lcsCommit_closed (h : (lvuOf s k).pload = false) : lcsCommit k v s = s := by
  simp [lcsCommit, h]

theorem lcsCommit_open (h : (lvuOf s k).pload = true) : s.CoreIs (lcsCommit k v s) k
    { coreOf s k with lvu := (lvuOf s k).committed (loadedWord (lvuOf s k).prdata v) v } := by
  simp only [lcsCommit, h, Bool.not_true, Bool.false_eq_true, if_false]
  exact coreIs_updLvu rfl

theorem Lvu.committed_praddr (l : Lvu) (w : BitVec 144) (v : Nat) :
    (l.committed w v).praddr.toNat = (l.praddr.toNat % 512 + 1) % 512 := by
  change (BitVec.ofNat 32 _).toNat = _
  rw [BitVec.toNat_ofNat]
  omega

end ControlBlock

/-- Settles O32: each command through what the write of its field does in the state that it meets. -/
theorem vectorControl : Obligations.VectorControl := by
  intro k s on v
  refine ⟨?stopInService, ?stopBusy, ?stopIdle, ?resume, ?discard, ?ploadOpens, ?ploadCloses, ?penIgnored, ?penTaken,
    ?pollBusy, ?pollIdle, ?commitClosed, ?commitOpen, ?corr⟩
  case stopInService => exact fun h => congrArg _ (lcsStop_inService h)
  case stopBusy => exact fun hout hbusy => ⟨_, rfl, lcsStop_busy hout hbusy⟩
  case stopIdle => exact fun hout hidle => ⟨_, rfl, lcsStop_idle hout hidle⟩
  case resume => exact fun hstop hframe hgood => ⟨_, rfl, lcsResume_frame hstop hframe hgood⟩
  case discard => exact fun h => ⟨_, rfl, lcsDiscard_stopped h⟩
  case ploadOpens =>
    exact fun hidle hclosed hfree => ⟨_, rfl, lcsPload_opens hidle hclosed (by rwa [bootOrWorkshop_iff, or_assoc])⟩
  case ploadCloses => exact fun hopen => ⟨_, rfl, lcsPload_closes hopen⟩
  case penIgnored =>
    rintro rfl hopen
    exact congrArg _ (lcsPen_ignored hopen)
  case penTaken => exact fun h => ⟨_, rfl, lcsPen_taken h⟩
  case pollBusy => exact fun hbusy => ⟨_, rfl, lcsPoll_busy on hbusy⟩
  case pollIdle => exact fun hidle => ⟨_, rfl, lcsPoll_idle on hidle⟩
  case commitClosed => exact fun hclosed => congrArg _ (lcsCommit_closed hclosed)
  case commitOpen =>
    exact fun hopen => ⟨_, loadedWord (lvuOf s k).prdata v.toNat, ⟨_, rfl, lcsCommit_open hopen⟩, fun i => loadedWord_prdata _ _,
      loadedWord_prdata4 _ v, Tbl.get_put_self _ _ _, Tbl.get_put_self _ _ _, rfl,
      fun j hj => ⟨Tbl.get_put_other _ _ hj, Tbl.get_put_other _ _ hj⟩, Lvu.committed_praddr _ _ _, rfl⟩
  case corr => exact ⟨updLvu s k (fun l => { l with corr := 0 }), rfl, coreIs_updLvu rfl⟩

/-! ### The error log -/

/-- Joining an episode leaves the number of the newest record and the counts of corrected errors. -/
theorem joinEpisode_counts (now cluster : Nat) (l : ErrLog) :
    (joinEpisode now cluster l).newest = l.newest ∧ (joinEpisode now cluster l).corrected = l.corrected := by
  unfold joinEpisode
  split <;> exact ⟨rfl, rfl⟩

theorem episodePending_counts (l : ErrLog) : (episodePending l).newest = l.newest ∧ (episodePending l).corrected = l.corrected := by
  unfold episodePending
  split <;> exact ⟨rfl, rfl⟩

/-- A record takes the next number, whether it is written or dropped (R612, R613). -/
theorem writeRecord_counts (now lap source cls code cluster unit : Nat) (detail : Bytes) (l : ErrLog) :
    (writeRecord now lap source cls code cluster unit detail l).1.newest = nextSeq l.newest ∧
      (writeRecord now lap source cls code cluster unit detail l).1.corrected = l.corrected := by
  have hjoin : (if cls = 0 then l else joinEpisode now cluster l).newest = l.newest ∧
      (if cls = 0 then l else joinEpisode now cluster l).corrected = l.corrected := by
    split
    · exact ⟨rfl, rfl⟩
    · exact joinEpisode_counts now cluster l
  unfold writeRecord
  dsimp only
  generalize (if cls = 0 then l else joinEpisode now cluster l) = joined at hjoin ⊢
  obtain ⟨hnewest, hcorrected⟩ := hjoin
  split <;> exact ⟨congrArg nextSeq hnewest, hcorrected⟩

@[simp] theorem sliceStop_log (c : Nat) (s : State) : (sliceStop c s).log = s.log := by
  unfold sliceStop
  split <;> rfl

@[simp] theorem passEnds_log (c : Nat) (s : State) : (passEnds c s).log = s.log := by
  unfold passEnds
  split <;> rfl

@[simp] theorem stopSlices_log (s : State) : (stopSlices s).log = s.log := by
  unfold stopSlices
  generalize List.range 8 = cs
  induction cs generalizing s with
  | nil => rfl
  | cons c cs ih =>
    rw [List.foldl_cons, ih]
    split
    · rfl
    · rw [setCluster_log, passEnds_log, sliceStop_log]

/-- What a record brings about leaves the log, or marks that its episode waits for an action (Table 17.6). -/
theorem escalate_log (cls cluster : Nat) (seen : Bool) (s : State) :
    (escalate cls cluster seen s).log = s.log ∨ (escalate cls cluster seen s).log = episodePending s.log := by
  unfold escalate
  dsimp only
  have hfatal := stopSlices_log s
  split
  · split
    · split
      · exact .inr rfl
      · split
        · rw [level_log, passEnds_log, sliceStop_log, setCluster_log]
          exact .inl rfl
        · exact .inl rfl
    · exact .inl rfl
  · split
    · generalize stopSlices s = t at hfatal ⊢
      split
      · exact .inr (congrArg episodePending hfatal)
      · exact .inr (congrArg episodePending hfatal)
      · split <;> exact .inl hfatal
      · exact .inl hfatal
    · exact .inl rfl

/-- A record leaves in the log what writing it does, but for the mark of an episode that waits. -/
theorem logRecord_log (source cls code cluster unit : Nat) (detail : Bytes) (s : State) :
    let written := (writeRecord s.now s.grid.lap source cls code cluster unit detail s.log).1
    (logRecord source cls code cluster unit detail s).log = written ∨
      (logRecord source cls code cluster unit detail s).log = episodePending written := by
  intro written
  have acted (seen : Bool) {t : State} (ht : t.log = written) :
      (escalate cls cluster seen t).log = written ∨ (escalate cls cluster seen t).log = episodePending written :=
    ht ▸ escalate_log cls cluster seen t
  refine acted _ ?_
  simp only [apply_ite State.log, fire_log, ite_self]
  rfl

theorem logRecord_counts (source cls code cluster unit : Nat) (detail : Bytes) (s : State) :
    (logRecord source cls code cluster unit detail s).log.newest = nextSeq s.log.newest ∧
      (logRecord source cls code cluster unit detail s).log.corrected = s.log.corrected := by
  obtain h | h := logRecord_log source cls code cluster unit detail s
  · rw [h]
    exact writeRecord_counts ..
  · obtain ⟨hnewest, hcorrected⟩ := episodePending_counts (writeRecord s.now s.grid.lap source cls code cluster unit detail s.log).1
    rw [h, hnewest, hcorrected]
    exact writeRecord_counts ..

theorem lvuOf_congr {s t : State} (h : t.cores = s.cores) (k : Nat) : lvuOf t k = lvuOf s k := by
  rw [lvuOf, lvuOf, coreOf, coreOf, h]

@[simp] theorem lvuOf_logRecord (source cls code cluster unit : Nat) (detail : Bytes) (s : State) (k : Nat) :
    lvuOf (logRecord source cls code cluster unit detail s) k = lvuOf s k :=
  lvuOf_congr (logRecord_like ..).cores k

/-- Corrected errors are counted under their memory id; the cores and the total of corrected microwords stay (R611). -/
theorem logCorrected_counts (id cluster n : Nat) (s : State) :
    Tbl.get 0 (logCorrected id cluster n s).log.corrected id = min 0xFFFFFFFF (Tbl.get 0 s.log.corrected id + n) ∧
      (logCorrected id cluster n s).cores = s.cores ∧ (logCorrected id cluster n s).corrMicro = s.corrMicro := by
  have counted : Tbl.get 0 (Tbl.upd 0 s.log.corrected id (fun c => min 0xFFFFFFFF (c + n))) id =
      min 0xFFFFFFFF (Tbl.get 0 s.log.corrected id + n) :=
    Tbl.get_put_self _ _ _
  unfold logCorrected logCorrectedAt
  dsimp only
  split
  · refine ⟨?_, (logRecord_like ..).cores, (logRecord_like ..).corrMicro⟩
    rw [(logRecord_counts ..).2]
    exact counted
  · split <;> exact ⟨counted, rfl, rfl⟩

/-! ### The patch RAM scrubber (R246, R276) -/

/-- A corrected microword counts in CORR and in both totals. -/
theorem lcsCorrected_counts (k n : Nat) (s : State) :
    lvuOf (lcsCorrected k n s) k = { lvuOf s k with corr := min 0xFFFF ((lvuOf s k).corr + n) } ∧
      (lcsCorrected k n s).corrMicro = min 0xFFFFFFFF (s.corrMicro + n) ∧
      Tbl.get 0 (lcsCorrected k n s).log.corrected 5 = min 0xFFFFFFFF (Tbl.get 0 s.log.corrected 5 + n) := by
  unfold lcsCorrected
  obtain ⟨hcount, hcores, htotal⟩ := logCorrected_counts 5 (k / 8) n
    { updLvu s k (fun l => { l with corr := min 0xFFFF (l.corr + n) }) with corrMicro := min 0xFFFFFFFF (s.corrMicro + n) }
  refine ⟨?_, htotal, hcount⟩
  rw [← lvuOf_updLvu s k (fun l => { l with corr := min 0xFFFF (l.corr + n) })]
  exact lvuOf_congr hcores k

/-- A word of the patch RAM with n upset bits. -/
def setPatchUpset (k w n : Nat) (s : State) : State := updLvu s k (fun l => { l with patchUpset := Tbl.put 0 l.patchUpset w n })

theorem lvuOf_setPatchUpset (k w n : Nat) (s : State) : lvuOf (setPatchUpset k w n s) k =
    { lvuOf s k with patchUpset := Tbl.put 0 (lvuOf s k).patchUpset w n } :=
  lvuOf_updLvu s k _

section IdleVisit

variable {s : State} {k : Fin 64} (hidle : (lvuOf s k).busy.isSome = false) (w : Fin 512)

include hidle

theorem exec_patchRamScrub_clean : exec (.patchRamScrub k w 0) s = .next s := by
  change execPatchRamScrub k w 0 s = _
  rw [execPatchRamScrub, hidle]
  rfl

theorem exec_patchRamScrub_single : exec (.patchRamScrub k w 1) s = .next (lcsCorrected k 1 (setPatchUpset k w 0 s)) := by
  change execPatchRamScrub k w 1 s = _
  rw [execPatchRamScrub, hidle]
  rfl

/-- The record of a word with a double-bit error names memory 5, the LVU and the word (Table 17.4). -/
theorem exec_patchRamScrub_double : exec (.patchRamScrub k w 2) s = .next (logRecord (16 * (k / 8) + 7) 1 0x03 (k / 8) (k % 8)
    (leBytes 1 5 ++ [0] ++ leBytes 2 w ++ [0, 0, 0, 0]) (setPatchUpset k w 2 s)) := by
  change execPatchRamScrub k w 2 s = _
  rw [execPatchRamScrub, hidle]
  rfl

end IdleVisit

/-- Settles O33: a visit without an error, the counts of a corrected word, and the record of a word that stays bad. -/
theorem patchScrub : Obligations.PatchScrub := by
  intro k s w l hnone
  have hidle : (lvuOf s k).busy.isSome = false := Option.isSome_eq_false_iff.mpr (Option.isNone_iff_eq_none.mpr hnone)
  refine ⟨exec_patchRamScrub_clean hidle w, ⟨_, exec_patchRamScrub_single hidle w, ?single⟩,
    ⟨_, exec_patchRamScrub_double hidle w, ?double⟩⟩
  case single =>
    obtain ⟨hlvu, htotal, hcount⟩ := lcsCorrected_counts k 1 (setPatchUpset k w 0 s)
    refine ⟨?_, htotal, hcount⟩
    rw [hlvu, lvuOf_setPatchUpset]
  case double =>
    rw [lvuOf_logRecord, lvuOf_setPatchUpset]
    exact ⟨Tbl.get_put_self (lvuOf s k).patchUpset w 2, rfl, (logRecord_counts ..).1⟩

end Sys2Proof.Machine
end

section
/-! PROOFS. The Relay: bursts of the timetable, what an error in one costs, and the turn of a lane (R301, R304, R307). -/

namespace Sys2Proof.Machine

theorem mem_insertNat_self (k : Nat) (l : List Nat) : k ∈ insertNat k l := by
  induction l with
  | nil => exact List.mem_singleton_self k
  | cons j l ih =>
    rw [insertNat]
    split
    · exact List.mem_cons_self
    · split
      · next heq => exact heq ▸ List.mem_cons_self
      · exact List.mem_cons_of_mem j ih

/-! ### What is substituted for a burst (R301) -/

/-- The states that differ in nothing but where a station substitutes: signal memory, mixers and outputs, rings, and the marks of
convoys whose input was lost. -/
def LikeLoss (s t : State) : Prop := ∃ audio avail csm store, t = { s with audio := audio, avail := avail, csm := csm, store := store }

theorem LikeLoss.refl (s : State) : LikeLoss s s := ⟨_, _, _, _, rfl⟩

theorem LikeLoss.upd {s t : State} {u : Audio} {v : Avail} {c : Tbl (BitVec 24)} {x : Store} (h : LikeLoss s t) :
    LikeLoss s { t with audio := u, avail := v, csm := c, store := x } := by
  obtain ⟨_, _, _, _, rfl⟩ := h
  exact ⟨_, _, _, _, rfl⟩

theorem LikeLoss.relay {s t : State} (h : LikeLoss s t) : t.relay = s.relay := by
  obtain ⟨_, _, _, _, rfl⟩ := h
  rfl

theorem LikeLoss.log {s t : State} (h : LikeLoss s t) : t.log = s.log := by
  obtain ⟨_, _, _, _, rfl⟩ := h
  rfl

theorem zeroInput_likeLoss (c src first n : Nat) (s : State) : LikeLoss s (zeroInput c src first n s) := by
  refine List.foldlRecOn (motive := LikeLoss s) _ _ (LikeLoss.refl s) fun t ht j _ => ?_
  dsimp only
  split
  · exact ht.upd
  · exact ht

theorem burstLost_likeLoss (b : Burst) (ring first n : Nat) (s : State) : LikeLoss s (burstLost b ring first n s) := by
  unfold burstLost
  split
  · exact (LikeLoss.refl s).upd
  · exact (LikeLoss.refl s).upd
  · dsimp only
    split
    · exact (LikeLoss.refl s).upd
    · exact (LikeLoss.refl s).upd
  · exact List.foldlRecOn (motive := LikeLoss s) _ _ (zeroInput_likeLoss ..) fun t ht e _ => ht.upd
  · exact (LikeLoss.refl s).upd
  · exact LikeLoss.refl s

/-- A stream feed's lost words read as zero, and the convoy that they were for is marked. -/
theorem burstLost_feed {b : Burst} (hk : b.kind = 1) (ring first n : Nat) (s : State) :
    b.tag ∈ (burstLost b ring first n s).avail.taint ∧ (b.tag, first, n) ∈ (burstLost b ring first n s).audio.mix.feedLost := by
  simp only [burstLost, hk]
  exact ⟨mem_insertNat_self b.tag _, List.mem_append_right _ (List.mem_singleton_self _)⟩

/-- The lap that emits the block of which an output's burst carries a sample: the bursts of the tail window bring sample 0 of the next
lap's block, all others a later sample of this lap's (R45, R48). -/
def outputLap (b : Burst) (s : State) : Nat := if b.start ≥ s.grid.tCyc - 976 then s.grid.lap + 1 else s.grid.lap

/-- The block is listed as lost, newly or since an earlier burst of it. -/
theorem burstLost_output {b : Burst} (hk : b.kind = 7) (ring first n : Nat) (s : State) :
    (b.tag, outputLap b s) ∈ (burstLost b ring first n s).audio.lost := by
  simp only [burstLost, hk]
  change (b.tag, outputLap b s) ∈ if s.audio.lost.contains (b.tag, outputLap b s) then s.audio.lost else s.audio.lost ++ [(b.tag, outputLap b s)]
  split
  · next known => exact List.contains_iff_mem.mp known
  · exact List.mem_append_right _ (List.mem_singleton_self _)

/-! ### The next burst of the lap (R304) -/

/-- The state when the timetable's next burst has run and a number of its beats have been discarded. -/
def burstRan (b : Burst) (discarded : Nat) (s : State) : State :=
  { s with relay := { s.relay with
    next := s.relay.next + 1, sent := s.relay.sent + (b.len + 1), discarded := s.relay.discarded + discarded } }

section NextBurst

variable {s : State} {b : Burst} (hrun : s.grid.running = true) (hb : s.adm.timetable[s.relay.next]? = some b)
  (hk : b.kind ≠ 8) (hgood : s.relay.next ∉ s.relay.bad) (ring : Fin 4096) (first n : Nat)

include hrun hb hk hgood

theorem exec_relayBurst_sound : exec (.relayBurst false ring first n) s = .next (burstRan b 0 s) := by
  change execRelayBurst false ring first n s = _
  simp [execRelayBurst, runBurst, burstRan, hrun, hb, hk, hgood]

/-- The record of a beat with an error names the burst's kind and its two stations (Table 17.4). -/
theorem exec_relayBurst_erred : exec (.relayBurst true ring first n) s = .next (logRecord 337 1 0x09 0xFF 0xFF
    (leBytes 1 b.kind ++ leBytes 1 b.src ++ leBytes 1 b.dst ++ List.replicate 5 0) (burstLost b ring first n (burstRan b 1 s))) := by
  change execRelayBurst true ring first n s = _
  simp [execRelayBurst, runBurst, burstRan, hrun, hb, hk, hgood]

end NextBurst

/-! ### The turn of a lane (R307) -/

/-- The station that the lane's arbiter comes to i places after the one whose turn it is. -/
def laneStation (s : State) (lane : Fin 4) (i : Nat) : Nat := (Tbl.get 0 s.relay.rr lane + i) % 13

/-- The first station in turn that has packets waiting is served, and the turn passes to the station behind it. -/
theorem exec_relayPacket_served {s : State} {lane : Fin 4} {waiting : BitVec 13} {i : Nat} (beats : Fin 16) (hi : i < 13)
    (hwaits : waiting.getLsbD (laneStation s lane i) = true)
    (hfirst : ∀ j, j < i → waiting.getLsbD (laneStation s lane j) = false) :
    exec (.relayPacket lane waiting beats) s = .next { s with
      relay := { s.relay with rr := Tbl.put 0 s.relay.rr lane (laneStation s lane i + 1), sent := s.relay.sent + beats + 1 },
      result := laneStation s lane i } := by
  have hplace : (List.range 13).find? (waiting.getLsbD ∘ laneStation s lane) = some i :=
    List.find?_range_eq_some.mpr ⟨hwaits, List.mem_range.mpr hi, fun j hj => by simp [hfirst j hj]⟩
  have hturn : ((List.range 13).map (laneStation s lane)).find? (fun st => waiting.getLsbD st) = some (laneStation s lane i) := by
    rw [List.find?_map, hplace, Option.map_some]
  change execRelayPacket lane waiting beats s = _
  unfold laneStation at hturn ⊢
  rw [execRelayPacket, hturn]

/-- Settles O41: a sound burst by its beats, one with an error by its record and by what is substituted, a lane by the first station in
turn that waits. -/
theorem relayTraffic : Obligations.RelayTraffic := by
  intro s b ring first n
  refine ⟨fun hrun hb hk hgood => ⟨exec_relayBurst_sound hrun hb hk hgood ring first n, ?erred⟩,
    fun lane waiting beats i hi => exec_relayPacket_served beats hi⟩
  case erred =>
    refine ⟨_, exec_relayBurst_erred hrun hb hk hgood ring first n, ?_⟩
    have loss := burstLost_likeLoss b ring first n (burstRan b 1 s)
    rw [(logRecord_like ..).relay, (logRecord_like ..).avail, (logRecord_like ..).audio, (logRecord_counts ..).1, loss.relay, loss.log]
    exact ⟨rfl, rfl, rfl, fun hfeed => burstLost_feed hfeed ring first n _, fun hout => burstLost_output hout ring first n _⟩

end Sys2Proof.Machine
end

section
/-! PROOFS. The sample store's shared operations: what the engine's operations and reads leave of the state, and what a read, a retirement
and a page that cannot be corrected do to a block (R350, R353, R379, R380). -/

namespace Sys2Proof.Machine

@[simp] theorem blockOf_setBlock (s : State) (k j : Nat) (b : Block) : blockOf (setBlock s k b) j = if j = k then b else blockOf s j :=
  Tbl.get_put _ k j b

/-! ### Operations of the engine (R350) -/

/-- The states that differ in nothing but the free values used and the planes that are busy. -/
def LikeOps (s t : State) : Prop := ∃ free busy, t = { s with free := free, store := { s.store with busy := busy } }

theorem LikeOps.refl (s : State) : LikeOps s s := ⟨_, _, rfl⟩

theorem LikeOps.upd {s t : State} {f : Nat} {b : Tbl (BitVec 8)} (h : LikeOps s t) :
    LikeOps s { t with free := f, store := { t.store with busy := b } } := by
  obtain ⟨_, _, rfl⟩ := h
  exact ⟨_, _, rfl⟩

theorem opsBegin_likeOps (s : State) : LikeOps s (opsBegin s) := by
  unfold opsBegin
  split
  · exact LikeOps.refl s
  · exact List.foldlRecOn (motive := LikeOps s) _ _ (LikeOps.refl s) fun t ht p _ => ht.upd

/-! ### Page reads and blocks (R353, R379, R380) -/

/-- The states that differ in nothing but free values, busy planes, the planes' queues, blocks, spares taken and the event concentrator. -/
def LikeReads (s t : State) : Prop := ∃ free evc blocks taken busy queued waiting, t = { s with
  free := free, evc := evc
  store := { s.store with blocks := blocks, taken := taken, busy := busy, queued := queued, waiting := waiting } }

theorem LikeReads.refl (s : State) : LikeReads s s := ⟨_, _, _, _, _, _, _, rfl⟩

theorem LikeReads.upd {s t : State} {f : Nat} {e : Evc} {b : Tbl Block} {n : Tbl Nat} {p : Tbl (BitVec 8)} {q w : List PlaneRead}
    (h : LikeReads s t) : LikeReads s { t with
      free := f, evc := e, store := { t.store with blocks := b, taken := n, busy := p, queued := q, waiting := w } } := by
  obtain ⟨_, _, _, _, _, _, _, rfl⟩ := h
  exact ⟨_, _, _, _, _, _, _, rfl⟩

theorem LikeReads.ops {s t u : State} (h : LikeReads s t) (hu : LikeOps t u) : LikeReads s u := by
  obtain ⟨_, _, rfl⟩ := hu
  exact h.upd

/-- What page reads leave: the rings, the objects, the counts of pages, the log and the grid. -/
theorem LikeReads.kept {s t : State} (h : LikeReads s t) : t.store.rings = s.store.rings ∧ t.store.objects = s.store.objects ∧
    t.store.uncorr = s.store.uncorr ∧ t.store.rebuilt = s.store.rebuilt ∧ t.log = s.log ∧ t.grid = s.grid := by
  obtain ⟨_, _, _, _, _, _, _, rfl⟩ := h
  exact ⟨rfl, rfl, rfl, rfl, rfl, rfl⟩

theorem leavesQueue_likeReads (ring : Option Nat) (s : State) : LikeReads s (leavesQueue ring s) := by
  cases ring with
  | none => exact LikeReads.refl s
  | some r => exact (LikeReads.refl s).upd

@[simp] theorem leavesQueue_blocks (ring : Option Nat) (s : State) : (leavesQueue ring s).store.blocks = s.store.blocks := by
  cases ring <;> rfl

theorem countRead_likeReads {s t : State} (page die : Nat) (h : LikeReads s t) : LikeReads s (countRead page t die) := by
  unfold countRead
  dsimp only
  split
  · exact h.upd
  · exact h.upd

/-- A read of a page counts in the block that holds it on the die. -/
theorem countRead_blocks (page : Nat) (s : State) (die : Nat) :
    let k := blockKey die (pagePlane page) (pageBlock page)
    ∃ moving, (countRead page s die).store.blocks =
      Tbl.put {} s.store.blocks k { blockOf s k with reads := (blockOf s k).reads + 1, moving := moving } := by
  unfold countRead
  dsimp only
  split
  · exact ⟨_, rfl⟩
  · exact ⟨_, rfl⟩

theorem blockOf_countRead (page : Nat) (s : State) (die j : Nat) :
    (blockOf (countRead page s die) j).reads =
        (blockOf s j).reads + (if j = blockKey die (pagePlane page) (pageBlock page) then 1 else 0) ∧
      (blockOf (countRead page s die) j).soft = (blockOf s j).soft := by
  obtain ⟨_, h⟩ := countRead_blocks page s die
  rw [blockOf, h, Tbl.get_put]
  split
  · next hj => rw [hj]; exact ⟨rfl, rfl⟩
  · exact ⟨rfl, rfl⟩

/-- A run of reads of one page's stripe counts in the block on each die as often as the die is read. -/
theorem blockOf_foldl_countRead (page : Nat) (dies : List Nat) (s : State) :
    (∀ d, (blockOf (dies.foldl (countRead page) s) (blockKey d (pagePlane page) (pageBlock page))).reads =
        (blockOf s (blockKey d (pagePlane page) (pageBlock page))).reads + dies.count d) ∧
      ∀ j, (blockOf (dies.foldl (countRead page) s) j).soft = (blockOf s j).soft := by
  induction dies generalizing s with
  | nil => exact ⟨fun _ => rfl, fun _ => rfl⟩
  | cons die dies ih =>
    obtain ⟨hreads, hsoft⟩ := ih (countRead page s die)
    refine ⟨fun d => ?_, fun j => (hsoft j).trans (blockOf_countRead page s die j).2⟩
    have same : blockKey d (pagePlane page) (pageBlock page) = blockKey die (pagePlane page) (pageBlock page) ↔ die = d := by
      simp only [blockKey]
      omega
    rw [List.foldl_cons, hreads d, (blockOf_countRead ..).1, List.count_cons]
    simp only [same, beq_iff_eq]
    omega

/-- The reads of a page and of its stripe are counted, the read leaves its queue, and the engine goes on. -/
def readCounted (ring : Option Nat) (outcome page : Nat) (busy : Bool) (s : State) : State :=
  opsBegin ((diesRead (pageDie page) outcome busy).foldl (countRead page) (leavesQueue ring s))

theorem readCounted_likeReads (ring : Option Nat) (outcome page : Nat) (busy : Bool) (s : State) :
    LikeReads s (readCounted ring outcome page busy s) :=
  LikeReads.ops (List.foldlRecOn (motive := LikeReads s) _ _ (leavesQueue_likeReads ring s) fun _ ht d _ => countRead_likeReads page d ht)
    (opsBegin_likeOps _)

@[simp] theorem blockOf_opsBegin (s : State) (k : Nat) : blockOf (opsBegin s) k = blockOf s k := by
  obtain ⟨_, _, h⟩ := opsBegin_likeOps s
  rw [h]
  rfl

@[simp] theorem blockOf_leavesQueue (ring : Option Nat) (s : State) (k : Nat) : blockOf (leavesQueue ring s) k = blockOf s k := by
  rw [blockOf, leavesQueue_blocks, blockOf]

theorem blockOf_readCounted (ring : Option Nat) (outcome page : Nat) (busy : Bool) (s : State) :
    (∀ d, (blockOf (readCounted ring outcome page busy s) (blockKey d (pagePlane page) (pageBlock page))).reads =
        (blockOf s (blockKey d (pagePlane page) (pageBlock page))).reads + (diesRead (pageDie page) outcome busy).count d) ∧
      ∀ j, (blockOf (readCounted ring outcome page busy s) j).soft = (blockOf s j).soft := by
  obtain ⟨hreads, hsoft⟩ := blockOf_foldl_countRead page (diesRead (pageDie page) outcome busy) (leavesQueue ring s)
  simp only [readCounted, blockOf_opsBegin]
  simp only [blockOf_leavesQueue] at hreads hsoft
  exact ⟨hreads, hsoft⟩

/-- A page whose plane is not busy, read as it was sent, is read on its own die alone. -/
theorem count_diesRead_sound (die : Nat) : (diesRead die 0 false).count die = 1 := by
  simp [diesRead]

/-- A page of a busy plane is rebuilt from the seven other dies (R351). -/
theorem diesRead_rebuilt (die : Nat) : diesRead die 0 true = (List.range 8).filter (fun d => d != die) := by
  simp [diesRead]

theorem count_diesRead_rebuilt (die d : Nat) : (diesRead die 0 true).count d = if d < 8 ∧ d ≠ die then 1 else 0 := by
  have hnodup : ((List.range 8).filter (fun d => d != die)).Nodup := List.Pairwise.filter _ List.nodup_range
  rw [diesRead_rebuilt, List.Nodup.count hnodup]
  simp only [List.mem_filter, List.mem_range, bne_iff_ne]

/-! ### Retirement and uncorrectable pages (R353, R379) -/

theorem retireBlock_retired {die plane block : Nat} {s : State} (h : (blockOf s (blockKey die plane block)).retired = true) :
    retireBlock die plane block s = s :=
  if_pos h

/-- The state without a block, of which a spare takes the place. -/
def blockOut (die plane block : Nat) (s : State) : State := { s with store := { s.store with
  blocks := Tbl.put {} s.store.blocks (blockKey die plane block)
    { blockOf s (blockKey die plane block) with retired := true, moving := false }
  taken := Tbl.upd 0 s.store.taken (4 * die + plane) (· + 1) } }

theorem blockOut_retired (die plane block : Nat) (s : State) :
    (blockOf (blockOut die plane block s) (blockKey die plane block)).retired = true := by
  rw [blockOf, blockOut, Tbl.get_put_self]

theorem blockOut_taken (die plane block : Nat) (s : State) :
    Tbl.get 0 (blockOut die plane block s).store.taken (4 * die + plane) = Tbl.get 0 s.store.taken (4 * die + plane) + 1 := by
  rw [blockOut, Tbl.upd, Tbl.get_put_self]

/-- A source that fires where a condition holds changes the event concentrator alone. -/
theorem fire_where {s t : State} (c : Prop) [Decidable c] (n : Nat) (h : ∃ evc, t = { s with evc := evc }) :
    ∃ evc, (if c then fire n t else t) = { s with evc := evc } := by
  obtain ⟨_, rfl⟩ := h
  split
  · exact ⟨_, rfl⟩
  · exact ⟨_, rfl⟩

/-- A block in use is retired and takes a spare; besides, sources fire. -/
theorem retireBlock_inUse {die plane block : Nat} {s : State} (h : (blockOf s (blockKey die plane block)).retired = false) :
    ∃ evc, retireBlock die plane block s = { blockOut die plane block s with evc := evc } := by
  rw [retireBlock, if_neg (by simp [h])]
  exact fire_where _ 135 (fire_where _ 134 ⟨_, rfl⟩)

theorem retireBlock_eq (die plane block : Nat) (s : State) : ∃ evc blocks taken,
    retireBlock die plane block s = { s with evc := evc, store := { s.store with blocks := blocks, taken := taken } } := by
  cases h : (blockOf s (blockKey die plane block)).retired with
  | true => exact ⟨_, _, _, retireBlock_retired h⟩
  | false =>
    obtain ⟨_, hs⟩ := retireBlock_inUse h
    exact ⟨_, _, _, hs⟩

theorem retireBlock_likeReads (die plane block : Nat) (s : State) : LikeReads s (retireBlock die plane block s) := by
  obtain ⟨_, _, _, h⟩ := retireBlock_eq die plane block s
  rw [h]
  exact (LikeReads.refl s).upd

theorem blockOf_retireBlock_soft (die plane block : Nat) (s : State) (j : Nat) :
    (blockOf (retireBlock die plane block s) j).soft = (blockOf s j).soft := by
  cases h : (blockOf s (blockKey die plane block)).retired with
  | true => rw [retireBlock_retired h]
  | false =>
    obtain ⟨_, hs⟩ := retireBlock_inUse h
    rw [hs]
    change (Tbl.get {} (Tbl.put {} s.store.blocks _ _) j).soft = _
    rw [Tbl.get_put]
    split
    · next hj => rw [hj]
    · rfl

/-- A page that cannot be corrected counts as such and in its block, and is recorded; rings, objects and the grid stay. -/
theorem uncorrectablePage_counts (page : Nat) (s : State) :
    let k := blockKey (pageDie page) (pagePlane page) (pageBlock page); let t := uncorrectablePage page s
    t.store.rings = s.store.rings ∧ t.store.objects = s.store.objects ∧ t.grid = s.grid ∧
      t.store.uncorr = sat32 s.store.uncorr ∧ t.log.newest = nextSeq s.log.newest ∧ (blockOf t k).soft = (blockOf s k).soft + 1 := by
  intro k t
  let b : Block := { blockOf s k with soft := (blockOf s k).soft + 1, moving := true }
  let counted : State := { setBlock s k b with store := { (setBlock s k b).store with uncorr := sat32 s.store.uncorr } }
  let recorded := logRecord 128 1 0x10 0xFF 0xFF (leBytes 4 page ++ [0, 0, 0, 0]) counted
  have like : LikeRecord counted recorded := logRecord_like ..
  have newest : recorded.log.newest = nextSeq s.log.newest := (logRecord_counts ..).1
  have soft : (blockOf recorded k).soft = (blockOf s k).soft + 1 := by
    rw [blockOf, like.store]
    exact congrArg Block.soft (Tbl.get_put_self s.store.blocks k b)
  have ht : t = if (blockOf s k).soft + 1 ≥ 2 then retireBlock (pageDie page) (pagePlane page) (pageBlock page) recorded else recorded := rfl
  have kept : LikeReads recorded t ∧ (blockOf t k).soft = (blockOf recorded k).soft := by
    rw [ht]
    split
    · exact ⟨retireBlock_likeReads .., blockOf_retireBlock_soft ..⟩
    · exact ⟨LikeReads.refl _, rfl⟩
  obtain ⟨hrings, hobjects, huncorr, -, hlog, hgrid⟩ := kept.1.kept
  rw [hrings, hobjects, huncorr, hlog, hgrid, kept.2, like.store, like.grid]
  exact ⟨rfl, rfl, rfl, rfl, newest, soft⟩

end Sys2Proof.Machine
end

section
/-! PROOFS. The streaming rings: pages that end, the planes' queues, and consumption (R351 to R353, R366 to R371). -/

namespace Sys2Proof.Machine

/-! ### The end of a page read (R351, R353, R370) -/

/-- A page that was rebuilt, or that could not be corrected, is noted. -/
def pageNoted (outcome page : Nat) (busy : Bool) (s : State) : State :=
  if outcome = 1 ∨ (outcome = 0 ∧ busy = true) then { s with store := { s.store with rebuilt := sat32 s.store.rebuilt } }
  else if outcome = 3 then uncorrectablePage page s else s

/-- Frames for which a ring has room (R369, R370). -/
def ringRoom (s : State) (g : Ring) : Nat :=
  let r := objRec (objOf s g.object).record
  ringFrames g.grants r.channels - (g.written - max g.consumed (headFrames r s.grid.rate))

/-- The frames of a page go to its ring, as far as there is room and the stream goes on; those of a former stream are dropped. -/
def ringFed (r frames outcome : Nat) (s : State) : State :=
  let g := ringOf s r
  if g.stale > 0 then setRing s r { g with stale := g.stale - 1 }
  else if g.reads = 0 then s
  else
    let room := ringRoom s g
    let n0 := min frames room
    let n := match playEnd (objRec (objOf s g.object).record) g.loopClose with | some e => min n0 (e - g.written) | none => n0
    let g1 := { g with reads := g.reads - 1, written := g.written + n,
                       zeros := if outcome = 3 then g.zeros ++ [(g.written, n)] else g.zeros }
    setRing s r { g1 with state := if g.orphan ∧ n = room then 2 else g1.state }

/-- A read of the engine itself, of a plane that is not busy. -/
theorem pageReadDone_engine {frames page : Nat} {s : State} (h : planeBusy s (pageDie page) (pagePlane page) = false) :
    pageReadDone none frames 0 page s = readCounted none 0 page false s := by
  simp [pageReadDone, readCounted, h]

/-- A ring whose reads all wait in the engine has none that could complete. -/
theorem pageReadDone_held {r frames outcome page : Nat} {s : State} (hsent : s.store.queued.find? (fun x => x.ring == r) = none)
    (hwaits : s.store.waiting.any (fun x => x.ring == r) = true) : pageReadDone (some r) frames outcome page s = s := by
  simp [pageReadDone, hsent, hwaits]

theorem pageReadDone_sent {r frames outcome page : Nat} {s : State} {x : PlaneRead} {busy : Bool}
    (hsent : s.store.queued.find? (fun x => x.ring == r) = some x) (hbusy : decide (1 < x.planes.length) = busy) :
    pageReadDone (some r) frames outcome page s =
      ringFed r frames outcome (pageNoted outcome page busy (readCounted (some r) outcome page busy s)) := by
  subst hbusy
  simp only [pageReadDone, hsent, Option.isNone_some, Bool.false_and, Bool.false_eq_true, if_false]
  rfl

/-- A page changes nothing but its ring. -/
theorem ringFed_rings (r frames outcome : Nat) (s : State) :
    ∃ rings, ringFed r frames outcome s = { s with store := { s.store with rings := rings } } := by
  unfold ringFed
  dsimp only
  split
  · exact ⟨_, rfl⟩
  · split
    · exact ⟨_, rfl⟩
    · exact ⟨_, rfl⟩

@[simp] theorem blockOf_ringFed (r frames outcome : Nat) (s : State) (k : Nat) : blockOf (ringFed r frames outcome s) k = blockOf s k := by
  obtain ⟨_, h⟩ := ringFed_rings r frames outcome s
  rw [h]
  rfl

/-- A ring that streams on takes the frames for which it has room. -/
theorem ringOf_ringFed {r : Nat} {s : State} {g : Ring} (frames outcome : Nat) (hg : ringOf s r = g) (hcurrent : g.stale = 0)
    (hreads : g.reads ≠ 0) (hopen : playEnd (objRec (objOf s g.object).record) g.loopClose = none) :
    let n := min frames (ringRoom s g)
    ∃ state, ringOf (ringFed r frames outcome s) r = { g with
      state := state, reads := g.reads - 1, written := g.written + n
      zeros := if outcome = 3 then g.zeros ++ [(g.written, n)] else g.zeros } := by
  simp only [ringFed, hg, hcurrent, hreads, hopen, Nat.lt_irrefl, gt_iff_lt, if_false, ringOf_setRing, if_true]
  exact ⟨_, rfl⟩

/-! ### The planes' queues (R352, R370) -/

/-- A read goes to the queues of its planes where each has room, and else waits. -/
def sendRead (acc : List PlaneRead × List PlaneRead) (x : PlaneRead) : List PlaneRead × List PlaneRead :=
  if x.planes.all (planeRoom acc.1) then (acc.1 ++ [x], acc.2) else (acc.1, acc.2 ++ [x])

/-- The queues and the reads that wait once the engine has sent what it can. -/
def sendAll (s : State) : List PlaneRead × List PlaneRead :=
  (sortOn (fun x => runsEmpty s x.ring) s.store.waiting).foldl sendRead (s.store.queued, [])

theorem sendReads_eq (s : State) :
    sendReads s = { s with store := { s.store with queued := (sendAll s).1, waiting := (sendAll s).2 } } := rfl

/-- Reads that stand in a plane's queue. -/
def planeDepth (q : List PlaneRead) (p : Nat) : Nat := (q.filter (fun r => r.planes.contains p)).length

theorem planeRoom_iff (q : List PlaneRead) (p : Nat) : planeRoom q p = true ↔ planeDepth q p < 6 := decide_eq_true_iff

theorem planeRoom_false_iff (q : List PlaneRead) (p : Nat) : planeRoom q p = false ↔ 6 ≤ planeDepth q p := by
  rw [← Bool.not_eq_true, planeRoom_iff, Nat.not_lt]

theorem planeDepth_append_singleton (q : List PlaneRead) (x : PlaneRead) (p : Nat) :
    planeDepth (q ++ [x]) p = planeDepth q p + if p ∈ x.planes then 1 else 0 := by
  simp only [planeDepth, List.filter_append, List.length_append, List.filter_cons, List.filter_nil, List.contains_iff_mem]
  split <;> rfl

theorem sendRead_length (acc : List PlaneRead × List PlaneRead) (x : PlaneRead) :
    (sendRead acc x).1.length + (sendRead acc x).2.length = acc.1.length + acc.2.length + 1 := by
  unfold sendRead
  split <;> simp only [List.length_append, List.length_singleton] <;> omega

theorem foldl_sendRead_length (xs : List PlaneRead) (acc : List PlaneRead × List PlaneRead) :
    (xs.foldl sendRead acc).1.length + (xs.foldl sendRead acc).2.length = acc.1.length + acc.2.length + xs.length := by
  induction xs generalizing acc with
  | nil => rfl
  | cons x xs ih => rw [List.foldl_cons, ih, sendRead_length, List.length_cons]; omega

/-- No plane's queue grows past 6. -/
theorem sendRead_depth {acc : List PlaneRead × List PlaneRead} {p : Nat} (x : PlaneRead) (h : planeDepth acc.1 p ≤ 6) :
    planeDepth (sendRead acc x).1 p ≤ 6 := by
  unfold sendRead
  split
  · next hroom =>
    rw [planeDepth_append_singleton]
    split
    · next hp => exact (planeRoom_iff _ _).mp (List.all_eq_true.mp hroom p hp)
    · exact h
  · exact h

/-- Every read that waits has a plane without room. -/
def AllBlocked (acc : List PlaneRead × List PlaneRead) : Prop := ∀ x ∈ acc.2, ∃ p ∈ x.planes, planeRoom acc.1 p = false

theorem sendRead_allBlocked {acc : List PlaneRead × List PlaneRead} (x : PlaneRead) (h : AllBlocked acc) : AllBlocked (sendRead acc x) := by
  unfold sendRead
  split
  · intro y hy
    obtain ⟨p, hp, hfull⟩ := h y hy
    refine ⟨p, hp, ?_⟩
    rw [planeRoom_false_iff] at hfull ⊢
    rw [planeDepth_append_singleton]
    omega
  · next hroom =>
    intro y hy
    obtain hy | hy := List.mem_append.mp hy
    · exact h y hy
    · rw [List.mem_singleton.mp hy]
      simpa using hroom

theorem insertOn_length {α : Type} (f : α → Nat) (a : α) (l : List α) : (insertOn f a l).length = l.length + 1 := by
  induction l with
  | nil => rfl
  | cons b l ih =>
    rw [insertOn]
    split
    · rfl
    · rw [List.length_cons, ih, List.length_cons]

theorem sortOnAcc_length {α : Type} (f : α → Nat) (acc l : List α) : (sortOn.sortOnAcc f acc l).length = acc.length + l.length := by
  induction l generalizing acc with
  | nil => rfl
  | cons a l ih => rw [sortOn.sortOnAcc, ih, insertOn_length, List.length_cons]; omega

theorem sortOn_length {α : Type} (f : α → Nat) (l : List α) : (sortOn f l).length = l.length := by
  cases l with
  | nil => rfl
  | cons a l => rw [sortOn, sortOnAcc_length, List.length_singleton, List.length_cons, Nat.add_comm]

/-- What sending does to the queues: no read is lost, no plane's queue grows past 6, and what waits has a plane without room. -/
theorem sendAll_spec (s : State) :
    (sendAll s).1.length + (sendAll s).2.length = s.store.queued.length + s.store.waiting.length ∧
      (∀ p, planeDepth s.store.queued p ≤ 6 → planeDepth (sendAll s).1 p ≤ 6) ∧ AllBlocked (sendAll s) := by
  refine ⟨?_, fun p hp => ?_, ?_⟩
  · rw [sendAll, foldl_sendRead_length, sortOn_length]
    rfl
  · exact List.foldlRecOn (motive := fun acc : List PlaneRead × List PlaneRead => planeDepth acc.1 p ≤ 6) _ _ hp fun _ hacc x _ => sendRead_depth x hacc
  · exact List.foldlRecOn (motive := AllBlocked) _ _ (fun x hx => absurd hx List.not_mem_nil) fun _ hacc x _ => sendRead_allBlocked x hacc

/-- A read that a ring needs joins those that wait, and the engine sends what it can. -/
theorem issueRead_eq (ring : Nat) (s : State) :
    ∃ x, issueRead ring s = sendReads { s with store := { s.store with waiting := s.store.waiting ++ [x] } } := ⟨_, rfl⟩

/-! ### Filling a ring and reporting its consumption (R370, R371) -/

theorem ringFill_issues {ring : Nat} {s : State} (hopen : (ringOf s ring).state = 1) (hgrants : (ringOf s ring).grants ≠ 0)
    (hroom : 49152 * (ringOf s ring).grants ≤ ringFree s (ringOf s ring)) (hmore : streamWhole s (ringOf s ring) = false) :
    ringFill ring s = setRing (issueRead ring s) ring { ringOf s ring with reads := (ringOf s ring).reads + 1 } := by
  rw [ringFill, if_neg (by simp [hopen, hgrants]), if_pos ⟨hroom, by simp [hmore]⟩]

theorem ringFill_waits {ring : Nat} {s : State} (hopen : (ringOf s ring).state = 1) (hgrants : (ringOf s ring).grants ≠ 0)
    (hfull : ringFree s (ringOf s ring) < 49152 * (ringOf s ring).grants ∨ streamWhole s (ringOf s ring) = true)
    (hvoice : (ringOf s ring).orphan = false) : ringFill ring s = s := by
  have hnone : ¬ (49152 * (ringOf s ring).grants ≤ ringFree s (ringOf s ring) ∧ (!streamWhole s (ringOf s ring)) = true) := by
    obtain h | h := hfull
    · omega
    · simp [h]
  rw [ringFill, if_neg (by simp [hopen, hgrants]), if_neg hnone, if_neg (by simp [hvoice])]

theorem consumption_open {ring : Nat} {s : State} (h : (ringOf s ring).state ≠ 0) :
    let g := ringOf s ring; let r := objRec (objOf s g.object).record
    consumption ring s = setRing s ring { g with
      consumed := g.cursor, left := g.left || g.leave
      loopClose := if g.leave ∧ g.left = false ∧ 0 < r.le ∧ g.loopClose = 0xFFFFFFFF then loopCloseAt r g.written else g.loopClose } := by
  simp only [consumption, h, if_false, Bool.and_eq_true, Bool.not_eq_true', decide_eq_true_eq, beq_iff_eq, gt_iff_lt, and_assoc]

/-! ### Pages that are rebuilt, sound and uncorrectable -/

theorem sat32_eq (n : Nat) : sat32 n = min 0xFFFFFFFF (n + 1) := Nat.min_comm _ _

section Pages

variable {s : State} {r page : Nat} {x : PlaneRead} (hsent : s.store.queued.find? (fun x => x.ring == r) = some x)

include hsent

/-- A page of a busy plane is read on the seven other dies of its stripe, and counted as rebuilt. -/
theorem pageReadDone_rebuilt (frames : Nat) (hstripe : 1 < x.planes.length) :
    let t := pageReadDone (some r) frames 0 page s
    t.store.rebuilt = min 0xFFFFFFFF (s.store.rebuilt + 1) ∧
      ∀ d, (blockOf t (blockKey d (pagePlane page) (pageBlock page))).reads =
        (blockOf s (blockKey d (pagePlane page) (pageBlock page))).reads + if d < 8 ∧ d ≠ pageDie page then 1 else 0 := by
  intro t
  let counted := readCounted (some r) 0 page true s
  have ht : t = ringFed r frames 0 (pageNoted 0 page true counted) := pageReadDone_sent hsent (decide_eq_true hstripe)
  rw [ht]
  refine ⟨?_, fun d => ?_⟩
  · obtain ⟨_, hfed⟩ := ringFed_rings r frames 0 (pageNoted 0 page true counted)
    obtain ⟨-, -, -, hrebuilt, -, -⟩ := (readCounted_likeReads (some r) 0 page true s).kept
    rw [hfed, ← hrebuilt, ← sat32_eq]
    rfl
  · rw [blockOf_ringFed, ← count_diesRead_rebuilt]
    exact (blockOf_readCounted ..).1 d

section OpenStream

variable (hplane : x.planes.length = 1) (hcurrent : (ringOf s r).stale = 0) (hreads : (ringOf s r).reads ≠ 0)
  (hopen : playEnd (objRec (objOf s (ringOf s r).object).record) (ringOf s r).loopClose = none)

include hplane hcurrent hreads hopen

/-- A ring that streams on takes what it has room for of a page that ends, whatever is noted of the page. -/
theorem ringOf_pageReadDone (frames outcome : Nat)
    (hnoted : let u := readCounted (some r) outcome page false s; let v := pageNoted outcome page false u
      v.store.rings = u.store.rings ∧ v.store.objects = u.store.objects ∧ v.grid = u.grid) :
    let g := ringOf s r; let n := min frames (ringRoom s g)
    ∃ state, ringOf (pageReadDone (some r) frames outcome page s) r = { g with
      state := state, reads := g.reads - 1, written := g.written + n
      zeros := if outcome = 3 then g.zeros ++ [(g.written, n)] else g.zeros } := by
  intro g n
  obtain ⟨hrings, hobjects, -, -, -, hgrid⟩ := (readCounted_likeReads (some r) outcome page false s).kept
  obtain ⟨vrings, vobjects, vgrid⟩ := hnoted
  rw [pageReadDone_sent hsent (decide_eq_false (by omega))]
  generalize pageNoted outcome page false (readCounted (some r) outcome page false s) = v at *
  have hring : ringOf v r = g := by rw [ringOf, vrings, hrings]; rfl
  have hobj (i : Nat) : objOf v i = objOf s i := by rw [objOf, vobjects, hobjects]; rfl
  have hroom : ringRoom v g = ringRoom s g := by rw [ringRoom, hobj, vgrid, hgrid]; rfl
  have fed := ringOf_ringFed (s := v) frames outcome hring hcurrent hreads (by rw [hobj]; exact hopen)
  rwa [hroom] at fed

theorem pageReadDone_sound (frames : Nat) :
    let g := ringOf s r; let k := blockKey (pageDie page) (pagePlane page) (pageBlock page); let t := pageReadDone (some r) frames 0 page s
    (blockOf t k).reads = (blockOf s k).reads + 1 ∧ (ringOf t r).reads = g.reads - 1 ∧
      (ringOf t r).written = g.written + min frames (ringRoom s g) ∧ (ringOf t r).zeros = g.zeros := by
  intro g k t
  obtain ⟨_, hring⟩ := ringOf_pageReadDone hsent hplane hcurrent hreads hopen (page := page) frames 0 ⟨rfl, rfl, rfl⟩
  refine ⟨?_, by rw [hring], by rw [hring], by rw [hring]; rfl⟩
  have ht : t = ringFed r frames 0 (pageNoted 0 page false (readCounted (some r) 0 page false s)) :=
    pageReadDone_sent hsent (decide_eq_false (by omega))
  rw [ht, blockOf_ringFed, ← count_diesRead_sound (pageDie page)]
  exact (blockOf_readCounted ..).1 _

theorem pageReadDone_uncorrectable (frames : Nat) :
    let g := ringOf s r; let n := min frames (ringRoom s g)
    let k := blockKey (pageDie page) (pagePlane page) (pageBlock page); let t := pageReadDone (some r) frames 3 page s
    (ringOf t r).written = g.written + n ∧ (ringOf t r).zeros = g.zeros ++ [(g.written, n)] ∧
      t.store.uncorr = min 0xFFFFFFFF (s.store.uncorr + 1) ∧ t.log.newest = nextSeq s.log.newest ∧
      (blockOf t k).soft = (blockOf s k).soft + 1 := by
  intro g n k t
  let counted := readCounted (some r) 3 page false s
  obtain ⟨hrings, hobjects, hgrid, huncorr, hnewest, hsoft⟩ := uncorrectablePage_counts page counted
  obtain ⟨_, hring⟩ := ringOf_pageReadDone hsent hplane hcurrent hreads hopen frames 3 ⟨hrings, hobjects, hgrid⟩
  obtain ⟨-, -, uncorr, -, log, -⟩ := (readCounted_likeReads (some r) 3 page false s).kept
  refine ⟨by rw [hring], by rw [hring]; rfl, ?_⟩
  have ht : t = ringFed r frames 3 (uncorrectablePage page counted) := pageReadDone_sent hsent (decide_eq_false (by omega))
  have soft : (blockOf t k).soft = (blockOf s k).soft + 1 := by
    rw [ht, blockOf_ringFed, hsoft, (blockOf_readCounted ..).2]
  obtain ⟨_, hfed⟩ := ringFed_rings r frames 3 (uncorrectablePage page counted)
  rw [ht, hfed] at soft ⊢
  exact ⟨huncorr.trans (by rw [uncorr, sat32_eq]), hnewest.trans (by rw [log]), soft⟩

end OpenStream

end Pages

/-- Settles O43: the stream as opened, the read issued by what sending does to the planes' queues, the report, and pages by the dies that
are read and the room of the ring. -/
theorem streamRings : Obligations.StreamRings := by
  intro s ring g r
  refine ⟨fun obj ctx => rfl, fun hopen hgrants hroom hmore => congrArg _ (ringFill_issues hopen hgrants hroom hmore), ?issued,
    fun hopen hgrants hfull hvoice => congrArg _ (ringFill_waits hopen hgrants hfull hvoice),
    fun hopen => congrArg _ (consumption_open hopen), fun frames page => ?pages⟩
  case issued =>
    obtain ⟨x, hx⟩ := issueRead_eq ring s
    rw [hx, sendReads_eq]
    obtain ⟨hlength, hdepth, hblocked⟩ := sendAll_spec { s with store := { s.store with waiting := s.store.waiting ++ [x] } }
    refine ⟨rfl, rfl, hlength.trans ?_, hdepth, hblocked⟩
    rw [List.length_append, List.length_singleton, Nat.add_assoc]
  case pages =>
    refine ⟨fun hfree => ?engine, fun hsent hwaits outcome => congrArg _ (pageReadDone_held hsent hwaits), fun x hsent hstripe => ?rebuilt,
      fun x hsent hplane hcurrent hreads hopen =>
        ⟨⟨_, rfl, pageReadDone_sound hsent hplane hcurrent hreads hopen frames⟩,
         ⟨_, rfl, pageReadDone_uncorrectable hsent hplane hcurrent hreads hopen frames⟩⟩⟩
    case engine =>
      refine ⟨_, congrArg Host.Outcome.next (pageReadDone_engine hfree), ?_, ?_⟩
      · rw [← count_diesRead_sound (pageDie page.toNat)]
        exact (blockOf_readCounted ..).1 _
      · exact (readCounted_likeReads ..).kept.1
    case rebuilt =>
      obtain ⟨hrebuilt, hreads⟩ := pageReadDone_rebuilt (page := page.toNat) hsent frames hstripe
      refine ⟨_, rfl, ?_, hrebuilt, fun d hd hother => ?_⟩
      · exact (hreads _).trans (by rw [if_neg (fun h => h.2 rfl), Nat.add_zero])
      · exact (hreads d).trans (by rw [if_pos ⟨hd, hother⟩])

end Sys2Proof.Machine
end

section
/-! PROOFS. The care of the flash, what becomes resident, and the end of a drain and of a suspension (R350, R358, R361, R378 to R381, R385,
R387). -/

namespace Sys2Proof.Machine

/-- A table of which every value is changed by a function that leaves the default. -/
theorem Tbl.get_map {α : Type} {d : α} {f : α → α} {g : Nat × α → Nat × α} (hd : f d = d) (hg : ∀ e, g e = (e.1, f e.2)) (t : Tbl α)
    (k : Nat) : Tbl.get d (t.map g) k = f (Tbl.get d t k) := by
  induction t with
  | nil => exact hd.symm
  | cons e t ih =>
    obtain ⟨j, v⟩ := e
    simp only [List.map_cons, hg, Tbl.get, ih]
    split <;> rfl

/-! ### One busy plane in a group (R350) -/

theorem LikeOps.trans {s t u : State} (h : LikeOps s t) (hu : LikeOps t u) : LikeOps s u := by
  obtain ⟨_, _, rfl⟩ := hu
  exact h.upd

theorem LikeOps.store {s t : State} (h : LikeOps s t) : t.store = { s.store with busy := t.store.busy } := by
  obtain ⟨_, _, rfl⟩ := h
  rfl

theorem opEnds_likeOps (die plane : Nat) (s : State) : LikeOps s (opEnds die plane s) := ⟨_, _, rfl⟩

@[simp] theorem superOf_opsBegin (s : State) (k : Nat) : superOf (opsBegin s) k = superOf s k := by
  rw [superOf, (opsBegin_likeOps s).store, superOf]

@[simp] theorem opsBegin_blocks (s : State) : (opsBegin s).store.blocks = s.store.blocks := by
  rw [(opsBegin_likeOps s).store]

@[simp] theorem opsBegin_taken (s : State) : (opsBegin s).store.taken = s.store.taken := by
  rw [(opsBegin_likeOps s).store]

/-- Of each plane group one die is busy at most. -/
def GroupsSingle (s : State) : Prop := ∀ p, p < 4 → ∃ d, Tbl.get 0 s.store.busy p = oneDie d

theorem GroupsSingle.put {s t : State} (h : GroupsSingle s) (plane n : Nat)
    (ht : t.store.busy = Tbl.put 0 s.store.busy plane (oneDie n)) : GroupsSingle t := by
  intro p hp
  rw [ht, Tbl.get_put]
  split
  · exact ⟨n, rfl⟩
  · exact h p hp

theorem opEnds_groupsSingle {die plane : Nat} {s : State} (hone : oneBusy s = true) (h : GroupsSingle s) :
    GroupsSingle (opEnds die plane s) :=
  h.put plane 8 (by rw [opEnds, hone]; rfl)

/-- The engine begins an operation in a group, where it may. -/
def opBegins (s : State) (plane : Nat) : State :=
  let f := takeFree s
  let old := Tbl.get 0 s.store.busy plane
  let new := if oneBusy s then (if old = 0 then oneDie f.1 else old) else old ||| BitVec.ofNat 8 f.1
  { f.2 with store := { f.2.store with busy := Tbl.put 0 f.2.store.busy plane new } }

theorem opsBegin_eq (s : State) :
    opsBegin s = if !engineWork s ∨ s.store.service = 3 then s else (List.range 4).foldl opBegins s := rfl

/-- Where a group may have one busy plane, an operation begins only if it has none. -/
theorem opBegins_groupsSingle {s : State} {plane : Nat} (hone : oneBusy s = true) (h : GroupsSingle s) (hp : plane < 4) :
    GroupsSingle (opBegins s plane) := by
  obtain ⟨d, hd⟩ := h plane hp
  by_cases hfree : Tbl.get 0 s.store.busy plane = 0
  · exact h.put plane (takeFree s).1 (by rw [opBegins, hone, if_pos rfl, if_pos hfree]; rfl)
  · exact h.put plane d (by rw [opBegins, hone, if_pos rfl, if_neg hfree, hd]; rfl)

theorem opsBegin_groupsSingle {s : State} (hone : oneBusy s = true) (h : GroupsSingle s) : GroupsSingle (opsBegin s) := by
  rw [opsBegin_eq]
  split
  · exact h
  · exact (List.foldlRecOn (motive := fun t => oneBusy t = true ∧ GroupsSingle t) _ opBegins ⟨hone, h⟩ fun t ht p hp =>
      ⟨ht.1, opBegins_groupsSingle ht.1 ht.2 (List.mem_range.mp hp)⟩).2

/-! ### Programs and erases (R378 to R380) -/

/-- The states that differ in nothing but blocks, superblocks, what is counted of them, and the event concentrator. -/
def LikeEnds (s t : State) : Prop := ∃ evc blocks supers taken prep relocated, t = { s with
  evc := evc
  store := { s.store with blocks := blocks, supers := supers, taken := taken, prep := prep, relocated := relocated } }

theorem LikeEnds.groupsSingle {s t : State} (h : LikeEnds s t) (hone : oneBusy s = true) (hs : GroupsSingle s) :
    oneBusy t = true ∧ GroupsSingle t := by
  obtain ⟨_, _, _, _, _, _, rfl⟩ := h
  exact ⟨hone, hs⟩

theorem retireBlock_likeEnds (die plane block : Nat) (s : State) : LikeEnds s (retireBlock die plane block s) := by
  obtain ⟨_, _, _, h⟩ := retireBlock_eq die plane block s
  exact ⟨_, _, _, _, _, _, h⟩

theorem prepSettle_eq (s : State) : ∃ evc prep, prepSettle s = { s with evc := evc, store := { s.store with prep := prep } } := by
  unfold prepSettle
  split
  · exact ⟨_, _, rfl⟩
  · exact ⟨_, _, rfl⟩

/-- A relocation that ends is counted. -/
def relocationCounted (moving : Bool) (s : State) : State :=
  if moving then { s with store := { s.store with relocated := sat32 s.store.relocated } } else s

theorem relocationCounted_eq (moving : Bool) (s : State) :
    ∃ relocated, relocationCounted moving s = { s with store := { s.store with relocated := relocated } } := by
  cases moving <;> exact ⟨_, rfl⟩

/-- The state with a superblock that has just been rewritten: its dose starts again (R381). -/
def superRewritten (k : Nat) (s : State) : State := setSuper s k { written := true, dose := 0, moving := false }

theorem superOf_superRewritten (k : Nat) (s : State) :
    superOf (superRewritten k s) k = { written := true, dose := 0, moving := false } := by
  rw [superRewritten, superOf_setSuper, if_pos rfl]

/-- The last program of a rewrite leaves the superblock rewritten; besides, relocations are counted and a preparation may be done. -/
theorem programEnds_last (die plane block : Nat) (s : State) : let t := superRewritten (superKey plane block) s
    ∃ evc prep relocated, programEnds die plane block true true s =
      { t with evc := evc, store := { t.store with prep := prep, relocated := relocated } } := by
  intro t
  have hends : programEnds die plane block true true s =
      prepSettle (relocationCounted (superOf s (superKey plane block)).moving t) := rfl
  obtain ⟨_, hcounted⟩ := relocationCounted_eq (superOf s (superKey plane block)).moving t
  obtain ⟨_, _, hsettled⟩ := prepSettle_eq (relocationCounted (superOf s (superKey plane block)).moving t)
  rw [hends, hsettled, hcounted]
  exact ⟨_, _, _, rfl⟩

theorem programEnds_likeEnds (die plane block : Nat) (ok last : Bool) (s : State) : LikeEnds s (programEnds die plane block ok last s) := by
  match ok, last with
  | false, _ => exact retireBlock_likeEnds die plane block s
  | true, false => exact ⟨_, _, _, _, _, _, rfl⟩
  | true, true =>
    obtain ⟨_, _, _, h⟩ := programEnds_last die plane block s
    exact ⟨_, _, _, _, _, _, h⟩

/-- The state with a block that has just been erased: its counts start again (R378, R380). -/
def blockErased (k : Nat) (s : State) : State :=
  setBlock s k { blockOf s k with pe := (blockOf s k).pe + 1, reads := 0, soft := 0, moving := false }

theorem blockOf_blockErased (k : Nat) (s : State) : blockOf (blockErased k s) k =
    { blockOf s k with pe := (blockOf s k).pe + 1, reads := 0, soft := 0, moving := false } := by
  rw [blockErased, blockOf_setBlock, if_pos rfl]

/-- Where the P/E spread passes 200, a written superblock of the least worn blocks is to move (R378). -/
def coldestMoves (s : State) : State :=
  let sp := peSpread s
  if sp.2 - sp.1 > 200 then
    match (s.store.blocks.filter (fun e => e.2.pe == sp.1 && (superOf s (e.1 % 8192)).written)).head? with
    | some e => setSuper s (e.1 % 8192) { superOf s (e.1 % 8192) with moving := true }
    | none => s
  else s

theorem coldestMoves_eq (s : State) : ∃ supers, coldestMoves s = { s with store := { s.store with supers := supers } } := by
  unfold coldestMoves
  dsimp only
  split
  · split
    · exact ⟨_, rfl⟩
    · exact ⟨_, rfl⟩
  · exact ⟨_, rfl⟩

/-- An erase leaves the block erased; besides, relocations are counted and one may start. -/
theorem eraseEnds_erased (die plane block : Nat) (s : State) : let t := blockErased (blockKey die plane block) s
    ∃ supers relocated, eraseEnds die plane block true s = { t with store := { t.store with supers := supers, relocated := relocated } } := by
  intro t
  have hends : eraseEnds die plane block true s = coldestMoves (relocationCounted (blockOf s (blockKey die plane block)).moving t) := rfl
  obtain ⟨_, hcounted⟩ := relocationCounted_eq (blockOf s (blockKey die plane block)).moving t
  obtain ⟨_, hmoves⟩ := coldestMoves_eq (relocationCounted (blockOf s (blockKey die plane block)).moving t)
  rw [hends, hmoves, hcounted]
  exact ⟨_, _, rfl⟩

theorem eraseEnds_likeEnds (die plane block : Nat) (ok : Bool) (s : State) : LikeEnds s (eraseEnds die plane block ok s) := by
  cases ok with
  | false => exact retireBlock_likeEnds die plane block s
  | true =>
    obtain ⟨_, _, h⟩ := eraseEnds_erased die plane block s
    exact ⟨_, _, _, _, _, _, h⟩

section Blocks

variable (die plane block : Nat) (s : State)

/-- A program that fails retires its block, which takes a spare of its plane (R379). -/
theorem programDone_failed (last : Bool) (h : (blockOf s (blockKey die plane block)).retired = false) :
    let t := programDone die plane block false last s
    (blockOf t (blockKey die plane block)).retired = true ∧
      Tbl.get 0 t.store.taken (4 * die + plane) = Tbl.get 0 s.store.taken (4 * die + plane) + 1 := by
  intro t
  obtain ⟨_, hretired⟩ := retireBlock_inUse (s := opEnds die plane s) h
  have ht : t = opsBegin (retireBlock die plane block (opEnds die plane s)) := rfl
  rw [ht, blockOf_opsBegin, opsBegin_taken, hretired]
  exact ⟨blockOut_retired die plane block (opEnds die plane s), blockOut_taken die plane block (opEnds die plane s)⟩

theorem programDone_likeOps : LikeOps s (programDone die plane block true false s) :=
  (opEnds_likeOps die plane s).trans (opsBegin_likeOps _)

theorem programDone_last : let t := programDone die plane block true true s
    superOf t (superKey plane block) = { written := true, dose := 0, moving := false } ∧ t.store.blocks = s.store.blocks := by
  intro t
  obtain ⟨_, _, _, hlast⟩ := programEnds_last die plane block (opEnds die plane s)
  have ht : t = opsBegin (programEnds die plane block true true (opEnds die plane s)) := rfl
  rw [ht, superOf_opsBegin, opsBegin_blocks, hlast]
  exact ⟨superOf_superRewritten (superKey plane block) (opEnds die plane s), rfl⟩

theorem eraseDone_erased : let k := blockKey die plane block
    blockOf (eraseDone die plane block true s) k = { blockOf s k with pe := (blockOf s k).pe + 1, reads := 0, soft := 0, moving := false } := by
  obtain ⟨_, _, herased⟩ := eraseEnds_erased die plane block (opEnds die plane s)
  simp only [eraseDone, blockOf_opsBegin, herased]
  exact blockOf_blockErased (blockKey die plane block) (opEnds die plane s)

variable {s} (hone : oneBusy s = true) (hsingle : GroupsSingle s)

include hone hsingle

/-- Whatever an operation's end leaves of blocks and superblocks, the group goes on with one operation at most. -/
theorem opsBegin_ends_groupsSingle {u : State} (hu : LikeEnds (opEnds die plane s) u) : GroupsSingle (opsBegin u) := by
  obtain ⟨honeU, hsingleU⟩ := hu.groupsSingle hone (opEnds_groupsSingle hone hsingle)
  exact opsBegin_groupsSingle honeU hsingleU

theorem programDone_groupsSingle (ok last : Bool) : GroupsSingle (programDone die plane block ok last s) :=
  opsBegin_ends_groupsSingle die plane hone hsingle (programEnds_likeEnds die plane block ok last _)

theorem eraseDone_groupsSingle (ok : Bool) : GroupsSingle (eraseDone die plane block ok s) :=
  opsBegin_ends_groupsSingle die plane hone hsingle (eraseEnds_likeEnds die plane block ok _)

end Blocks

/-! ### Doses (R381) -/

/-- A superblock after a second in which its dose rose by a step. -/
def Superblock.dosed (step : Nat) (x : Superblock) : Superblock :=
  if x.written then { x with dose := x.dose + step, moving := x.moving || decide (x.dose + step ≥ 850 * doseUnit) } else x

theorem doseTick_store (temp : Int) (s : State) : (doseTick temp s).store.blocks = s.store.blocks ∧
    ∀ k, superOf (doseTick temp s) k = (superOf s k).dosed (Config.doseStep temp) := by
  unfold superOf doseTick
  dsimp only
  generalize List.range _ = starts
  have fired : ∀ u : State, (starts.foldl (fun s _ => fire 131 s) u).store = u.store := fun u =>
    List.foldlRecOn (motive := fun t : State => t.store = u.store) starts _ rfl fun _ ht _ _ => ht
  rw [(opsBegin_likeOps _).store, fired]
  refine ⟨rfl, fun k => Tbl.get_map rfl (fun e => ?_) s.store.supers k⟩
  unfold Superblock.dosed
  split <;> rfl

/-! ### Heads and keymaps (R358, R361) -/

/-- The times of OD F000.06 that are noted change the modes' state alone. -/
theorem stampHeads_eq (s : State) : ∃ modes, stampHeads s = { s with modes := modes } := by
  have stamped (c : Bool) (i : Nat) {t : State} (h : ∃ modes, t = { s with modes := modes }) :
      ∃ modes, (if c then t else stamp i t) = { s with modes := modes } := by
    obtain ⟨_, rfl⟩ := h
    cases c <;> exact ⟨_, rfl⟩
  unfold stampHeads
  split
  · exact ⟨_, rfl⟩
  · exact stamped _ 7 (stamped _ 6 ⟨_, rfl⟩)

@[simp] theorem stampHeads_store (s : State) : (stampHeads s).store = s.store := by
  obtain ⟨_, h⟩ := stampHeads_eq s
  rw [h]

@[simp] theorem stampHeads_evc (s : State) : (stampHeads s).evc = s.evc := by
  obtain ⟨_, h⟩ := stampHeads_eq s
  rw [h]

@[simp] theorem objOf_stampHeads (s : State) (i : Nat) : objOf (stampHeads s) i = objOf s i := by
  rw [objOf, stampHeads_store, objOf]

@[simp] theorem keymapOf_stampHeads (s : State) (m : Nat) : keymapOf (stampHeads s) m = keymapOf s m := by
  rw [keymapOf, stampHeads_store, keymapOf]

theorem reloadKeymaps_objects (s : State) : (reloadKeymaps s).store.objects = s.store.objects := by
  refine List.foldlRecOn (motive := fun t : State => t.store.objects = s.store.objects) _ _ rfl fun t ht e _ => ?_
  split
  · exact ht
  · exact ht

/-- An object whose head is resident, with the place of the coding frame that holds frame H. -/
def SObj.resident (rate : Nat) (o : SObj) : SObj :=
  { o with state := 4, headOff := (codingAt (objRec o.record).frames o.data (headFrames (objRec o.record) rate) 0).1 }

theorem objOf_headResident {id : Nat} {s : State} (h : (objOf s id).state = 3) (i : Nat) :
    objOf (headResident id s) i = if i = id then (objOf s id).resident s.grid.rate else objOf s i := by
  let t := setObj s id ((objOf s id).resident s.grid.rate)
  have hobjects : (headResident id s).store.objects = (reloadKeymaps t).store.objects := by
    rw [headResident, if_neg (not_not_intro h)]
    dsimp only
    split
    · rfl
    · rfl
  rw [objOf, hobjects, reloadKeymaps_objects]
  exact objOf_setObj s id i _

/-- The objects of the keymaps that are LOADED. -/
def loadedObjects (s : State) : List Nat :=
  (s.store.keymaps.filter (fun e => e.2.state == 2)).foldl (fun os e => (keymapObjects s e.1).foldl (fun os o => insertNat o os) os) []

/-- Words that the first frames of all objects take once keymap m is LOADED too. -/
def wordsWith (m : Nat) (s : State) : Nat :=
  prefixWordsOf s ((keymapObjects s m).foldl (fun os o => insertNat o os) (loadedObjects s))

section Copy

variable {m : Nat} {s : State} (hloading : (keymapOf s m).state = 1) (hfirst : (keymapOf s m).reload = false)

include hloading hfirst

theorem prefixCopyDone_loads (hfits : wordsWith m s ≤ 524288) :
    let t := prefixCopyDone m s; let k := keymapOf s m
    keymapOf t m = { k with state := 2, status := 0, words := prefixWordsOf s (keymapObjects s m) } ∧
      t.store.prefixWords = wordsWith m s ∧ t.evc = evcPulse 139 s.evc := by
  intro t k
  let loaded := setKeymap s m { k with state := 2, status := 0, words := prefixWordsOf s (keymapObjects s m) }
  have ht : t = fire 139 { loaded with store := { loaded.store with prefixWords := wordsWith m s } } := by
    change prefixCopyDone m s = _
    rw [prefixCopyDone, if_neg (by simp [hloading, hfirst])]
    exact if_neg (Nat.not_lt.mpr hfits)
  have hloaded : keymapOf loaded m = { k with state := 2, status := 0, words := prefixWordsOf s (keymapObjects s m) } := by
    rw [keymapOf_setKeymap, if_pos rfl]
  rw [ht]
  exact ⟨hloaded, rfl, rfl⟩

theorem prefixCopyDone_fails (hfull : 524288 < wordsWith m s) :
    let t := prefixCopyDone m s
    keymapOf t m = { keymapOf s m with state := 3, status := 8 } ∧ t.evc = evcPulse 139 s.evc := by
  intro t
  have ht : t = fire 139 (setKeymap s m { keymapOf s m with state := 3, status := 8 }) := by
    change prefixCopyDone m s = _
    rw [prefixCopyDone, if_neg (by simp [hloading, hfirst])]
    exact if_pos hfull
  rw [ht]
  exact ⟨(keymapOf_setKeymap s m m _).trans (if_pos rfl), rfl⟩

end Copy

/-! ### Imports and the streaming service (R385, R387) -/

theorem sessionOf_endSession (i state : Nat) (st : Status) (s : State) :
    sessionOf (endSession i state st s) i = { sessionOf s i with state := state, status := st.code, data := [] } := by
  change sessionOf (setSession s i { sessionOf s i with state := state, status := st.code, data := [] }) i = _
  rw [sessionOf_setSession, if_pos rfl]

@[simp] theorem objOf_endSession (i state : Nat) (st : Status) (s : State) (id : Nat) : objOf (endSession i state st s) id = objOf s id := rfl

/-- The object of a session that has been programmed goes on to HEADING. -/
theorem importProgrammed_done {j : Nat} {s : State} (h : (sessionOf s j).state = 3) :
    let x := sessionOf s j; let id := (objRec x.record).id; let t := importProgrammed j s
    sessionOf t j = { x with state := 4, status := 0, data := [] } ∧ objOf t id = { objOf s id with state := 3 } ∧
      t.evc = evcPulse (136 + j) s.evc := by
  intro x id t
  have ht : t = endSession j 4 .ok (setObj s id { objOf s id with state := 3 }) := if_neg (not_not_intro h)
  rw [ht, sessionOf_endSession, objOf_endSession, objOf_setObj, if_pos rfl]
  exact ⟨rfl, rfl, rfl⟩

theorem setService_changed {v : Nat} {s : State} (h : s.store.service ≠ v) :
    setService v s = fire 141 { s with store := { s.store with service := v } } :=
  if_neg h

/-- A streaming voice that is active is marked STOLEN in a lap. -/
def Ctx.stolenIn (lap : Nat) (c : Ctx) : Ctx :=
  if c.hdr.sv && c.hdr.state.active then { c with hdr := { c.hdr with stolen := true }, stolenLap := lap } else c

theorem ctxOf_stealStreams (s : State) (n : Nat) : ctxOf (stealStreams s) n = (ctxOf s n).stolenIn s.grid.lap := by
  refine Tbl.get_map rfl (fun e => ?_) s.ctxs n
  unfold Ctx.stolenIn
  split <;> rfl

/-- Draining ends: the service is suspended. -/
theorem drainTimeout_draining {s : State} (h : s.store.service = 1) :
    let t := stealStreams (advance (s.store.drainEnd - 1) s)
    drainTimeout s = fire 141 { t with store := { t.store with service := 2 } } := by
  intro t
  have hservice : t.store.service ≠ 2 := by
    change s.store.service ≠ 2
    omega
  rw [drainTimeout, if_pos h, setService_changed hservice]

theorem streamingResumed_resuming {s : State} (h : s.store.service = 3) :
    streamingResumed s = { s with evc := evcPulse 141 s.evc, store := { s.store with service := 0, busy := [] } } := by
  rw [streamingResumed, if_pos h, setService_changed (by simp [h])]
  rfl

theorem autoPerform_eq (s : State) : ∃ modes, autoPerform s = { s with modes := modes } := by
  unfold autoPerform
  split
  · exact ⟨_, rfl⟩
  · exact ⟨_, rfl⟩

/-- The service returns; where no entry to STANDBY waits for it, only the mode that is due can change besides. -/
theorem exec_streamingResumed {s : State} (h : s.store.service = 3) (hawake : s.modes.entering ≠ 1) : ∃ modes,
    exec .streamingResumed s = .next { s with
      modes := modes, evc := evcPulse 141 s.evc, store := { s.store with service := 0, busy := [] } } := by
  obtain ⟨modes, hauto⟩ := autoPerform_eq (streamingResumed s)
  refine ⟨modes, ?_⟩
  change execStreamingResumed s = _
  rw [execStreamingResumed]
  dsimp only
  rw [hauto, streamingResumed_resuming h, if_neg (fun hs => hawake hs.1)]

/-- Settles O44: programs and erases by what their end leaves and by the group's next operation, doses by the table of superblocks, heads,
keymaps and imports by the state each is in, and the service by its two ends. -/
theorem storeCare : Obligations.StoreCare := by
  intro s
  refine ⟨fun die plane block => ⟨?failed, ?program, ?single, ?last, ?erase⟩, fun temp => ⟨_, rfl, doseTick_store temp s⟩,
    fun obj hheading => ?head, fun m hloading hfirst => ⟨fun hfits => ?loads, fun hfull => ?fails⟩,
    fun j hprogramming => ?imported, fun hdraining => ?drained, fun hresuming hawake => ?resumed⟩
  case failed => exact fun hused last => ⟨_, rfl, programDone_failed die plane block s last hused⟩
  case program =>
    obtain ⟨_, _, h⟩ := programDone_likeOps die plane block s
    exact ⟨_, rfl, by rw [h]⟩
  case single =>
    rintro hone hsingle c (⟨ok, last, rfl⟩ | ⟨ok, rfl⟩)
    · exact ⟨_, rfl, programDone_groupsSingle die plane block hone hsingle ok last⟩
    · exact ⟨_, rfl, eraseDone_groupsSingle die plane block hone hsingle ok⟩
  case last => exact ⟨_, rfl, programDone_last die plane block s⟩
  case erase => exact ⟨_, rfl, eraseDone_erased die plane block s⟩
  case head =>
    refine ⟨_, rfl, ?_, fun i hi => ?_⟩
    · rw [objOf_stampHeads, objOf_headResident hheading, if_pos rfl]
      rfl
    · rw [objOf_stampHeads, objOf_headResident hheading, if_neg hi]
  case loads =>
    refine ⟨_, rfl, ?_⟩
    rw [keymapOf_stampHeads, stampHeads_store, stampHeads_evc]
    exact prefixCopyDone_loads hloading hfirst hfits
  case fails =>
    refine ⟨_, rfl, ?_⟩
    rw [keymapOf_stampHeads, stampHeads_evc]
    exact prefixCopyDone_fails hloading hfirst hfull
  case imported => exact ⟨_, rfl, importProgrammed_done hprogramming⟩
  case drained =>
    exact ⟨_, congrArg Host.Outcome.next (drainTimeout_draining hdraining), rfl, rfl,
      ctxOf_stealStreams (advance (s.store.drainEnd - 1) s)⟩
  case resumed =>
    obtain ⟨_, h⟩ := exec_streamingResumed hresuming hawake
    exact ⟨_, h, rfl, rfl⟩

end Sys2Proof.Machine
end

section
/-! PROOFS. Dictionary writes that act on the library: keymaps, imports, deletions, the streaming service and the preparation for storage
(R360, R382, R384, R385, R387, R388). -/

namespace Sys2Proof.Machine

/-! ### The effect of an object of the sample store (R479) -/

/-- No object of the control range lies from C000 on, but for C200. -/
theorem effectControl_store {who : Requester} {ix sub : Nat} {val : Bytes} {s : State} (hlo : 0xC000 ≤ ix) (hix : ix ≠ 0xC200) :
    effectControl who ix sub val s = none := by
  unfold effectControl
  rw [if_neg (by omega), if_neg (by omega)]
  split <;> simp at *

theorem odEffect_store {who : Requester} {ix sub off : Nat} {val : Bytes} {s : State} {r : Status × State} (hlo : 0xC000 ≤ ix)
    (hix : ix ≠ 0xC200) (h : effectStore ix sub off val s = some r) : odEffect who ix sub off val s = r := by
  rw [odEffect, effectControl_store hlo hix, h]

section Effects

variable {who : Requester} {off : Nat} {val : Bytes} {s : State}

theorem odEffect_keymap (m : Fin 1024) (sub : Nat) : odEffect who (0xCC00 + m) sub off val s = keymapWrite m val s := by
  refine odEffect_store (by omega) (by omega) ?_
  unfold effectStore
  dsimp only
  rw [if_pos (by omega), Nat.add_sub_cancel_left]

/-- The objects of an import session lie below the keymaps. -/
theorem session_index (j : Fin 3) : ¬ (0xCC00 ≤ 0xC100 + j.val ∧ 0xC100 + j.val < 0xD000) ∧
    (0xC100 ≤ 0xC100 + j.val ∧ 0xC100 + j.val ≤ 0xC102) ∧ 0xC100 + j.val - 0xC100 = j := by
  omega

theorem odEffect_importOpen (j : Fin 3) : odEffect who (0xC100 + j) 1 off val s = importOpen j val s := by
  obtain ⟨hmap, hsession, hj⟩ := session_index j
  refine odEffect_store (by omega) (by omega) ?_
  unfold effectStore
  simp only [hmap, hsession, hj, if_true, if_false, and_self]

theorem odEffect_importAppend (j : Fin 3) : odEffect who (0xC100 + j) 2 off val s = importAppend j off val s := by
  obtain ⟨hmap, hsession, hj⟩ := session_index j
  refine odEffect_store (by omega) (by omega) ?_
  unfold effectStore
  simp only [hmap, hsession, hj, if_true, if_false, and_self]

theorem odEffect_importEnd (j : Fin 3) :
    odEffect who (0xC100 + j) 3 off val s = if leNat val = 1 then importCommit j s else importAbort j s := by
  obtain ⟨hmap, hsession, hj⟩ := session_index j
  refine odEffect_store (by omega) (by omega) ?_
  unfold effectStore
  simp only [hmap, hsession, hj, if_true, if_false, and_self]

theorem odEffect_importCommit (j : Fin 3) : odEffect who (0xC100 + j) 3 off [1] s = importCommit j s :=
  (odEffect_importEnd j).trans (if_pos rfl)

theorem odEffect_importAbort (j : Fin 3) : odEffect who (0xC100 + j) 3 off [2] s = importAbort j s :=
  (odEffect_importEnd j).trans (if_neg (by decide))

theorem odEffect_objectDelete : odEffect who 0xC110 1 off val s = objectDelete (leNat val) s :=
  odEffect_store (by omega) (by omega) rfl

theorem odEffect_streaming : odEffect who 0xC002 1 off val s = streamingWrite (leNat val) s :=
  odEffect_store (by omega) (by omega) rfl

theorem odEffect_prepare : odEffect who 0xC020 2 off val s = (.ok, prepare s) :=
  odEffect_store (by omega) (by omega) rfl

end Effects

/-- A segment at an offset, once it has passed the checks of R479. -/
theorem odWriteAt_told {who : Requester} {ix sub off : Nat} {val : Bytes} {s u : State} (h : s.Writable who ix sub val)
    (e : odEffect who ix sub off val s = (.ok, u)) :
    odWriteAt who ix sub off val s = noteStatus ix sub (.ok, noteChange ix sub s (afterStreams ix s u)) := by
  obtain ⟨r, hfind, hmay, hlength, hrange, hfixed, hguards⟩ := h.passes
  simp [odWriteAt, odChecked, hfind, hmay, hlength, hrange, hfixed, hguards, h.serves, e, Status.early]

/-! ### Keymaps and imports (R360, R384, R385) -/

theorem keymapWrite_ok {m : Nat} {zs : Bytes} {s : State}
    (hfree : s.dict.od.any (fun e => decide (0xC400 * 256 ≤ e.1 ∧ e.1 < 0xCC00 * 256) && leNat e.2 == m) = false)
    (hready : ∀ z ∈ zones zs, (objOf s z.object).state = 4) :
    keymapWrite m zs s = (.ok, setKeymap (odPut (0xCC00 + m) 1 zs s) m { state := 1 }) := by
  have hall : (zones zs).any (fun z => (objOf s z.object).state != 4) = false := by simpa using hready
  simp only [keymapWrite, hfree, hall, Bool.false_eq_true, if_false]

section Imports

variable {j : Nat} {s : State} (hserved : libraryOpen s = true)

include hserved

theorem importOpen_ok {v : Bytes} (hsession : (sessionOf s j).state = 0 ∨ 4 ≤ (sessionOf s j).state)
    (hid : (objOf s (objRec v).id).state = 0) (hspares : 16 ≤ sparesLeft s) (hroom : userHeld s + (objRec v).bytes ≤ userCapacity)
    (hheads : headsUsed s s.grid.rate + headBytes (objRec v) s.grid.rate ≤ headRegion) :
    importOpen j v s = (.ok, setObj (setSession s j { state := 1, record := v }) (objRec v).id { state := 1, record := v }) := by
  have hclosed : ¬ ((sessionOf s j).state = 1 ∨ (sessionOf s j).state = 2 ∨ (sessionOf s j).state = 3) := by omega
  unfold importOpen
  dsimp only
  rw [hserved, if_neg (by decide), if_neg hclosed, if_neg (not_not_intro hid), if_neg (by omega), if_neg (by omega)]

variable (hsession : (sessionOf s j).state = 1) (hspares : 16 ≤ sparesLeft s)

include hsession hspares

theorem importAppend_ok {off : Nat} {v : Bytes} (hoff : off = (sessionOf s j).data.length)
    (hfits : (sessionOf s j).data.length + v.length ≤ (objRec (sessionOf s j).record).bytes) (hstaged : staged s + v.length ≤ 268435456) :
    importAppend j off v s = (.ok, setSession s j { sessionOf s j with data := (sessionOf s j).data ++ v }) := by
  unfold importAppend
  dsimp only
  rw [if_neg (by simp [hserved, hsession]), if_neg (by omega), if_neg (by omega), if_neg (by omega)]

theorem importCommit_ok (hcheck : importCheck (objRec (sessionOf s j).record) (sessionOf s j).data = .ok) :
    let x := sessionOf s j
    importCommit j s = (.ok, opsBegin (setSession (setObj s (objRec x.record).id { state := 2, record := x.record, data := x.data })
      j { x with state := 3 })) := by
  unfold importCommit
  dsimp only
  rw [if_neg (by simp [hserved, hsession]), if_neg (by omega), hcheck]

/-- Data that do not match their CRC end the session, and the object's id is FREE again. -/
theorem importCommit_crc (hcrc : crc32c (sessionOf s j).data ≠ (objRec (sessionOf s j).record).crc) :
    importCommit j s = (.crc, freeObject (objRec (sessionOf s j).record).id (endSession j 5 .crc s)) := by
  have hcheck : importCheck (objRec (sessionOf s j).record) (sessionOf s j).data = .crc := if_pos (.inr hcrc)
  unfold importCommit
  dsimp only
  rw [if_neg (by simp [hserved, hsession]), if_neg (by omega), hcheck]

end Imports

theorem importAbort_ok {j : Nat} {s : State} (h : (sessionOf s j).state = 1) :
    importAbort j s = (.ok, freeObject (objRec (sessionOf s j).record).id (endSession j 0 .ok s)) :=
  if_neg (not_not_intro h)

@[simp] theorem objOf_freeObject_self (id : Nat) (s : State) : objOf (freeObject id s) id = {} := by
  change Tbl.get {} (s.store.objects.filter (fun e => e.1 != id)) id = {}
  rw [Tbl.get_drop, if_pos rfl]

/-- The status objects of updates and applications are no objects of an import session. -/
theorem noteStatus_session (j : Fin 3) (sub : Nat) (r : Status × State) : noteStatus (0xC100 + j) sub r = r := by
  rw [noteStatus, if_neg (by omega), if_neg (by omega)]

/-! ### Deletions (R388) -/

theorem leNat_leBytes (n v : Nat) : leNat (leBytes n v) = v % 256 ^ n := by
  induction n generalizing v with
  | zero => rw [Nat.pow_zero, Nat.mod_one]; rfl
  | succ n ih =>
    rw [leBytes, leNat, ih, BitVec.toNat_ofNat, Nat.pow_succ' (m := 256) (n := n), Nat.mod_mul]

theorem lookupNat_isSome {α : Type} {t : List (Nat × α)} {e : Nat × α} (h : e ∈ t) : (lookupNat t e.1).isSome := by
  induction t with
  | nil => exact absurd h List.not_mem_nil
  | cons a t ih =>
    obtain ⟨k, v⟩ := a
    rw [lookupNat]
    split
    · rfl
    · next hk =>
      obtain rfl | ht := List.mem_cons.mp h
      · exact absurd rfl hk
      · exact ih ht

/-- A key of the dictionary's range of keymaps is that of a keymap's zones. -/
theorem odKey_keymap {k : Nat} (h : 0xCC00 * 256 ≤ k ∧ k < 0xD000 * 256 ∧ k % 256 = 1) : odKey (0xCC00 + (k / 256 - 0xCC00)) 1 = k := by
  have hsum : 0xCC00 + (k / 256 - 0xCC00) = k / 256 := by omega
  rw [hsum]
  unfold odKey
  omega

/-- An object that no keymap's zones name becomes DELETING, and FREE as soon as no voice streams it. -/
theorem objectDelete_ok {id : Nat} {s : State} (hstate : (objOf s id).state = 3 ∨ (objOf s id).state = 4)
    (hunnamed : ∀ m, m < 1024 → (lookupNat s.dict.od (odKey (0xCC00 + m) 1)).isSome → id ∉ keymapObjects s m) :
    objectDelete id s = (.ok, freeDeleted (setObj s id { objOf s id with state := 5 })) := by
  have hmaps : (s.dict.od.filterMap (fun e => if 0xCC00 * 256 ≤ e.1 ∧ e.1 < 0xD000 * 256 ∧ e.1 % 256 = 1 then some (e.1 / 256 - 0xCC00)
      else none)).any (fun m => decide (id ∈ keymapObjects s m)) = false := by
    rw [List.any_eq_false]
    intro m hm
    obtain ⟨e, he, hkey⟩ := List.mem_filterMap.mp hm
    split at hkey
    · next hrange =>
      obtain rfl := Option.some.inj hkey
      have hlisted : (lookupNat s.dict.od (odKey (0xCC00 + (e.1 / 256 - 0xCC00)) 1)).isSome := by
        rw [odKey_keymap hrange]
        exact lookupNat_isSome he
      simpa using hunnamed (e.1 / 256 - 0xCC00) (by omega) hlisted
    · exact absurd hkey (by simp)
  unfold objectDelete
  dsimp only
  rw [hmaps, if_neg (by decide), if_neg (by omega)]

/-! ### The streaming service (R387) -/

theorem streamingWrite_drain {s : State} (hmode : s.modes.mode = .maintain) (hservice : s.store.service = 0 ∨ s.store.service = 3) :
    streamingWrite 1 s =
      (.ok, odSet 0xC002 1 1 (setService 1 { s with store := { s.store with drainEnd := s.now + nsTicks 10000000000 + 1 } })) := by
  rw [streamingWrite, if_neg (not_not_intro hmode), if_pos rfl, if_pos hservice]

theorem streamingWrite_resume {s : State} (hmode : s.modes.mode = .maintain) (hservice : s.store.service = 1 ∨ s.store.service = 2) :
    streamingWrite 0 s = (.ok, odSet 0xC002 1 0 (setService 3 s)) := by
  rw [streamingWrite, if_neg (not_not_intro hmode), if_neg (by decide), if_pos hservice]

/-- Settles O45: each write by the effect of its object, a commit whose data do not match by what the end of its session leaves. -/
theorem libraryWrites : Obligations.LibraryWrites := by
  intro s who
  refine ⟨fun m zs hfree hready hw => named_told hw ((odEffect_keymap m 1).trans (keymapWrite_ok hfree hready)),
    fun j hserved => ⟨?opened, ?appended, ?committed, ?refused, ?aborted⟩,
    fun id hstate hunnamed hw => ?deleted, fun hmode hservice hw => ?drain, fun hmode hservice hw => ?resume,
    fun hw => named_told hw odEffect_prepare⟩
  case opened =>
    exact fun v hsession hid hspares hroom hheads hw =>
      named_told hw ((odEffect_importOpen j).trans (importOpen_ok hserved hsession hid hspares hroom hheads))
  case appended =>
    intro off v hsession hspares hoff hfits hstaged hw
    have htold := odWriteAt_told hw ((odEffect_importAppend j).trans (importAppend_ok hserved hsession hspares hoff hfits hstaged))
    change execImportAppend j off v s = _
    simp only [execImportAppend, htold, noteStatus_fst, State.told]
  case committed =>
    exact fun hsession hspares hcheck hw =>
      named_told hw ((odEffect_importCommit j).trans (importCommit_ok hserved hsession hspares hcheck))
  case refused =>
    intro hsession hspares _ hcrc hw
    refine ⟨_, named_refused hw ((odEffect_importCommit j).trans (importCommit_crc hserved hsession hspares hcrc)) (by decide), rfl, ?_⟩
    rw [noteStatus_session]
    have hended := sessionOf_endSession j 5 .crc s
    exact ⟨congrArg Session.state hended, congrArg Session.status hended,
      congrArg SObj.state (objOf_freeObject_self _ (endSession j 5 .crc s)), rfl⟩
  case aborted =>
    exact fun hsession hw => named_told hw ((odEffect_importAbort j).trans (importAbort_ok hsession))
  case deleted =>
    have hid : leNat (leBytes 4 id.toNat) = id.toNat := by
      rw [leNat_leBytes]
      exact Nat.mod_eq_of_lt id.isLt
    refine named_told hw (odEffect_objectDelete.trans ?_)
    rw [hid]
    exact objectDelete_ok hstate hunnamed
  case drain => exact named_told hw (odEffect_streaming.trans (streamingWrite_drain hmode hservice))
  case resume => exact named_told hw (odEffect_streaming.trans (streamingWrite_resume hmode hservice))

end Sys2Proof.Machine
end
